-- ==== Sys2Proof/Word.lean ====
section
/-! DEFINITION. The word types of the machine: what the manual treats as bits (R8, R9). -/

namespace Sys2Proof

/-- One byte of memory, scratchpad or an instruction slot. -/
abbrev Byte := BitVec 8

/-- One 32-bit register lane, scalar register or token. -/
abbrev Word := BitVec 32

/-- One 64-bit address register, pair operand or structure field. -/
abbrev DWord := BitVec 64

/-- One 96-bit instruction word (R13, R16). -/
abbrev Slot := BitVec 96

end Sys2Proof
end

