-- ==== Sys2Proof/Syntax.lean ====
section
/-! DEFINITION. The instructions and steps of the machine: one constructor of `Instr` per row of the opcode table. The
rows fall into four kinds: instructions of the 96-bit word (R13 to R33), instructions of queue programs (R395), packets
of the hardware queues (R383, R386) and events, whose arguments are the choices the manual leaves to the device or to
the outside world. -/

namespace Sys2Proof

/-! ### Parts of the 96-bit instruction word -/

/-- Bits [79:64] of the word: guard, scheduling hints and reserved hint bits (R16). -/
structure Hd where
  gp : BitVec 4
  gn : Bool
  stall : BitVec 4
  yld : Bool
  reuse : BitVec 3
  hint : BitVec 3
  deriving DecidableEq, Repr

/-- The operand classes 0x0 to 0xA and 0xF (R23). -/
inductive Cls where
  | vec | scal | pred | addr | acc | queue | const | simm | sreg | fslot | pair | quad | zero
  deriving DecidableEq, Repr

/-- An operand field: class and index (R22). -/
structure Opnd where
  cls : Cls
  idx : BitVec 12
  deriving DecidableEq, Repr

/-- Bits [31:0] of the word: an immediate or the B and C operand fields (R16, R26). -/
inductive BC where
  | imm (w : Word)
  | ops (b c : Opnd)
  deriving DecidableEq, Repr

/-- The operands of an instruction that may take the immediate form (R26). -/
structure Args where
  d : Opnd
  a : Opnd
  bc : BC
  deriving DecidableEq, Repr

/-- The four operand fields of an instruction that takes no immediate word. -/
structure Ops4 where
  d : Opnd
  a : Opnd
  b : Opnd
  c : Opnd
  deriving DecidableEq, Repr

/-- TYPE of the integer family (R28). -/
inductive IType where
  | i32 | n32 | i64 | n64 | i16x2 | n16x2 | i8x4 | n8x4
  deriving DecidableEq, Repr

/-- MOD of the integer family without its IMM bit (R28). -/
structure IntMod where
  ty : IType
  sat : Bool
  var : BitVec 3
  deriving DecidableEq, Repr

/-- TYPE of the floating-point family (R28). -/
inductive FType where
  | f32 | f16x2 | bf16x2 | f64
  deriving DecidableEq, Repr

/-- RND of an instruction: nearest-even, toward zero, up, down (R28). -/
inductive Rnd where
  | rn | rz | ru | rd
  deriving DecidableEq, Repr

/-- MOD of the floating-point family without its IMM bit (R28). -/
structure FpMod where
  ty : FType
  rnd : Rnd
  ftz : Bool
  nega : Bool
  negb : Bool
  deriving DecidableEq, Repr

/-- The format codes 0 to 15 of a conversion (R29). -/
inductive Fmt where
  | f32 | f16 | bf16 | f64 | e4m3 | e5m2 | e2m3 | e3m2 | e2m1 | i32 | n32 | i64 | i16 | i8 | n8 | slot
  deriving DecidableEq, Repr

/-- MOD and immediate word of a conversion (R29). -/
structure CvtMod where
  dst : Fmt
  src : Fmt
  slot : BitVec 3
  stoch : Bool
  sat : Bool
  rnd : Rnd
  deriving DecidableEq, Repr

/-- SIZE of the memory family (R30). -/
inductive Size where
  | b8 | b16 | b32 | b64 | b128
  deriving DecidableEq, Repr

/-- SCOPE of the memory family (R30, R314). -/
inductive Scope where
  | grp | unit | clu | dev | sys
  deriving DecidableEq, Repr

/-- ORD of the memory family; `half` is code 1, acquire on a read and release on a write (R30). -/
inductive Ord where
  | rlx | half | acqrel | sc
  deriving DecidableEq, Repr

/-- MOD of the memory family (R30). -/
structure MemMod where
  size : Size
  scope : Scope
  ord : Ord
  deriving DecidableEq, Repr

/-- MOD of the copy family (R137). -/
structure CopyMod where
  sub : BitVec 3
  gd : Bool
  gslot : BitVec 4
  deriving DecidableEq, Repr

/-- CMP of ITEST (R87). -/
inductive ICmp where
  | eq | ne | lt | le | gt | ge
  deriving DecidableEq, Repr

/-- CMP of FTEST (R87). -/
inductive FCmp where
  | eq | ne | lt | le | gt | ge | equ | neu | ltu | leu | gtu | geu | num | nan
  deriving DecidableEq, Repr

/-- TYPE of ITEST: the four non-packed integer types (R87). -/
inductive WType where
  | i32 | n32 | i64 | n64
  deriving DecidableEq, Repr

/-- Mode of VOTE (R90). -/
inductive VoteMode where
  | all | any | uni | ballot
  deriving DecidableEq, Repr

/-- Mode of XLANE (R92). -/
inductive XMode where
  | idx | up | down | xor
  deriving DecidableEq, Repr

/-- RED of LREDUCE and LSCAN (R94). -/
inductive RedOp where
  | add | min | max | and | or | xor
  deriving DecidableEq, Repr

/-- TYPE of LREDUCE and LSCAN (R94). -/
inductive RType where
  | i32 | n32 | i64 | n64 | f32 | f64
  deriving DecidableEq, Repr

/-- MOD of LREDUCE and LSCAN (R94). -/
structure RedMod where
  red : RedOp
  ty : RType
  rnd : Rnd
  deriving DecidableEq, Repr

/-- The forms of FENCE but FENCE.async (R120). -/
inductive FenceKind where
  | acq | rel | acqrel | sc
  deriving DecidableEq, Repr

/-- CMP of WAITC (R130). -/
inductive WCmp where
  | eq | ne | lt | ge | ltu | geu | any
  deriving DecidableEq, Repr

/-- MOD of WAITC (R130). -/
structure WaitMod where
  b64 : Bool
  cmp : WCmp
  sys : Bool
  acq : Bool
  deriving DecidableEq, Repr

/-- Operation of CCTL (R133). -/
inductive CctlOp where
  | l1inv | l1all | wb | wbinv
  deriving DecidableEq, Repr

/-- MOD of SPXS (R178). -/
structure SpxsMod where
  s1 : Bool
  s0 : Bool
  e8 : Bool
  deriving DecidableEq, Repr

/-- Form of TLBINV and TLBCMD (R209, R405). -/
inductive TlbForm where
  | range | ctx | all
  deriving DecidableEq, Repr

/-- The fields of a hint-region word below its OP and header, none of which can make it trap (R33, R197). -/
structure HintRaw where
  mod : BitVec 8
  low : BitVec 64
  deriving DecidableEq, Repr

/-! ### Packets (R383, R386) -/

/-- The first 64 bytes of a packet: header fields below TYPE, and the seven doublewords after the header. -/
structure Packet where
  rsv : BitVec 16
  cksum : BitVec 16
  stamp : BitVec 16
  len : BitVec 2
  cke : Bool
  rels : BitVec 2
  acqs : BitVec 2
  bar : Bool
  q08 : DWord
  q10 : DWord
  q18 : DWord
  q20 : DWord
  q28 : DWord
  q30 : DWord
  q38 : DWord
  deriving DecidableEq, Repr

/-! ### Arguments of events -/

/-- The host registers with no behaviour of their own on a write (R377, R405, R444, R450, R452, chapter 16). -/
inductive HostReg where
  | qtbase | ctxbase | ftbase | fqbase | fwstage | peercfg | poolwin (n : BitVec 4) (high : Bool) | tlbaddr | tlblen
  | evbase | attbuf
  deriving DecidableEq, Repr

/-- Accesses of the host to device memory (R447). -/
inductive HostOp where
  | read (pa : Nat) (n : Nat)
  | write (pa : Nat) (bytes : List Byte)
  | add (pa : Nat) (w64 : Bool) (x : DWord)
  | swap (pa : Nat) (w64 : Bool) (x : DWord)
  | cas (pa : Nat) (n : Nat) (old new : BitVec 128)
  deriving DecidableEq, Repr

/-- Requests of a peer device to this home device (R454). -/
inductive PeerOp where
  | fill (peer : Nat) (pa : Nat)
  | write (peer : Nat) (pa : Nat) (bytes : List Byte)
  | rmw (peer : Nat) (pa : Nat) (kind code size : Nat) (op0 op1 : BitVec 128)
  deriving DecidableEq, Repr

/-- A 32-byte mailbox message (R453). -/
structure MailMsg where
  home : BitVec 16
  kind : BitVec 8
  logsz : BitVec 8
  rsv0 : BitVec 32
  pa : DWord
  seq : DWord
  rsv1 : DWord
  deriving DecidableEq, Repr

/-- What a watchdog expiry concerns (R426). -/
inductive WdTarget where
  | record (die : Nat) (seq : Nat)
  | group (u g : Nat)
  deriving DecidableEq, Repr

/-- Who waits for a core (R252): a SAVED unit, or the next PENDING unit or cohort of a launch's stage. -/
inductive Waiter where
  | saved (u : Nat)
  | pending (launch stage : Nat)
  deriving DecidableEq, Repr

/-- A block that self-test examines (R482). -/
inductive Block where
  | core (n : Nat)
  | engine (n : Nat)
  | sramRow (slice row : Nat)
  | hbmRow (frame row : Nat)
  | linkLane (n : Nat)
  deriving DecidableEq, Repr

/-- Results of the four boot processors' checks (R459). -/
structure BootResult where
  image : List Byte
  digests : List (List Byte)
  deriving DecidableEq, Repr

/-! ### The instructions -/

/-- One constructor per row of the opcode table. -/
inductive Instr where
  -- integer family, OP 0x01 to 0x32 (R63 to R77)
  | add (h : Hd) (m : IntMod) (x : Args)
  | sub (h : Hd) (m : IntMod) (x : Args)
  | mul (h : Hd) (m : IntMod) (x : Args)
  | mulh (h : Hd) (m : IntMod) (x : Args)
  | mad (h : Hd) (m : IntMod) (x : Args)
  | madw (h : Hd) (m : IntMod) (x : Args)
  | div (h : Hd) (m : IntMod) (x : Args)
  | rem (h : Hd) (m : IntMod) (x : Args)
  | abs (h : Hd) (m : IntMod) (x : Args)
  | neg (h : Hd) (m : IntMod) (x : Args)
  | min (h : Hd) (m : IntMod) (x : Args)
  | max (h : Hd) (m : IntMod) (x : Args)
  | and (h : Hd) (m : IntMod) (x : Args)
  | or (h : Hd) (m : IntMod) (x : Args)
  | xor (h : Hd) (m : IntMod) (x : Args)
  | not (h : Hd) (m : IntMod) (x : Args)
  | shl (h : Hd) (m : IntMod) (x : Args)
  | shr (h : Hd) (m : IntMod) (x : Args)
  | sar (h : Hd) (m : IntMod) (x : Args)
  | rot (h : Hd) (m : IntMod) (x : Args)
  | bfx (h : Hd) (m : IntMod) (x : Args)
  | bfi (h : Hd) (m : IntMod) (x : Args)
  | popc (h : Hd) (m : IntMod) (x : Args)
  | clz (h : Hd) (m : IntMod) (x : Args)
  | brev (h : Hd) (m : IntMod) (x : Args)
  | blut (h : Hd) (m : IntMod) (x : Args)
  | sel (h : Hd) (m : IntMod) (x : Args)
  | mov (h : Hd) (m : IntMod) (x : Args)
  | movi (h : Hd) (m : IntMod) (x : Args)
  | bperm (h : Hd) (m : IntMod) (x : Args)
  | addc (h : Hd) (m : IntMod) (x : Args)
  | subb (h : Hd) (m : IntMod) (x : Args)
  | aadd (h : Hd) (m : IntMod) (x : Args)
  | amad (h : Hd) (m : IntMod) (x : Args)
  | amov (h : Hd) (m : IntMod) (x : Args)
  | aget (h : Hd) (m : IntMod) (x : Args)
  | lea (h : Hd) (m : IntMod) (x : Args)
  | dp4 (h : Hd) (m : IntMod) (x : Args)
  | dp2 (h : Hd) (m : IntMod) (x : Args)
  | sad (h : Hd) (m : IntMod) (x : Args)
  -- floating-point family, OP 0x40 to 0x51 (R78 to R80)
  | fadd (h : Hd) (m : FpMod) (x : Args)
  | fsub (h : Hd) (m : FpMod) (x : Args)
  | fmul (h : Hd) (m : FpMod) (x : Args)
  | ffma (h : Hd) (m : FpMod) (x : Args)
  | fmin (h : Hd) (m : FpMod) (x : Args)
  | fmax (h : Hd) (m : FpMod) (x : Args)
  | frcp (h : Hd) (m : FpMod) (x : Args)
  | frsq (h : Hd) (m : FpMod) (x : Args)
  | fsqrt (h : Hd) (m : FpMod) (x : Args)
  | fdiv (h : Hd) (m : FpMod) (x : Args)
  | fex2 (h : Hd) (m : FpMod) (x : Args)
  | flg2 (h : Hd) (m : FpMod) (x : Args)
  | fsin (h : Hd) (m : FpMod) (x : Args)
  | fcos (h : Hd) (m : FpMod) (x : Args)
  | ftanh (h : Hd) (m : FpMod) (x : Args)
  | fsigm (h : Hd) (m : FpMod) (x : Args)
  | fdot2 (h : Hd) (m : FpMod) (x : Args)
  | fdot4 (h : Hd) (m : FpMod) (x : Args)
  -- conversions, OP 0x58 to 0x5C (R81 to R86)
  | cvt (h : Hd) (m : CvtMod) (d a : Opnd)
  | cvts (h : Hd) (m : CvtMod) (d a : Opnd)
  | bfpk (h : Hd) (m : CvtMod) (d a : Opnd)
  | bfpx (h : Hd) (m : CvtMod) (d a : Opnd)
  | qscl (h : Hd) (m : CvtMod) (d a : Opnd)
  -- compares, predicates and lane exchange, OP 0x80 to 0x8A (R87 to R94)
  | itest (h : Hd) (ty : WType) (nc : Bool) (cmp : ICmp) (x : Ops4)
  | ftest (h : Hd) (f64 : Bool) (nc : Bool) (cmp : FCmp) (x : Ops4)
  | plut (h : Hd) (lut : BitVec 8) (x : Ops4)
  | pmovPack (h : Hd) (x : Ops4)
  | pmovUnpack (h : Hd) (x : Ops4)
  | vote (h : Hd) (m : VoteMode) (x : Ops4)
  | matchLanes (h : Hd) (b64 : Bool) (x : Ops4)
  | xlane (h : Hd) (b64 : Bool) (m : XMode) (x : Ops4)
  | lreduce (h : Hd) (m : RedMod) (x : Ops4)
  | lscan (h : Hd) (m : RedMod) (x : Ops4)
  | bcast (h : Hd) (x : Ops4)
  | smov (h : Hd) (x : Ops4)
  -- control, OP 0x90 to 0x9B (R95 to R105)
  | bra (h : Hd) (join : BitVec 16) (off : Word)
  | brx (h : Hd) (a : Opnd) (join : Word)
  | join (h : Hd)
  | call (h : Hd) (ind : Bool) (d a : Opnd) (off : Word)
  | ret (h : Hd) (x : Ops4)
  | exit (h : Hd)
  | loop (h : Hd) (d : Opnd) (off : Word)
  | barSync (h : Hd)
  | barArrive (h : Hd)
  | yield (h : Hd)
  | nop (h : Hd)
  | sleep (h : Hd) (x : Ops4)
  | gsync (h : Hd)
  -- memory family, OP 0xA0 to 0xB2 (R109 to R135)
  | ld (h : Hd) (m : MemMod) (x : Ops4)
  | st (h : Hd) (m : MemMod) (x : Ops4)
  | lds (h : Hd) (m : MemMod) (x : Ops4)
  | sts (h : Hd) (m : MemMod) (x : Ops4)
  | ldc (h : Hd) (m : MemMod) (x : Ops4)
  | ldx (h : Hd) (m : MemMod) (x : Ops4)
  | stx (h : Hd) (m : MemMod) (x : Ops4)
  | ldm (h : Hd) (m : MemMod) (x : Ops4)
  | stm (h : Hd) (m : MemMod) (x : Ops4)
  | fence (h : Hd) (k : FenceKind) (sc : Scope)
  | fenceAsync (h : Hd)
  | atom (h : Hd) (m : MemMod) (x : Ops4)
  | red (h : Hd) (m : MemMod) (x : Ops4)
  | cas (h : Hd) (m : MemMod) (x : Ops4)
  | atomx (h : Hd) (m : MemMod) (x : Ops4)
  | atoms (h : Hd) (m : MemMod) (x : Ops4)
  | cass (h : Hd) (m : MemMod) (x : Ops4)
  | waitc (h : Hd) (m : WaitMod) (x : Ops4)
  | cctl (h : Hd) (op : CctlOp) (x : Ops4)
  | pref (h : Hd) (tc : Bool) (x : Ops4)
  -- asynchronous family, OP 0xC0 to 0xCF (R136 to R159)
  | cpy (h : Hd) (m : CopyMod) (x : Ops4)
  | cpyt (h : Hd) (m : CopyMod) (x : Ops4)
  | cpyg (h : Hd) (m : CopyMod) (x : Ops4)
  | cpys (h : Hd) (m : CopyMod) (x : Ops4)
  | binit (h : Hd) (x : Ops4)
  | bexp (h : Hd) (x : Ops4)
  | barrive (h : Hd) (ext : Bool) (x : Ops4)
  | bwait (h : Hd) (x : Ops4)
  | btest (h : Hd) (x : Ops4)
  | seal (h : Hd) (x : Ops4)
  | waitb (h : Hd) (x : Ops4)
  | tclook (h : Hd) (x : Ops4)
  | tcpref (h : Hd) (x : Ops4)
  | tchalo (h : Hd) (m : CopyMod) (x : Ops4)
  | tcinv (h : Hd) (m : CopyMod) (x : Ops4)
  | tcwb (h : Hd) (m : CopyMod) (x : Ops4)
  -- matrix, guards, slabs, shapes, tensor map, OP 0xD0 to 0xDC (R161 to R184)
  | mxpost (h : Hd) (x : Ops4)
  | mxwait (h : Hd) (x : Ops4)
  | mxqry (h : Hd) (x : Ops4)
  | mxcan (h : Hd) (x : Ops4)
  | gset (h : Hd) (clr : Bool) (n : BitVec 4) (x : Ops4)
  | slabld (h : Hd) (m : CopyMod) (x : Ops4)
  | slabfree (h : Hd) (x : Ops4)
  | spxs (h : Hd) (m : SpxsMod) (x : Ops4)
  | shpq (h : Hd) (x : Ops4)
  | shpwait (h : Hd) (x : Ops4)
  | shpset (h : Hd) (sys : Bool) (x : Ops4)
  | tmapset (h : Hd) (x : Ops4)
  | tmapclr (h : Hd) (x : Ops4)
  -- spatial mode, OP 0xE0 to 0xEA (R185 to R196)
  | spaton (h : Hd) (x : Ops4)
  | send (h : Hd) (x : Ops4)
  | strld (h : Hd) (gather : Bool) (x : Ops4)
  | strst (h : Hd) (x : Ops4)
  | gtok (h : Hd) (x : Ops4)
  | dropt (h : Hd) (x : Ops4)
  | toki (h : Hd) (x : Ops4)
  | spatq (h : Hd) (x : Ops4)
  | spexit (h : Hd) (x : Ops4)
  -- hint region, OP 0xEC to 0xEF (R33, R197)
  | hpref (h : Hd) (r : HintRaw)
  | hprio (h : Hd) (r : HintRaw)
  | hnote (h : Hd) (r : HintRaw)
  | hintRegionNop (h : Hd) (op : BitVec 2) (r : HintRaw)
  -- system, OP 0xF0 to 0xFE (R198 to R214)
  | trap (h : Hd) (x : Ops4)
  | sread (h : Hd) (x : Ops4)
  | swrite (h : Hd) (x : Ops4)
  | rte (h : Hd) (x : Ops4)
  | hrec (h : Hd) (x : Ops4)
  | hrecW (h : Hd) (x : Ops4)
  | pmap (h : Hd) (x : Ops4)
  | tlbinv (h : Hd) (f : TlbForm) (x : Ops4)
  | icinv (h : Hd) (all : Bool) (x : Ops4)
  | park (h : Hd) (x : Ops4)
  | bkpt (h : Hd) (x : Ops4)
  | perf (h : Hd) (x : Ops4)
  | svcrmwLock (h : Hd) (b64 : Bool) (x : Ops4)
  | svcrmwUnlock (h : Hd) (b64 : Bool) (x : Ops4)
  | svcret (h : Hd) (x : Ops4)
  -- every OP the map leaves unassigned (R32)
  | unassignedOpcode (w : Slot)
  -- queue programs (R396 to R399)
  | movq (d : BitVec 4) (i : BitVec 18)
  | addq (d a : BitVec 4) (i : BitVec 18)
  | andq (d a : BitVec 4) (i : BitVec 18)
  | orq (d a : BitVec 4) (i : BitVec 18)
  | shlq (d a : BitVec 4) (i : BitVec 18)
  | shrq (d a : BitVec 4) (i : BitVec 18)
  | addr (d a b : BitVec 4)
  | subr (d a b : BitVec 4)
  | andr (d a b : BitVec 4)
  | orr (d a b : BitVec 4)
  | xorr (d a b : BitVec 4)
  | seqr (d a b : BitVec 4)
  | sltr (d a b : BitVec 4)
  | sltur (d a b : BitVec 4)
  | ldb (d x : BitVec 4) (n : Bool) (w : BitVec 3) (o : BitVec 14)
  | ldh (d x : BitVec 4) (n : Bool) (w : BitVec 3) (o : BitVec 14)
  | ldw (d x : BitVec 4) (n : Bool) (w : BitVec 3) (o : BitVec 14)
  | ldd (d x : BitVec 4) (n : Bool) (w : BitVec 3) (o : BitVec 14)
  | stb (d x : BitVec 4) (n : Bool) (w : BitVec 3) (o : BitVec 14)
  | sth (d x : BitVec 4) (n : Bool) (w : BitVec 3) (o : BitVec 14)
  | stw (d x : BitVec 4) (n : Bool) (w : BitVec 3) (o : BitVec 14)
  | std (d x : BitVec 4) (n : Bool) (w : BitVec 3) (o : BitVec 14)
  | bz (a : BitVec 4) (i : BitVec 18)
  | bnz (a : BitVec 4) (i : BitVec 18)
  | jmp (i : BitVec 18)
  | qprogLoop (c : BitVec 6) (i : BitVec 18)
  | lnch (d a : BitVec 4) (i : BitVec 3)
  | xfer (d a b : BitVec 4)
  | siga (a b : BitVec 4)
  | sigw (a b : BitVec 4)
  | wall (d : BitVec 4) (m : BitVec 15)
  | wany (d : BitVec 4) (m : BitVec 15)
  | canx (a : BitVec 4) (l : BitVec 2)
  | cfgd (a : BitVec 4)
  | fin (a : BitVec 4)
  | qerr (a : BitVec 4) (c : BitVec 8)
  -- packets (R386, R402)
  | launch (p : Packet)
  | barrierAnd (p : Packet)
  | barrierOr (p : Packet)
  | signal (p : Packet)
  | copy (p : Packet)
  | configDelta (p : Packet)
  | cancel (p : Packet)
  | nopPacket (p : Packet)
  | customPacket (ty : BitVec 8) (p : Packet)
  -- events of queues and launches
  | barrierReevaluate (q : Nat)
  | checksumRefetch (q : Nat)
  | packetCompletion (q index : Nat)
  | deltaApply (delta : Nat)
  | launchCompletion (l : Nat)
  | predictorAnswer (l : Nat) (count : Word)
  | predictorTimeout (l : Nat)
  | deadlineExpiry (l : Nat)
  | csigAbort (l : Nat)
  | widxWake (q : Nat)
  | queueMap (q die : Nat)
  | queueSlotReclaim (waiter holder : Nat)
  | queueUnmap (q : Nat)
  | qcmdEnable (q : BitVec 15)
  | qcmdDisable (q : BitVec 15)
  | qcmdReset (q : BitVec 15)
  -- host registers, translation and faults
  | tlbcmdRange (ctx : BitVec 12)
  | tlbcmdContext (ctx : BitVec 12)
  | tlbcmdAll
  | shootdownComplete (id : Nat)
  | icinvInvalidation (die id : Nat)
  | replayRetry (die : BitVec 2) (ctx : BitVec 12) (seq : BitVec 48)
  | replayFail (die : BitVec 2) (ctx : BitVec 12) (seq : BitVec 48)
  | replayRetryAll (die : BitVec 2) (ctx : BitVec 12)
  | watchdogExpiry (t : WdTarget)
  | fwctlLoad
  | firmwareBootCheck (r : BootResult)
  | attcmdQuote
  | attcmdRaiseFloor
  | attcmdReadCertificate
  | heatctlWrite (v : DWord)
  | tierbaseWrite (v : DWord)
  | pwrcapWrite (v : DWord)
  | intstatWrite (v : DWord)
  | intmaskWrite (v : DWord)
  | registerWrite (r : HostReg) (v : DWord)
  | deviceReset
  -- units
  | unitStart (launch stage : Nat) (cs : List Nat)
  | unitRetire (u : Nat)
  | rotationPreempt (victim : Nat) (waiter : Waiter)
  | squashPreempt (victim : Nat) (waiter : Waiter)
  | unitEvict (u : Nat) (waiter : Waiter)
  | unitSave (u : Nat)
  | unitRestore (us : List Nat) (cs : List Nat) (row col : Nat)
  | stageEvaluation (l : Nat)
  | bindOff (l : Nat)
  | promotion (u : Nat)
  | sleepExpiry (u g : Nat)
  | waitcRepoll (u g : Nat)
  | spatialLoad (u : Nat) (row col : Nat)
  | operatorFiring (u op : Nat)
  | streamReadReturn (u port : Nat)
  | spatialExit (u : Nat)
  -- engines and memory paths
  | copyCommandStart (u : Nat)
  | copyCommandArrival (u cmd : Nat)
  | engineGrant (engine : Nat)
  | passEnd (engine : Nat)
  | anyDispatch (u : Nat) (handle : Word) (target : Nat)
  | loadSectorReturn (id : Nat) (lease : Nat)
  | storePerformed (id : Nat)
  | writeAcknowledgement (id : Nat)
  | atomicReply (id : Nat)
  | serviceRequestDelivery (id : Nat)
  | tcTick (core : Nat)
  | epochAdvance (die : Nat)
  | sliceSleep (slice : Nat)
  | sliceWake (slice : Nat)
  | proxyFill (die ctx tensor tile line : Nat)
  | regionMerge (die base k : Nat)
  | hostAccess (op : HostOp)
  | hostSnoop (pa : Nat)
  | peerRequest (op : PeerOp)
  | peerInvalidateMessage (m : MailMsg)
  | peerAcknowledgeMessage (m : MailMsg)
  | linkFailure (port flow : Nat) (dieA dieB : Nat)
  | heatDecay
  | migrationStart (tier frame : Nat) (large : Bool)
  | migrationFinish (id : Nat)
  | migrationHoldTimeout (id : Nat)
  | recompression (tier page : Nat)
  | selfTest (b : Block) (pass : Bool)
  | powerClockStep (up : Bool)
  | copyRequestPerformed (u cmd : Nat)
  | stampScrub (die ctx tensor tile line : Nat)
  | proxyInvalidation (id : Nat)
  | backInvalidationSnoopResponse (id : Nat)
  | msixVectorUnmask (v : BitVec 6)
  deriving DecidableEq, Repr

end Sys2Proof
end

