-- ==== Sys2Proof/WellFormed.lean ====
section
/-! DEFINITION. The checks of decode steps 3 and 4 (R20) that depend on the instruction word alone: the MOD values an
entry accepts (`Instr.modOk`, ILLOP otherwise) and the operand classes and indices it accepts (`Instr.opsOk`, ILLOPND
otherwise). Index limits that come from the kernel header, the partition word or a format slot are checked by the
machine. -/

namespace Sys2Proof

/-- The zero operand 0xF000, which an unused field must hold (R64, R109, R161). -/
def Opnd.z : Opnd := ⟨.zero, 0⟩

/-- The index range of a class that holds for every kernel (R23). -/
def Opnd.idxOk (o : Opnd) : Bool :=
  match o.cls with
  | .vec => o.idx.toNat < 256
  | .scal => o.idx.toNat < 64
  | .pred => o.idx.toNat < 16
  | .addr => o.idx.toNat < 16
  | .acc => o.idx.toNat < 16
  | .queue => o.idx.toNat < 256
  | .const => true
  | .simm => true
  | .sreg => true
  | .fslot => o.idx.toNat < 8
  | .pair => o.idx.toNat % 2 == 0 && o.idx.toNat < 256
  | .quad => o.idx.toNat % 4 == 0 && o.idx.toNat < 256
  | .zero => o.idx == 0

/-- The operand is of one of the classes, with an index in range. -/
def Opnd.isIn (o : Opnd) (cs : List Cls) : Bool := cs.contains o.cls && o.idxOk

/-- A scalar or constant that stands for 64 bits has an even index (R24, R65). -/
def Opnd.evenOk (o : Opnd) : Bool :=
  match o.cls with
  | .scal | .const => o.idx.toNat % 2 == 0
  | _ => true

/-- The field is unused: it holds 0xF000. -/
def Opnd.unused (o : Opnd) : Bool := o == Opnd.z

/-- A 32-bit destination; a queue may stand where a vector may (R65, R190). -/
def Opnd.isD32 (o : Opnd) : Bool := o.isIn [.vec, .queue, .scal, .zero]
/-- A 64-bit destination (R65). -/
def Opnd.isD64 (o : Opnd) : Bool := o.isIn [.pair, .scal, .zero] && o.evenOk
/-- A 32-bit source of the integer family (R65). -/
def Opnd.isS32 (o : Opnd) : Bool := o.isIn [.vec, .queue, .scal, .const, .simm, .zero]
/-- A 64-bit source of the integer family (R65). -/
def Opnd.isS64 (o : Opnd) : Bool := o.isIn [.pair, .scal, .const, .simm, .zero] && o.evenOk
/-- A 32-bit source of the floating-point family: no short immediate (R65). -/
def Opnd.isF32 (o : Opnd) : Bool := o.isIn [.vec, .queue, .scal, .const, .zero]
/-- A 64-bit source of the floating-point family (R65). -/
def Opnd.isF64 (o : Opnd) : Bool := o.isIn [.pair, .scal, .const, .zero] && o.evenOk
/-- A destination of the width (`true`: 64 bits). -/
def Opnd.isD (w : Bool) (o : Opnd) : Bool := if w then o.isD64 else o.isD32
/-- An integer source of the width. -/
def Opnd.isS (w : Bool) (o : Opnd) : Bool := if w then o.isS64 else o.isS32
/-- A floating-point source of the width. -/
def Opnd.isF (w : Bool) (o : Opnd) : Bool := if w then o.isF64 else o.isF32
/-- A uniform 32-bit source: scalar, constant or short immediate. -/
def Opnd.isU (o : Opnd) : Bool := o.isIn [.scal, .const, .simm]
/-- An address register. -/
def Opnd.isA (o : Opnd) : Bool := o.isIn [.addr]
/-- A predicate. -/
def Opnd.isP (o : Opnd) : Bool := o.isIn [.pred]
/-- A byte offset: short immediate, or zero (R30). -/
def Opnd.isOff (o : Opnd) : Bool := o.isIn [.simm, .zero]
/-- An index register of the memory family (R30). -/
def Opnd.isIdx (o : Opnd) : Bool := o.isIn [.vec, .zero]
/-- A barrier operand: scratchpad offset, 0 to 2,047, or none (R150). -/
def Opnd.isBar (o : Opnd) : Bool := o.isIn [.scal, .zero] || (o.isIn [.simm] && decide (o.idx.toNat < 2048))
/-- A tile key: an even scalar pair (R153). -/
def Opnd.isKey (o : Opnd) : Bool := o.isIn [.scal] && o.evenOk
/-- A short immediate with INDEX at most n. -/
def Opnd.isSel (n : Nat) (o : Opnd) : Bool := o.cls == .simm && o.idx.toNat ≤ n

/-- The guard is PT (R17). -/
def Hd.isPT (h : Hd) : Bool := h.gp == 15 && !h.gn

/-- TYPE has 64-bit operands (R65). -/
def IType.wide : IType → Bool
  | .i64 | .n64 => true
  | _ => false
/-- TYPE is signed (R66). -/
def IType.signed : IType → Bool
  | .i32 | .i64 | .i16x2 | .i8x4 => true
  | _ => false
/-- TYPE has 64-bit operands (R65). -/
def FType.wide : FType → Bool
  | .f64 => true
  | _ => false
/-- TYPE has 64-bit operands (R87). -/
def WType.wide : WType → Bool
  | .i64 | .n64 => true
  | _ => false
/-- TYPE has 64-bit operands (R94). -/
def RType.wide : RType → Bool
  | .i64 | .n64 | .f64 => true
  | _ => false
/-- TYPE is a floating type (R94). -/
def RType.isFloat : RType → Bool
  | .f32 | .f64 => true
  | _ => false
/-- The format is an integer format (R29). -/
def Fmt.isInt : Fmt → Bool
  | .i32 | .n32 | .i64 | .i16 | .i8 | .n8 => true
  | _ => false
/-- The format takes a 64-bit operand (R82). -/
def Fmt.wide : Fmt → Bool
  | .f64 | .i64 => true
  | _ => false

/-- MOD of an integer instruction: the types, saturation, variants up to `vmax` and immediate form it accepts (R27, R28). -/
def IntMod.accepts (m : IntMod) (imm : Bool) (tys : List IType) (sat : Bool) (vmax : Nat) (immOk : Bool) : Bool :=
  tys.contains m.ty && (sat || !m.sat) && m.var.toNat ≤ vmax && (immOk || !imm)

/-- Whether BC is an immediate (R26). -/
def BC.isImm : BC → Bool
  | .imm _ => true
  | .ops _ _ => false

/-- Every TYPE of the integer family. -/
def IType.all : List IType := [.i32, .n32, .i64, .n64, .i16x2, .n16x2, .i8x4, .n8x4]

/-- MOD of a floating-point instruction (R28, R78). -/
def FpMod.accepts (m : FpMod) (imm : Bool) (tys : List FType) (rnd : Bool) (negb : Bool) (immOk : Bool) : Bool :=
  tys.contains m.ty && (rnd || m.rnd == .rn) && (negb || !m.negb) && (immOk || !imm)

/-- Every TYPE of the floating-point family. -/
def FType.all : List FType := [.f32, .f16x2, .bf16x2, .f64]

/-- The conditions of R29, R59 and R82 on a conversion's MOD and immediate word that hold for every instruction. -/
def CvtMod.okCommon (m : CvtMod) : Bool :=
  m.dst != m.src && (m.dst == .slot || m.src == .slot || m.slot == 0) && (!m.stoch || m.rnd == .rn) &&
    (m.dst != .slot || (m.rnd == .rn && !m.sat && !m.stoch)) &&
    (!(m.dst.isInt && m.src.isInt) || (m.rnd == .rn && !m.stoch))

/-- The codes CVTS accepts (R83). -/
def Fmt.cvtsOk : Fmt → Bool
  | .f64 | .i64 | .slot => false
  | _ => true
/-- The codes QSCL accepts (R86). -/
def Fmt.qsclOk : Fmt → Bool
  | .f32 | .f16 | .bf16 | .e4m3 | .e5m2 | .e2m3 | .e3m2 | .e2m1 => true
  | _ => false
/-- The codes 0 to 2, which BFPK and BFPX take on their plain side (R84, R85). -/
def Fmt.isWideFloat3 : Fmt → Bool
  | .f32 | .f16 | .bf16 => true
  | _ => false

/-- SIZE and SCOPE lists of R110. -/
def MemMod.accepts (m : MemMod) (sizes : List Size) (scopes : List Scope) (ords : List Ord) : Bool :=
  sizes.contains m.size && scopes.contains m.scope && ords.contains m.ord

/-- All SIZE values. -/
def Size.all : List Size := [.b8, .b16, .b32, .b64, .b128]
/-- All SCOPE values. -/
def Scope.all : List Scope := [.grp, .unit, .clu, .dev, .sys]
/-- The scopes of scratchpad accesses (R110). -/
def Scope.near : List Scope := [.grp, .unit, .clu]

/-- MOD of a copy command: the SUB values it accepts; GSLOT is 0 when GD is 0 (R137). -/
def CopyMod.accepts (m : CopyMod) (subs : List Nat) : Bool :=
  subs.contains m.sub.toNat && (m.gd || m.gslot == 0)

/-- The MOD conditions of R94. -/
def RedMod.ok (m : RedMod) : Bool :=
  (!m.ty.isFloat || m.red == .add || m.red == .min || m.red == .max) && (m.rnd == .rn || (m.ty.isFloat && m.red == .add))

/-- Decode step 3 of R20: MOD is accepted, with the guard conditions whose breach an entry makes ILLOP. -/
def Instr.modOk : Instr → Bool
  | .add _ m x | .sub _ m x | .mul _ m x | .div _ m x => m.accepts x.bc.isImm IType.all true 0 true
  | .mulh _ m x | .rem _ m x | .min _ m x | .max _ m x => m.accepts x.bc.isImm IType.all false 0 true
  | .mad _ m x | .neg _ m x => m.accepts x.bc.isImm IType.all true 0 false
  | .madw _ m x => m.accepts x.bc.isImm [.i32, .n32] true 0 false
  | .abs _ m x => m.accepts x.bc.isImm [.i32, .i64, .i16x2, .i8x4] true 0 false
  | .and _ m x | .or _ m x | .xor _ m x => m.accepts x.bc.isImm [.i32, .i64] false 0 true
  | .not _ m x | .popc _ m x | .clz _ m x | .brev _ m x | .sel _ m x | .mov _ m x | .bfi _ m x | .blut _ m x =>
    m.accepts x.bc.isImm [.i32, .i64] false 0 false
  | .movi _ m x => m.accepts x.bc.isImm [.i32, .n32, .i64, .n64] false 0 true && x.bc.isImm
  | .shl _ m x => m.accepts x.bc.isImm IType.all true 0 true
  | .shr _ m x | .sar _ m x => m.accepts x.bc.isImm IType.all false 0 true
  | .rot _ m x => m.accepts x.bc.isImm IType.all false 1 true
  | .bfx _ m x => m.accepts x.bc.isImm [.i32, .n32, .i64, .n64] false 0 false
  | .bperm _ m x => m.accepts x.bc.isImm [.i32] false 0 false
  | .addc _ m x | .subb _ m x => m.accepts x.bc.isImm [.i32, .n32, .i64, .n64] false 7 true
  | .aadd _ m x => m.accepts x.bc.isImm [.i32, .n32, .i64] false 0 true
  | .amad _ m x => m.accepts x.bc.isImm [.i32, .n32] false 0 false
  | .amov _ m x | .aget _ m x => m.accepts x.bc.isImm [.i32] false 0 false
  | .lea _ m x => m.accepts x.bc.isImm [.i32, .n32] false 4 true
  | .dp4 _ m x => m.accepts x.bc.isImm [.i8x4, .n8x4] true 1 false
  | .dp2 _ m x => m.accepts x.bc.isImm [.i16x2, .n16x2] true 1 false
  | .sad _ m x => m.accepts x.bc.isImm [.i8x4, .n8x4, .i16x2, .n16x2] true 0 false
  | .fadd _ m x | .fsub _ m x | .fmul _ m x | .fdiv _ m x => m.accepts x.bc.isImm FType.all true true true
  | .ffma _ m x => m.accepts x.bc.isImm FType.all true true false
  | .fmin _ m x | .fmax _ m x => m.accepts x.bc.isImm FType.all false true true
  | .frcp _ m x | .frsq _ m x | .fsqrt _ m x => m.accepts x.bc.isImm FType.all true false false
  | .fex2 _ m x | .flg2 _ m x | .fsin _ m x | .fcos _ m x | .ftanh _ m x | .fsigm _ m x =>
    m.accepts x.bc.isImm [.f32, .f16x2, .bf16x2] false false false
  | .fdot2 _ m x | .fdot4 _ m x => m.accepts x.bc.isImm [.f16x2, .bf16x2] true true false
  | .cvt _ m _ _ => m.okCommon
  | .cvts _ m _ _ => m.okCommon && m.dst.cvtsOk && m.src.cvtsOk
  | .bfpk _ m _ _ => m.okCommon && m.dst == .slot && m.src.isWideFloat3
  | .bfpx _ m _ _ => m.okCommon && m.src == .slot && m.dst.isWideFloat3
  | .qscl _ m _ _ => m.okCommon && m.dst.qsclOk && m.src.qsclOk
  | .lreduce _ m _ | .lscan _ m _ => m.ok
  | .join h | .loop h _ _ | .barSync h | .barArrive h | .gsync h | .call h _ _ _ _ => h.isPT
  | .ret h _ | .spaton h _ | .shpwait h _ | .rte h _ | .park h _ => h.isPT
  | .ld _ m _ => m.accepts Size.all Scope.all [.rlx, .half, .sc]
  | .st _ m _ => m.accepts Size.all Scope.all [.rlx, .half, .sc]
  | .lds _ m _ | .ldx _ m _ | .sts _ m _ | .stx _ m _ => m.accepts Size.all Scope.near [.rlx, .half, .sc]
  | .ldc _ m _ => m.accepts [.b32, .b64] [.grp] [.rlx]
  | .ldm _ m _ | .stm _ m _ => m.accepts [.b16, .b32] [.grp] [.rlx]
  | .atom _ m _ | .atomx _ m _ => m.accepts [.b32, .b64] Scope.all [.rlx, .half, .acqrel, .sc]
  | .red _ m _ => m.accepts [.b32, .b64] Scope.all [.rlx, .half]
  | .cas _ m _ => m.accepts [.b32, .b64, .b128] Scope.all [.rlx, .half, .acqrel, .sc]
  | .atoms _ m _ | .cass _ m _ => m.accepts [.b32, .b64] Scope.near [.rlx, .half, .acqrel, .sc]
  | .cpy _ m _ | .cpyt _ m _ | .tchalo _ m _ | .tcwb _ m _ | .slabld _ m _ => m.accepts [0]
  | .cpyg _ m _ => m.accepts [2, 3, 4]
  | .cpys _ m _ | .tcinv _ m _ => m.accepts [0, 1]
  | _ => true

/-- Operands of a two-source integer instruction of the width. -/
def Args.two (w : Bool) (x : Args) : Bool :=
  x.d.isD w && x.a.isS w && match x.bc with | .imm _ => true | .ops b c => b.isS w && c.unused
/-- Operands of a one-source integer instruction. -/
def Args.one (wd wa : Bool) (x : Args) : Bool :=
  x.d.isD wd && x.a.isS wa && match x.bc with | .imm _ => false | .ops b c => b.unused && c.unused
/-- Operands of a three-source integer instruction. -/
def Args.three (wd wa wb wc : Bool) (x : Args) : Bool :=
  x.d.isD wd && x.a.isS wa && match x.bc with | .imm _ => false | .ops b c => b.isS wb && c.isS wc
/-- Operands of a two-source floating-point instruction. -/
def Args.ftwo (w : Bool) (x : Args) : Bool :=
  x.d.isD w && x.a.isF w && match x.bc with | .imm _ => true | .ops b c => b.isF w && c.unused
/-- Operands of a one-source floating-point instruction. -/
def Args.fone (w : Bool) (x : Args) : Bool :=
  x.d.isD w && x.a.isF w && match x.bc with | .imm _ => false | .ops b c => b.unused && c.unused
/-- Operands of a three-source floating-point instruction. -/
def Args.fthree (wd wab wc : Bool) (x : Args) : Bool :=
  x.d.isD wd && x.a.isF wab && match x.bc with | .imm _ => false | .ops b c => b.isF wab && c.isF wc

/-- Destination of a conversion to the format; code 15 takes the slot's width, settled by the machine (R82). -/
def Fmt.dOk (f : Fmt) (o : Opnd) : Bool :=
  match f with
  | .slot => o.isD32 || o.isD64
  | f => o.isD f.wide
/-- Source of a conversion from the format (R82). -/
def Fmt.aOk (f : Fmt) (o : Opnd) : Bool :=
  match f with
  | .slot => o.isS32 || o.isS64
  | f => o.isS f.wide
/-- Element width of a format in bits (R83). -/
def Fmt.width : Fmt → Nat
  | .f32 | .i32 | .n32 => 32
  | .f64 | .i64 => 64
  | .f16 | .bf16 | .i16 => 16
  | .e4m3 | .e5m2 | .i8 | .n8 => 8
  | .e2m3 | .e3m2 => 6
  | .e2m1 => 4
  | .slot => 0
/-- A container of four packed elements (R83). -/
def Fmt.packOk (f : Fmt) (dst : Bool) (o : Opnd) : Bool :=
  if f.width ≤ 8 then o.isIn [.vec, .scal] || (!dst && o.isIn [.const])
  else if f.width == 16 then o.isIn [.pair, .scal] && o.evenOk
  else o.isIn [.quad]

/-- Load destination and store source classes (R111). -/
def Size.loadOk (s : Size) (d b : Opnd) : Bool :=
  match s with
  | .b8 | .b16 | .b32 => d.isIn [.vec] || (d.isIn [.scal] && b.cls == .zero)
  | .b64 => d.isIn [.pair] || (d.isIn [.scal] && d.evenOk && b.cls == .zero)
  | .b128 => d.isIn [.quad]
/-- Store source classes (R111). -/
def Size.storeOk (s : Size) (d : Opnd) : Bool :=
  match s with
  | .b8 | .b16 | .b32 => d.isIn [.vec, .scal, .simm, .zero]
  | .b64 => d.isIn [.pair, .scal, .zero] && d.evenOk
  | .b128 => d.isIn [.quad, .zero]
/-- Data operand of a returning atomic (R124). -/
def Size.atomOk (s : Size) (d : Opnd) : Bool :=
  match s with
  | .b32 => d.isIn [.pair]
  | _ => d.isIn [.quad]
/-- The operation code operand of R123: code at most 14, and .fadd2 for b32 only. -/
def Opnd.isAtomCode (s : Size) (o : Opnd) : Bool :=
  o.cls == .simm && o.idx.toNat ≤ 14 && (o.idx.toNat != 12 || s == .b32)

/-- Width in bits of a special register, none for an unlisted index (R205). -/
def sregWide (i : BitVec 12) : Option Bool :=
  match i.toNat with
  | 4 | 7 | 12 | 14 => some true
  | 0 | 1 | 2 | 3 | 5 | 6 | 8 | 9 | 10 | 11 | 13 => some false
  | _ => none

/-- A, B and C of a memory access (R30). -/
def Ops4.memOk (x : Ops4) : Bool := x.a.isA && x.b.isIdx && x.c.isOff

/-- Decode step 4 of R20, as far as the word alone decides it. DESIGN CHOICE (log entry 91) where a rule does not list an operand's
classes: A of a 32-bit MATCH takes the 32-bit column of R65; D and A of BCAST and the 32-bit A of SMOV class 0x0 alone; D of BFPX and
D and A of QSCL the columns of R65. -/
def Instr.opsOk : Instr → Bool
  | .add _ m x | .sub _ m x | .mul _ m x | .div _ m x | .mulh _ m x | .rem _ m x | .min _ m x | .max _ m x
  | .and _ m x | .or _ m x | .xor _ m x | .shl _ m x | .shr _ m x | .sar _ m x | .rot _ m x | .addc _ m x | .subb _ m x =>
    x.two m.ty.wide
  | .mad _ m x => x.three m.ty.wide m.ty.wide m.ty.wide m.ty.wide
  | .madw _ _ x => x.three true false false true
  | .abs _ m x | .neg _ m x | .not _ m x | .brev _ m x | .mov _ m x => x.one m.ty.wide m.ty.wide
  | .popc _ m x | .clz _ m x => x.one false m.ty.wide
  | .sel _ m x =>
    x.d.isD m.ty.wide && x.a.isS m.ty.wide &&
      match x.bc with | .imm _ => false | .ops b c => b.isS m.ty.wide && c.isP
  | .movi _ m x => x.d.isD m.ty.wide && x.a.unused
  | .bfx _ m x =>
    x.d.isD m.ty.wide && x.a.isS m.ty.wide && match x.bc with | .imm _ => false | .ops b c => b.isS32 && c.unused
  | .bfi _ m x => x.three m.ty.wide m.ty.wide m.ty.wide false
  | .blut _ m x =>
    x.d.isD m.ty.wide && x.a.isS m.ty.wide &&
      match x.bc with | .imm _ => false | .ops b c => b.isS m.ty.wide && c.isSel 255
  | .bperm _ _ x => x.three false false false false
  | .aadd _ m x =>
    x.d.isA && x.a.isA && match x.bc with
      | .imm _ => true
      | .ops b c => b.isIn [.scal, .simm] && (!m.ty.wide || b.evenOk) && c.unused
  | .amad _ _ x =>
    x.d.isA && x.a.isA && match x.bc with | .imm _ => false | .ops b c => b.isU && c.isU
  | .amov _ _ x =>
    x.d.isA && x.a.isIn [.addr, .scal, .pair] && x.a.evenOk &&
      match x.bc with | .imm _ => false | .ops b c => b.unused && c.unused
  | .aget _ _ x =>
    x.d.isIn [.scal, .pair] && x.d.evenOk && x.a.isA &&
      match x.bc with | .imm _ => false | .ops b c => b.unused && c.unused
  | .lea _ _ x =>
    x.d.isIn [.scal, .pair] && x.d.evenOk && x.a.isA && match x.bc with
      | .imm _ => true
      | .ops b c => b.isIn [.vec, .scal, .const, .simm] && c.unused
  | .dp4 _ _ x | .dp2 _ _ x | .sad _ _ x => x.three false false false false
  | .fadd _ m x | .fsub _ m x | .fmul _ m x | .fdiv _ m x | .fmin _ m x | .fmax _ m x => x.ftwo m.ty.wide
  | .ffma _ m x => x.fthree m.ty.wide m.ty.wide m.ty.wide
  | .frcp _ m x | .frsq _ m x | .fsqrt _ m x | .fex2 _ m x | .flg2 _ m x | .fsin _ m x | .fcos _ m x | .ftanh _ m x
  | .fsigm _ m x => x.fone m.ty.wide
  | .fdot2 _ _ x => x.fthree false false false
  | .fdot4 _ _ x => x.fthree false true false
  | .cvt _ m d a => m.dst.dOk d && m.src.aOk a
  | .cvts _ m d a => m.dst.packOk true d && m.src.packOk false a
  | .bfpk _ _ d a => d.isIn [.pair] && a.isS32
  | .bfpx _ m d a => m.dst.dOk d && a.isIn [.pair]
  | .qscl _ m d a => m.dst.dOk d && a.isS64
  | .itest _ ty _ _ x => x.d.isP && x.a.isS ty.wide && x.b.isS ty.wide && x.c.isP
  | .ftest _ w _ _ x => x.d.isP && x.a.isF w && x.b.isF w && x.c.isP
  | .plut _ _ x => x.d.isP && x.a.isP && x.b.isP && x.c.isP
  | .pmovPack _ x => x.d.isIn [.vec, .scal] && x.a.unused && x.b.unused && x.c.unused
  | .pmovUnpack _ x => x.d.unused && x.a.isIn [.vec, .scal, .const] && x.b.unused && x.c.unused
  | .vote _ m x =>
    (match m with | .ballot => x.d.isIn [.vec, .scal] | _ => x.d.isP) && x.a.isP && x.b.unused && x.c.unused
  | .matchLanes _ w x => x.d.isIn [.vec] && (if w then x.a.isIn [.pair] else x.a.isS32) && x.b.unused && x.c.unused
  | .xlane _ w _ x =>
    (if w then x.d.isIn [.pair] && x.a.isIn [.pair] else x.d.isIn [.vec] && x.a.isIn [.vec]) &&
      x.b.isIn [.vec, .scal, .const, .simm] && x.c.isIn [.scal, .const, .simm, .zero]
  | .lreduce _ m x =>
    (if m.ty.wide then x.d.isIn [.pair, .scal] && x.d.evenOk else x.d.isIn [.vec, .scal]) && x.a.isS m.ty.wide &&
      x.b.unused && redOptOk m x.c
  | .lscan _ m x =>
    (if m.ty.wide then x.d.isIn [.pair] else x.d.isIn [.vec]) && x.a.isS m.ty.wide && x.b.unused && redOptOk m x.c
  | .bcast _ x => x.d.isIn [.vec] && x.a.isIn [.vec] && x.b.isU && x.c.unused
  | .smov _ x =>
    x.d.isIn [.scal] && (x.a.isIn [.vec] || (x.a.isIn [.pair] && x.d.evenOk)) && x.b.unused && x.c.unused
  | .brx _ a _ => a.isIn [.vec]
  | .call _ ind d a off => d.isA && (if ind then a.isA && off == 0 else a.unused)
  | .ret _ x => x.d.unused && x.a.isA && x.b.unused && x.c.unused
  | .loop _ d _ => d.isIn [.scal]
  | .sleep _ x => x.d.unused && x.a.unused && x.b.isU && x.c.unused
  | .ld _ m x | .lds _ m x | .ldx _ m x => m.size.loadOk x.d x.b && x.memOk
  | .st _ m x | .sts _ m x | .stx _ m x => m.size.storeOk x.d && x.memOk
  | .ldc _ m x => m.size.loadOk x.d x.b && x.a.isIn [.const] && x.b.isIdx && x.c.isOff
  | .ldm _ _ x | .stm _ _ x => x.d.isIn [.acc] && x.a.isA && x.b.isU && x.c.isOff
  | .atom _ m x | .atoms _ m x => m.size.atomOk x.d && x.a.isA && x.b.isIdx && x.c.isAtomCode m.size
  | .red _ m x =>
    (if m.size == .b32 then x.d.isIn [.vec, .scal] else x.d.isIn [.pair, .scal] && x.d.evenOk) && x.a.isA && x.b.isIdx &&
      x.c.isAtomCode m.size
  | .cas _ m x => m.size.atomOk x.d && (m.size != .b128 || x.d.idx.toNat + 7 < 256) && x.memOk
  | .atomx _ m x => m.size.atomOk x.d && x.a.isA && x.b.isIdx && x.c.isSel 15
  | .cass _ m x => m.size.atomOk x.d && x.memOk
  | .waitc _ m x => (if m.b64 then x.d.isIn [.quad] else x.d.isIn [.pair]) && x.memOk
  | .cctl _ _ x | .pref _ _ x => x.d.unused && x.memOk
  | .cpy _ _ x | .cpys _ _ x => x.d.isA && x.a.isA && x.b.isU && x.c.isBar
  | .cpyt _ _ x => x.d.isA && x.a.isKey && x.b.unused && x.c.isBar
  | .cpyg _ _ x => x.d.isA && x.a.isA && x.b.isIn [.vec] && x.c.isBar
  | .binit _ x | .bexp _ x => x.d.unused && x.a.isA && x.b.isU && x.c.isOff
  | .barrive _ _ x => x.d.isIn [.scal, .zero] && x.a.isA && x.b.unused && x.c.isOff
  | .bwait _ x => x.d.unused && x.a.isA && x.b.isIn [.scal, .const] && x.c.isOff
  | .btest _ x => x.d.isP && x.a.isA && x.b.isIn [.scal, .const] && x.c.isOff
  | .seal _ x => x.d.isIn [.scal, .zero] && x.a.unused && x.b.unused && x.c.unused
  | .waitb _ x => x.d.unused && x.a.unused && x.b.isU && x.c.unused
  | .tclook _ x => x.d.isIn [.scal] && x.a.isKey && x.b.unused && x.c.unused
  | .tcpref _ x => x.d.unused && x.a.isKey && x.b.isU && x.c.unused
  | .tchalo _ _ x => x.d.isA && x.a.isKey && x.b.isU && x.c.isBar
  | .tcinv _ _ x | .tcwb _ _ x => x.d.unused && x.a.isU && x.b.unused && x.c.isBar
  | .mxpost _ x => x.d.isIn [.scal, .zero] && x.a.isA && x.b.unused && x.c.isOff
  | .mxwait _ x | .mxqry _ x => x.d.isIn [.scal, .zero] && x.a.unused && x.b.isU && x.c.unused
  | .mxcan _ x => x.d.isIn [.pred, .zero] && x.a.unused && x.b.isU && x.c.unused
  | .gset _ clr _ x => x.d.unused && (if clr then x.a.unused else x.a.isP) && x.b.unused && x.c.unused
  | .slabld _ _ x => x.d.isIn [.scal] && x.a.isA && x.b.isU && x.c.isBar
  | .slabfree _ x | .tmapclr _ x | .spaton _ x => x.d.unused && x.a.unused && x.b.isU && x.c.unused
  | .spxs _ _ x => x.d.isA && x.a.isIn [.vec] && x.b.isU && x.c.unused
  | .shpq _ x => x.d.isIn [.scal] && x.a.unused && x.b.isSel 5 && x.c.unused
  | .shpwait _ x | .rte _ x | .park _ x => x.d.unused && x.a.unused && x.b.unused && x.c.unused
  | .shpset _ _ x | .tmapset _ x => x.d.unused && x.a.isA && x.b.isU && x.c.isOff
  | .send _ x => x.d.isIn [.queue] && x.a.isIn [.vec, .queue, .simm] && x.b.isSel 31 && x.c.unused
  | .strld _ g x =>
    x.d.isIn [.vec, .queue] && (if g then x.a.isIn [.vec, .queue] else x.a.unused) && x.b.isSel 15 &&
      x.c.isIn [.queue, .zero]
  | .strst _ x => x.d.unused && x.a.isIn [.vec, .queue, .simm] && x.b.isSel 15 && x.c.isIn [.queue]
  | .gtok _ x => x.d.isIn [.queue] && x.a.isP && x.b.unused && x.c.unused
  | .dropt _ x => x.d.unused && x.a.isIn [.queue] && x.b.unused && x.c.unused
  | .toki _ x => x.d.unused && x.a.isU && x.b.isU && x.c.unused
  | .spatq _ x => x.d.isIn [.scal] && x.a.unused && x.b.isSel 4 && x.c.unused
  | .spexit _ x => x.d.unused && x.a.isIn [.vec, .queue, .simm, .zero] && x.b.unused && x.c.unused
  | .trap _ x | .bkpt _ x => x.d.unused && x.a.unused && x.b.isU && x.c.unused
  | .sread _ x =>
    x.a.cls == .sreg && x.b.unused && x.c.unused && match sregWide x.a.idx with
      | none => false
      | some true => x.d.isIn [.pair, .scal] && x.d.evenOk
      | some false => x.d.isIn [.vec, .scal, .pair]
  | .swrite _ x =>
    x.d.cls == .sreg && decide (11 ≤ x.d.idx.toNat) && x.b.unused && x.c.unused && match sregWide x.d.idx with
      | none => false
      | some w => x.a.isIn [.scal, .simm] && (!w || x.a.evenOk)
  | .hrec _ x => x.d.isIn [.scal] && x.a.unused && x.b.isSel 2 && (x.b.idx != 0 || x.d.evenOk) && x.c.unused
  | .hrecW _ x => x.d.unused && x.a.isIn [.scal] && x.b.isSel 2 && (x.b.idx != 0 || x.a.evenOk) && x.c.unused
  | .pmap _ x => x.d.isIn [.scal] && x.a.isA && x.b.isSel 2 && x.c.unused
  | .tlbinv _ f x =>
    x.d.unused && x.c.unused && match f with
      | .range => x.a.isA && x.b.isIn [.scal, .const]
      | .ctx => x.a.unused && x.b.isU
      | .all => x.a.unused && x.b.unused
  | .icinv _ all x =>
    x.d.unused && x.c.unused && if all then x.a.unused && x.b.unused else x.a.isA && x.b.isIn [.scal, .const]
  | .perf _ x => x.d.isIn [.pair, .scal] && x.d.evenOk && x.a.unused && x.b.cls == .simm && x.c.unused
  | .svcrmwLock _ w x | .svcrmwUnlock _ w x =>
    (if w then x.d.isIn [.pair] else x.d.isIn [.vec]) && x.a.isA && x.b.isIdx && x.c.unused
  | .svcret _ x => x.d.unused && x.a.isIn [.vec, .pair] && x.b.isIn [.vec] && x.c.unused
  | _ => true
where
  /-- The options of LREDUCE and LSCAN in C: [0] .ftz for floating types, [1] .sat for an integer sum (R94). -/
  redOptOk (m : RedMod) (c : Opnd) : Bool :=
    c.unused || (c.isSel 3 && (c.idx.getLsbD 0 → m.ty.isFloat) && (c.idx.getLsbD 1 → (!m.ty.isFloat && m.red == .add)))

/-- A hint-region word is held by the constructor whose entry defines its fields (R33, R197). -/
def hprefFields (r : HintRaw) : Bool := r.mod == 0 || r.mod == 32
/-- B is class 0x7 with INDEX 0 to 3, and every other field is as an unused one (R27, R197). -/
def hprioFields (r : HintRaw) : Bool :=
  r.mod == 0 && (r.low.extractLsb' 18 14).toNat == 0x1C00 && r.low.extractLsb' 32 32 == 0xF000F000 && r.low.extractLsb' 0 16 == 0xF000

/-- The conditions that make the constructor the one the decoder gives. -/
def Instr.hintOk : Instr → Bool
  | .hprio _ r => hprioFields r
  | .hpref _ r => hprefFields r
  | .hintRegionNop _ op r =>
    match op.toNat with
    | 0 => !hprefFields r
    | 1 => !hprioFields r
    | 2 => false
    | _ => true
  | _ => true

/-- Well-formed: accepted by the checks of decode steps 3 and 4 that the word alone decides. -/
def Instr.wf (i : Instr) : Bool := i.modOk && i.opsOk && i.hintOk

end Sys2Proof
end

