-- ==== Sys2Proof/Decode.lean ====
section
/-! DEFINITION. Decoding: bit fields, sign extension and byte order; the 96-bit instruction word (R13 to R33, R87 to
R214), queue-program words (R395 to R399) and packets (R383, R386); and after them the encoders, written from the same
tables. Decoding is total: every word gives an instruction or an error that names its trap. -/

namespace Sys2Proof

/-! ### Bit fields and byte order -/

/-- Field of `n` bits at `lo` of a number. -/
def bitsAt (x lo n : Nat) : Nat := x / 2 ^ lo % 2 ^ n
/-- A field as an integer in two's complement. -/
def sext (w x : Nat) : Int := if x % 2 ^ w < 2 ^ (w - 1) then (x % 2 ^ w : Int) else (x % 2 ^ w : Int) - 2 ^ w
/-- `n` bytes of a number, lowest first (R9). -/
def toBytesLE : Nat → Nat → List Byte
  | 0, _ => []
  | n + 1, x => BitVec.ofNat 8 (x % 256) :: toBytesLE n (x / 256)
/-- A number from bytes, lowest first (R9). -/
def ofBytesLE : List Byte → Nat
  | [] => 0
  | b :: bs => b.toNat + 256 * ofBytesLE bs

/-! ### The fields of the instruction word -/

/-- The word cut into OP, MOD, header and the four 16-bit fields D, A, [31:16] and [15:0] (R16). -/
structure Raw where
  op : BitVec 8
  mod : BitVec 8
  hd : BitVec 16
  d : BitVec 16
  a : BitVec 16
  b : BitVec 16
  c : BitVec 16
  deriving DecidableEq, Repr

/-- The fields of a word (R16). -/
def Raw.ofSlot (w : Slot) : Raw :=
  ⟨w.extractLsb' 88 8, w.extractLsb' 80 8, w.extractLsb' 64 16, w.extractLsb' 48 16, w.extractLsb' 32 16,
    w.extractLsb' 16 16, w.extractLsb' 0 16⟩
/-- The word with these fields (R16). -/
def Raw.toSlot (r : Raw) : Slot := r.op ++ r.mod ++ r.hd ++ r.d ++ r.a ++ r.b ++ r.c

/-- Header fields (R16). -/
def Hd.ofBits (x : BitVec 16) : Hd :=
  ⟨x.extractLsb' 12 4, x.getLsbD 11, x.extractLsb' 7 4, x.getLsbD 6, x.extractLsb' 3 3, x.extractLsb' 0 3⟩
/-- Header bits (R16). -/
def Hd.toBits (h : Hd) : BitVec 16 :=
  h.gp ++ BitVec.ofBool h.gn ++ h.stall ++ BitVec.ofBool h.yld ++ h.reuse ++ h.hint

/-- Operand class code (R23); 0xC to 0xE name none. -/
def Cls.ofCode (x : BitVec 4) : Option Cls :=
  match x.toNat with
  | 0 => some .vec | 1 => some .scal | 2 => some .pred | 3 => some .addr | 4 => some .acc | 5 => some .queue
  | 6 => some .const | 7 => some .simm | 8 => some .sreg | 9 => some .fslot | 10 => some .pair | 11 => some .quad
  | 15 => some .zero | _ => none
/-- Code of an operand class (R23). -/
def Cls.code : Cls → BitVec 4
  | .vec => 0 | .scal => 1 | .pred => 2 | .addr => 3 | .acc => 4 | .queue => 5 | .const => 6 | .simm => 7
  | .sreg => 8 | .fslot => 9 | .pair => 10 | .quad => 11 | .zero => 15

/-- An operand field (R22); none for a reserved class. -/
def Opnd.ofField (x : BitVec 16) : Option Opnd := (Cls.ofCode (x.extractLsb' 12 4)).map (⟨·, x.extractLsb' 0 12⟩)
/-- The field of an operand (R22). -/
def Opnd.toField (o : Opnd) : BitVec 16 := o.cls.code ++ o.idx

/-- Every field is one of a defined class. -/
def fieldsOk : List (BitVec 16) → Bool
  | [] => true
  | f :: fs => (Opnd.ofField f).isSome && fieldsOk fs
/-- The operand of a field, the zero operand where the class is reserved (and `fieldsOk` is false). -/
def Opnd.get (x : BitVec 16) : Opnd := (Opnd.ofField x).getD Opnd.z

/-- BC as one 32-bit word. -/
def Raw.bcWord (r : Raw) : Word := r.b ++ r.c
/-- The four operand fields. -/
def Raw.ops4 (r : Raw) : Ops4 := ⟨.get r.d, .get r.a, .get r.b, .get r.c⟩
/-- The operands, with an immediate word where `imm` (R26). -/
def Raw.args (r : Raw) (imm : Bool) : Args :=
  ⟨.get r.d, .get r.a, if imm then .imm r.bcWord else .ops (.get r.b) (.get r.c)⟩
/-- All four fields are of defined classes. -/
def Raw.ok4 (r : Raw) : Bool := fieldsOk [r.d, r.a, r.b, r.c]
/-- The operand fields that are not part of an immediate word are of defined classes. -/
def Raw.okArgs (r : Raw) (imm : Bool) : Bool := if imm then fieldsOk [r.d, r.a] else r.ok4
/-- The zero operand's field 0xF000. -/
def zf : BitVec 16 := 0xF000
/-- All four fields are 0xF000. -/
def Raw.allZ (r : Raw) : Bool := r.d == zf && r.a == zf && r.b == zf && r.c == zf

/-! ### Codes of modifier fields -/

/-- Code of a `IType`. -/
def IType.code : IType → BitVec 3
  | .i32 => 0 | .n32 => 1 | .i64 => 2 | .n64 => 3 | .i16x2 => 4 | .n16x2 => 5 | .i8x4 => 6 | .n8x4 => 7
/-- The `IType` of a code. -/
def IType.ofCode (x : BitVec 3) : IType :=
  match x.toNat with
  | 0 => .i32 | 1 => .n32 | 2 => .i64 | 3 => .n64 | 4 => .i16x2 | 5 => .n16x2 | 6 => .i8x4 | _ => .n8x4
/-- Code of a `FType`. -/
def FType.code : FType → BitVec 2
  | .f32 => 0 | .f16x2 => 1 | .bf16x2 => 2 | .f64 => 3
/-- The `FType` of a code. -/
def FType.ofCode (x : BitVec 2) : FType :=
  match x.toNat with
  | 0 => .f32 | 1 => .f16x2 | 2 => .bf16x2 | _ => .f64
/-- Code of a `Rnd`. -/
def Rnd.code : Rnd → BitVec 2
  | .rn => 0 | .rz => 1 | .ru => 2 | .rd => 3
/-- The `Rnd` of a code. -/
def Rnd.ofCode (x : BitVec 2) : Rnd :=
  match x.toNat with
  | 0 => .rn | 1 => .rz | 2 => .ru | _ => .rd
/-- Code of a `Fmt`. -/
def Fmt.code : Fmt → BitVec 4
  | .f32 => 0 | .f16 => 1 | .bf16 => 2 | .f64 => 3 | .e4m3 => 4 | .e5m2 => 5 | .e2m3 => 6 | .e3m2 => 7 | .e2m1 => 8 | .i32 => 9 | .n32 => 10 | .i64 => 11 | .i16 => 12 | .i8 => 13 | .n8 => 14 | .slot => 15
/-- The `Fmt` of a code. -/
def Fmt.ofCode (x : BitVec 4) : Fmt :=
  match x.toNat with
  | 0 => .f32 | 1 => .f16 | 2 => .bf16 | 3 => .f64 | 4 => .e4m3 | 5 => .e5m2 | 6 => .e2m3 | 7 => .e3m2 | 8 => .e2m1 | 9 => .i32 | 10 => .n32 | 11 => .i64 | 12 => .i16 | 13 => .i8 | 14 => .n8 | _ => .slot
/-- Code of a `Size`. -/
def Size.code : Size → BitVec 3
  | .b8 => 0 | .b16 => 1 | .b32 => 2 | .b64 => 3 | .b128 => 4
/-- The `Size` of a code. -/
def Size.ofCode (x : BitVec 3) : Option Size :=
  match x.toNat with
  | 0 => some .b8 | 1 => some .b16 | 2 => some .b32 | 3 => some .b64 | 4 => some .b128 | _ => none
/-- Code of a `Scope`. -/
def Scope.code : Scope → BitVec 3
  | .grp => 0 | .unit => 1 | .clu => 2 | .dev => 3 | .sys => 4
/-- The `Scope` of a code. -/
def Scope.ofCode (x : BitVec 3) : Option Scope :=
  match x.toNat with
  | 0 => some .grp | 1 => some .unit | 2 => some .clu | 3 => some .dev | 4 => some .sys | _ => none
/-- Code of a `Ord`. -/
def Ord.code : Ord → BitVec 2
  | .rlx => 0 | .half => 1 | .acqrel => 2 | .sc => 3
/-- The `Ord` of a code. -/
def Ord.ofCode (x : BitVec 2) : Ord :=
  match x.toNat with
  | 0 => .rlx | 1 => .half | 2 => .acqrel | _ => .sc
/-- Code of a `ICmp`. -/
def ICmp.code : ICmp → BitVec 3
  | .eq => 0 | .ne => 1 | .lt => 2 | .le => 3 | .gt => 4 | .ge => 5
/-- The `ICmp` of a code. -/
def ICmp.ofCode (x : BitVec 3) : Option ICmp :=
  match x.toNat with
  | 0 => some .eq | 1 => some .ne | 2 => some .lt | 3 => some .le | 4 => some .gt | 5 => some .ge | _ => none
/-- Code of a `FCmp`. -/
def FCmp.code : FCmp → BitVec 4
  | .eq => 0 | .ne => 1 | .lt => 2 | .le => 3 | .gt => 4 | .ge => 5 | .equ => 6 | .neu => 7 | .ltu => 8 | .leu => 9 | .gtu => 10 | .geu => 11 | .num => 12 | .nan => 13
/-- The `FCmp` of a code. -/
def FCmp.ofCode (x : BitVec 4) : Option FCmp :=
  match x.toNat with
  | 0 => some .eq | 1 => some .ne | 2 => some .lt | 3 => some .le | 4 => some .gt | 5 => some .ge | 6 => some .equ | 7 => some .neu | 8 => some .ltu | 9 => some .leu | 10 => some .gtu | 11 => some .geu | 12 => some .num | 13 => some .nan | _ => none
/-- Code of a `WType`. -/
def WType.code : WType → BitVec 3
  | .i32 => 0 | .n32 => 1 | .i64 => 2 | .n64 => 3
/-- The `WType` of a code. -/
def WType.ofCode (x : BitVec 3) : Option WType :=
  match x.toNat with
  | 0 => some .i32 | 1 => some .n32 | 2 => some .i64 | 3 => some .n64 | _ => none
/-- Code of a `VoteMode`. -/
def VoteMode.code : VoteMode → BitVec 2
  | .all => 0 | .any => 1 | .uni => 2 | .ballot => 3
/-- The `VoteMode` of a code. -/
def VoteMode.ofCode (x : BitVec 2) : VoteMode :=
  match x.toNat with
  | 0 => .all | 1 => .any | 2 => .uni | _ => .ballot
/-- Code of a `XMode`. -/
def XMode.code : XMode → BitVec 2
  | .idx => 0 | .up => 1 | .down => 2 | .xor => 3
/-- The `XMode` of a code. -/
def XMode.ofCode (x : BitVec 2) : XMode :=
  match x.toNat with
  | 0 => .idx | 1 => .up | 2 => .down | _ => .xor
/-- Code of a `RedOp`. -/
def RedOp.code : RedOp → BitVec 3
  | .add => 0 | .min => 1 | .max => 2 | .and => 3 | .or => 4 | .xor => 5
/-- The `RedOp` of a code. -/
def RedOp.ofCode (x : BitVec 3) : Option RedOp :=
  match x.toNat with
  | 0 => some .add | 1 => some .min | 2 => some .max | 3 => some .and | 4 => some .or | 5 => some .xor | _ => none
/-- Code of a `RType`. -/
def RType.code : RType → BitVec 3
  | .i32 => 0 | .n32 => 1 | .i64 => 2 | .n64 => 3 | .f32 => 4 | .f64 => 5
/-- The `RType` of a code. -/
def RType.ofCode (x : BitVec 3) : Option RType :=
  match x.toNat with
  | 0 => some .i32 | 1 => some .n32 | 2 => some .i64 | 3 => some .n64 | 4 => some .f32 | 5 => some .f64 | _ => none
/-- Code of a `WCmp`. -/
def WCmp.code : WCmp → BitVec 3
  | .eq => 0 | .ne => 1 | .lt => 2 | .ge => 3 | .ltu => 4 | .geu => 5 | .any => 6
/-- The `WCmp` of a code. -/
def WCmp.ofCode (x : BitVec 3) : Option WCmp :=
  match x.toNat with
  | 0 => some .eq | 1 => some .ne | 2 => some .lt | 3 => some .ge | 4 => some .ltu | 5 => some .geu | 6 => some .any | _ => none
/-- Code of a `CctlOp`. -/
def CctlOp.code : CctlOp → BitVec 3
  | .l1inv => 0 | .l1all => 1 | .wb => 2 | .wbinv => 3
/-- The `CctlOp` of a code. -/
def CctlOp.ofCode (x : BitVec 3) : Option CctlOp :=
  match x.toNat with
  | 0 => some .l1inv | 1 => some .l1all | 2 => some .wb | 3 => some .wbinv | _ => none
/-- Code of a `TlbForm`. -/
def TlbForm.code : TlbForm → BitVec 2
  | .range => 0 | .ctx => 1 | .all => 2
/-- The `TlbForm` of a code. -/
def TlbForm.ofCode (x : BitVec 2) : Option TlbForm :=
  match x.toNat with
  | 0 => some .range | 1 => some .ctx | 2 => some .all | _ => none

/-- MOD of the integer family (R28): the fields and the IMM bit. -/
def IntMod.ofBits (m : BitVec 8) : IntMod := ⟨.ofCode (m.extractLsb' 4 3), m.getLsbD 3, m.extractLsb' 0 3⟩
/-- MOD of the integer family (R28). -/
def IntMod.toBits (m : IntMod) (imm : Bool) : BitVec 8 := BitVec.ofBool imm ++ m.ty.code ++ BitVec.ofBool m.sat ++ m.var
/-- MOD of the floating-point family (R28). -/
def FpMod.ofBits (m : BitVec 8) : FpMod :=
  ⟨.ofCode (m.extractLsb' 5 2), .ofCode (m.extractLsb' 3 2), m.getLsbD 2, m.getLsbD 1, m.getLsbD 0⟩
/-- MOD of the floating-point family (R28). -/
def FpMod.toBits (m : FpMod) (imm : Bool) : BitVec 8 :=
  BitVec.ofBool imm ++ m.ty.code ++ m.rnd.code ++ BitVec.ofBool m.ftz ++ BitVec.ofBool m.nega ++ BitVec.ofBool m.negb
/-- MOD and immediate word of a conversion (R29); none where a reserved bit is set. -/
def CvtMod.ofBits (m : BitVec 8) (b c : BitVec 16) : Option CvtMod :=
  if b == 0 && c.extractLsb' 7 9 == 0 then
    some ⟨.ofCode (m.extractLsb' 4 4), .ofCode (m.extractLsb' 0 4), c.extractLsb' 4 3, c.getLsbD 3, c.getLsbD 2,
      .ofCode (c.extractLsb' 0 2)⟩
  else none
/-- MOD of a conversion (R29). -/
def CvtMod.toMod (m : CvtMod) : BitVec 8 := m.dst.code ++ m.src.code
/-- Low half of the immediate word of a conversion (R29). -/
def CvtMod.toLow (m : CvtMod) : BitVec 16 :=
  (0 : BitVec 9) ++ m.slot ++ BitVec.ofBool m.stoch ++ BitVec.ofBool m.sat ++ m.rnd.code
/-- MOD of the memory family (R30). -/
def MemMod.ofBits (m : BitVec 8) : Option MemMod := do
  let sz ← Size.ofCode (m.extractLsb' 5 3)
  let sc ← Scope.ofCode (m.extractLsb' 2 3)
  pure ⟨sz, sc, .ofCode (m.extractLsb' 0 2)⟩
/-- MOD of the memory family (R30). -/
def MemMod.toBits (m : MemMod) : BitVec 8 := m.size.code ++ m.scope.code ++ m.ord.code
/-- MOD of the copy family (R137). -/
def CopyMod.ofBits (m : BitVec 8) : CopyMod := ⟨m.extractLsb' 5 3, m.getLsbD 4, m.extractLsb' 0 4⟩
/-- MOD of the copy family (R137). -/
def CopyMod.toBits (m : CopyMod) : BitVec 8 := m.sub ++ BitVec.ofBool m.gd ++ m.gslot
/-- MOD of LREDUCE and LSCAN (R94). -/
def RedMod.ofBits (m : BitVec 8) : Option RedMod := do
  let r ← RedOp.ofCode (m.extractLsb' 5 3)
  let t ← RType.ofCode (m.extractLsb' 2 3)
  pure ⟨r, t, .ofCode (m.extractLsb' 0 2)⟩
/-- MOD of LREDUCE and LSCAN (R94). -/
def RedMod.toBits (m : RedMod) : BitVec 8 := m.red.code ++ m.ty.code ++ m.rnd.code
/-- MOD of WAITC (R130). -/
def WaitMod.ofBits (m : BitVec 8) : Option WaitMod := do
  let c ← WCmp.ofCode (m.extractLsb' 3 3)
  if m.getLsbD 7 || m.getLsbD 1 then none else pure ⟨m.getLsbD 6, c, m.getLsbD 2, m.getLsbD 0⟩
/-- MOD of WAITC (R130). -/
def WaitMod.toBits (m : WaitMod) : BitVec 8 :=
  (0 : BitVec 1) ++ BitVec.ofBool m.b64 ++ m.cmp.code ++ BitVec.ofBool m.sys ++ (0 : BitVec 1) ++ BitVec.ofBool m.acq
/-- MOD of SPXS (R178). -/
def SpxsMod.ofBits (m : BitVec 8) : Option SpxsMod :=
  if m.extractLsb' 3 5 == 0 then some ⟨m.getLsbD 2, m.getLsbD 1, m.getLsbD 0⟩ else none
/-- MOD of SPXS (R178). -/
def SpxsMod.toBits (m : SpxsMod) : BitVec 8 := (0 : BitVec 5) ++ BitVec.ofBool m.s1 ++ BitVec.ofBool m.s0 ++ BitVec.ofBool m.e8
/-- The fields of a hint-region word below OP and header (R33). -/
def Raw.hint (r : Raw) : HintRaw := ⟨r.mod, r.d ++ r.a ++ r.b ++ r.c⟩

/-! ### The opcode map (R31) -/

/-- An instruction read from a word, and whether the operand fields it uses hold defined classes and the fields it does
not name hold 0xF000 (R64). -/
structure Cand where
  i : Instr
  ok : Bool

/-- Form of a FENCE by SIZE and ORD (R120). -/
def FenceKind.ofSizeOrd (size : BitVec 3) (ord : BitVec 2) : Option FenceKind :=
  match size.toNat, ord.toNat with
  | 0, 1 => some .acq | 1, 1 => some .rel | 0, 2 => some .acqrel | 0, 3 => some .sc | _, _ => none
/-- SIZE and ORD of a form of FENCE (R120). -/
def FenceKind.toMod (k : FenceKind) (sc : Scope) : BitVec 8 :=
  match k with
  | .acq => (0 : BitVec 3) ++ sc.code ++ (1 : BitVec 2)
  | .rel => (1 : BitVec 3) ++ sc.code ++ (1 : BitVec 2)
  | .acqrel => (0 : BitVec 3) ++ sc.code ++ (2 : BitVec 2)
  | .sc => (0 : BitVec 3) ++ sc.code ++ (3 : BitVec 2)

/-- FENCE (R120). -/
def candFence (r : Raw) (h : Hd) : Option Cand :=
  if r.mod == 0x80 then some ⟨.fenceAsync h, r.allZ⟩
  else
    (FenceKind.ofSizeOrd (r.mod.extractLsb' 5 3) (r.mod.extractLsb' 0 2)).bind fun k =>
      (Scope.ofCode (r.mod.extractLsb' 2 3)).map fun sc => ⟨.fence h k sc, r.allZ⟩

/-- Integer family (R31). -/
def candInt (r : Raw) : Option Cand :=
  let h := Hd.ofBits r.hd
  let m := IntMod.ofBits r.mod
  let x := r.args (r.mod.getLsbD 7)
  let ok := r.okArgs (r.mod.getLsbD 7)
  match r.op.toNat with
  | 0x01 => some ⟨.add h m x, ok⟩
  | 0x02 => some ⟨.sub h m x, ok⟩
  | 0x03 => some ⟨.mul h m x, ok⟩
  | 0x04 => some ⟨.mulh h m x, ok⟩
  | 0x05 => some ⟨.mad h m x, ok⟩
  | 0x06 => some ⟨.madw h m x, ok⟩
  | 0x07 => some ⟨.div h m x, ok⟩
  | 0x08 => some ⟨.rem h m x, ok⟩
  | 0x09 => some ⟨.abs h m x, ok⟩
  | 0x0A => some ⟨.neg h m x, ok⟩
  | 0x0B => some ⟨.min h m x, ok⟩
  | 0x0C => some ⟨.max h m x, ok⟩
  | 0x0D => some ⟨.and h m x, ok⟩
  | 0x0E => some ⟨.or h m x, ok⟩
  | 0x0F => some ⟨.xor h m x, ok⟩
  | 0x10 => some ⟨.not h m x, ok⟩
  | 0x11 => some ⟨.shl h m x, ok⟩
  | 0x12 => some ⟨.shr h m x, ok⟩
  | 0x13 => some ⟨.sar h m x, ok⟩
  | 0x14 => some ⟨.rot h m x, ok⟩
  | 0x15 => some ⟨.bfx h m x, ok⟩
  | 0x16 => some ⟨.bfi h m x, ok⟩
  | 0x17 => some ⟨.popc h m x, ok⟩
  | 0x18 => some ⟨.clz h m x, ok⟩
  | 0x19 => some ⟨.brev h m x, ok⟩
  | 0x1A => some ⟨.blut h m x, ok⟩
  | 0x1B => some ⟨.sel h m x, ok⟩
  | 0x1C => some ⟨.mov h m x, ok⟩
  | 0x1D => some ⟨.movi h m x, ok⟩
  | 0x1E => some ⟨.bperm h m x, ok⟩
  | 0x1F => some ⟨.addc h m x, ok⟩
  | 0x20 => some ⟨.subb h m x, ok⟩
  | 0x21 => some ⟨.aadd h m x, ok⟩
  | 0x22 => some ⟨.amad h m x, ok⟩
  | 0x23 => some ⟨.amov h m x, ok⟩
  | 0x24 => some ⟨.aget h m x, ok⟩
  | 0x25 => some ⟨.lea h m x, ok⟩
  | 0x30 => some ⟨.dp4 h m x, ok⟩
  | 0x31 => some ⟨.dp2 h m x, ok⟩
  | 0x32 => some ⟨.sad h m x, ok⟩
  | _ => none

/-- Floating-point family (R31). -/
def candFp (r : Raw) : Option Cand :=
  let h := Hd.ofBits r.hd
  let m := FpMod.ofBits r.mod
  let x := r.args (r.mod.getLsbD 7)
  let ok := r.okArgs (r.mod.getLsbD 7)
  match r.op.toNat with
  | 0x40 => some ⟨.fadd h m x, ok⟩
  | 0x41 => some ⟨.fsub h m x, ok⟩
  | 0x42 => some ⟨.fmul h m x, ok⟩
  | 0x43 => some ⟨.ffma h m x, ok⟩
  | 0x44 => some ⟨.fmin h m x, ok⟩
  | 0x45 => some ⟨.fmax h m x, ok⟩
  | 0x46 => some ⟨.frcp h m x, ok⟩
  | 0x47 => some ⟨.frsq h m x, ok⟩
  | 0x48 => some ⟨.fsqrt h m x, ok⟩
  | 0x49 => some ⟨.fdiv h m x, ok⟩
  | 0x4A => some ⟨.fex2 h m x, ok⟩
  | 0x4B => some ⟨.flg2 h m x, ok⟩
  | 0x4C => some ⟨.fsin h m x, ok⟩
  | 0x4D => some ⟨.fcos h m x, ok⟩
  | 0x4E => some ⟨.ftanh h m x, ok⟩
  | 0x4F => some ⟨.fsigm h m x, ok⟩
  | 0x50 => some ⟨.fdot2 h m x, ok⟩
  | 0x51 => some ⟨.fdot4 h m x, ok⟩
  | _ => none

/-- Conversion family (R31). -/
def candCvt (r : Raw) : Option Cand :=
  let h := Hd.ofBits r.hd
  let ok := fieldsOk [r.d, r.a]
  (CvtMod.ofBits r.mod r.b r.c).bind fun m =>
  match r.op.toNat with
  | 0x58 => some ⟨.cvt h m (.get r.d) (.get r.a), ok⟩
  | 0x59 => some ⟨.cvts h m (.get r.d) (.get r.a), ok⟩
  | 0x5A => some ⟨.bfpk h m (.get r.d) (.get r.a), ok⟩
  | 0x5B => some ⟨.bfpx h m (.get r.d) (.get r.a), ok⟩
  | 0x5C => some ⟨.qscl h m (.get r.d) (.get r.a), ok⟩
  | _ => none

/-- Compares, predicates and lane exchange (R31). -/
def candLane (r : Raw) : Option Cand :=
  let h := Hd.ofBits r.hd
  let x := r.ops4
  let ok := r.ok4
  match r.op.toNat with
  | 0x80 => if r.mod.getLsbD 7 then none else
      (WType.ofCode (r.mod.extractLsb' 4 3)).bind fun t => (ICmp.ofCode (r.mod.extractLsb' 0 3)).map fun c => ⟨.itest h t (r.mod.getLsbD 3) c x, ok⟩
  | 0x81 => if r.mod.getLsbD 7 || r.mod.getLsbD 6 != r.mod.getLsbD 5 then none else
      (FCmp.ofCode (r.mod.extractLsb' 0 4)).map fun c => ⟨.ftest h (r.mod.getLsbD 6) (r.mod.getLsbD 4) c x, ok⟩
  | 0x82 => some ⟨.plut h r.mod x, ok⟩
  | 0x83 => if r.mod == 0 then some ⟨.pmovPack h x, ok⟩ else if r.mod == 1 then some ⟨.pmovUnpack h x, ok⟩ else none
  | 0x84 => if r.mod.extractLsb' 2 6 == 0 then some ⟨.vote h (.ofCode (r.mod.extractLsb' 0 2)) x, ok⟩ else none
  | 0x85 => if r.mod.extractLsb' 1 7 == 0 then some ⟨.matchLanes h (r.mod.getLsbD 0) x, ok⟩ else none
  | 0x86 =>
    if r.mod.extractLsb' 3 5 == 0 then some ⟨.xlane h (r.mod.getLsbD 2) (.ofCode (r.mod.extractLsb' 0 2)) x, ok⟩ else none
  | 0x87 => (RedMod.ofBits r.mod).map fun m => ⟨.lreduce h m x, ok⟩
  | 0x88 => (RedMod.ofBits r.mod).map fun m => ⟨.lscan h m x, ok⟩
  | 0x89 => if r.mod == 0 then some ⟨.bcast h x, ok⟩ else none
  | 0x8A => if r.mod == 0 then some ⟨.smov h x, ok⟩ else none
  | _ => none

/-- Control (R31). -/
def candCtl (r : Raw) : Option Cand :=
  let h := Hd.ofBits r.hd
  let x := r.ops4
  let ok := r.ok4
  match r.op.toNat with
  | 0x90 => if r.mod == 0 then some ⟨.bra h r.a r.bcWord, r.d == zf⟩ else none
  | 0x91 => if r.mod == 0 then some ⟨.brx h (.get r.a) r.bcWord, r.d == zf && fieldsOk [r.a]⟩ else none
  | 0x92 => if r.mod == 0 then some ⟨.join h, r.allZ⟩ else none
  | 0x93 => if r.mod.extractLsb' 1 7 == 0 then
        some ⟨.call h (r.mod.getLsbD 0) (.get r.d) (.get r.a) r.bcWord, fieldsOk [r.d, r.a]⟩ else none
  | 0x94 => if r.mod == 0 then some ⟨.ret h x, ok⟩ else none
  | 0x95 => if r.mod == 0 then some ⟨.exit h, r.allZ⟩ else none
  | 0x96 => if r.mod == 0 then some ⟨.loop h (.get r.d) r.bcWord, r.a == zf && fieldsOk [r.d]⟩ else none
  | 0x97 => if r.mod == 0 then some ⟨.barSync h, r.allZ⟩ else if r.mod == 1 then some ⟨.barArrive h, r.allZ⟩ else none
  | 0x98 => if r.mod == 0 then some ⟨.yield h, r.allZ⟩ else none
  | 0x99 => if r.mod == 0 then some ⟨.nop h, r.allZ⟩ else none
  | 0x9A => if r.mod == 0 then some ⟨.sleep h x, ok⟩ else none
  | 0x9B => if r.mod == 0 then some ⟨.gsync h, r.allZ⟩ else none
  | _ => none

/-- Memory family (R31). -/
def candMem (r : Raw) : Option Cand :=
  let h := Hd.ofBits r.hd
  let x := r.ops4
  let ok := r.ok4
  let mm := MemMod.ofBits r.mod
  match r.op.toNat with
  | 0xA0 => mm.map fun m => ⟨.ld h m x, ok⟩
  | 0xA1 => mm.map fun m => ⟨.st h m x, ok⟩
  | 0xA2 => mm.map fun m => ⟨.lds h m x, ok⟩
  | 0xA3 => mm.map fun m => ⟨.sts h m x, ok⟩
  | 0xA4 => mm.map fun m => ⟨.ldc h m x, ok⟩
  | 0xA5 => mm.map fun m => ⟨.ldx h m x, ok⟩
  | 0xA6 => mm.map fun m => ⟨.stx h m x, ok⟩
  | 0xA7 => mm.map fun m => ⟨.ldm h m x, ok⟩
  | 0xA8 => mm.map fun m => ⟨.stm h m x, ok⟩
  | 0xA9 => candFence r h
  | 0xAA => mm.map fun m => ⟨.atom h m x, ok⟩
  | 0xAB => mm.map fun m => ⟨.red h m x, ok⟩
  | 0xAC => mm.map fun m => ⟨.cas h m x, ok⟩
  | 0xAD => mm.map fun m => ⟨.atomx h m x, ok⟩
  | 0xAE => mm.map fun m => ⟨.atoms h m x, ok⟩
  | 0xAF => mm.map fun m => ⟨.cass h m x, ok⟩
  | 0xB0 => (WaitMod.ofBits r.mod).map fun m => ⟨.waitc h m x, ok⟩
  | 0xB1 =>
    if r.mod.extractLsb' 0 5 == 0 then (CctlOp.ofCode (r.mod.extractLsb' 5 3)).map fun c => ⟨.cctl h c x, ok⟩ else none
  | 0xB2 => if r.mod == 0 then some ⟨.pref h false x, ok⟩ else if r.mod == 0x20 then some ⟨.pref h true x, ok⟩ else none
  | _ => none

/-- Copies, barrier objects, batches, tile cache (R31). -/
def candAsync (r : Raw) : Option Cand :=
  let h := Hd.ofBits r.hd
  let x := r.ops4
  let ok := r.ok4
  match r.op.toNat with
  | 0xC0 => some ⟨.cpy h (.ofBits r.mod) x, ok⟩
  | 0xC1 => some ⟨.cpyt h (.ofBits r.mod) x, ok⟩
  | 0xC2 => some ⟨.cpyg h (.ofBits r.mod) x, ok⟩
  | 0xC3 => some ⟨.cpys h (.ofBits r.mod) x, ok⟩
  | 0xC4 => if r.mod == 0 then some ⟨.binit h x, ok⟩ else none
  | 0xC5 => if r.mod == 0 then some ⟨.bexp h x, ok⟩ else none
  | 0xC6 => if r.mod.extractLsb' 1 7 == 0 then some ⟨.barrive h (r.mod.getLsbD 0) x, ok⟩ else none
  | 0xC7 => if r.mod == 0 then some ⟨.bwait h x, ok⟩ else none
  | 0xC8 => if r.mod == 0 then some ⟨.btest h x, ok⟩ else none
  | 0xC9 => if r.mod == 0 then some ⟨.seal h x, ok⟩ else none
  | 0xCA => if r.mod == 0 then some ⟨.waitb h x, ok⟩ else none
  | 0xCB => if r.mod == 0 then some ⟨.tclook h x, ok⟩ else none
  | 0xCC => if r.mod == 0 then some ⟨.tcpref h x, ok⟩ else none
  | 0xCD => some ⟨.tchalo h (.ofBits r.mod) x, ok⟩
  | 0xCE => some ⟨.tcinv h (.ofBits r.mod) x, ok⟩
  | 0xCF => some ⟨.tcwb h (.ofBits r.mod) x, ok⟩
  | _ => none

/-- Matrix, guards, slabs, shapes, tensor map (R31). -/
def candMatrix (r : Raw) : Option Cand :=
  let h := Hd.ofBits r.hd
  let x := r.ops4
  let ok := r.ok4
  match r.op.toNat with
  | 0xD0 => if r.mod == 0 then some ⟨.mxpost h x, ok⟩ else none
  | 0xD1 => if r.mod == 0 then some ⟨.mxwait h x, ok⟩ else none
  | 0xD2 => if r.mod == 0 then some ⟨.mxqry h x, ok⟩ else none
  | 0xD3 => if r.mod == 0 then some ⟨.mxcan h x, ok⟩ else none
  | 0xD4 => if r.mod.extractLsb' 5 3 == 0 then some ⟨.gset h (r.mod.getLsbD 4) (r.mod.extractLsb' 0 4) x, ok⟩ else none
  | 0xD5 => some ⟨.slabld h (.ofBits r.mod) x, ok⟩
  | 0xD6 => if r.mod == 0 then some ⟨.slabfree h x, ok⟩ else none
  | 0xD7 => (SpxsMod.ofBits r.mod).map fun m => ⟨.spxs h m x, ok⟩
  | 0xD8 => if r.mod == 0 then some ⟨.shpq h x, ok⟩ else none
  | 0xD9 => if r.mod == 0 then some ⟨.shpwait h x, ok⟩ else none
  | 0xDA => if r.mod.extractLsb' 1 7 == 0 then some ⟨.shpset h (r.mod.getLsbD 0) x, ok⟩ else none
  | 0xDB => if r.mod == 0 then some ⟨.tmapset h x, ok⟩ else none
  | 0xDC => if r.mod == 0 then some ⟨.tmapclr h x, ok⟩ else none
  | _ => none

/-- Spatial mode and the hint region (R31). -/
def candSpatial (r : Raw) : Option Cand :=
  let h := Hd.ofBits r.hd
  let x := r.ops4
  let ok := r.ok4
  match r.op.toNat with
  | 0xE0 => if r.mod == 0 then some ⟨.spaton h x, ok⟩ else none
  | 0xE2 => if r.mod == 0 then some ⟨.send h x, ok⟩ else none
  | 0xE4 => if r.mod.extractLsb' 1 7 == 0 then some ⟨.strld h (r.mod.getLsbD 0) x, ok⟩ else none
  | 0xE5 => if r.mod == 0 then some ⟨.strst h x, ok⟩ else none
  | 0xE6 => if r.mod == 0 then some ⟨.gtok h x, ok⟩ else none
  | 0xE7 => if r.mod == 0 then some ⟨.dropt h x, ok⟩ else none
  | 0xE8 => if r.mod == 0 then some ⟨.toki h x, ok⟩ else none
  | 0xE9 => if r.mod == 0 then some ⟨.spatq h x, ok⟩ else none
  | 0xEA => if r.mod == 0 then some ⟨.spexit h x, ok⟩ else none
  | 0xEC => some ⟨if hprefFields r.hint then .hpref h r.hint else .hintRegionNop h 0 r.hint, true⟩
  | 0xED => some ⟨if hprioFields r.hint then .hprio h r.hint else .hintRegionNop h 1 r.hint, true⟩
  | 0xEE => some ⟨.hnote h r.hint, true⟩
  | 0xEF => some ⟨.hintRegionNop h 3 r.hint, true⟩
  | _ => none

/-- System (R31). -/
def candSys (r : Raw) : Option Cand :=
  let h := Hd.ofBits r.hd
  let x := r.ops4
  let ok := r.ok4
  match r.op.toNat with
  | 0xF0 => if r.mod == 0 then some ⟨.trap h x, ok⟩ else none
  | 0xF1 => if r.mod == 0 then some ⟨.sread h x, ok⟩ else none
  | 0xF2 => if r.mod == 0 then some ⟨.swrite h x, ok⟩ else none
  | 0xF3 => if r.mod == 0 then some ⟨.rte h x, ok⟩ else none
  | 0xF4 => if r.mod == 0 then some ⟨.hrec h x, ok⟩ else if r.mod == 1 then some ⟨.hrecW h x, ok⟩ else none
  | 0xF5 => if r.mod == 0 then some ⟨.pmap h x, ok⟩ else none
  | 0xF6 =>
    if r.mod.extractLsb' 2 6 == 0 then (TlbForm.ofCode (r.mod.extractLsb' 0 2)).map fun f => ⟨.tlbinv h f x, ok⟩ else none
  | 0xF7 => if r.mod.extractLsb' 1 7 == 0 then some ⟨.icinv h (r.mod.getLsbD 0) x, ok⟩ else none
  | 0xF8 => if r.mod == 0 then some ⟨.park h x, ok⟩ else none
  | 0xFA => if r.mod == 0 then some ⟨.bkpt h x, ok⟩ else none
  | 0xFB => if r.mod == 0 then some ⟨.perf h x, ok⟩ else none
  | 0xFD => if r.mod.extractLsb' 1 4 != 0 then none else
      if r.mod.extractLsb' 5 3 == 2 || r.mod.extractLsb' 5 3 == 3 then
        some ⟨if r.mod.getLsbD 0 then .svcrmwUnlock h (r.mod.getLsbD 5) x else .svcrmwLock h (r.mod.getLsbD 5) x, ok⟩ else none
  | 0xFE => if r.mod == 0 then some ⟨.svcret h x, ok⟩ else none
  | _ => none

/-- An assigned major opcode (R31, R32). -/
def opAssigned (op : BitVec 8) : Bool :=
  let n := op.toNat
  (0x01 ≤ n && n ≤ 0x25) || (0x30 ≤ n && n ≤ 0x32) || (0x40 ≤ n && n ≤ 0x51) || (0x58 ≤ n && n ≤ 0x5C) ||
  (0x80 ≤ n && n ≤ 0x8A) || (0x90 ≤ n && n ≤ 0x9B) || (0xA0 ≤ n && n ≤ 0xB2) || (0xC0 ≤ n && n ≤ 0xDC) ||
  n == 0xE0 || n == 0xE2 || (0xE4 ≤ n && n ≤ 0xEA) || (0xEC ≤ n && n ≤ 0xF8) || n == 0xFA || n == 0xFB ||
  n == 0xFD || n == 0xFE

/-- The instruction of a word with an assigned OP, by family (R31); none where MOD has no meaning. -/
def cand (r : Raw) : Option Cand :=
  let n := r.op.toNat
  if n < 0x40 then candInt r
  else if n < 0x58 then candFp r
  else if n < 0x80 then candCvt r
  else if n < 0x90 then candLane r
  else if n < 0xA0 then candCtl r
  else if n < 0xC0 then candMem r
  else if n < 0xD0 then candAsync r
  else if n < 0xE0 then candMatrix r
  else if n < 0xF0 then candSpatial r
  else candSys r

/-- Traps of decode steps 2 to 4 (R20). -/
inductive DecErr where
  | illop
  | illopnd
  deriving DecidableEq, Repr

/-- Decode steps 2 to 4 of R20, in their order. An unassigned OP gives the instruction whose effect is the ILLOP trap. -/
def decode96 (w : Slot) : Except DecErr Instr :=
  let r := Raw.ofSlot w
  if opAssigned r.op then
    match cand r with
    | none => .error .illop
    | some c =>
      if !c.i.modOk then .error .illop
      else if !(c.ok && c.i.opsOk) then .error .illopnd
      else .ok c.i
  else .ok (.unassignedOpcode w)

/-- The instructions that exist in spatial mode only (R34). -/
def spatialOnlyOp (op : BitVec 8) : Bool :=
  let n := op.toNat
  n == 0xE2 || n == 0xE4 || n == 0xE5 || n == 0xE6 || n == 0xE7 || n == 0xEA

/-! ### Encoding of the 96-bit word -/

/-- A word from OP, MOD, header and four operands. -/
def raw4 (op mod : BitVec 8) (h : Hd) (x : Ops4) : Raw :=
  ⟨op, mod, h.toBits, x.d.toField, x.a.toField, x.b.toField, x.c.toField⟩
/-- A word from OP, MOD, header and operands with an immediate form. -/
def rawArgs (op mod : BitVec 8) (h : Hd) (x : Args) : Raw :=
  match x.bc with
  | .imm w => ⟨op, mod, h.toBits, x.d.toField, x.a.toField, w.extractLsb' 16 16, w.extractLsb' 0 16⟩
  | .ops b c => ⟨op, mod, h.toBits, x.d.toField, x.a.toField, b.toField, c.toField⟩
/-- A word of the integer family. -/
def rawInt (op : BitVec 8) (h : Hd) (m : IntMod) (x : Args) : Raw := rawArgs op (m.toBits x.bc.isImm) h x
/-- A word of the floating-point family. -/
def rawFp (op : BitVec 8) (h : Hd) (m : FpMod) (x : Args) : Raw := rawArgs op (m.toBits x.bc.isImm) h x
/-- A conversion. -/
def rawCvt (op : BitVec 8) (h : Hd) (m : CvtMod) (d a : Opnd) : Raw :=
  ⟨op, m.toMod, h.toBits, d.toField, a.toField, 0, m.toLow⟩
/-- A word without operands. -/
def rawZ (op mod : BitVec 8) (h : Hd) : Raw := ⟨op, mod, h.toBits, zf, zf, zf, zf⟩
/-- A word whose BC is an immediate word. -/
def rawW (op mod : BitVec 8) (h : Hd) (d a : BitVec 16) (w : Word) : Raw :=
  ⟨op, mod, h.toBits, d, a, w.extractLsb' 16 16, w.extractLsb' 0 16⟩
/-- A hint-region word. -/
def rawHint (op : BitVec 8) (h : Hd) (r : HintRaw) : Raw :=
  ⟨op, r.mod, h.toBits, r.low.extractLsb' 48 16, r.low.extractLsb' 32 16, r.low.extractLsb' 16 16, r.low.extractLsb' 0 16⟩
/-- A MOD value of one bit. -/
def bit0 (b : Bool) : BitVec 8 := (0 : BitVec 7) ++ BitVec.ofBool b

/-- The fields of an instruction's word (R16, R31); none for what has no 96-bit word. -/
def Instr.raw : Instr → Option Raw
  | .add h m x => some (rawInt 0x01 h m x)
  | .sub h m x => some (rawInt 0x02 h m x)
  | .mul h m x => some (rawInt 0x03 h m x)
  | .mulh h m x => some (rawInt 0x04 h m x)
  | .mad h m x => some (rawInt 0x05 h m x)
  | .madw h m x => some (rawInt 0x06 h m x)
  | .div h m x => some (rawInt 0x07 h m x)
  | .rem h m x => some (rawInt 0x08 h m x)
  | .abs h m x => some (rawInt 0x09 h m x)
  | .neg h m x => some (rawInt 0x0A h m x)
  | .min h m x => some (rawInt 0x0B h m x)
  | .max h m x => some (rawInt 0x0C h m x)
  | .and h m x => some (rawInt 0x0D h m x)
  | .or h m x => some (rawInt 0x0E h m x)
  | .xor h m x => some (rawInt 0x0F h m x)
  | .not h m x => some (rawInt 0x10 h m x)
  | .shl h m x => some (rawInt 0x11 h m x)
  | .shr h m x => some (rawInt 0x12 h m x)
  | .sar h m x => some (rawInt 0x13 h m x)
  | .rot h m x => some (rawInt 0x14 h m x)
  | .bfx h m x => some (rawInt 0x15 h m x)
  | .bfi h m x => some (rawInt 0x16 h m x)
  | .popc h m x => some (rawInt 0x17 h m x)
  | .clz h m x => some (rawInt 0x18 h m x)
  | .brev h m x => some (rawInt 0x19 h m x)
  | .blut h m x => some (rawInt 0x1A h m x)
  | .sel h m x => some (rawInt 0x1B h m x)
  | .mov h m x => some (rawInt 0x1C h m x)
  | .movi h m x => some (rawInt 0x1D h m x)
  | .bperm h m x => some (rawInt 0x1E h m x)
  | .addc h m x => some (rawInt 0x1F h m x)
  | .subb h m x => some (rawInt 0x20 h m x)
  | .aadd h m x => some (rawInt 0x21 h m x)
  | .amad h m x => some (rawInt 0x22 h m x)
  | .amov h m x => some (rawInt 0x23 h m x)
  | .aget h m x => some (rawInt 0x24 h m x)
  | .lea h m x => some (rawInt 0x25 h m x)
  | .dp4 h m x => some (rawInt 0x30 h m x)
  | .dp2 h m x => some (rawInt 0x31 h m x)
  | .sad h m x => some (rawInt 0x32 h m x)
  | .fadd h m x => some (rawFp 0x40 h m x)
  | .fsub h m x => some (rawFp 0x41 h m x)
  | .fmul h m x => some (rawFp 0x42 h m x)
  | .ffma h m x => some (rawFp 0x43 h m x)
  | .fmin h m x => some (rawFp 0x44 h m x)
  | .fmax h m x => some (rawFp 0x45 h m x)
  | .frcp h m x => some (rawFp 0x46 h m x)
  | .frsq h m x => some (rawFp 0x47 h m x)
  | .fsqrt h m x => some (rawFp 0x48 h m x)
  | .fdiv h m x => some (rawFp 0x49 h m x)
  | .fex2 h m x => some (rawFp 0x4A h m x)
  | .flg2 h m x => some (rawFp 0x4B h m x)
  | .fsin h m x => some (rawFp 0x4C h m x)
  | .fcos h m x => some (rawFp 0x4D h m x)
  | .ftanh h m x => some (rawFp 0x4E h m x)
  | .fsigm h m x => some (rawFp 0x4F h m x)
  | .fdot2 h m x => some (rawFp 0x50 h m x)
  | .fdot4 h m x => some (rawFp 0x51 h m x)
  | .cvt h m d a => some (rawCvt 0x58 h m d a)
  | .cvts h m d a => some (rawCvt 0x59 h m d a)
  | .bfpk h m d a => some (rawCvt 0x5A h m d a)
  | .bfpx h m d a => some (rawCvt 0x5B h m d a)
  | .qscl h m d a => some (rawCvt 0x5C h m d a)
  | .itest h t nc c x => some (raw4 0x80 ((0 : BitVec 1) ++ t.code ++ BitVec.ofBool nc ++ c.code) h x)
  | .ftest h w nc c x => some (raw4 0x81 ((0 : BitVec 1) ++ BitVec.ofBool w ++ BitVec.ofBool w ++ BitVec.ofBool nc ++ c.code) h x)
  | .plut h l x => some (raw4 0x82 l h x)
  | .pmovPack h x => some (raw4 0x83 0 h x)
  | .pmovUnpack h x => some (raw4 0x83 1 h x)
  | .vote h m x => some (raw4 0x84 ((0 : BitVec 6) ++ m.code) h x)
  | .matchLanes h w x => some (raw4 0x85 (bit0 w) h x)
  | .xlane h w m x => some (raw4 0x86 ((0 : BitVec 5) ++ BitVec.ofBool w ++ m.code) h x)
  | .lreduce h m x => some (raw4 0x87 m.toBits h x)
  | .lscan h m x => some (raw4 0x88 m.toBits h x)
  | .bcast h x => some (raw4 0x89 0 h x)
  | .smov h x => some (raw4 0x8A 0 h x)
  | .bra h j o => some (rawW 0x90 0 h zf j o)
  | .brx h a j => some (rawW 0x91 0 h zf a.toField j)
  | .join h => some (rawZ 0x92 0 h)
  | .call h i d a o => some (rawW 0x93 (bit0 i) h d.toField a.toField o)
  | .ret h x => some (raw4 0x94 0 h x)
  | .exit h => some (rawZ 0x95 0 h)
  | .loop h d o => some (rawW 0x96 0 h d.toField zf o)
  | .barSync h => some (rawZ 0x97 0 h)
  | .barArrive h => some (rawZ 0x97 1 h)
  | .yield h => some (rawZ 0x98 0 h)
  | .nop h => some (rawZ 0x99 0 h)
  | .sleep h x => some (raw4 0x9A 0 h x)
  | .gsync h => some (rawZ 0x9B 0 h)
  | .ld h m x => some (raw4 0xA0 m.toBits h x)
  | .st h m x => some (raw4 0xA1 m.toBits h x)
  | .lds h m x => some (raw4 0xA2 m.toBits h x)
  | .sts h m x => some (raw4 0xA3 m.toBits h x)
  | .ldc h m x => some (raw4 0xA4 m.toBits h x)
  | .ldx h m x => some (raw4 0xA5 m.toBits h x)
  | .stx h m x => some (raw4 0xA6 m.toBits h x)
  | .ldm h m x => some (raw4 0xA7 m.toBits h x)
  | .stm h m x => some (raw4 0xA8 m.toBits h x)
  | .fence h k sc => some (rawZ 0xA9 (k.toMod sc) h)
  | .fenceAsync h => some (rawZ 0xA9 0x80 h)
  | .atom h m x => some (raw4 0xAA m.toBits h x)
  | .red h m x => some (raw4 0xAB m.toBits h x)
  | .cas h m x => some (raw4 0xAC m.toBits h x)
  | .atomx h m x => some (raw4 0xAD m.toBits h x)
  | .atoms h m x => some (raw4 0xAE m.toBits h x)
  | .cass h m x => some (raw4 0xAF m.toBits h x)
  | .waitc h m x => some (raw4 0xB0 m.toBits h x)
  | .cctl h c x => some (raw4 0xB1 (c.code ++ (0 : BitVec 5)) h x)
  | .pref h t x => some (raw4 0xB2 ((0 : BitVec 2) ++ BitVec.ofBool t ++ (0 : BitVec 5)) h x)
  | .cpy h m x => some (raw4 0xC0 m.toBits h x)
  | .cpyt h m x => some (raw4 0xC1 m.toBits h x)
  | .cpyg h m x => some (raw4 0xC2 m.toBits h x)
  | .cpys h m x => some (raw4 0xC3 m.toBits h x)
  | .binit h x => some (raw4 0xC4 0 h x)
  | .bexp h x => some (raw4 0xC5 0 h x)
  | .barrive h e x => some (raw4 0xC6 (bit0 e) h x)
  | .bwait h x => some (raw4 0xC7 0 h x)
  | .btest h x => some (raw4 0xC8 0 h x)
  | .seal h x => some (raw4 0xC9 0 h x)
  | .waitb h x => some (raw4 0xCA 0 h x)
  | .tclook h x => some (raw4 0xCB 0 h x)
  | .tcpref h x => some (raw4 0xCC 0 h x)
  | .tchalo h m x => some (raw4 0xCD m.toBits h x)
  | .tcinv h m x => some (raw4 0xCE m.toBits h x)
  | .tcwb h m x => some (raw4 0xCF m.toBits h x)
  | .mxpost h x => some (raw4 0xD0 0 h x)
  | .mxwait h x => some (raw4 0xD1 0 h x)
  | .mxqry h x => some (raw4 0xD2 0 h x)
  | .mxcan h x => some (raw4 0xD3 0 h x)
  | .gset h cl n x => some (raw4 0xD4 ((0 : BitVec 3) ++ BitVec.ofBool cl ++ n) h x)
  | .slabld h m x => some (raw4 0xD5 m.toBits h x)
  | .slabfree h x => some (raw4 0xD6 0 h x)
  | .spxs h m x => some (raw4 0xD7 m.toBits h x)
  | .shpq h x => some (raw4 0xD8 0 h x)
  | .shpwait h x => some (raw4 0xD9 0 h x)
  | .shpset h e x => some (raw4 0xDA (bit0 e) h x)
  | .tmapset h x => some (raw4 0xDB 0 h x)
  | .tmapclr h x => some (raw4 0xDC 0 h x)
  | .spaton h x => some (raw4 0xE0 0 h x)
  | .send h x => some (raw4 0xE2 0 h x)
  | .strld h g x => some (raw4 0xE4 (bit0 g) h x)
  | .strst h x => some (raw4 0xE5 0 h x)
  | .gtok h x => some (raw4 0xE6 0 h x)
  | .dropt h x => some (raw4 0xE7 0 h x)
  | .toki h x => some (raw4 0xE8 0 h x)
  | .spatq h x => some (raw4 0xE9 0 h x)
  | .spexit h x => some (raw4 0xEA 0 h x)
  | .hpref h r => some (rawHint 0xEC h r)
  | .hprio h r => some (rawHint 0xED h r)
  | .hnote h r => some (rawHint 0xEE h r)
  | .hintRegionNop h op r => some (rawHint ((0x3B : BitVec 6) ++ op) h r)
  | .trap h x => some (raw4 0xF0 0 h x)
  | .sread h x => some (raw4 0xF1 0 h x)
  | .swrite h x => some (raw4 0xF2 0 h x)
  | .rte h x => some (raw4 0xF3 0 h x)
  | .hrec h x => some (raw4 0xF4 0 h x)
  | .hrecW h x => some (raw4 0xF4 1 h x)
  | .pmap h x => some (raw4 0xF5 0 h x)
  | .tlbinv h f x => some (raw4 0xF6 ((0 : BitVec 6) ++ f.code) h x)
  | .icinv h al x => some (raw4 0xF7 (bit0 al) h x)
  | .park h x => some (raw4 0xF8 0 h x)
  | .bkpt h x => some (raw4 0xFA 0 h x)
  | .perf h x => some (raw4 0xFB 0 h x)
  | .svcrmwLock h w x => some (raw4 0xFD ((1 : BitVec 2) ++ BitVec.ofBool w ++ (0 : BitVec 5)) h x)
  | .svcrmwUnlock h w x => some (raw4 0xFD ((1 : BitVec 2) ++ BitVec.ofBool w ++ (1 : BitVec 5)) h x)
  | .svcret h x => some (raw4 0xFE 0 h x)
  | .unassignedOpcode w => some (Raw.ofSlot w)
  | _ => none

/-- The 96-bit word of an instruction. -/
def encode96 (i : Instr) : Option Slot := i.raw.map Raw.toSlot

/-! ### Queue programs (R395 to R399) -/

/-- Format I (R395). -/
def qI (op : BitVec 6) (d a : BitVec 4) (i : BitVec 18) : Word := op ++ d ++ a ++ i
/-- Format R (R395). -/
def qR (op : BitVec 6) (d a b : BitVec 4) : Word := op ++ d ++ a ++ b ++ (0 : BitVec 14)
/-- Format M (R395). -/
def qM (op : BitVec 6) (d x : BitVec 4) (n : Bool) (w : BitVec 3) (o : BitVec 14) : Word :=
  op ++ d ++ x ++ BitVec.ofBool n ++ w ++ o
/-- Format L (R395). -/
def qL (op : BitVec 6) (c : BitVec 6) (i : BitVec 18) : Word := op ++ c ++ (0 : BitVec 2) ++ i

/-- A queue-program instruction; none for a word that is not one or sets an unused field (R395 to R400). -/
def decodeQ (w : Word) : Option Instr :=
  let d : BitVec 4 := w.extractLsb' 22 4
  let a : BitVec 4 := w.extractLsb' 18 4
  let b : BitVec 4 := w.extractLsb' 14 4
  let i : BitVec 18 := w.extractLsb' 0 18
  let n := w.getLsbD 17
  let wn : BitVec 3 := w.extractLsb' 14 3
  let o : BitVec 14 := w.extractLsb' 0 14
  let rz := o == 0
  let mz := n || a == 0
  match (w.extractLsb' 26 6).toNat with
  | 0x01 => if a == 0 then some (.movq d i) else none
  | 0x02 => some (.addq d a i)
  | 0x03 => some (.andq d a i)
  | 0x04 => some (.orq d a i)
  | 0x05 => some (.shlq d a i)
  | 0x06 => some (.shrq d a i)
  | 0x08 => if rz then some (.addr d a b) else none
  | 0x09 => if rz then some (.subr d a b) else none
  | 0x0A => if rz then some (.andr d a b) else none
  | 0x0B => if rz then some (.orr d a b) else none
  | 0x0C => if rz then some (.xorr d a b) else none
  | 0x0D => if rz then some (.seqr d a b) else none
  | 0x0E => if rz then some (.sltr d a b) else none
  | 0x0F => if rz then some (.sltur d a b) else none
  | 0x10 => if mz then some (.ldb d a n wn o) else none
  | 0x11 => if mz then some (.ldh d a n wn o) else none
  | 0x12 => if mz then some (.ldw d a n wn o) else none
  | 0x13 => if mz then some (.ldd d a n wn o) else none
  | 0x14 => if mz then some (.stb d a n wn o) else none
  | 0x15 => if mz then some (.sth d a n wn o) else none
  | 0x16 => if mz then some (.stw d a n wn o) else none
  | 0x17 => if mz then some (.std d a n wn o) else none
  | 0x20 => if d == 0 then some (.bz a i) else none
  | 0x21 => if d == 0 then some (.bnz a i) else none
  | 0x22 => if d == 0 && a == 0 then some (.jmp i) else none
  | 0x23 => if w.extractLsb' 18 2 == 0 then some (.qprogLoop (w.extractLsb' 20 6) i) else none
  | 0x30 => if w.extractLsb' 3 15 == 0 then some (.lnch d a (w.extractLsb' 0 3)) else none
  | 0x31 => if rz then some (.xfer d a b) else none
  | 0x32 => if d == 0 && rz then some (.siga a b) else none
  | 0x33 => if d == 0 && rz then some (.sigw a b) else none
  | 0x34 => if a == 0 && w.extractLsb' 16 2 == 0 && !w.getLsbD 0 then some (.wall d (w.extractLsb' 1 15)) else none
  | 0x35 => if a == 0 && w.extractLsb' 16 2 == 0 && !w.getLsbD 0 then some (.wany d (w.extractLsb' 1 15)) else none
  | 0x36 => if d == 0 && w.extractLsb' 2 16 == 0 then some (.canx a (w.extractLsb' 0 2)) else none
  | 0x37 => if d == 0 && i == 0 then some (.cfgd a) else none
  | 0x38 => if d == 0 && i == 0 then some (.fin a) else none
  | 0x39 => if d == 0 && w.extractLsb' 8 10 == 0 then some (.qerr a (w.extractLsb' 0 8)) else none
  | _ => none

/-- The word of a queue-program instruction. -/
def encodeQ : Instr → Option Word
  | .movq d i => some (qI 0x01 d 0 i)
  | .addq d a i => some (qI 0x02 d a i)
  | .andq d a i => some (qI 0x03 d a i)
  | .orq d a i => some (qI 0x04 d a i)
  | .shlq d a i => some (qI 0x05 d a i)
  | .shrq d a i => some (qI 0x06 d a i)
  | .addr d a b => some (qR 0x08 d a b)
  | .subr d a b => some (qR 0x09 d a b)
  | .andr d a b => some (qR 0x0A d a b)
  | .orr d a b => some (qR 0x0B d a b)
  | .xorr d a b => some (qR 0x0C d a b)
  | .seqr d a b => some (qR 0x0D d a b)
  | .sltr d a b => some (qR 0x0E d a b)
  | .sltur d a b => some (qR 0x0F d a b)
  | .ldb d x n w o => some (qM 0x10 d x n w o)
  | .ldh d x n w o => some (qM 0x11 d x n w o)
  | .ldw d x n w o => some (qM 0x12 d x n w o)
  | .ldd d x n w o => some (qM 0x13 d x n w o)
  | .stb d x n w o => some (qM 0x14 d x n w o)
  | .sth d x n w o => some (qM 0x15 d x n w o)
  | .stw d x n w o => some (qM 0x16 d x n w o)
  | .std d x n w o => some (qM 0x17 d x n w o)
  | .bz a i => some (qI 0x20 0 a i)
  | .bnz a i => some (qI 0x21 0 a i)
  | .jmp i => some (qI 0x22 0 0 i)
  | .qprogLoop c i => some (qL 0x23 c i)
  | .lnch d a i => some (qI 0x30 d a ((0 : BitVec 15) ++ i))
  | .xfer d a b => some (qR 0x31 d a b)
  | .siga a b => some (qR 0x32 0 a b)
  | .sigw a b => some (qR 0x33 0 a b)
  | .wall d m => some (qI 0x34 d 0 ((0 : BitVec 2) ++ m ++ (0 : BitVec 1)))
  | .wany d m => some (qI 0x35 d 0 ((0 : BitVec 2) ++ m ++ (0 : BitVec 1)))
  | .canx a l => some (qI 0x36 0 a ((0 : BitVec 16) ++ l))
  | .cfgd a => some (qI 0x37 0 a 0)
  | .fin a => some (qI 0x38 0 a 0)
  | .qerr a c => some (qI 0x39 0 a ((0 : BitVec 10) ++ c))
  | _ => none

/-! ### Packets (R383, R386) -/

/-- The fields of a packet's first slot. -/
def Packet.ofBits (w : BitVec 512) : Packet :=
  ⟨w.extractLsb' 48 16, w.extractLsb' 32 16, w.extractLsb' 16 16, w.extractLsb' 14 2, w.getLsbD 13, w.extractLsb' 11 2,
    w.extractLsb' 9 2, w.getLsbD 8, w.extractLsb' 64 64, w.extractLsb' 128 64, w.extractLsb' 192 64,
    w.extractLsb' 256 64, w.extractLsb' 320 64, w.extractLsb' 384 64, w.extractLsb' 448 64⟩
/-- A packet's first slot. -/
def Packet.toBits (ty : BitVec 8) (p : Packet) : BitVec 512 :=
  p.q38 ++ p.q30 ++ p.q28 ++ p.q20 ++ p.q18 ++ p.q10 ++ p.q08 ++ p.rsv ++ p.cksum ++ p.stamp ++ p.len ++
    BitVec.ofBool p.cke ++ p.rels ++ p.acqs ++ BitVec.ofBool p.bar ++ ty

/-- The packet of a slot, by TYPE (R383, R386); none for a type that is not assigned. -/
def decodePacket (w : BitVec 512) : Option Instr :=
  let p := Packet.ofBits w
  match (w.extractLsb' 0 8).toNat with
  | 1 => some (.launch p)
  | 2 => some (.barrierAnd p)
  | 3 => some (.barrierOr p)
  | 4 => some (.signal p)
  | 5 => some (.copy p)
  | 6 => some (.configDelta p)
  | 7 => some (.cancel p)
  | 8 => some (.nopPacket p)
  | n => if 0x80 ≤ n then some (.customPacket (w.extractLsb' 0 8) p) else none

/-- The slot of a packet. -/
def encodePacket : Instr → Option (BitVec 512)
  | .launch p => some (p.toBits 1)
  | .barrierAnd p => some (p.toBits 2)
  | .barrierOr p => some (p.toBits 3)
  | .signal p => some (p.toBits 4)
  | .copy p => some (p.toBits 5)
  | .configDelta p => some (p.toBits 6)
  | .cancel p => some (p.toBits 7)
  | .nopPacket p => some (p.toBits 8)
  | .customPacket ty p => some (p.toBits ty)
  | _ => none

/-! ### Bytes -/

/-- The bytes of an instruction as the hardware stores them (R9, R13): 12 for an instruction word, 4 for a queue-program
word, 64 for a packet, none for an event. -/
def encode (i : Instr) : Option (List Byte) :=
  match encode96 i with
  | some w => some (toBytesLE 12 w.toNat)
  | none =>
    match encodeQ i with
    | some w => some (toBytesLE 4 w.toNat)
    | none => (encodePacket i).map fun w => toBytesLE 64 w.toNat

/-- Decode a stored instruction word: twelve bytes. -/
def decodeSlotBytes (bs : List Byte) : Except DecErr Instr := decode96 (BitVec.ofNat 96 (ofBytesLE bs))

/-- The instruction a word of the opcode table decodes to: a queue-program word of 32 bits, an instruction word of 96,
a packet of 512. -/
def decodeTableWord (nbits w : Nat) : Option Instr :=
  if nbits ≤ 32 then decodeQ (BitVec.ofNat 32 (ofBytesLE (toBytesLE 4 (w % 2 ^ nbits))))
  else if nbits ≤ 96 then
    match decodeSlotBytes (toBytesLE 12 (w % 2 ^ nbits)) with
    | .ok i => some i
    | .error _ => none
  else decodePacket (BitVec.ofNat 512 (ofBytesLE (toBytesLE 64 (w % 2 ^ nbits))))

end Sys2Proof
end

