-- ==== Sys2Proof/Machine/Float.lean ====
section
/-! DEFINITION. Number formats and rounding: the element formats of R41, RoundTo (R46, R47), signs of zeros (R48), the
stochastic source (R49), and the exact operations of the floating-point family (R78 to R80, R94) and of blocks (R51 to
R56). A real is held exactly as a dyadic; a quotient or root as a dyadic and a mark that the real lies strictly above it
by less than one unit of its last place. -/

namespace Sys2Proof.Machine

open Sys2Proof

/-! ### Formats (R41) -/

/-- How a format treats its top exponent (R41). -/
inductive Special where
  | ieee | e4m3 | none
  deriving DecidableEq, Repr

/-- A floating element format (R41). -/
structure FFmt where
  bits : Nat
  ew : Nat
  frac : Nat
  bias : Nat
  special : Special
  deriving DecidableEq, Repr

/-- binary64. -/
def fmt64 : FFmt := ⟨64, 11, 52, 1023, .ieee⟩
/-- binary32. -/
def fmt32 : FFmt := ⟨32, 8, 23, 127, .ieee⟩
/-- binary16. -/
def fmt16 : FFmt := ⟨16, 5, 10, 15, .ieee⟩
/-- bfloat16. -/
def fmtB16 : FFmt := ⟨16, 8, 7, 127, .ieee⟩
/-- E4M3. -/
def fmtE4M3 : FFmt := ⟨8, 4, 3, 7, .e4m3⟩
/-- E5M2. -/
def fmtE5M2 : FFmt := ⟨8, 5, 2, 15, .ieee⟩
/-- E2M3. -/
def fmtE2M3 : FFmt := ⟨6, 2, 3, 1, .none⟩
/-- E3M2. -/
def fmtE3M2 : FFmt := ⟨6, 3, 2, 3, .none⟩
/-- E2M1. -/
def fmtE2M1 : FFmt := ⟨4, 2, 1, 1, .none⟩

/-- A value: NaN, an infinity, or (-1)^neg (m + d) 2^e with d = 0, or 0 < d < 1 where `sticky`. -/
inductive FVal where
  | nan
  | inf (neg : Bool)
  | fin (neg : Bool) (m : Nat) (e : Int) (sticky : Bool)
  deriving DecidableEq, Repr

/-- Zero of a sign. -/
def FVal.zero (neg : Bool) : FVal := .fin neg 0 0 false
/-- The value is a zero. -/
def FVal.isZero : FVal → Bool
  | .fin _ m _ s => m == 0 && !s
  | _ => false
/-- The value is NaN. -/
def FVal.isNaN : FVal → Bool
  | .nan => true
  | _ => false
/-- An exact integer times a power of two. -/
def FVal.ofInt (x : Int) (e : Int) : FVal := .fin (decide (x < 0)) x.natAbs e false

/-- The value of an encoding (R41). -/
def FFmt.decode (f : FFmt) (x : Nat) : FVal :=
  let neg := bitsAt x (f.bits - 1) 1 == 1
  let E := bitsAt x f.frac f.ew
  let F := bitsAt x 0 f.frac
  let top := 2 ^ f.ew - 1
  if f.special == .ieee && E == top then (if F == 0 then .inf neg else .nan)
  else if f.special == .e4m3 && E == top && F == 2 ^ f.frac - 1 then .nan
  else if E == 0 then .fin neg F (1 - (f.bias : Int) - f.frac) false
  else .fin neg (F + 2 ^ f.frac) ((E : Int) - f.bias - f.frac) false

/-- The encoding is a nonzero subnormal (R45). -/
def FFmt.isSub (f : FFmt) (x : Nat) : Bool := bitsAt x f.frac f.ew == 0 && bitsAt x 0 f.frac != 0

/-- The sign bit alone. -/
def FFmt.signBit (f : FFmt) (neg : Bool) : Nat := if neg then 2 ^ (f.bits - 1) else 0

/-- Flush a subnormal encoding to zero of its sign (R45). -/
def FFmt.flush (f : FFmt) (x : Nat) : Nat := if f.isSub x then f.signBit (bitsAt x (f.bits - 1) 1 == 1) else x

/-- The canonical NaN; +0 in a format without NaN (R43). -/
def FFmt.nan (f : FFmt) : Nat :=
  match f.special with
  | .ieee => (2 ^ f.ew - 1) * 2 ^ f.frac + 2 ^ (f.frac - 1)
  | .e4m3 => 0x7F
  | .none => 0

/-- The largest finite magnitude (R41). -/
def FFmt.max (f : FFmt) : Nat :=
  match f.special with
  | .ieee => (2 ^ f.ew - 1) * 2 ^ f.frac - 1
  | .e4m3 => 2 ^ (f.bits - 1) - 2
  | .none => 2 ^ (f.bits - 1) - 1

/-- InfOf of R46, by the second table of R47. -/
def FFmt.infOf (f : FFmt) (neg sat : Bool) : Nat :=
  match f.special with
  | .ieee => f.signBit neg + (2 ^ f.ew - 1) * 2 ^ f.frac
  | .e4m3 => f.signBit neg + (if sat then f.max else 0x7F)
  | .none => f.signBit neg + f.max

/-- Rounding modes with the stochastic draw (R46). -/
inductive RMode where
  | rn | rz | ru | rd
  | sr (rand : Nat)
  deriving DecidableEq, Repr

/-- The mode of a RND field (R28). -/
def RMode.ofRnd : Rnd → RMode
  | .rn => .rn | .rz => .rz | .ru => .ru | .rd => .rd

/-- Overflow of R46, by the first table of R47. -/
def FFmt.overflow (f : FFmt) (neg : Bool) (r : RMode) (sat : Bool) : Nat :=
  let toInf := match r with
    | .rn | .sr _ => true
    | .rz => false
    | .ru => !neg
    | .rd => neg
  if sat || !toInf then f.signBit neg + f.max else f.infOf neg false

/-- Round up the quotient k with the fraction rem / 2^d, d ≥ 1 unless rem = 0 (R46). -/
def roundUp (r : RMode) (neg : Bool) (k rem d : Nat) (sticky : Bool) : Bool :=
  let half := 2 ^ d
  let pos := rem != 0 || sticky
  match r with
  | .rn => decide (half < 2 * rem) || (2 * rem == half && d != 0 && (sticky || k % 2 == 1))
  | .rz => false
  | .ru => pos && !neg
  | .rd => pos && neg
  | .sr g => decide (2 ^ 16 ≤ rem * 2 ^ 16 / half + g)

/-- Round |x| = (m + d) 2^e to a multiple of 2^q: the multiple. -/
def roundMul (r : RMode) (neg : Bool) (m : Nat) (e : Int) (sticky : Bool) (q : Int) : Nat :=
  if q ≤ e then
    let k := m * 2 ^ (e - q).toNat
    if roundUp r neg k 0 0 sticky then k + 1 else k
  else
    let d := (q - e).toNat
    let k := m / 2 ^ d
    if roundUp r neg k (m % 2 ^ d) d sticky then k + 1 else k

/-- RoundTo of R46 for a floating format: the encoding. -/
def roundTo (f : FFmt) (r : RMode) (ftz sat : Bool) (x : FVal) : Nat :=
  match x with
  | .nan => f.nan
  | .inf neg => f.infOf neg sat
  | .fin neg m e sticky =>
    if m == 0 && !sticky then f.signBit neg
    else
      let emin : Int := 1 - (f.bias : Int)
      let e0 : Int := Max.max (e + (Nat.log2 m : Int)) emin
      let q := e0 - f.frac
      let k := roundMul r neg m e sticky q
      let (k, e1) := if k == 2 ^ (f.frac + 1) then (2 ^ f.frac, e0 + 1) else (k, e0)
      if k < 2 ^ f.frac then (if ftz then f.signBit neg else f.signBit neg + k)
      else
        let mag := (e1 + f.bias).toNat * 2 ^ f.frac + (k - 2 ^ f.frac)
        if mag > f.max then f.overflow neg r sat else f.signBit neg + mag

/-- RoundTo to an integer, before any clamp: none for NaN, an infinity with its sign (R46). -/
inductive IVal where
  | nan
  | inf (neg : Bool)
  | int (x : Int)
  deriving DecidableEq, Repr

/-- Round to quantum 1 (R46). -/
def roundInt (r : RMode) (x : FVal) : IVal :=
  match x with
  | .nan => .nan
  | .inf neg => .inf neg
  | .fin neg m e sticky =>
    let k := roundMul r neg m e sticky 0
    .int (if neg then -(k : Int) else k)

/-! ### Exact operations (R48, R78) -/

/-- Negation. -/
def FVal.neg : FVal → FVal
  | .nan => .nan
  | .inf n => .inf (!n)
  | .fin n m e s => .fin (!n) m e s

/-- Multiply by a power of two. -/
def FVal.scale (x : FVal) (k : Int) : FVal :=
  match x with
  | .nan => .nan
  | .inf n => .inf n
  | .fin n m e s => .fin n m (e + k) s

/-- The signed integer of a dyadic at exponent e0 ≤ e. -/
def alignInt (neg : Bool) (m : Nat) (e e0 : Int) : Int :=
  let v : Int := (m * 2 ^ (e - e0).toNat : Nat)
  if neg then -v else v

/-- An exact zero sum of nonzero parts is +0, and −0 under RD (R48). -/
def zeroSum (r : RMode) : FVal := .zero (r == .rd)

/-- Exact sum (R48, R78). -/
def FVal.add (r : RMode) (x y : FVal) : FVal :=
  match x, y with
  | .nan, _ => .nan
  | _, .nan => .nan
  | .inf a, .inf b => if a == b then .inf a else .nan
  | .inf a, _ => .inf a
  | _, .inf b => .inf b
  | .fin na ma ea _, .fin nb mb eb _ =>
    if ma == 0 && mb == 0 then (if na == nb then .zero na else zeroSum r)
    else if ma == 0 then y
    else if mb == 0 then x
    else
      let e := min ea eb
      let v := alignInt na ma ea e + alignInt nb mb eb e
      if v == 0 then zeroSum r else .ofInt v e

/-- Exact product (R48, R78). -/
def FVal.mul (x y : FVal) : FVal :=
  match x, y with
  | .nan, _ => .nan
  | _, .nan => .nan
  | .inf a, .inf b => .inf (a != b)
  | .inf a, .fin b m _ _ => if m == 0 then .nan else .inf (a != b)
  | .fin a m _ _, .inf b => if m == 0 then .nan else .inf (a != b)
  | .fin na ma ea _, .fin nb mb eb _ => .fin (na != nb) (ma * mb) (ea + eb) false

/-- Quotient (R78): 160 bits below the leading bit of the quotient, and a mark for the rest. -/
def FVal.div (x y : FVal) : FVal :=
  match x, y with
  | .nan, _ => .nan
  | _, .nan => .nan
  | .inf _, .inf _ => .nan
  | .inf a, .fin b _ _ _ => .inf (a != b)
  | .fin a _ _ _, .inf b => .zero (a != b)
  | .fin na ma ea _, .fin nb mb eb _ =>
    if mb == 0 then (if ma == 0 then .nan else .inf (na != nb))
    else if ma == 0 then .zero (na != nb)
    else
      let k := 160 + Nat.log2 mb
      let n := ma * 2 ^ k
      .fin (na != nb) (n / mb) (ea - eb - k) (n % mb != 0)

/-- Bit by bit integer square root, from bit n - 1 down. -/
def isqrtFrom (x : Nat) : Nat → Nat → Nat
  | 0, r => r
  | n + 1, r => isqrtFrom x n (if (r + 2 ^ n) * (r + 2 ^ n) ≤ x then r + 2 ^ n else r)

/-- Integer square root. -/
def isqrt (x : Nat) : Nat := isqrtFrom x (Nat.log2 x / 2 + 1) 0

/-- Square root (R78). -/
def FVal.sqrt (x : FVal) : FVal :=
  match x with
  | .nan => .nan
  | .inf false => .inf false
  | .inf true => .nan
  | .fin n m e _ =>
    if m == 0 then .zero n
    else if n then .nan
    else
      let odd := e % 2 != 0
      let m1 := (if odd then 2 * m else m) * 2 ^ 320
      let e1 := (if odd then e - 1 else e) - 320
      let r := isqrt m1
      .fin false r (e1 / 2) (r * r != m1)

/-- Reciprocal square root (R78): −0 gives −∞. -/
def FVal.rsqrt (x : FVal) : FVal :=
  match x with
  | .nan => .nan
  | .inf false => .zero false
  | .inf true => .nan
  | .fin n m e _ =>
    if m == 0 then .inf n
    else if n then .nan
    else
      let odd := e % 2 != 0
      let m1 := if odd then 2 * m else m
      let e1 := if odd then e - 1 else e
      let s := 200 + Nat.log2 m1
      let r := isqrt (2 ^ (2 * s) / m1)
      .fin false r (-(s : Int) - e1 / 2) (r * r * m1 != 2 ^ (2 * s))

/-- Compare two values that are not NaN, with −0 = +0 (R87). -/
def FVal.cmp (x y : FVal) : Ordering :=
  match x, y with
  | .nan, _ => .eq
  | _, .nan => .eq
  | .inf a, .inf b => if a == b then .eq else if a then .lt else .gt
  | .inf a, _ => if a then .lt else .gt
  | _, .inf b => if b then .gt else .lt
  | .fin na ma ea _, .fin nb mb eb _ =>
    let e := min ea eb
    compare (alignInt na ma ea e) (alignInt nb mb eb e)

/-! ### Functions that are correctly rounded (R78): fixed-point values at scale 2^-P with a known error -/

/-- Σ x^(2k+1) / (2k+1) with alternating sign where `alt`, for x = 1/q, at scale 2^P: arctangent and its hyperbolic
form of a reciprocal. -/
def atanRecip (alt : Bool) (q : Nat) : Nat → Nat → Nat → Int → Int
  | 0, _, _, acc => acc
  | n + 1, k, t, acc =>
    let d : Int := (t / (2 * k + 1) : Nat)
    atanRecip alt q n (k + 1) (t / (q * q)) (if alt && k % 2 == 1 then acc - d else acc + d)

/-- π at scale 2^P, by Machin's formula. -/
def piFix (P : Nat) : Int :=
  4 * (4 * atanRecip true 5 (P / 4 + 2) 0 (2 ^ P / 5) 0 - atanRecip true 239 (P / 15 + 2) 0 (2 ^ P / 239) 0)

/-- ln 2 at scale 2^P: 18 artanh(1/26) − 2 artanh(1/4801) + 8 artanh(1/8749). -/
def ln2Fix (P : Nat) : Int :=
  18 * atanRecip false 26 (P / 9 + 2) 0 (2 ^ P / 26) 0 - 2 * atanRecip false 4801 (P / 24 + 2) 0 (2 ^ P / 4801) 0 +
    8 * atanRecip false 8749 (P / 26 + 2) 0 (2 ^ P / 8749) 0

/-- Σ x^k / k! from term `t` on. -/
def expSeries (P : Nat) (x : Int) : Nat → Nat → Int → Int → Int
  | 0, _, _, acc => acc
  | n + 1, k, t, acc => expSeries P x n (k + 1) (t * x / 2 ^ P / (k + 1)) (acc + t)

/-- e^x at scale 2^P for 0 ≤ x < 1. -/
def expFix (P : Nat) (x : Int) : Int := expSeries P x (P / 4 + 8) 0 (2 ^ P) 0

/-- Σ of the terms of sin (from t = x, k = 1) or cos (from t = 1, k = 0). -/
def trigSeries (P : Nat) (x2 : Int) : Nat → Nat → Int → Int → Int
  | 0, _, _, acc => acc
  | n + 1, k, t, acc => trigSeries P x2 n (k + 2) (-(t * x2 / 2 ^ P) / ((k + 1) * (k + 2))) (acc + t)

/-- Σ of the terms 2 z^(2k+1) / (2k+1). -/
def logSeries (P : Nat) (z2 : Int) : Nat → Nat → Int → Int → Int
  | 0, _, _, acc => acc
  | n + 1, k, t, acc => logSeries P z2 n (k + 1) (t * z2 / 2 ^ P) (acc + 2 * (t / (2 * k + 1)))

/-- A dyadic at scale 2^P. -/
def toFix (P : Nat) (neg : Bool) (m : Nat) (e : Int) : Int :=
  let v : Int := if 0 ≤ e + P then (m * 2 ^ (e + P).toNat : Nat) else (m / 2 ^ (-(e + P)).toNat : Nat)
  if neg then -v else v

/-- The rounding that both ends of [v − 2^20, v + 2^20] 2^e share, if they share one. -/
def agree (f : FFmt) (ftz : Bool) (v : Int) (e : Int) : Option Nat :=
  let lo := roundTo f .rn ftz false (.ofInt (v - 2 ^ 20) e)
  let hi := roundTo f .rn ftz false (.ofInt (v + 2 ^ 20) e)
  if lo == hi then some lo else none

/-- The transcendental functions of R78. -/
inductive Fun1 where
  | ex2 | lg2 | sin | cos | tanh | sigm
  deriving DecidableEq, Repr

/-- e^(−x) for x ≥ 0 at scale 2^P, as a mantissa and a power of two. -/
def expNeg (P : Nat) (x : Int) : Int × Int :=
  let l := ln2Fix P
  let n := x / l + 1
  (expFix P (n * l - x), -n)

/-- An approximation (v, e) with |real − v 2^e| < 2^20 2^e, for a finite nonzero argument of ordinary size. -/
def fun1At (fn : Fun1) (P : Nat) (neg : Bool) (m : Nat) (e : Int) : Int × Int :=
  match fn with
  | .ex2 =>
    let x := toFix P neg m e
    let n := x / 2 ^ P
    (expFix P ((x - n * 2 ^ P) * ln2Fix P / 2 ^ P), n - P)
  | .lg2 =>
    let b := Nat.log2 m
    let y : Int := toFix P false m (-(b : Int))
    let z := (y - 2 ^ P) * 2 ^ P / (y + 2 ^ P)
    let ln := logSeries P (z * z / 2 ^ P) (P / 3 + 4) 0 z 0
    (ln * 2 ^ P / ln2Fix P + (e + b) * 2 ^ P, -(P : Int))
  | .sin | .cos =>
    let x := toFix P false m e
    let p := piFix P
    let k := (2 * x + p / 2) / p
    let r := x - k * p / 2
    let r2 := r * r / 2 ^ P
    let s := trigSeries P r2 (P / 4 + 8) 1 r 0
    let c := trigSeries P r2 (P / 4 + 8) 0 (2 ^ P) 0
    let k4 := k % 4
    let v := if fn == .sin then (if k4 == 0 then s else if k4 == 1 then c else if k4 == 2 then -s else -c)
      else (if k4 == 0 then c else if k4 == 1 then -s else if k4 == 2 then -c else s)
    (if fn == .sin && neg then -v else v, -(P : Int))
  | .tanh =>
    let x := toFix P false m e
    let (t, n) := expNeg P (2 * x)
    let tf := if 0 ≤ n + P then t / 2 ^ (-n).toNat else 0
    let v := (2 ^ P - tf) * 2 ^ P / (2 ^ P + tf)
    (if neg then -v else v, -(P : Int))
  | .sigm =>
    let x := toFix P false m e
    let (t, n) := expNeg P x
    let tf := if 0 ≤ n + P then t / 2 ^ (-n).toNat else 0
    if neg then (t * 2 ^ P / (2 ^ P + tf), n - P) else (2 ^ P * 2 ^ P / (2 ^ P + tf), -(P : Int))

/-- Raise the precision until the rounding is decided. -/
def fun1Try (fn : Fun1) (f : FFmt) (ftz : Bool) (neg : Bool) (m : Nat) (e : Int) : Nat → Nat → Nat
  | 0, P => let (v, x) := fun1At fn P neg m e; roundTo f .rn ftz false (.ofInt v x)
  | n + 1, P =>
    let (v, x) := fun1At fn P neg m e
    match agree f ftz v x with
    | some r => r
    | none => fun1Try fn f ftz neg m e n (2 * P)

/-- A value just below or above m 2^e in magnitude, for results that differ from it by less than 2^-50 of its unit. -/
def nearby (neg : Bool) (m : Nat) (e : Int) (below : Bool) : FVal :=
  if below then .fin neg (m * 2 ^ 50 - 1) (e - 50) true else .fin neg (m * 2 ^ 50) (e - 50) true

/-- A finite nonzero argument of a function (R78): exact cases, arguments so small or so large that the result lies next
to a known value, and the rest. -/
def fun1Fin (fn : Fun1) (f : FFmt) (ftz : Bool) (neg : Bool) (m : Nat) (e : Int) : Nat :=
  let top := e + (Nat.log2 m : Int)
  let rt := roundTo f .rn ftz false
  let one : FVal := .fin false 1 0 false
  match fn with
  | .ex2 =>
    if top ≥ 12 then rt (if neg then nearby false 1 (-5000) false else .fin false 1 5000 false)
    else if top < -60 then rt (nearby false 1 0 neg)
    else if e ≥ 0 then rt (.fin false 1 (alignInt neg m e 0) false)
    else if m % 2 ^ (-e).toNat == 0 then
      let k : Int := (m / 2 ^ (-e).toNat : Nat)
      rt (.fin false 1 (if neg then -k else k) false)
    else fun1Try fn f ftz neg m e 4 256
  | .lg2 =>
    if neg then f.nan
    else if m == 2 ^ Nat.log2 m then rt (if top == 0 then .zero false else .ofInt top 0)
    else fun1Try fn f ftz neg m e 4 256
  | .sin => if top < -40 then rt (nearby neg m e true) else fun1Try fn f ftz neg m e 4 512
  | .cos => if top < -40 then rt (nearby false 1 0 true) else fun1Try fn f ftz neg m e 4 512
  | .tanh =>
    if top < -40 then rt (nearby neg m e true)
    else if top ≥ 8 then rt (nearby neg 1 0 true)
    else fun1Try fn f ftz neg m e 4 256
  | .sigm =>
    if top < -60 then rt (nearby false 1 (-1) neg)
    else if top ≥ 12 then rt (if neg then nearby false 1 (-5000) false else nearby false 1 0 true)
    else if one.isNaN then f.nan
    else fun1Try fn f ftz neg m e 4 256

/-- A function of R78 on an encoding, with the table of special inputs. -/
def fun1 (fn : Fun1) (f : FFmt) (ftz : Bool) (x : FVal) : Nat :=
  let rt := roundTo f .rn ftz false
  let one : FVal := .fin false 1 0 false
  match x with
  | .nan => f.nan
  | .inf neg =>
    match fn with
    | .ex2 => rt (if neg then .zero false else .inf false)
    | .lg2 => if neg then f.nan else rt (.inf false)
    | .sin | .cos => f.nan
    | .tanh => rt (.fin neg 1 0 false)
    | .sigm => rt (if neg then .zero false else one)
  | .fin neg m e _ =>
    if m == 0 then
      match fn with
      | .ex2 | .cos => rt one
      | .lg2 => rt (.inf true)
      | .sin | .tanh => rt (.zero neg)
      | .sigm => rt (.fin false 1 (-1) false)
    else fun1Fin fn f ftz neg m e

/-! ### Minimum and maximum (R79) -/

/-- FMIN and FMAX on encodings: minimumNumber and maximumNumber, bits unchanged. -/
def fMinMax (f : FFmt) (isMax : Bool) (x y : Nat) : Nat :=
  let a := f.decode x
  let b := f.decode y
  if a.isNaN then (if b.isNaN then f.nan else y)
  else if b.isNaN then x
  else
    let neg := bitsAt x (f.bits - 1) 1 == 1
    let lt := match a.cmp b with
      | .lt => true
      | .gt => false
      | .eq => neg
    if lt != isMax then x else y

/-! ### The stochastic source (R49) -/

/-- Step the state; Rand16 is its upper half. -/
def randStep (g : Word) : Word :=
  let g1 := g ^^^ (g <<< 13)
  let g2 := g1 ^^^ (g1 >>> 17)
  g2 ^^^ (g2 <<< 5)

/-- The seed of a lane from t and the launch ID (R49). -/
def randSeed (t : Nat) (launch : DWord) : Word :=
  let x := launch.setWidth 32 ^^^ BitVec.ofNat 32 (t * 0x9E3779B9)
  if x == 0 then 1 else x

/-! ### Conversions (R29, R81, R82) -/

/-- The floating format of a code, none for integers and code 15. -/
def Fmt.ffmt : Fmt → Option FFmt
  | .f32 => some fmt32 | .f16 => some fmt16 | .bf16 => some fmtB16 | .f64 => some fmt64 | .e4m3 => some fmtE4M3
  | .e5m2 => some fmtE5M2 | .e2m3 => some fmtE2M3 | .e3m2 => some fmtE3M2 | .e2m1 => some fmtE2M1
  | .i32 | .n32 | .i64 | .i16 | .i8 | .n8 | .slot => none

/-- Width and signedness of an integer format. -/
def Fmt.intTy : Fmt → Nat × Bool
  | .i32 => (32, true) | .n32 => (32, false) | .i64 => (64, true) | .i16 => (16, true) | .i8 => (8, true)
  | .n8 => (8, false)
  | .f32 | .f16 | .bf16 | .f64 | .e4m3 | .e5m2 | .e2m3 | .e3m2 | .e2m1 | .slot => (32, true)

/-- Least and greatest value of an integer type. -/
def intRange (w : Nat) (signed : Bool) : Int × Int :=
  if signed then (-(2 ^ (w - 1) : Int), 2 ^ (w - 1) - 1) else (0, 2 ^ w - 1)
/-- Sat of R35. -/
def satInt (w : Nat) (signed : Bool) (x : Int) : Int :=
  let (lo, hi) := intRange w signed
  max lo (min hi x)
/-- The bit pattern of an integer in `w` bits (Wrap of R35). -/
def patOf (w : Nat) (x : Int) : Nat := (x % (2 ^ w : Int)).toNat
/-- Read a pattern as an integer of a type. -/
def intOf (w : Nat) (signed : Bool) (x : Nat) : Int := if signed then sext w x else (x % 2 ^ w : Nat)

/-- Convert one value (R81, R82): pattern in the source format to pattern in the destination format. -/
def convert (dst src : Fmt) (r : RMode) (sat : Bool) (x : Nat) : Nat :=
  match Fmt.ffmt src, Fmt.ffmt dst with
  | some fs, some fd =>
    let v := fs.decode (x % 2 ^ fs.bits)
    if src == dst then (if v.isNaN then fd.nan else x % 2 ^ fs.bits) else roundTo fd r false sat v
  | some fs, none =>
    let (w, sg) := Fmt.intTy dst
    match roundInt r (fs.decode (x % 2 ^ fs.bits)) with
    | .nan => 0
    | .inf neg => patOf w (if neg then (intRange w sg).1 else (intRange w sg).2)
    | .int v => patOf w (satInt w sg v)
  | none, some fd =>
    let (w, sg) := Fmt.intTy src
    roundTo fd r false sat (.ofInt (intOf w sg x) 0)
  | none, none =>
    let (w, sg) := Fmt.intTy src
    let (wd, sd) := Fmt.intTy dst
    patOf wd (if sat then satInt wd sd (intOf w sg x) else intOf w sg x)

/-- Extend a narrow destination pattern to its register (R81). -/
def widenDst (dst : Fmt) (x : Nat) : Nat :=
  match dst with
  | .i16 => patOf 32 (sext 16 x)
  | .i8 => patOf 32 (sext 8 x)
  | .f32 | .f16 | .bf16 | .f64 | .e4m3 | .e5m2 | .e2m3 | .e3m2 | .e2m1 | .i32 | .n32 | .i64 | .n8 | .slot => x

/-! ### Format slots (R58, R59) and blocks (R51 to R56) -/

/-- A decoded format slot word. -/
structure FSlot where
  kind : Nat
  width : Nat
  blog : Nat
  scale : Nat
  rnd : Nat
  sat : Bool
  ok : Bool
  deriving DecidableEq, Repr

/-- Read a format slot word (R58, R59). -/
def FSlot.ofWord (w : Word) : FSlot :=
  let x := w.toNat
  let kind := bitsAt x 0 4
  let width := bitsAt x 4 5
  let blog := bitsAt x 9 4
  let scale := bitsAt x 13 2
  let rnd := bitsAt x 15 2
  let shape := (kind == 15 && 2 ≤ width && width ≤ 16 && scale == 1 && 4 ≤ blog && blog ≤ 6) ||
    (4 ≤ kind && kind ≤ 8 && width == 0 && scale == 1 && 4 ≤ blog && blog ≤ 6) ||
    (kind ≤ 14 && width == 0 && scale == 0 && blog == 0)
  ⟨kind, width, blog, scale, rnd, bitsAt x 17 1 == 1, bitsAt x 18 14 == 0 && rnd != 3 && shape⟩

/-- The slot is of the plain shape. -/
def FSlot.plain (s : FSlot) : Bool := s.ok && s.scale == 0
/-- The slot is BFP or scaled narrow. -/
def FSlot.block (s : FSlot) : Bool := s.ok && s.scale == 1
/-- The element format of a slot's KIND 0 to 14. -/
def FSlot.fmt (s : FSlot) : Fmt := Fmt.ofCode (BitVec.ofNat 4 s.kind)
/-- Element width in bits of a block (R51, R53). -/
def FSlot.elemW (s : FSlot) : Nat := if s.kind == 15 then s.width else Fmt.width s.fmt

/-- Kmax of R56. -/
def kMax : Fmt → Int
  | .e4m3 => 8 | .e5m2 => 15 | .e2m3 => 2 | .e3m2 => 4 | .e2m1 => 2
  | .f32 | .f16 | .bf16 | .f64 | .i32 | .n32 | .i64 | .i16 | .i8 | .n8 | .slot => 0

/-- Largest exponent of a block's finite values, −127 when all are zero (R55). -/
def blockEmax : List FVal → Int → Bool → Int
  | [], e, seen => if seen then e else -127
  | .fin _ m x _ :: r, e, seen =>
    if m == 0 then blockEmax r e seen
    else
      let y := x + (Nat.log2 m : Int)
      blockEmax r (if seen then max e y else y) true
  | _ :: r, e, seen => blockEmax r e seen

/-- Some value is NaN or infinite. -/
def blockNaN (xs : List FVal) : Bool := xs.any fun x => match x with
  | .fin _ _ _ _ => false
  | _ => true

/-- Clamp to a range of naturals. -/
def clampNat (x : Int) (lo hi : Nat) : Nat := (max (lo : Int) (min (hi : Int) x)).toNat

/-- The E8M0 byte of a block of values (R55, R56). -/
def blockScale (s : FSlot) (xs : List FVal) : Nat :=
  if blockNaN xs then 0xFF
  else
    let em := blockEmax xs 0 false
    if s.kind == 15 then clampNat (em + 127) 0 254 else clampNat (em - kMax s.fmt + 127) 0 254

/-- One element of a block with the scale byte given (R55, R56). -/
def blockElem (s : FSlot) (scale : Nat) (r : RMode) (x : FVal) : Nat :=
  if scale == 0xFF then 0
  else if s.kind == 15 then
    match roundInt r (x.scale ((s.width : Int) - 2 - ((scale : Int) - 127))) with
    | .int v => patOf s.width (satInt s.width true v)
    | .inf _ => 0
    | .nan => 0
  else match Fmt.ffmt s.fmt with
    | some f => roundTo f r false s.sat (x.scale (127 - (scale : Int)))
    | none => 0

/-- The value of a block element (R51, R52). -/
def blockVal (s : FSlot) (scale : Nat) (code : Nat) : FVal :=
  if scale == 0xFF then .nan
  else if s.kind == 15 then
    let m := sext s.width code
    .ofInt m ((scale : Int) - 127 - ((s.width : Int) - 2))
  else match Fmt.ffmt s.fmt with
    | some f => (f.decode (code % 2 ^ f.bits)).scale ((scale : Int) - 127)
    | none => .nan

/-- Whether a header describes a block of the slot (R54). -/
def headerOk (s : FSlot) (h : Nat) : Bool := bitsAt h 13 19 == 0 && bitsAt h 8 4 == s.blog

end Sys2Proof.Machine
end

