-- ==== Sys2Proof/Config.lean ====
section
/-! DEFINITION. What an implementation fixes and what the manual leaves open: fixed counts of the package (R2) and the
free values. A free value is opaque, so no proof can see which value it is. -/

namespace Sys2Proof.Config

/-- Lanes of a group outside CM16 (R5). -/
def groupLanes : Nat := 32
/-- Cores of the package (R2). -/
def cores : Nat := 512
/-- Compute dies (R2). -/
def dies : Nat := 4
/-- Clusters (R2). -/
def clusters : Nat := 16
/-- Quads, one matrix engine each (R2). -/
def quads : Nat := 128
/-- Hardware queues (R2, R377). -/
def queues : Nat := 32768
/-- Tile-cache slices of the package (R300). -/
def slices : Nat := 2048
/-- Lines of a slice: 1 MiB of 256 bytes, in sets of 16 (R299). -/
def sliceLines : Nat := 4096
/-- Lines of a set of a slice (R299). -/
def sliceWays : Nat := 16
/-- Tentative lines of a slice: one quarter (R277). -/
def sliceTentative : Nat := 1024
/-- Lines of a core's L1: 384 KiB of 128 bytes, in sets of 8 (R2, R297). -/
def l1Lines : Nat := 3072
/-- Lines of a set of the L1 (R297). -/
def l1Ways : Nat := 8
/-- Entries of a core TLB, a last-level TLB and an edge TLB (R2, R411). -/
def coreTlb : Nat := 512
/-- Entries of a last-level TLB (R2, R411). -/
def lastTlb : Nat := 196608
/-- Entries of an edge TLB (R2, R411). -/
def edgeTlb : Nat := 8192
/-- Group slots of a quarter (R2, R250). -/
def quarterSlots : Nat := 16
/-- Unacknowledged packets a source holds in a flow (R442). -/
def flowWindow : Nat := 32768

/-- FREE VALUE (log entry 1): a value the manual does not state, one for each reading of the state's counter. -/
opaque freeDWord : Nat → BitVec 64
/-- FREE VALUE (log entry 7): the interleave that an image's section of type 6 stands for: a slice for the context, tensor, tile and
line of a key (R300, R458). -/
opaque interleave : List (BitVec 8) → Nat → Nat → Nat → Nat → Nat
/-- FREE VALUE (log entry 102): the die on which the scheduler of queues takes the wakes of WIDX (R381, R442). -/
opaque schedulerDie : Nat
/-- The slice that serves an access from outside the device to a physical address at a cycle, where no line of the address is held and so
nothing tells its key (R447; log entry 7). -/
opaque paSlice : Nat → Nat → Nat
/-- FREE VALUE (log entry 107): whether the firmware has selected the ordered mode for a class of flows (R442). -/
opaque flowOrdered : Nat → Bool
/-- FREE VALUE (log entry 105): whether the host performs the AtomicOps that it is sent (R449). -/
opaque hostAtomics : Bool
/-- FREE VALUE (log entry 3): firmware operation F of ATOMX number n on size bytes: new value and returned value from
the old value and the operand (R128, R460). -/
opaque atomxFun : Nat → Nat → BitVec 128 → BitVec 128 → BitVec 128 × BitVec 128
/-- FREE VALUE (log entry 4): whether a signature by a key over a message verifies (ML-DSA-65 over SHAKE256, R459, R486). -/
opaque sigVerifies : List (BitVec 8) → List (BitVec 8) → List (BitVec 8) → Bool
/-- FREE VALUE (log entry 4): the SHAKE256 digest of a message, in n bytes (R459, R485). -/
opaque shake256 : Nat → List (BitVec 8) → List (BitVec 8)
/-- FREE VALUE (log entry 4): the signature of the device's identity key over a message (R485). -/
opaque identitySign : List (BitVec 8) → List (BitVec 8)
/-- FREE VALUE (log entry 4): the identity public key and Varkisin's certificate of it (R485). -/
opaque identityKey : List (BitVec 8)
/-- FREE VALUE (log entry 4): the certificate of the identity key (R485). -/
opaque identityCert : List (BitVec 8)
/-- FREE VALUE (log entry 4): the fused digest of the root key, 32 bytes (R459). -/
opaque rootKeyDigest : List (BitVec 8)
/-- FREE VALUE (log entry 4): the fused device identity, 16 bytes (R485). -/
opaque devId : List (BitVec 8)
/-- FREE VALUE (log entry 42): the row, within its 2 MiB frame, of HBM that holds a physical address (R482). -/
opaque hbmRow : Nat → Nat
/-- FREE VALUE (log entry 5): how many 1 KiB chunks the compressed form of a 4 KiB page takes (R480, R481). -/
opaque compressedChunks : List (BitVec 8) → Nat

end Sys2Proof.Config
end

