-- ==== Sys2Proof/Machine/State.lean ====
section
/-! DEFINITION. The state of the machine as plain data: every piece of state the manual gives the package, from the lanes
of a group to the registers of the host ports, and the model's own fields (`agenda`, `cur`, `nextId`, `freeCtr`),
which choose the next step and number what is in flight. -/

namespace Sys2Proof.Machine

/-- A sparse array: keys rising, no entry equal to what an unlisted key reads as. -/
abbrev Sparse (α : Type) := List (Nat × α)

/-! ### Groups (R14, R199, R204, R205, R247, R254) -/

/-- The wait a group stands in (R247). -/
inductive WaitKind where
  | barSync | bwait | waitb | waitc | mxwait | shpwait | gsync | sleep | tile
  deriving DecidableEq, Repr

/-- A full structure that a stalled group waits for (R148, R312, R342). -/
inductive Claim where
  | scoreboard | table | batch
  deriving DecidableEq, Repr

/-- State of a group (R247). -/
inductive GroupSt where
  | ready | stalled | waiting (k : WaitKind) | parked | held | ended
  deriving DecidableEq, Repr

/-- An entry of the split table (R254). -/
structure SplitEntry where
  join : BitVec 16
  target : BitVec 16
  mask : Word
  deriving DecidableEq, Repr

/-- The supervisor register set (R415); predicates are lane masks. -/
structure SupSet where
  s0 : Word
  a14 : DWord
  a15 : DWord
  p13 : Word
  p14 : Word
  deriving DecidableEq, Repr

/-- A fault record's fields (R421); STATE and SEQ as posted. -/
structure FaultRec where
  va : DWord
  ctx : Nat
  source : Nat
  kind : Nat
  access : Nat
  state : Nat
  level : Nat
  launch : DWord
  unit : Nat
  loc : Nat
  detail0 : DWord
  detail1 : DWord
  deriving DecidableEq, Repr

/-- A SIMT group (in CM16 a half-group) of a unit (R247). Vector registers are keyed by 32 r + lane, scalar and address
registers by index, predicates by index with a lane mask as value. `wcVals` holds the lanes a WAITC has resolved with their
values, `mid` marks an .sc access whose own write or reply is on its way, or a TLBINV or ICINV that has begun (R216, R324).
`readyFrom` is the cycle from which it has been READY without issuing and `passAt` the cycle at which it is passed over (R250),
`claim` the full structure it waits for and since when (R312, R342), `tileFrom` the tile an LDM or STM waits for and the number
of the first later task (R119), `mxCode` the handle an MXWAIT waits for and its final code once it has one (R169), `wakeBy` the
cycle before which a woken WAITC reads again (R338). -/
structure Group where
  st : GroupSt
  pc : DWord
  mask : Word
  split : List SplitEntry
  v : Sparse Word
  s : Sparse Word
  a : Sparse DWord
  p : Sparse Word
  stoch : Sparse Word
  sup : Bool
  supset : SupSet
  retpc : DWord
  retmask : Word
  entryMask : Word
  cause : BitVec 8
  tdepth : Nat
  trapcause : Word
  trapva : DWord
  trapmask : Word
  faultrec : DWord
  record : Option FaultRec
  supSince : Nat
  hprio : BitVec 2
  openB : Word
  sealed : List Word
  perf : Sparse DWord
  startedAt : Nat
  readyAt : Nat
  sleepUntil : Nat
  relFloor : Nat
  wcVals : List (Nat × Nat)
  wcPoll : Bool
  mid : Bool
  spatB : Option Word
  parkedOn : Option (Nat × Nat)
  fbuf : Sparse (Slot × Bool)
  readyFrom : Option Nat
  passAt : Nat
  claim : Option (Claim × Nat)
  tileFrom : Option (Nat × Nat)
  mxCode : Option (Word × Option Nat)
  wakeBy : Nat
  deriving DecidableEq, Repr

/-! ### Copy commands, slabs, tile tasks (R136 to R176, R342) -/

/-- The kinds of command in a copy queue (R136, R173). -/
inductive CmdKind where
  | cpy | cpyt | cpyg (size : Nat) | cpys | cpysx | tchalo | tcinv (wb : Bool) | tcwb | slabld
  deriving DecidableEq, Repr

/-- A copy command: `dst` and `src` as its entry names them, `lanes` the indices of a CPYG, `sb` its scoreboard range
with true for a destination, `todo` the line-sized requests not yet performed as offset and length. `res` is the first resolution
its guard met, true when it has no guard (R138, R171); `time` is the logical time of what it has read and written (R326). -/
structure Cmd where
  id : Nat
  kind : CmdKind
  grp : Nat
  batch : Word
  guard : Option Nat
  res : Option Bool
  len : Nat
  dst : DWord
  src : DWord
  opb : Word
  bar : Option Nat
  barUnit : Nat
  lanes : List (Nat × Word)
  sb : Option (Nat × Nat × Bool)
  slab : Nat
  started : Bool
  discard : Bool
  todo : List (Nat × Nat)
  fault : Option (Nat × Nat)
  time : Nat
  deriving DecidableEq, Repr

/-- A slab of a unit (R173, R174). -/
structure Slab where
  handle : BitVec 16
  granules : Nat
  len : Nat
  data : Sparse Byte
  live : Bool
  loaded : Bool
  deriving DecidableEq, Repr

/-- Status of a tile task (R167). -/
inductive TaskSt where
  | queued | running | done | discarded | cancelled | badwait | badstream | stalled
  deriving DecidableEq, Repr

/-- An entry of a reservation table (R162, R342); `desc` is the 64-byte record, `pass` marks a pass under way, `res` is
the first resolution its guard met, `coords` and `vals` are the streams a sparse task's engine holds (R349), `got` the operand bytes
that the generators have delivered for the pass (R350), `eligAt` the cycle since when it has been eligible (R346), `time` the logical
time of what it has read (R326). -/
structure Task where
  unit : Nat
  grp : Nat
  batch : Word
  handle : Word
  desc : BitVec 512
  st : TaskSt
  age : Nat
  seq : Nat
  cls : Nat
  res : Option Bool
  passed : Nat
  k0 : Nat
  home : Nat
  engine : Nat
  granted : Bool
  pass : Bool
  coords : List Nat
  vals : List Byte
  got : List Byte
  eligAt : Option Nat
  fault : Option (Nat × Nat)
  time : Nat
  deriving DecidableEq, Repr

/-- A matrix engine's times (R344, R346); `busyAt` is the last cycle at which a record was eligible on it, and `freed` how many entries
of its quad's table were freed in the cycle before `freedAt` (R352). -/
structure Engine where
  n : Nat
  busyAt : Nat
  lastGrant : Nat
  lastEnd : Nat
  lastMove : Nat
  freedAt : Nat
  freed : Nat
  deriving DecidableEq, Repr

/-! ### Spatial configurations (R225 to R231, R257 to R270, R432) -/

/-- A queue of a configuration (R226, R257). -/
structure SQueue where
  core : Nat
  idx : Nat
  depth : Nat
  stage : Nat
  prodCore : Nat
  prodLane : Nat
  prod : Nat
  consCore : Nat
  consLane : Nat
  toks : List Word
  resv : Nat
  deriving DecidableEq, Repr

/-- A pending stream read's destination (R268, R432): a queue of a core, or a temporary of the operator. -/
inductive PortDst where
  | queue (core q : Nat)
  | temp (op t : Nat)
  deriving DecidableEq, Repr

/-- A read a port has issued and not placed: element position, address, destination. -/
structure PortRead where
  pos : Nat
  va : DWord
  gather : Bool
  skip : Bool
  dst : PortDst
  deriving DecidableEq, Repr

/-- A write of a port posted behind a fault (R265, R268). -/
structure PortWrite where
  pos : Nat
  va : DWord
  val : Word
  deriving DecidableEq, Repr

/-- A stream port (R192, R193, R226, R264); `tlb` is its translation entry: virtual page, physical page, log2 size. -/
structure SPort where
  core : Nat
  port : Nat
  write : Bool
  esize : Nat
  base : DWord
  baseGrp : Nat
  baseReg : Nat
  stride : Int
  count : Nat
  pos : Nat
  reads : List PortRead
  writes : List PortWrite
  tlb : Option (Nat × Nat × Nat)
  fault : Option (Nat × Nat)
  deriving DecidableEq, Repr

/-- An operator lane (R189, R190, R226); `pc` is the virtual address of the current slot (R14), `resume` the next instruction of a
firing under way, from 1, and 0 where none is; `toks` are the head tokens the firing has taken. -/
structure SOper where
  core : Nat
  lane : Nat
  reps : Nat
  pc : DWord
  code : List Slot
  t : Sparse Word
  p : Sparse Bool
  stoch : Word
  fired : Nat
  resume : Nat
  toks : List (Nat × Word)
  deriving DecidableEq, Repr

/-- A live-in or live-out (R226): group, register, lane, core, operator lane, temporary. -/
structure SLive where
  grp : Nat
  reg : Nat
  lane : Nat
  core : Nat
  olane : Nat
  temp : Nat
  deriving DecidableEq, Repr

/-- Step of a mode switch (R266). -/
inductive SpatStep where
  | load | check | run | exit
  deriving DecidableEq, Repr

/-- A spatial configuration of a unit (R266, R432); `exitAt` is the cycle in which SPEXIT fired and the lane that fired it (R195),
`drain` names the operators that begin no new firing while a delta waits for them (R404). -/
structure Spat where
  step : SpatStep
  image : Nat
  sig : Option DWord
  cluster : Nat
  row : Nat
  col : Nat
  rows : Nat
  cols : Nat
  need : Word
  ops : List SOper
  queues : List SQueue
  ports : List SPort
  ins : List SLive
  outs : List SLive
  exitVal : Word
  exitAt : Option (Nat × Nat)
  firings : Nat
  freezes : Nat
  frozen : Bool
  drain : List Nat
  deriving DecidableEq, Repr

/-! ### Units (R242 to R249, R427) -/

/-- State of a unit (R244). -/
inductive UnitSt where
  | pending | resident | saved | ended | retired | frogged
  deriving DecidableEq, Repr

/-- A unit of a launch, or the service program's unit of a cluster (`svc`). `core` is the core it holds or last held;
`part` its partition word; V, S, CM16 and NIMG as read from its kernel header (R218). Accumulators are keyed by
8192 tile + 256 row + column, `finals` holds the final codes of recent handles (R169), `barTime` the logical time carried
by each barrier object (R145), `engTime` that of its completed commands and tasks (R326), `lastSet` by guard slot the cycle, plus one, and the group of its last
GSET (R172), `saveAt` the save area's address and
chunks (R427), `seek` the image for which the placer moves the unit to another cluster (R267). -/
structure Unit where
  launch : DWord
  stage : Nat
  idx : Nat
  st : UnitSt
  svc : Bool
  core : Nat
  firm : Bool
  ctx : Nat
  khdr : DWord
  part : Word
  nv : Nat
  ns : Nat
  cm16 : Bool
  nimg : Nat
  groups : List Group
  spad : Sparse Byte
  acc : Sparse Word
  guards : List (Option Bool)
  lastSet : Sparse (Nat × Nat)
  barArr : List Nat
  nextHandle : Word
  finals : List (Word × TaskSt)
  slabs : List Slab
  staged : List (Word × Word)
  copyq : List Cmd
  spat : Option Spat
  exitVal : Word
  exitImage : Word
  firings : DWord
  freezes : Word
  barTime : Sparse Nat
  spadTime : Nat
  engTime : Nat
  since : Nat
  waitSince : Nat
  eligible : Bool
  promoting : Bool
  saveAt : Option (DWord × Nat)
  saveTC : Nat
  seek : Option Nat
  deriving DecidableEq, Repr

/-! ### Flows (R442) -/

/-- A packet of a flow (R442): source and destination (dies are 0 to 3, host ports 4 and 5, UALink 6), class, and sequence
number modulo 2^16. -/
structure Pkt where
  src : Nat
  dst : Nat
  cls : Nat
  seq : Nat
  deriving DecidableEq, Repr

/-- A flow (R442): its next sequence number. -/
structure Flow where
  src : Nat
  dst : Nat
  cls : Nat
  next : Nat
  deriving DecidableEq, Repr

/-! ### Launches, graphs, stages (R362 to R376) -/

/-- A stage of a pipelined launch (R368, R273); `toks` is its output queue, `out` holds retired units' tokens that wait
for lower indices. -/
structure Stage where
  khdr : DWord
  part : Word
  cons : Nat
  prod : Nat
  outOff : Nat
  minR : Nat
  maxR : Nat
  tokSize : Nat
  depth : Nat
  units : Nat
  nextStart : Nat
  nextOut : Nat
  replicas : Nat
  resv : Nat
  toks : List (List Byte)
  out : List (Nat × List (List Byte))
  banks : Sparse Byte
  deriving DecidableEq, Repr

/-- A retractable allocation (R372): unit, amount, counter address. -/
structure Retract where
  unit : Nat
  amount : Word
  ctr : DWord
  deriving DecidableEq, Repr

/-- An entry of a configuration delta (R403): KIND, CORE, SEL, VALUE, and the bytes it brings, those of an operator entry or a base
address. -/
structure DeltaEnt where
  kind : Nat
  core : Nat
  sel : Nat
  value : DWord
  data : List Byte
  deriving DecidableEq, Repr

/-- An entry of a delta that has been applied, with the stage and image it patches (R404). -/
structure Patch where
  stage : Nat
  image : Nat
  ent : DeltaEnt
  deriving DecidableEq, Repr

/-- A launch (R246, R275, R363 to R366): the latched record and its run state; `sigAbort` says that the watched completion signal
has become negative (R376), `failing` when a group stopped, where the launch is still to be cancelled for it (R200, R425), `leaves`
that step 4 of its completion remains (R366). `banks` is keyed by 1024 bank + byte, `home` is
the cluster of a pipelined launch, `acq` says that its packet acquires at start (R385), `evalAt` the cycle
of the last evaluation of its stages (R274), and `base` how many units of any launch had started before it. -/
structure Launch where
  id : DWord
  queue : Nat
  packet : Nat
  recAddr : DWord
  ctx : Nat
  khdr : DWord
  part : Word
  gx : Word
  gy : Word
  gz : Word
  shape : DWord
  cast : Word
  hint : Word
  maxc : Word
  pmode : Word
  retracts : List Retract
  fs : List Word
  banks : Sparse Byte
  tmap : DWord
  graph : Word
  phase : Word
  job : Word
  csig : DWord
  prio : Nat
  deadlineAt : Option Nat
  stages : List Stage
  needPolicy : Bool
  startedAt : Nat
  evalAt : Nat
  nunits : Nat
  pred : Nat
  trueCount : Option Nat
  bound : Bool
  boundAtStart : Bool
  cancelled : Bool
  aborted : Bool
  sigAbort : Bool
  uncorr : Bool
  faulted : Option (Nat × Nat)
  failing : Option Nat
  done : Bool
  leaves : Bool
  status : Word
  patches : List Patch
  home : Option Nat
  acq : Bool
  base : Nat
  deriving DecidableEq, Repr

/-- A graph, phase or job (level 1, 2, 3) of a context with the phase and job it was first named with (R373, R374). -/
structure Level where
  ctx : Nat
  lvl : Nat
  id : Word
  phase : Word
  job : Word
  members : Nat
  closed : Bool
  cancelled : Bool
  sig : DWord
  sigQueue : Nat
  deriving DecidableEq, Repr

/-- An entry of the swatch table (R369), newest recording first in the list. -/
structure Swatch where
  ctx : Nat
  khdr : DWord
  counts : List Word
  deriving DecidableEq, Repr

/-! ### Queues (R377 to R402) -/

/-- A window of a queue program (R393). -/
structure QWin where
  base : DWord
  size : Nat
  acc : Nat
  deriving DecidableEq, Repr

/-- What a started packet still waits for (R384, R399). -/
inductive Action where
  | launch (id : DWord)
  | copy (id : Nat)
  | cancel (lvl : Nat) (id : DWord)
  | delta (id : Nat)
  deriving DecidableEq, Repr

/-- A started packet that has not completed (R384, R385). -/
structure Started where
  index : Nat
  fin : Bool
  rels : Nat
  csig : DWord
  acts : List Action
  deriving DecidableEq, Repr

/-- A wait of a queue program or barrier packet (R388, R399): signal addresses, OR form, destination register. -/
structure QWait where
  sigs : List DWord
  any : Bool
  d : Nat
  deriving DecidableEq, Repr

/-- A hardware queue (R378 to R385, R394). `win1` is window 1, `pkt` the current packet's slots; `taken` marks a
queue that is to give up its slot, `slot` is its slot on its die (R381), `wakePkt` the packet of a wake on its way (R442), `refetch`
counts failed checks of a packet (R392). `held` marks a queue that an interpreter holds, `readyFrom` is the cycle from which it has
been ready and `passed` counts the selections that passed it over since (R382); a write `woken` the queue that waits, which evaluates again by `wakeBy`
(R388); `lrec` is the launch record that the current LAUNCH or
LNCH has read (R362), `lfail` the record of its start that the driver has failed (launch, VA and SEQ, R364, R422), `joined` says that its launch is counted in its graph, phase and job (R374). -/
structure Queue where
  n : Nat
  enabled : Bool
  stopping : Bool
  ring : DWord
  logn : Nat
  cls : Nat
  ctx : Nat
  notify : DWord
  prog : DWord
  ridx : Nat
  widx : Nat
  error : Option Nat
  die : Option Nat
  slot : Nat
  held : Bool
  passed : Nat
  readyFrom : Option Nat
  mappedAt : Nat
  idleSince : Nat
  wake : Bool
  wakePkt : Option Pkt
  taken : Bool
  code : List Word
  wins : List QWin
  w : Sparse DWord
  pc : Nat
  loops : Sparse Nat
  win1 : Sparse Byte
  pkt : List Byte
  pktIdx : Nat
  busy : Bool
  steps : Nat
  launches : Nat
  lrec : Option (List Byte)
  lfail : Option (DWord × DWord × Nat)
  joined : Bool
  wait : Option QWait
  woken : Bool
  wakeBy : Nat
  fault : Option (Nat × Nat)
  refetch : Nat
  refetchAt : Nat
  started : List Started
  deriving DecidableEq, Repr

/-- A copy of a COPY packet or XFER action (R386, R399). -/
structure FrontCopy where
  id : Nat
  queue : Nat
  packet : Nat
  ctx : Nat
  dst : DWord
  src : DWord
  len : Nat
  pos : Nat
  fault : Option (Nat × Nat)
  deriving DecidableEq, Repr

/-- A configuration delta that has passed its checks (R404): launch, stage and image it patches, entries. -/
structure Delta where
  id : Nat
  launch : DWord
  stage : Nat
  image : Nat
  entries : List DeltaEnt
  deriving DecidableEq, Repr

/-! ### Memory paths (R296 to R302, R329 to R337, R436 to R454) -/

/-- The key of a tile-cache line (R299). -/
structure Key where
  ctx : Nat
  tensor : Nat
  tile : Nat
  line : Nat
  deriving DecidableEq, Repr

/-- A line of the tile cache (R299, R301, R329): the home's line, or a proxy copy on `die` (R439). `segs` maps stretches
of the line (offset, length) to physical addresses; `data` and `dirty` are by offset. -/
structure Line where
  key : Key
  proxy : Bool
  die : Nat
  segs : List (Nat × Nat × Nat)
  data : Sparse Byte
  dirty : List Nat
  rts : Nat
  wts : Nat
  lock : Option (Nat × Nat)
  deriving DecidableEq, Repr

/-- A tentative line of a unit (R277): the bytes written. -/
structure TentLine where
  unit : Nat
  key : Key
  data : List (Nat × Byte)
  deriving DecidableEq, Repr

/-- A sector in a core's L1 (R297, R329): 32 bytes and the lease end. -/
structure L1Sector where
  core : Nat
  ctx : Nat
  va : Nat
  data : List Byte
  le : Nat
  wts : Nat
  deriving DecidableEq, Repr

/-- Places that cache translations (R411). -/
inductive TlbPlace where
  | core (n : Nat)
  | last (die : Nat)
  | edge (die : Nat)
  deriving DecidableEq, Repr

/-- A cached translation (R407, R411); `table` marks the level-2 entry of a 2 MiB range of smaller pages, whose table lies at `pa`. -/
structure TlbEnt where
  place : TlbPlace
  ctx : Nat
  va : Nat
  size : Nat
  pa : Nat
  write : Bool
  exec : Bool
  sup : Bool
  dirty : Bool
  table : Bool
  deriving DecidableEq, Repr

/-- A slot in a core's instruction cache (R456); `sup` marks one fetched from a page for supervisor state alone (R407). -/
structure ISlot where
  core : Nat
  ctx : Nat
  va : Nat
  word : Slot
  sup : Bool
  deriving DecidableEq, Repr

/-- Where a loaded piece goes: register key, byte within it and source byte within the sector. -/
structure LoadDst where
  reg : Nat
  scal : Bool
  pos : Nat
  off : Nat
  len : Nat
  deriving DecidableEq, Repr

/-- A load sector in flight (R115, R296); `tc` is the core's logical time at its request (R329), `pkt` its packet where it leaves
the die (R442). -/
structure PendLoad where
  id : Nat
  unit : Nat
  grp : Nat
  va : Nat
  pa : Nat
  dsts : List LoadDst
  acq : Bool
  tc : Nat
  pkt : Option Pkt
  deriving DecidableEq, Repr

/-- A store of one lane in flight (R115, R297): its first byte's virtual and physical address, and the bytes it writes,
by virtual address. -/
structure PendStore where
  id : Nat
  unit : Nat
  grp : Nat
  core : Nat
  ctx : Nat
  va : Nat
  pa : Nat
  bytes : List (Nat × Byte)
  rel : Bool
  floor : Nat
  wts : Option Nat
  pkt : Option Pkt
  deriving DecidableEq, Repr

/-- Kinds of request to a home (R461); `store` is a plain write by the front end. -/
inductive ReqKind where
  | atom | red | cas | atomx | store
  deriving DecidableEq, Repr

/-- An atomic of one lane on its way to a service group (R122, R332, R461). `reg` is the first destination register of
the lane; `index` the request's number in the cluster's queue once a service program holds it; `wts` is the stamp its write
must reach, and once it is performed the one its issuer takes; `ext` marks an RMW of a peer, whose `va` is
a physical address and whose `slot` is its whole RSLOT word (R454), `arrived` a request that has reached its service group and
waits there (R332, R414), `replied` one whose reply has arrived before TAIL passed it (R461, R462). -/
structure Req where
  id : Nat
  kind : ReqKind
  code : Nat
  size : Nat
  ord : Nat
  scope : Nat
  unit : Nat
  grp : Nat
  launch : DWord
  core : Nat
  ctx : Nat
  va : Nat
  op0 : BitVec 128
  op1 : BitVec 128
  lane : Nat
  reg : Nat
  slot : Nat
  cluster : Nat
  index : Option Nat
  performed : Bool
  reply : Option (BitVec 128)
  halves : Nat
  wts : Nat
  batch : Word
  ext : Bool
  fault : Option (Nat × Nat)
  arrived : Bool
  replied : Bool
  pkt : Option Pkt
  deriving DecidableEq, Repr

/-- Who waits at a condition monitor (R337, R376, R388): a group, a queue, or a launch that watches its completion signal. -/
inductive Watcher where
  | group (u g : Nat)
  | queue (q : Nat)
  | launch (id : DWord)
  deriving DecidableEq, Repr

/-- A condition monitor of an 8-byte word (R132, R337). -/
structure Monitor where
  who : Watcher
  ctx : Nat
  va : Nat
  deriving DecidableEq, Repr

/-- The last FENCE.sc of a group at a scope and the time it gave (R323). -/
structure ScFence where
  unit : Nat
  grp : Nat
  cluster : Nat
  scope : Nat
  time : Nat
  deriving DecidableEq, Repr

/-- The name of a line of the tile cache. -/
structure LineName where
  key : Key
  proxy : Bool
  die : Nat
  deriving DecidableEq, Repr

/-- Entry of a die's region directory (R440): presence bits by die. -/
structure Region where
  die : Nat
  base : Nat
  k : Nat
  present : List Nat
  lastInv : Nat
  deriving DecidableEq, Repr

/-- Entry of a die's peer directory (R447, R454). -/
structure PeerEnt where
  die : Nat
  base : Nat
  sharers : List Nat
  coarse : Bool
  host : Bool
  since : Nat
  deriving DecidableEq, Repr

/-- An invalidation round in progress (R439, R454): target die, peer or host, the region, and the write that waits. -/
inductive InvTarget where
  | die (n : Nat)
  | peer (n : Nat)
  | host
  deriving DecidableEq, Repr

/-- One invalidation that has not been acknowledged, and its packet (R442). -/
structure Inval where
  id : Nat
  target : InvTarget
  base : Nat
  size : Nat
  pkt : Option Pkt
  deriving DecidableEq, Repr

/-- A registered tensor as installed on the dies (R303, R305). -/
structure Tensor where
  ctx : Nat
  id : Nat
  base : Nat
  esize : Nat
  ndim : Nat
  n : List Nat
  st : List Nat
  e : List Nat
  deriving DecidableEq, Repr

/-! ### Faults and maintenance (R405 to R426, R456) -/

/-- Who stands behind a pending fault record (R414). -/
inductive FaultAgent where
  | group (u g : Nat)
  | cmd (u id : Nat)
  | task (u : Nat) (handle : Word)
  | port (u core port : Nat)
  | req (id : Nat)
  | queue (q : Nat)
  | front (id : Nat)
  | launchRec (q : Nat)
  deriving DecidableEq, Repr

/-- A fault record that may still be pending (R420 to R423): `slot` is its place in the die's ring, 4,096 while it waits there for room;
`since` is the cycle of its posting or of its last change. -/
structure Posted where
  die : Nat
  seq : Nat
  slot : Nat
  frec : FaultRec
  agent : FaultAgent
  since : Nat
  deriving DecidableEq, Repr

/-- A shootdown in progress (R412): who started it, and what it covers. -/
structure Shootdown where
  id : Nat
  host : Bool
  unit : Nat
  grp : Nat
  ctx : Option Nat
  va : Nat
  len : Option Nat
  deriving DecidableEq, Repr

/-- An ICINV in progress (R210, R456), the dies that have not acknowledged it, and its packets to those other than its own
(R442). -/
structure Icinv where
  id : Nat
  unit : Nat
  grp : Nat
  ctx : Nat
  va : Nat
  len : Option Nat
  dies : List Nat
  pkts : List Pkt
  deriving DecidableEq, Repr

/-- A page migration in flight (R477, R478). -/
structure Migration where
  id : Nat
  die : Nat
  large : Bool
  old : Nat
  new : Nat
  ctx : Nat
  va : Nat
  startedAt : Nat
  deriving DecidableEq, Repr

/-- An event of the fleet log that waits for space (R483); `page` is the page of a migration whose end it reports: context, address and
size (R479). -/
structure FleetEvent where
  kind : Nat
  loc : Nat
  count : Nat
  a : DWord
  b : DWord
  page : Option (Nat × Nat × Nat)
  deriving DecidableEq, Repr

/-- An entry of the tier table that the device accepted (R473). -/
structure Tier where
  idx : Nat
  base : Nat
  size : Nat
  heat : Nat
  pool : Bool
  migrate : Bool
  comp : Bool
  owner : Nat
  pmap : Nat
  chunks : Nat
  cring : Nat
  deriving DecidableEq, Repr

/-- The running firmware image (R300, R458, R460, R482): version, key, digest, ATOMX table (offset, flags), the bytes of its slice
interleave, the slices that were retired when it loaded, and whether it holds policies (section type 5). -/
structure FwImage where
  svn : Nat
  pubkey : List Byte
  digest : List Byte
  atomx : List (Nat × Nat)
  ilv : List Byte
  out : List Nat
  policy : Bool
  deriving DecidableEq, Repr

/-- Window 0 and window 1 registers of the host ports without a home of their own elsewhere; `qcmd` is the command that QCMD
executes and its queue (R377, R405, R444, R446,
R450, R452, R457, R472, R474, R484, R487). -/
structure HostRegs where
  qtbase : DWord
  qcmd : Option (Nat × Nat)
  ctxbase : DWord
  tlbcmd : DWord
  tlbaddr : DWord
  tlblen : DWord
  ftbase : DWord
  fqbase : DWord
  fwstat : BitVec 8
  fwstage : DWord
  peercfg : DWord
  poolwin : Sparse (BitVec 128)
  intstat : BitVec 9
  intmask : BitVec 9
  qerrCount : Word
  qerrQueue : BitVec 15
  msixMask : DWord
  msixPend : DWord
  msixSent : Sparse Nat
  heatctl : DWord
  tierbase : DWord
  evbase : DWord
  pwrcap : BitVec 16
  power : BitVec 16
  pwrClock : Nat
  pwrFloor : Bool
  attcmd : DWord
  attbuf : DWord
  deriving DecidableEq, Repr

/-! ### The agenda (the model's own) -/

/-- Who executes the current step: the device or the outside world, a group, a queue's program, or an operator lane in its
firing. -/
inductive Agent where
  | front
  | group (u g : Nat)
  | queue (q : Nat)
  | oper (u o : Nat)
  deriving DecidableEq, Repr

/-- What a cache may replace of its own accord (R297, R301, R411, R456). -/
inductive DropItem where
  | l1 (core va : Nat)
  | icache (core va : Nat)
  | tlb (p : TlbPlace) (va : Nat)
  | line (k : Key) (proxy : Bool) (die : Nat)
  deriving DecidableEq, Repr

/-- The next step of the machine. -/
inductive Turn where
  | issue (u g : Nat)
  | qstep (q : Nat)
  | event (i : Instr)
  | drop (d : DropItem)
  deriving DecidableEq, Repr

/-- An entry of the agenda: arithmetic cycles that pass, then a step. -/
structure Entry where
  dt : Nat
  turn : Turn
  deriving DecidableEq, Repr

/-- The whole machine. -/
structure State where
  /-- Arithmetic cycles since reset, %clock (R205). -/
  clock : Nat
  /-- The model's own: the order in which the agents act. -/
  agenda : List Entry
  /-- The model's own: who executes the current step. -/
  cur : Agent
  /-- The model's own: number of the next thing in flight. -/
  nextId : Nat
  /-- The model's own: index of the next free value. -/
  freeCtr : Nat
  /-- Cycle, plus one, at which each quarter last issued, and, by quarter and HPRIO class, the group that issued last, plus one
  (R250); quarters are numbered 4 × core + quarter. -/
  lastIssue : Sparse Nat
  turnOf : Sparse Nat
  /-- By die and CLASS, the slot of the queue selected last, plus one (R382); keyed by 4 × die + class. -/
  queueTurn : Sparse Nat
  /-- Memory by physical address (R444): the device's HBM, host memory, pool and peers. -/
  mem : List Host.Cell
  /-- Physical 32-byte sectors whose data is uncorrectable (R434). -/
  uncorr : List Nat
  units : List Unit
  /-- Cores that a pre-emption freed or frees, with the unit they go to (R252, R279). -/
  promised : List (Nat × Waiter)
  launches : List Launch
  levels : List Level
  swatches : List Swatch
  queues : List Queue
  copies : List FrontCopy
  deltas : List Delta
  tasks : List Task
  engines : List Engine
  /-- Logical time TC and read horizon RH of each core, and the clock of its last advance (R329, R330). -/
  tc : Sparse Nat
  rh : Sparse Nat
  tcAt : Sparse Nat
  lines : List Line
  /-- Physical lines that a service group has locked and whose key nothing in the device tells: line address / 256 and the group
  (R213). -/
  paLocks : List (Nat × Nat × Nat)
  /-- Lines by their last access, the latest first (R301). -/
  lru : List LineName
  tent : List TentLine
  l1 : List L1Sector
  tlb : List TlbEnt
  icache : List ISlot
  loads : List PendLoad
  stores : List PendStore
  reqs : List Req
  monitors : List Monitor
  scs : List ScFence
  regions : List Region
  peers : List PeerEnt
  invals : List Inval
  /-- Flows that have carried a packet (R442). -/
  flows : List Flow
  /-- The largest read stamp of the lines each die's slices have replaced (log entry 84). -/
  goneTs : Sparse Nat
  /-- Acknowledgements returned to the mailboxes of peers: the peer and the message (R453). -/
  mailOut : List (Nat × MailMsg)
  /-- Epoch N and proxy time PT of each die (R436, R441), and whether its scrub pass has ended (R437). -/
  epoch : Sparse Nat
  proxyTime : Sparse Nat
  /-- Slices in retention sleep with the epoch they recorded (R438), and each slice's last request. -/
  asleep : List (Nat × Nat)
  lastReq : Sparse Nat
  tensors : List Tensor
  ctxTmaps : List (Nat × DWord)
  posted : List Posted
  /-- SEQ of the next fault record of each die (R421). -/
  seqs : Sparse Nat
  shoots : List Shootdown
  icinvs : List Icinv
  migrations : List Migration
  /-- Pages that moved: address, size and the cycle (R477). -/
  moved : List (Nat × Nat × Nat)
  sampler : Sparse Nat
  /-- Cycle of the last decay of page heat (R476). -/
  decayAt : Nat
  tiers : List Tier
  events : List FleetEvent
  evSeq : Nat
  /-- Telemetry counts of dropped messages and stray SVCRETs are events; failed flows are kept here (R443). -/
  failedFlows : List (Nat × Nat)
  failedDies : List (Nat × Nat)
  disabledCores : List Nat
  disabledEngines : List Nat
  retiredSlices : List Nat
  transients : List (Block × Nat)
  /-- Blocks that have reported an error and are still to be tested (R482). -/
  owed : List Block
  dirtyAt : Sparse Nat
  regs : HostRegs
  fw : Option FwImage
  fwFloor : Nat
  fwRaises : Nat
  /-- Host ports in CXL mode (R445): the reset strap of port 0 and port 1. -/
  cxl : Bool × Bool
  deriving DecidableEq, Repr

/-- Why the machine stops. -/
inductive Fault where
  /-- Raised by the meaning of an instruction of the 96-bit word or of a queue program when the state names no group,
  operator or queue that executes it: no step reaches such a state. Safe: no hardware behaviour corresponds to it. -/
  | noIssuer
  deriving DecidableEq, Repr

/-- Why an instruction has no meaning. -/
inductive Refusal where
  /-- Raised by an arm of `exec` whose instruction has no meaning yet. Safe: nothing is claimed of it. -/
  | notModelled (mnemonic : String)
  deriving DecidableEq, Repr

/-- The registers of the host ports after reset (R377, R405, R444 to R452, R457, R472 to R487). -/
def HostRegs.reset : HostRegs where
  qtbase := 0
  qcmd := none
  ctxbase := 0
  tlbcmd := 0
  tlbaddr := 0
  tlblen := 0
  ftbase := 0
  fqbase := 0
  fwstat := 0
  fwstage := 0
  peercfg := 0
  poolwin := []
  intstat := 0
  intmask := 0
  qerrCount := 0
  qerrQueue := 0
  msixMask := BitVec.allOnes 64
  msixPend := 0
  msixSent := []
  heatctl := 0
  tierbase := 0
  evbase := 0
  pwrcap := 2800
  power := 0
  pwrClock := 3300
  pwrFloor := false
  attcmd := 0
  attbuf := 0

/-- The machine right after reset (R457): no image, no queue enabled, nothing resident, epoch 0. -/
def State.reset : State where
  clock := 0
  agenda := []
  cur := .front
  nextId := 0
  freeCtr := 0
  lastIssue := []
  turnOf := []
  queueTurn := []
  mem := []
  uncorr := []
  units := []
  promised := []
  launches := []
  levels := []
  swatches := []
  queues := []
  copies := []
  deltas := []
  tasks := []
  engines := []
  tc := []
  rh := []
  tcAt := []
  lines := []
  paLocks := []
  lru := []
  tent := []
  l1 := []
  tlb := []
  icache := []
  loads := []
  stores := []
  reqs := []
  monitors := []
  scs := []
  regions := []
  peers := []
  invals := []
  flows := []
  goneTs := []
  mailOut := []
  epoch := []
  proxyTime := []
  asleep := []
  lastReq := []
  tensors := []
  ctxTmaps := []
  posted := []
  seqs := []
  shoots := []
  icinvs := []
  migrations := []
  moved := []
  sampler := []
  decayAt := 0
  tiers := []
  events := []
  evSeq := 0
  failedFlows := []
  failedDies := []
  disabledCores := []
  disabledEngines := []
  retiredSlices := []
  transients := []
  owed := []
  dirtyAt := []
  regs := HostRegs.reset
  fw := none
  fwFloor := 0
  fwRaises := 0
  cxl := (false, false)

end Sys2Proof.Machine
end

