-- ==== Sys2Proof/Machine/Keys.lean ====
section
/-! DEFINITION. Keys of the tile cache (R299, R303, R306), the slices that are their homes (R300, R439), and the flows that
carry packets between dies and ports (R442). -/

namespace Sys2Proof.Machine

open Sys2Proof

/-! ### Keys (R303, R306) -/

/-- Tile grid size in a dimension (R303). -/
def Tensor.grid (t : Tensor) (j : Nat) : Nat := ((t.n[j]?).getD 1 + (t.e[j]?).getD 1 - 1) / (t.e[j]?).getD 1
/-- Number of tiles. -/
def Tensor.tiles (t : Tensor) : Nat := t.grid 0 * t.grid 1 * t.grid 2 * t.grid 3
/-- Extent, tile extent and stride of a dimension. -/
def Tensor.dim (t : Tensor) (j : Nat) : Nat × Nat × Nat :=
  ((t.n[j]?).getD 1, (t.e[j]?).getD 1, if j = 0 then t.esize else (t.st[j - 1]?).getD 0)
/-- Bytes of a whole tile. -/
def Tensor.tileBytes (t : Tensor) : Nat :=
  (t.e[0]?).getD 1 * (t.e[1]?).getD 1 * (t.e[2]?).getD 1 * (t.e[3]?).getD 1 * t.esize
/-- Offset from BASE to one byte past the last element (R304). -/
def Tensor.span (t : Tensor) : Nat :=
  ((t.dim 0).1 - 1) * t.esize + ((t.dim 1).1 - 1) * (t.dim 1).2.2 + ((t.dim 2).1 - 1) * (t.dim 2).2.2 +
    ((t.dim 3).1 - 1) * (t.dim 3).2.2 + t.esize

/-- Quotient and rest of a byte offset along a dimension that is in use. -/
def dimSplit (used : Bool) (off stride : Nat) : Nat × Nat :=
  if used && stride != 0 then (off / stride, off % stride) else (0, off)

/-- The element and byte of an address in a tensor, none where it is no element's byte (R303, R306). -/
def Tensor.elemAt (t : Tensor) (va : Nat) : Option (Nat × Nat × Nat × Nat × Nat) :=
  if va < t.base then none
  else
    let (i3, r3) := dimSplit (decide (4 ≤ t.ndim)) (va - t.base) (t.dim 3).2.2
    let (i2, r2) := dimSplit (decide (3 ≤ t.ndim)) r3 (t.dim 2).2.2
    let (i1, r1) := dimSplit (decide (2 ≤ t.ndim)) r2 (t.dim 1).2.2
    let i0 := r1 / t.esize
    if i0 < (t.dim 0).1 ∧ i1 < (t.dim 1).1 ∧ i2 < (t.dim 2).1 ∧ i3 < (t.dim 3).1 then some (i0, i1, i2, i3, r1 % t.esize)
    else none

/-- Tile index and byte position in the tile of an element's byte (R153, R299). -/
def Tensor.place (t : Tensor) (x : Nat × Nat × Nat × Nat × Nat) : Nat × Nat :=
  let (i0, i1, i2, i3, b) := x
  let e0 := (t.dim 0).2.1
  let e1 := (t.dim 1).2.1
  let e2 := (t.dim 2).2.1
  let e3 := (t.dim 3).2.1
  (i0 / e0 + t.grid 0 * (i1 / e1 + t.grid 1 * (i2 / e2 + t.grid 2 * (i3 / e3))),
    (i0 % e0 + e0 * (i1 % e1 + e1 * (i2 % e2 + e2 * (i3 % e3)))) * t.esize + b)

/-- The key of the anonymous tensor and the byte in its line (R306). -/
def anonKey (ctx va : Nat) : Key × Nat := (⟨ctx, 0, bitsAt va 12 45, bitsAt va 8 4⟩, va % 256)

/-- The key of an address among tensors, and the byte in its line (R306). -/
def keyIn (ctx va : Nat) : List Tensor → Key × Nat
  | [] => anonKey ctx va
  | t :: ts =>
    if t.ctx == ctx then
      match t.elemAt va with
      | some x => let (tile, pos) := t.place x; (⟨ctx, t.id, tile, pos / 256⟩, pos % 256)
      | none => keyIn ctx va ts
    else keyIn ctx va ts

/-- The key of an address (R306). -/
def State.keyOf (s : State) (ctx va : Nat) : Key × Nat := keyIn ctx va s.tensors

/-! ### Homes (R300, R439) -/

/-- The slice that a number names: of all the package's slices, or of those that were not retired when the image loaded (R300,
R482). -/
def FwImage.slice (f : FwImage) (n : Nat) : Nat :=
  if f.out.isEmpty then n % Config.slices
  else
    let live := (List.range Config.slices).filter fun i => !f.out.contains i
    live.getD (n % live.length) 0

/-- Home slice of a key (R300): the interleave that the running image fixed, and slice 0 while none runs (log entry 7). -/
def State.homeOf (s : State) (k : Key) : Nat :=
  match s.fw with
  | none => 0
  | some f => f.slice (Config.interleave f.ilv k.ctx k.tensor k.tile k.line)

/-- Die of a slice (R299). -/
def sliceDie (sl : Nat) : Nat := sl / 512 % 4
/-- Cluster whose service group serves a slice (R122, R300; log entry 7). -/
def sliceCluster (sl : Nat) : Nat := sl / 128 % 16
/-- The slice of a die that the interleave restricted to the die names (R439). -/
def dieSlice (die sl : Nat) : Nat := 512 * die + sl % 512
/-- The slice that holds a line: its home, or for a proxy copy a slice of the copy's die (R439). -/
def State.sliceOf (s : State) (n : LineName) : Nat := if n.proxy then dieSlice n.die (s.homeOf n.key) else s.homeOf n.key
/-! ### Flows (R442) -/

/-- The next sequence number of a flow. -/
def State.flowSeq (s : State) (src dst cls : Nat) : Nat :=
  match s.flows.find? fun f => f.src == src && f.dst == dst && f.cls == cls with
  | some f => f.next
  | none => 0

/-- A flow has used a sequence number; they count modulo 2^16. -/
def stepFlow (src dst cls : Nat) (l : List Flow) : List Flow :=
  let next := match l.find? fun f => f.src == src && f.dst == dst && f.cls == cls with
    | some f => f.next
    | none => 0
  ⟨src, dst, cls, (next + 1) % 65536⟩ :: l.filter fun f => !(f.src == src && f.dst == dst && f.cls == cls)
/-- A flow of the device has used a sequence number. -/
def State.flowStep (s : State) (src dst cls : Nat) : State := { s with flows := stepFlow src dst cls s.flows }

/-- Send a packet of a class from a source: it takes the flow's next sequence number. Nothing that stays on its die travels in a
flow. -/
def State.sendPkt (s : State) (src dst cls : Nat) : Option Pkt × State :=
  if src == dst then (none, s) else (some ⟨src, dst, cls, s.flowSeq src dst cls⟩, s.flowStep src dst cls)

/-- Packet `p` comes before `q` in their flow: a source holds at most 32,768 packets, so half the numbers lie behind `q`. -/
def Pkt.before (p q : Pkt) : Bool :=
  p.src == q.src && p.dst == q.dst && p.cls == q.cls && p.seq != q.seq && decide ((q.seq + 65536 - p.seq) % 65536 < 32768)

/-- A packet that has been sent comes before another. -/
def pktBefore (p q : Option Pkt) : Bool :=
  match p, q with
  | some a, some b => a.before b
  | _, _ => false

/-- Packets of a flow that have not been acknowledged. -/
def State.flowOut (s : State) (src dst cls : Nat) : Nat :=
  let mine (p : Option Pkt) : Bool := match p with
    | some a => a.src == src && a.dst == dst && a.cls == cls
    | none => false
  (s.loads.filter fun x => mine x.pkt).length + (s.stores.filter fun x => mine x.pkt).length +
    (s.reqs.filter fun x => mine x.pkt).length + (s.invals.filter fun x => mine x.pkt).length +
    (s.queues.filter fun x => mine x.wakePkt).length + (s.icinvs.filter fun x => x.pkts.any fun p => mine (some p)).length

/-- A source may send `n` more packets of a flow (R442). -/
def State.flowRoom (s : State) (src dst cls n : Nat) : Bool :=
  decide (s.flowOut src dst cls + n ≤ Config.flowWindow) || src == dst
/-- A source holds as many packets of a flow as it can: it stalls (R442). -/
def State.flowFull (s : State) (src dst cls : Nat) : Bool := src != dst && decide (Config.flowWindow ≤ s.flowOut src dst cls)
/-- The flows to some destinations, one packet for each time a destination is named, have room (R442). -/
def State.flowsRoom (s : State) (src cls : Nat) (dsts : List Nat) : Bool :=
  dsts.all fun d => s.flowRoom src d cls (dsts.filter (· == d)).length

/-- The packet that a source would send next in a flow. -/
def State.nextPkt (s : State) (src dst cls : Nat) : Option Pkt :=
  if src == dst then none else some ⟨src, dst, cls, s.flowSeq src dst cls⟩

/-- Send one packet to each destination of a list; what is sent so is delivered and acknowledged within the step. -/
def State.passPkts (s : State) (src cls : Nat) (dsts : List Nat) : State :=
  { s with flows := dsts.foldl (fun l d => if src == d then l else stepFlow src d cls l) s.flows }
/-- The responses that come back: data of class 0, acknowledgements of classes 1 and 2 (R442). -/
def State.backPkts (s : State) (dst cls : Nat) (srcs : List Nat) : State :=
  { s with flows := srcs.foldl (fun l d => if d == dst then l else stepFlow d dst cls l) s.flows }

/-- A read that leaves the device waits behind an earlier one of its flow to the same line, or, in the ordered mode, behind every earlier
one (R442, class 0). -/
def State.behindRead (s : State) (pkt : Option Pkt) (pa : Nat) : Bool :=
  s.loads.any fun q => pktBefore q.pkt pkt && (Config.flowOrdered 0 || q.pa / 256 == pa / 256)
/-- The same for a load in flight. -/
def State.behindLoad (s : State) (p : PendLoad) : Bool := s.behindRead p.pkt p.pa

/-- A request has not been performed and waits nowhere: its packet is on its way. -/
def Req.travels (q : Req) : Bool := !q.performed && !q.arrived && q.index.isNone

/-- An earlier packet of a class 3 flow has not been delivered: that class is delivered in sequence order (R442). -/
def State.class3Before (s : State) (p : Option Pkt) : Bool :=
  (s.queues.any fun q => pktBefore q.wakePkt p) || s.reqs.any fun q => q.travels && pktBefore q.pkt p

/-- A write or RMW waits behind an earlier packet of its flow to the same line, or, in the ordered mode, behind every earlier one (R442,
class 1); a request of the front end behind every earlier one of its flow (class 3). -/
def State.behindWrite (s : State) (pkt : Option Pkt) (ctx va : Nat) : Bool :=
  let k := (s.keyOf ctx va).1
  let meets (q : Option Pkt) (c v : Nat) : Bool := pktBefore q pkt && (Config.flowOrdered 1 || (s.keyOf c v).1 == k)
  s.class3Before (pkt.filter (·.cls == 3)) || (s.stores.any fun q => q.wts.isNone && meets q.pkt q.ctx q.va) ||
    s.reqs.any fun q => q.travels && meets q.pkt q.ctx q.va

/-- An earlier packet of a class 2 flow has not been acknowledged: that class is delivered in sequence order (R442). -/
def State.class2Before (s : State) (p : Option Pkt) : Bool :=
  (s.invals.any fun q => pktBefore q.pkt p) || s.icinvs.any fun c => c.pkts.any fun q => pktBefore (some q) p

/-- An invalidation is delivered in sequence order (R442, class 2). -/
def State.behindInval (s : State) (v : Inval) : Bool := s.class2Before v.pkt

/-- So is what an ICINV sends to a die (R442, R456). -/
def State.behindIcinv (s : State) (c : Icinv) (die : Nat) : Bool := s.class2Before (c.pkts.find? fun p => p.dst == die)

/-- Send the four invalidations of an ICINV; the one to its own die needs no packet (R442, R456). -/
def sendIcinv (src : Nat) : List Nat → State → List Pkt × State
  | [], s => ([], s)
  | d :: ds, s =>
    let (p, s1) := s.sendPkt src d 2
    let (ps, s2) := sendIcinv src ds s1
    (p.toList ++ ps, s2)

/-- A wake of a queue is delivered in sequence order (R442, class 3). -/
def State.behindWake (s : State) (p : Option Pkt) : Bool := s.class3Before p

end Sys2Proof.Machine
end

