-- ==== Sys2Proof/Machine/Parts.lean ====
section
/-! DEFINITION. The parts of the state and how they are read and changed: sparse arrays, units, groups, launches and queues, physical
memory (R444) seen through the lines that hold it (R301), logical times (R329, R436, R437, R441), and the writes that the device
makes for itself, which no copy of a line outlives (R439, R440, R447, R454). -/

namespace Sys2Proof.Machine

open Sys2Proof

/-! ### Sparse arrays -/

/-- Read a sparse array whose unlisted entries hold `d`. -/
def spGet {α : Type} (d : α) : Sparse α → Nat → α
  | [], _ => d
  | (j, y) :: r, k => if j = k then y else if k < j then d else spGet d r k

/-- Write a sparse array, keeping its form: keys rise and no entry equals `d`. -/
def spSet {α : Type} [DecidableEq α] (d : α) : Sparse α → Nat → α → Sparse α
  | [], k, x => if x = d then [] else [(k, x)]
  | (j, y) :: r, k, x =>
    if k < j then (if x = d then (j, y) :: r else (k, x) :: (j, y) :: r)
    else if k = j then (if x = d then r else (k, x) :: r)
    else (j, y) :: spSet d r k x

/-- The form a sparse array keeps, above the key `lo`: keys rise strictly and no entry equals `d`. -/
def spOkFrom {α : Type} [DecidableEq α] (d : α) : Nat → Sparse α → Bool
  | _, [] => true
  | lo, (j, y) :: r => decide (lo ≤ j) && decide (y ≠ d) && spOkFrom d (j + 1) r

/-- The canonical form of a sparse array. -/
def spOk {α : Type} [DecidableEq α] (d : α) (m : Sparse α) : Bool := spOkFrom d 0 m

/-- Write consecutive entries from a list. -/
def spSetList {α : Type} [DecidableEq α] (d : α) (m : Sparse α) (k : Nat) : List α → Sparse α
  | [] => m
  | x :: xs => spSetList d (spSet d m k x) (k + 1) xs

/-- `n` consecutive entries. -/
def spGetList {α : Type} (d : α) (m : Sparse α) (k n : Nat) : List α := (List.range n).map fun i => spGet d m (k + i)

/-- The canonical form of memory: addresses strictly rising and no entry equal to 0x00, which an unlisted address reads
as (log entry 6). -/
def memWf (m : List Host.Cell) : Bool := spOk (0 : Byte) m

/-- A list with its element at `k` changed. -/
def updAt {α : Type} : List α → Nat → (α → α) → List α
  | [], _, _ => []
  | x :: xs, 0, f => f x :: xs
  | x :: xs, k + 1, f => x :: updAt xs k f

/-! ### Parts of the state -/

/-- Change a unit. -/
def State.modUnit (s : State) (u : Nat) (f : Unit → Unit) : State := { s with units := updAt s.units u f }
/-- Change a group of a unit. -/
def State.modGroup (s : State) (u g : Nat) (f : Group → Group) : State :=
  s.modUnit u fun U => { U with groups := updAt U.groups g f }
/-- A unit and one of its groups. -/
def State.group? (s : State) (u g : Nat) : Option (Unit × Group) :=
  match s.units[u]? with
  | none => none
  | some U => match U.groups[g]? with
    | none => none
    | some G => some (U, G)
/-- A 57-bit virtual address, sign-extended to 64 bits (R407, R409). -/
def canonVa (x : Nat) : Nat := if bitsAt x 56 1 = 1 then x % 2 ^ 57 + (2 ^ 64 - 2 ^ 57) else x % 2 ^ 57
/-- A launch that has not completed, by its ID. -/
def State.launch? (s : State) (id : DWord) : Option Launch := s.launches.find? fun l => l.id == id && !l.done
/-- Change a launch that has not completed. -/
def State.modLaunch (s : State) (id : DWord) (f : Launch → Launch) : State :=
  { s with launches := s.launches.map fun l => if l.id == id && !l.done then f l else l }
/-- A queue by its number. -/
def State.queue? (s : State) (q : Nat) : Option Queue := s.queues.find? (·.n == q)
/-- Change a queue. -/
def State.modQueue (s : State) (q : Nat) (f : Queue → Queue) : State :=
  { s with queues := s.queues.map fun x => if x.n == q then f x else x }
/-- A fresh number for something in flight. -/
def State.fresh (s : State) : State := { s with nextId := s.nextId + 1 }

/-- Cluster of a core; the service cores of the clusters are numbered from 512 (R2; log entry 7). -/
def clusterOf (core : Nat) : Nat := if core < 512 then core / 32 else core - 512
/-- Die of a core (R1, R2; log entry 7). -/
def dieOf (core : Nat) : Nat := clusterOf core / 4 % 4
/-- Quad of a core (R2; log entry 7). -/
def quadOf (core : Nat) : Nat := core / 4

/-- A core of the device, service cores among them; the front end and agents outside have other numbers. -/
def isCore (c : Nat) : Bool := decide (c < 528)

/-- Lane positions of a group: 32, or 16 in CM16 (R108, R241). -/
def Unit.lanes (U : Unit) : Nat := if U.cm16 then 16 else 32
/-- Bytes of a unit's scratchpad (R287, R291). -/
def Unit.spadSize (U : Unit) : Nat := bitsAt U.part.toNat 6 6 * 32768
/-- Accumulator granules T (R287). -/
def Unit.accs (U : Unit) : Nat := bitsAt U.part.toNat 12 6
/-- Register granules REG (R287). -/
def Unit.regGran (U : Unit) : Nat := bitsAt U.part.toNat 0 6
/-- The entry slot (R217). -/
def Unit.entry (U : Unit) : DWord := U.khdr + 12
/-- Size C of the unit's cohort (R287). -/
def Unit.cohort (U : Unit) : Nat := 2 ^ bitsAt U.part.toNat 24 3
/-- Group slots the unit occupies (R241, R288). -/
def Unit.slots (U : Unit) : Nat := if U.cm16 then (U.groups.length + 1) / 2 else U.groups.length

/-- TC of a core (R329). -/
def State.tcOf (s : State) (core : Nat) : Nat := spGet 0 s.tc core
/-- RH of a core (R329). -/
def State.rhOf (s : State) (core : Nat) : Nat := spGet 0 s.rh core
/-- Epoch of a die (R436). -/
def State.epochOf (s : State) (die : Nat) : Nat := spGet 0 s.epoch die

/-- A group advances to the next slot (R14). -/
def Group.adv (G : Group) : Group := { G with pc := G.pc + 12 }

/-! ### Physical memory (R444) -/

/-- Physical addresses have 52 bits. -/
def paMod : Nat := 4503599627370496

/-- PEERCFG.EN, NPEER and SELF (R452). -/
def State.peerCfg (s : State) : Bool × Nat × Nat :=
  (s.regs.peercfg.getLsbD 63, bitsAt s.regs.peercfg.toNat 32 11, bitsAt s.regs.peercfg.toNat 0 10)

/-- An access with peer ID SELF is an ordinary HBM access (R452). -/
def State.canonPa (s : State) (pa : Nat) : Nat :=
  if 0x8000000000000 ≤ pa ∧ pa < 0xC000000000000 ∧ pa / 2 ^ 40 % 1024 = s.peerCfg.2.2 then pa % 2 ^ 40 else pa

/-- A physical address as a register or an entry in memory gives it: 52 bits, with peer ID SELF an HBM address (R444, R452). -/
def State.pa52 (s : State) (x : Nat) : Nat := s.canonPa (x % 4503599627370496)

/-- The enabled pool window that covers a physical address (R450). -/
def poolWin : Sparse (BitVec 128) → Nat → Option (BitVec 128)
  | [], _ => none
  | (_, w) :: r, pa =>
    let base := bitsAt w.toNat 30 22 * 2 ^ 30
    if w.getLsbD 0 && decide (base ≤ pa) && decide (pa < base + bitsAt w.toNat 1 15 * 2 ^ 30) then some w else poolWin r pa

/-- Where memory keeps the byte of a physical address: a byte of the pool lies above all physical addresses, by the fabric address that
its window gives it, so that windows on one range of the fabric share its bytes (R444, R450). -/
def State.memAt (s : State) (pa : Nat) : Nat :=
  let p := pa % paMod
  if p < 0x2000000000000 || 0x8000000000000 ≤ p then p
  else match poolWin s.regs.poolwin p with
    | none => p
    | some w => paMod + bitsAt w.toNat 94 34 * 2 ^ 30 + (p - bitsAt w.toNat 30 22 * 2 ^ 30)

/-- Offset in a line of a physical byte it holds. -/
def segOff : List (Nat × Nat × Nat) → Nat → Option Nat
  | [], _ => none
  | (o, n, p) :: r, pa => if p ≤ pa ∧ pa < p + n then some (o + (pa - p)) else segOff r pa

/-- HBM's end. -/
def hbmEnd : Nat := 0xC000000000

/-- The home's line that holds a physical byte, if any holds it (R301). -/
def homeLineAt : List Line → Nat → Option (Line × Nat)
  | [], _ => none
  | l :: r, pa =>
    if l.proxy then homeLineAt r pa
    else match segOff l.segs pa with
      | some o => some (l, o)
      | none => homeLineAt r pa

/-- A byte at its home: the line's, or memory's (R301, R447). -/
def State.physByte (s : State) (pa : Nat) : Byte :=
  match homeLineAt s.lines (pa % paMod) with
  | some (l, o) => spGet 0 l.data o
  | none => spGet 0 s.mem (s.memAt pa)

/-- `n` bytes at a physical address. -/
def State.physBytes (s : State) (pa n : Nat) : List Byte := (List.range n).map fun i => s.physByte (pa + i)
/-- A number of `n` bytes at a physical address (R9). -/
def State.physNat (s : State) (pa n : Nat) : Nat := ofBytesLE (s.physBytes pa n)

/-- Mark an offset dirty, once. -/
def addDirty (d : List Nat) (o : Nat) : List Nat := if d.contains o then d else o :: d

/-- A byte written into a line. -/
def Line.put (l : Line) (o : Nat) (b : Byte) : Line :=
  { l with data := spSet 0 l.data o b, dirty := addDirty l.dirty o }

/-- Write a byte at its home (R301, R447). -/
def State.physPut (s : State) (pa : Nat) (b : Byte) : State :=
  match homeLineAt s.lines (pa % paMod) with
  | some (l, o) =>
    { s with lines := s.lines.map fun m => if m.key == l.key && !m.proxy then m.put o b else m }
  | none => { s with mem := spSet 0 s.mem (s.memAt pa) b }

/-- Write bytes at a physical address. -/
def State.physWrite (s : State) (pa : Nat) : List Byte → State
  | [] => s
  | b :: bs => State.physWrite (s.physPut pa b) (pa + 1) bs

/-- Write a number of `n` bytes at a physical address. -/
def State.physPutNat (s : State) (pa n x : Nat) : State := s.physWrite pa (toBytesLE n x)

/-! ### Logical times (R329, R436, R437, R441) -/

/-- The largest of a list. -/
def maxOf (l : List Nat) : Nat := l.foldl Nat.max 0
/-- A stamp as it is read back in epoch N (R436). -/
def stampRead (n x : Nat) : Nat :=
  let g := x / 2 ^ 24 % 4
  if g == n % 4 then n * 2 ^ 24 + x % 2 ^ 24
  else if g == (n + 3) % 4 && n != 0 then (n - 1) * 2 ^ 24 + x % 2 ^ 24
  else (n - 1) * 2 ^ 24
/-- TC and PT are held below this value until the epoch advances (R437). -/
def tcHold (n : Nat) : Nat := (n + 1) * 2 ^ 24 - 2 ^ 10

/-- The largest TC of a die's cores (R441). -/
def State.tcMax (s : State) (die : Nat) : Nat := maxOf ((s.tc.filter fun x => dieOf x.1 == die).map (·.2))

/-- Proxy time of a die (R441). -/
def State.ptOf (s : State) (die : Nat) : Nat := spGet 0 s.proxyTime die

/-- PT of a die after `n` stampings (R441). -/
def State.ptAfter (s : State) (die n : Nat) : Nat :=
  if n = 0 then s.ptOf die else max (s.ptOf die + 1) (s.tcMax die + 256) + (n - 1)

/-- Set a die's PT. -/
def State.setPt (s : State) (die v : Nat) : State := { s with proxyTime := spSet 0 s.proxyTime die v }

/-- PT may take this value before the epoch advances (R437). -/
def State.ptFits (s : State) (die v : Nat) : Bool := decide (v ≤ tcHold (s.epochOf die))

/-- A time past every lease of a die's cores, as R441 stamps a line, no further than the hold, at which no lease serves (R437). -/
def State.dieTime (s : State) (die : Nat) : Nat := min (s.ptAfter die 1) (tcHold (s.epochOf die))

/-- A die's PT moves on to a stamp it has given (R441). -/
def State.ptRaise (s : State) (die v : Nat) : State := s.setPt die (max (s.ptOf die) v)

/-! ### Lines and their stamps (R301, R329) -/

/-- Replace the line of the same name. -/
def State.putLine (s : State) (l : Line) : State :=
  { s with lines := s.lines.map fun m => if m.key == l.key && m.proxy == l.proxy && m.die == l.die then l else m }

/-- A die's slices keep the largest read stamp of the lines they give up, so that a line filled again stands past every lease
granted on it (R329; log entry 84). -/
def State.noteGone (s : State) (die v : Nat) : State := { s with goneTs := spSet 0 s.goneTs die (max (spGet 0 s.goneTs die) v) }

/-- Two ranges have a byte in common. -/
def meets (a n b m : Nat) : Bool := decide (a < b + m ∧ b < a + n)
/-- A line holds a byte of a physical range. -/
def Line.within (l : Line) (lo n : Nat) : Bool := l.segs.any fun g => meets g.2.2 g.2.1 lo n

/-- Stamps of a write performed at the home (R329): WTS := max(TC of the writer, RTS + 1), raised to the floor a release
asks for. -/
def Line.stampWrite (l : Line) (n tc floor : Nat) : Line :=
  let w := max (max tc floor) (stampRead n l.rts + 1)
  { l with rts := w, wts := w }

/-- A write of another die, or of an agent on no die, passes the leases of the home's die (log entry 23). -/
def State.farWrite (s : State) (l : Line) (home : Nat) : State × Nat :=
  let p := s.dieTime home
  let l1 := l.stampWrite (s.epochOf home) p 0
  ((s.putLine l1).ptRaise home p, l1.wts)

/-! ### Ticks, epochs and sleep (R330, R436 to R438) -/

/-- The name of a line. -/
def Line.name (l : Line) : LineName := ⟨l.key, l.proxy, l.die⟩

/-- Raise a core's TC, no further than the hold of its die (R329, R437). -/
def State.tcRaise (s : State) (core v : Nat) : State :=
  { s with tc := spSet 0 s.tc core (max (s.tcOf core) (min v (tcHold (s.epochOf (dieOf core))))) }

/-- An acquire fence's effect on the core's time (R329). -/
def State.acqFence (s : State) (core : Nat) : State := s.tcRaise core (s.rhOf core)

/-- Make up the ticks that are due, one for every 32 arithmetic cycles (R330). -/
def State.tcCatchUp (s : State) (core : Nat) : State :=
  let t0 := spGet 0 s.tcAt core
  let k := (s.clock - t0) / 32
  let cap := tcHold (s.epochOf (dieOf core))
  let add := min k (cap - s.tcOf core)
  { s.tcRaise core (s.tcOf core + add) with tcAt := spSet 0 s.tcAt core (t0 + 32 * add) }

/-- Cores of a die, its service cores among them. -/
def coresOf (die : Nat) : List Nat := (List.range 528).filter fun c => dieOf c == die

/-- Raise the TC of cores to the start of an epoch and make up their deferred ticks. -/
def raiseCores : List Nat → Nat → State → State
  | [], _, s => s
  | c :: cs, v, s => raiseCores cs v ((s.tcRaise c v).tcCatchUp c)

/-- A die moves to its next epoch: its cores' TC and its PT follow (R437). -/
def State.nextEpoch (s : State) (die : Nat) : State :=
  let n := s.epochOf die + 1
  raiseCores (coresOf die) (n * 2 ^ 24) { s with
    epoch := spSet 0 s.epoch die n
    proxyTime := spSet 0 s.proxyTime die (max (s.ptOf die) (n * 2 ^ 24)) }

/-- A stamp belongs to the generation before epoch N (R436). -/
def genBefore (n x : Nat) : Bool := x / 2 ^ 24 % 4 == (n + 3) % 4

/-- The scrub rewrites a line's stamps of the generation before to the base of epoch N (R437). -/
def Line.scrub (n : Nat) (l : Line) : Line :=
  let re (x : Nat) : Nat := if genBefore n x then n * 2 ^ 24 else x
  { l with rts := re l.rts, wts := re l.wts }

/-- A line is kept by an awake slice of the die, a proxy copy among them (R437 to R439). -/
def State.lineAwake (s : State) (l : Line) (die : Nat) : Bool := l.die == die && !(s.asleep.any fun x => x.1 == s.sliceOf l.name)

/-- The scrub pass of a die's epoch (R437). -/
def State.scrubDie (s : State) (die : Nat) : State :=
  { s with lines := s.lines.map fun l => if s.lineAwake l die then l.scrub (s.epochOf die) else l }

/-- What needs `n` stampings from PT waits for the epoch's advance where PT would pass the hold; the scrub pass and the advance that it
waits for come first (R437; log entry 106). -/
def State.fitPt (s : State) (die n : Nat) : State :=
  if s.ptFits die (s.ptAfter die n) then s else (s.scrubDie die).nextEpoch die

/-- A slice of a die serves a request: it wakes if it sleeps, rewriting its lines' stamps when the epoch has changed
(R438). -/
def State.touchSlice (s : State) (sl : Nat) : State :=
  let s0 := { s with lastReq := spSet 0 s.lastReq sl s.clock }
  match s0.asleep.find? fun x => x.1 == sl with
  | none => s0
  | some x =>
    let n := s0.epochOf (sliceDie sl)
    let s1 := { s0 with asleep := s0.asleep.filter fun y => y.1 != sl }
    if x.2 == n then s1
    else { s1 with lines := s1.lines.map fun l =>
        if s1.sliceOf l.name == sl then { l with rts := n * 2 ^ 24, wts := n * 2 ^ 24 } else l }

/-- The home slice of a physical address: that of its line, and an unnamed one where no line of it is held (log entry 7). -/
def State.paSlice (s : State) (pa : Nat) : Nat := match homeLineAt s.lines pa with
  | some (l, _) => s.homeOf l.key
  | none => Config.paSlice pa s.clock % Config.slices

/-! ### Regions (R440) -/

/-- Bytes of a region. -/
def Region.size (r : Region) : Nat := 256 * 2 ^ r.k
/-- The region covers a physical address. -/
def Region.covers (r : Region) (pa : Nat) : Bool := decide (r.base ≤ pa ∧ pa < r.base + r.size)

/-- An entry of the same home die, base and size. -/
def Region.same (r x : Region) : Bool := x.die == r.die && x.base == r.base && x.k == r.k

/-- Split a region whose copies a write invalidates: the half with the line loses its bits (R440). -/
def splitRegion (r : Region) (pa clock : Nat) : List Region :=
  if r.k == 0 then [{ r with present := [], lastInv := clock }]
  else
    let h := r.size / 2
    let lo : Region := { r with k := r.k - 1 }
    let hi : Region := { r with k := r.k - 1, base := r.base + h }
    if pa < r.base + h then [{ lo with present := [], lastInv := clock }, hi]
    else [lo, { hi with present := [], lastInv := clock }]

/-- The 256-byte pieces a range touches. -/
def piecesOf (pa n : Nat) : List Nat := (List.range ((pa % 256 + n + 255) / 256)).map fun i => pa / 256 * 256 + 256 * i

/-! ### Writes that the device makes for itself (R439, R440, R447, R454) -/

/-- The copies of a range are gone from a die, whose proxy time takes the value of R441, after the epoch's advance where that passes
the hold (R437, R440). -/
def State.dropCopies (s : State) (lo n d : Nat) : State :=
  let gone (l : Line) : Bool := l.proxy && l.die == d && l.within lo n
  let k := (s.lines.filter gone).length
  let s1 := s.fitPt d k
  { s1 with lines := s1.lines.filter fun l => !gone l }.setPt d (s1.ptAfter d k)

/-- A packet of class 2 from one die to another. -/
def Pkt.between (home d : Nat) (p : Pkt) : Bool := p.src == home && p.dst == d && p.cls == 2

/-- The invalidations of a flow that have not been delivered take place (R440, R442). -/
def dropEarlier (home d : Nat) : List Inval → State → State
  | [], s => s
  | v :: vs, s =>
    dropEarlier home d vs (if v.target == .die d && v.pkt.any (Pkt.between home d) then
      { s with invals := s.invals.filter fun x => x.id != v.id }.dropCopies v.base v.size d else s)

/-- An ICINV covers a slot. -/
def Icinv.covers (c : Icinv) (va : Nat) : Bool :=
  match c.len with
  | none => true
  | some n => decide (va < c.va + n ∧ c.va < va + 12)

/-- Remove covered slots from the instruction caches and fetch buffers of a die (R456). -/
def State.dropSlots (s : State) (c : Icinv) (die : Nat) : State :=
  { s with
    icache := s.icache.filter fun y => !(dieOf y.core == die && y.ctx == c.ctx && c.covers y.va)
    units := s.units.map fun (U : Unit) =>
      if dieOf U.core == die && U.ctx == c.ctx then
        { U with groups := U.groups.map fun G => { G with fbuf := G.fbuf.filter fun y => !c.covers y.1 } }
      else U }

/-- The ICINV packets of a flow that have not been delivered are delivered; their acknowledgements are still to come (R442, R456). -/
def icinvEarlier (home d : Nat) : List Icinv → State → State
  | [], s => s
  | c :: cs, s =>
    icinvEarlier home d cs (if c.pkts.any (Pkt.between home d) then
      { s.dropSlots c d with icinvs := s.icinvs.map fun (y : Icinv) =>
          if y.id == c.id then { y with pkts := y.pkts.filter fun p => !Pkt.between home d p } else y } else s)

/-- An invalidation from a home travels in its flow of class 2, behind the earlier ones, takes place and is acknowledged (R440, R442). -/
def ownInvals (home lo n : Nat) : List Nat → State → State
  | [], s => s
  | d :: ds, s =>
    let s1 := icinvEarlier home d s.icinvs (dropEarlier home d s.invals s)
    ownInvals home lo n ds (((s1.passPkts home 2 [d]).dropCopies lo n d).backPkts home 2 [d])

/-- The round of one region for a write that the device makes for itself. -/
def State.ownRegion (s : State) (pa : Nat) (r : Region) : State :=
  let halves := splitRegion r pa s.clock
  let hit : Region := (halves.find? fun (x : Region) => x.covers pa).getD r
  ownInvals r.die hit.base hit.size r.present
    { s with regions := halves ++ s.regions.filter fun (x : Region) => !r.same x }

/-- The host and the peers that share a 2 KiB region give it up: a packet of class 2 to each, and its acknowledgement (R442, R447, R454). -/
def State.ownSharers (s : State) (p : PeerEnt) : State :=
  let (_, n, self) := s.peerCfg
  let ids := if p.coarse then (List.range n).filter (· != self) else p.sharers
  let ports := ids.map (fun _ => 6) ++ (if p.host then [4] else [])
  (s.passPkts p.die 2 ports).backPkts p.die 2 ports

/-- DESIGN CHOICE (log entry 106): the invalidation round of a write that the device makes for itself is over within the step that
writes: the copies on other dies go, and the host and the peers that share the line have given it up (R439, R440, R447, R454). -/
def State.ownRound (s : State) (pa : Nat) : State :=
  let s1 := (s.regions.filter fun (r : Region) => r.covers pa && !r.present.isEmpty).foldl (fun t r => t.ownRegion pa r) s
  let s2 := (s1.peers.filter fun p => p.base == pa / 2048 * 2048).foldl State.ownSharers s1
  { s2 with peers := s2.peers.filter fun p => p.base != pa / 2048 * 2048 }

/-- The rounds of a range. -/
def State.ownRounds (s : State) (pa n : Nat) : State :=
  if s.regions.isEmpty && s.peers.isEmpty then s else (piecesOf pa n).foldl State.ownRound s

/-- Home lines that a write changes pass every lease of their dies (R329, R441). -/
def passLeases : List Line → State → State
  | [], s => s
  | l :: ls, s => passLeases ls (s.farWrite l l.die).1

/-- Home lines that hold a byte of a range. -/
def State.linesIn (s : State) (pa n : Nat) : List Line := s.lines.filter fun l => !l.proxy && l.within pa n

/-- The slices that a write the device makes for itself reaches wake (R438): the homes of the lines it changes, and where none is held
the one that serves the address. -/
def State.ownTouch (s : State) (pa n : Nat) : State :=
  match s.linesIn pa n with
  | [] => s.touchSlice (s.paSlice pa)
  | l :: ls => (l :: ls).foldl (fun t m => t.touchSlice (t.homeOf m.key)) s

/-- A write that the device makes for itself at a physical address: a record, an event, an entry of a table, a counter. -/
def State.ownWrite (s : State) (pa : Nat) (bs : List Byte) : State :=
  let s1 := ((s.ownTouch pa bs.length).ownRounds pa bs.length).physWrite pa bs
  passLeases (s1.linesIn pa bs.length) s1

/-- Such a write of a number of `n` bytes. -/
def State.ownPut (s : State) (pa n x : Nat) : State := s.ownWrite pa (toBytesLE n x)

end Sys2Proof.Machine
end

