-- ==== Sys2Proof/Machine/Ops.lean ====
section
/-! DEFINITION. The named operations every meaning is built from: interrupts (R446), fault records (R420 to
R425), the end of a unit or a launch (R283, R375), taking a trap (R199, R200, R419, R491) and leaving a handler (R203,
R255). -/

namespace Sys2Proof.Machine

open Sys2Proof

/-- The answer of a step. -/
abbrev Out := Host.Outcome State Fault Refusal

/-! ### Interrupts (R446) -/

/-- Send the message of a vector, or leave it pending while the vector is masked. -/
def HostRegs.send (r : HostRegs) (k : Nat) : HostRegs :=
  if r.msixMask.getLsbD k then { r with msixPend := r.msixPend ||| BitVec.ofNat 64 (2 ^ k) }
  else { r with msixSent := spSet 0 r.msixSent k (spGet 0 r.msixSent k + 1) }

/-- Source `k` has a new event: its INTSTAT bit becomes 1, and a message goes out if it may; `msixPend` holds the messages that are
owed until a mask is lifted (R446). -/
def State.raiseInt (s : State) (k : Nat) : State :=
  if s.regs.intstat.getLsbD k then s
  else
    let r := { s.regs with intstat := s.regs.intstat ||| BitVec.ofNat 9 (2 ^ k) }
    { s with regs := if r.intmask.getLsbD k then r.send k else { r with msixPend := r.msixPend ||| BitVec.ofNat 64 (2 ^ k) } }

/-! ### Free values -/

/-- A free value of the manual's silence (log entry 1), and the state after reading it. -/
def State.freeVal (s : State) : BitVec 64 × State := (Config.freeDWord s.freeCtr, { s with freeCtr := s.freeCtr + 1 })

/-! ### Fleet event log (R483) -/

/-- Address of the fleet event log. -/
def State.evBase (s : State) : Nat := s.pa52 (bitsAt s.regs.evbase.toNat 12 40 * 4096)

/-- The 32 bytes of an event. -/
def FleetEvent.bytes (e : FleetEvent) (seq : Nat) : List Byte :=
  toBytesLE 2 e.kind ++ toBytesLE 2 e.loc ++ toBytesLE 4 e.count ++ toBytesLE 8 e.a.toNat ++ toBytesLE 8 e.b.toNat ++
    toBytesLE 8 seq

/-- The log has room. -/
def State.evRoom (s : State) : Bool :=
  decide ((s.physNat s.evBase 8 + 2 ^ 64 - s.physNat (s.evBase + 8) 8) % 2 ^ 64 < 4096)

/-- Write one event and PIDX (R483). -/
def State.evPost (s : State) (e : FleetEvent) : State :=
  let p := s.physNat s.evBase 8
  let s1 := s.ownWrite (s.evBase + 64 + 32 * (p % 4096)) (e.bytes s.evSeq)
  let s2 := s1.ownPut s.evBase 8 ((p + 1) % 2 ^ 64)
  { s2 with evSeq := s2.evSeq + 1 }.raiseInt 4

/-- Post events that wait, in order, while there is room. -/
def evDrain : List FleetEvent → State → State
  | [], s => { s with events := [] }
  | e :: es, s => if s.evRoom then evDrain es (s.evPost e) else { s with events := e :: es }

/-- Post an event: it waits for room where its kind is to be kept, and is counted and dropped otherwise (R483). WHERE has the die where
`loc` names one, below 4; the index of a block, the die where none is named, and COUNT of a kind other than 12 are not stated: free values
(log entry 1). -/
def State.event (s : State) (e0 : FleetEvent) : State :=
  let (v, s) := s.freeVal
  let e := { e0 with
    loc := if e0.loc < 4 then 16384 * e0.loc + v.toNat % 16384 else v.toNat % 65536
    count := if e0.kind == 12 then e0.count else bitsAt v.toNat 16 32 }
  if s.events.isEmpty && s.evRoom then s.evPost e
  else if (1 ≤ e.kind && e.kind ≤ 5) || e.kind == 7 || e.kind == 10 then { s with events := s.events ++ [e] }
  else s.ownPut (s.evBase + 16) 8 ((s.physNat (s.evBase + 16) 8 + 1) % 2 ^ 64)

/-! ### Context descriptors (R406) -/

/-- Physical address of a context's descriptor. -/
def State.ctxDesc (s : State) (ctx : Nat) : Nat := s.pa52 (bitsAt s.regs.ctxbase.toNat 21 31 * 2 ^ 21 + 512 * (ctx % 4096))
/-- HANDLER of a context. -/
def State.handler (s : State) (ctx : Nat) : DWord := BitVec.ofNat 64 (s.physNat (s.ctxDesc ctx + 0x10) 8)
/-- WDLIM of a context, in arithmetic cycles, 0 for none (R426). -/
def State.wdLim (s : State) (ctx : Nat) : Nat := s.physNat (s.ctxDesc ctx + 0x0C) 2 * 2 ^ 24

/-! ### Fault records (R420 to R423) -/

/-- Address of the fault queue area. -/
def State.fqBase (s : State) : Nat := s.pa52 (bitsAt s.regs.fqbase.toNat 21 31 * 2 ^ 21)
/-- Address of a slot of a die's ring, by the index of its record. -/
def State.frAddr (s : State) (die idx : Nat) : Nat := s.fqBase + 4096 + 262144 * die + 64 * (idx % 4096)
/-- PIDX of a die's ring (R420). -/
def State.fqPidx (s : State) (die : Nat) : Nat := s.physNat (s.fqBase + 64 * die) 8
/-- The 64 bytes of a record (R421). -/
def FaultRec.bytes (r : FaultRec) (seq : Nat) : List Byte :=
  toBytesLE 8 r.va.toNat ++ toBytesLE 2 (r.ctx % 4096) ++ toBytesLE 1 r.source ++ toBytesLE 1 r.kind ++
    toBytesLE 1 r.access ++ toBytesLE 1 r.state ++ toBytesLE 1 r.level ++ toBytesLE 1 0 ++
    toBytesLE 8 r.launch.toNat ++ toBytesLE 4 r.unit ++ toBytesLE 4 r.loc ++ toBytesLE 8 r.detail0.toNat ++
    toBytesLE 8 r.detail1.toNat ++ toBytesLE 8 (seq % 2 ^ 48) ++ toBytesLE 8 0
/-- A die's fault ring has a free slot (R420). -/
def State.ringRoom (s : State) (die : Nat) : Bool :=
  decide ((s.fqPidx die + 2 ^ 64 - s.physNat (s.fqBase + 64 * die + 8) 8) % 2 ^ 64 < 4096)
/-- A record that is in its die's ring, and not still kept for want of room. -/
def Posted.shown (p : Posted) : Bool := p.slot != 4096
/-- A die's fault ring has room for another record: those that already wait for room go first (R420). -/
def State.fqRoom (s : State) (die : Nat) : Bool := s.ringRoom die && !s.posted.any fun p => p.die == die && !p.shown

/-- Put a record's bytes into a die's ring (R420): the record, then PIDX, then the interrupt. -/
def State.ringPut (s : State) (die : Nat) (bs : List Byte) : State :=
  let p := s.fqPidx die
  let s1 := s.ownWrite (s.frAddr die p) bs
  (s1.ownPut (s.fqBase + 64 * die) 8 ((p + 1) % 2 ^ 64)).raiseInt die

/-- The next record of a die takes its SEQ (R421). -/
def State.nextSeq (s : State) (die : Nat) : State := { s with seqs := spSet 0 s.seqs die (spGet 0 s.seqs die + 1) }
/-- Post a record with the bytes given. -/
def State.postBytes (s : State) (die : Nat) (bs : List Byte) : State := (s.ringPut die bs).nextSeq die

/-- Post a record (R420); a pending one is remembered with the agent that waits behind it (R422). None while the ring is
full: the source stalls in place. -/
def State.post (s : State) (die : Nat) (r : FaultRec) (agent : FaultAgent) : Option (State × Nat) :=
  if s.fqRoom die then
    let seq := spGet 0 s.seqs die
    let s1 := s.postBytes die (r.bytes seq)
    some ({ s1 with posted := s1.posted ++ [⟨die, seq, s.fqPidx die % 4096, r, agent, s1.clock⟩] }, seq)
  else none

/-- Post the record of a source that goes on from it alone (an engine, a port, a request, a queue): while the ring is full the pending
record is kept with the SEQ it will have, and the source waits behind it; no record is lost (R420; log entry 125). -/
def State.postKept (s : State) (die : Nat) (r : FaultRec) (agent : FaultAgent) : Option (State × Nat) :=
  match s.post die r agent with
  | some x => some x
  | none =>
    if r.state != 1 then none
    else
      let seq := spGet 0 s.seqs die
      some ({ s with posted := s.posted ++ [(⟨die, seq, 4096, r, agent, s.clock⟩ : Posted)] }.nextSeq die, seq)

/-- The oldest record a die keeps goes into its ring once there is room, in the state it has by then (R420). -/
def State.postOwed (s : State) (die : Nat) : State :=
  match s.posted.find? fun p => p.die == die && !p.shown with
  | none => s
  | some p =>
    if !s.ringRoom die then s
    else
      let s1 := s.ringPut die (p.frec.bytes p.seq)
      { s1 with posted := s1.posted.map fun x =>
          if x.die == p.die && x.seq == p.seq then { x with slot := s.fqPidx die % 4096, since := s.clock } else x }

/-- A record changes state (R421): its STATE byte is written again, in the slot it was put in. -/
def State.setRecState (s : State) (p : Posted) (st : Nat) : State :=
  let s1 := if p.shown then s.ownPut (s.frAddr p.die p.slot + 0x0D) 1 st else s
  { s1 with posted := s1.posted.map fun x =>
      if x.die == p.die && x.seq == p.seq then { x with frec := { x.frec with state := st }, since := s.clock } else x }

/-- Withdraw the pending records that `f` names (R423); the withdrawal wins over a retry of the same cycle (R435). -/
def withdraw (f : Posted → Bool) : List Posted → State → State
  | [], s => s
  | p :: ps, s =>
    withdraw f ps (if f p && (p.frec.state == 1 || (p.frec.state == 2 && p.since == s.clock)) then s.setRecState p 4 else s)

/-- The unit an agent belongs to. -/
def FaultAgent.unit? : FaultAgent → Option Nat
  | .group u _ => some u
  | .cmd u _ => some u
  | .task u _ => some u
  | .port u _ _ => some u
  | .req _ => none
  | .queue _ => none
  | .front _ => none
  | .launchRec _ => none

/-! ### Scratchpad bytes, barrier objects and the end of a tile task (R141, R145, R167, R291) -/

/-- A number of `n` bytes of a unit's scratchpad. -/
def Unit.spadNat (U : Unit) (off n : Nat) : Nat := ofBytesLE (spGetList 0 U.spad off n)
/-- Write bytes of a unit's scratchpad. -/
def Unit.spadPut (U : Unit) (off : Nat) (bs : List Byte) : Unit := { U with spad := spSetList 0 U.spad off bs }
/-- A number of `n` bytes of the scratchpad of unit `u`. -/
def State.spadNat (s : State) (u off n : Nat) : Nat :=
  match s.units[u]? with
  | some U => U.spadNat off n
  | none => 0

/-- The fields of a barrier object (R141). -/
structure BarObj where
  phase : Nat
  count : Nat
  pend : Nat
  bal : Nat
  deriving DecidableEq, Repr

/-- Read the object at an offset. -/
def Unit.barObj (U : Unit) (off : Nat) : BarObj :=
  ⟨U.spadNat off 4, U.spadNat (off + 4) 2, U.spadNat (off + 6) 2, U.spadNat (off + 8) 4⟩
/-- Write an object; its reserved bits stay as they are (R141, R146). -/
def Unit.putBar (U : Unit) (off : Nat) (b : BarObj) : Unit :=
  U.spadPut off (toBytesLE 4 b.phase ++ toBytesLE 2 b.count ++ toBytesLE 2 b.pend ++ toBytesLE 4 b.bal)
/-- The completion test (R141). -/
def BarObj.test (b : BarObj) : BarObj :=
  if b.pend = 0 ∧ b.bal = 0 then { b with phase := (b.phase + 1) % 2 ^ 32, pend := b.count } else b
/-- BarArrive with byte count `n` (R141). -/
def BarObj.arrive (b : BarObj) (n : Nat) : BarObj :=
  { b with bal := (b.bal + 2 ^ 32 - n % 2 ^ 32) % 2 ^ 32, pend := b.pend - 1 }.test
/-- Where a phase token stands: future, current or past (R143). -/
def tokenDist (phase t : Nat) : Nat := (phase + 2 ^ 32 - t % 2 ^ 32) % 2 ^ 32

/-- An arrival on the object of a unit; it carries the arriving core's logical time and that of the accesses it stands for (R145,
R326). -/
def State.barArriveOn (s : State) (v off n core time : Nat) : State :=
  let t := max (max (s.tcOf core) (s.rhOf core)) time
  s.modUnit v fun V => { V.putBar off ((V.barObj off).arrive n) with
    barTime := spSet 0 V.barTime off (max t (spGet 0 V.barTime off)) }

/-- Change an engine's record of times. -/
def State.modEngine (s : State) (e : Nat) (f : Engine → Engine) : State :=
  if s.engines.any (·.n == e) then { s with engines := s.engines.map fun x => if x.n == e then f x else x }
  else { s with engines := f ⟨e, 0, 0, 0, 0, 0, 0⟩ :: s.engines }
/-- An engine's times. -/
def State.engineOf (s : State) (e : Nat) : Engine := (s.engines.find? (·.n == e)).getD ⟨e, 0, 0, 0, 0, 0, 0⟩

/-- An entry of a quad's reservation table is freed (R342, R352). -/
def State.entryFreed (s : State) (quad : Nat) : State :=
  if Config.quads ≤ quad then s
  else s.modEngine quad fun x => { x with freedAt := s.clock + 1, freed := if x.freedAt == s.clock + 1 then x.freed + 1 else 1 }

/-- A task reaches a final status: its arrival on CBAR is made, its entry is freed, its code kept and given to the groups that wait for
it (R167, R169, R342). -/
def State.finishTask (s : State) (t : Task) (st : TaskSt) (code : Nat) : State :=
  match s.units[t.unit]? with
  | none => s
  | some U =>
    let cbar := bitsAt t.desc.toNat 256 32
    let s1 := if cbar == 0xFFFFFFFF then s else s.barArriveOn t.unit cbar 0 U.core t.time
    let s2 := { s1 with tasks := s1.tasks.filter fun x => !(x.unit == t.unit && x.handle == t.handle) }.entryFreed t.home
    s2.modUnit t.unit fun V => { V with
      finals := (t.handle, st) :: V.finals.filter fun f => decide (tokenDist V.nextHandle.toNat f.1.toNat ≤ 256)
      engTime := max V.engTime t.time
      groups := V.groups.map fun (G : Group) => match G.mxCode with
        | some (w, none) => if w == t.handle then { G with mxCode := some (w, some code) } else G
        | some (_, some _) | none => G }

/-! ### The end of a unit and of a launch (R283, R375) -/

/-- The watcher is a group of the unit. -/
def Watcher.ofUnit (u : Nat) : Watcher → Bool
  | .group v _ => v == u
  | .queue _ | .launch _ => false

/-- A unit is stopped and discarded with the outcomes of R283: its tentative lines, monitors, loads, commands,
slabs, configuration, save area and held stores go, its tile tasks end CANCELLED and arrive (R348), its pending records are withdrawn.
Reductions and atomics it issued
stay on their way (R375). Firm stores in flight stay in flight (log entry 20). -/
def State.discardUnit (s : State) (u : Nat) (st : UnitSt) : State :=
  match s.units[u]? with
  | none => s
  | some U =>
    let s0 := withdraw (fun p => p.agent.unit? == some u) s.posted s
    let s1 := (s0.tasks.filter (·.unit == u)).foldl (fun t x => t.finishTask x .cancelled 4) s0
    let s2 := { s1 with
      tent := s1.tent.filter (·.unit != u)
      monitors := s1.monitors.filter fun m => !m.who.ofUnit u
      loads := s1.loads.filter (·.unit != u)
      stores := if U.firm then s1.stores else s1.stores.filter (·.unit != u)
      icinvs := s1.icinvs.filter (·.unit != u) }
    s2.modUnit u fun V => { V with
      st := st
      groups := V.groups.map fun G => { G with st := .ended, record := none }
      copyq := []
      slabs := []
      staged := []
      spat := none
      saveAt := none
      seek := none
      promoting := false }

/-- The front end stands for a unit in the requests it makes, and for a core, as no unit and no core has these numbers. -/
def frontUnit : Nat := 4294967296
/-- The front end's number as a core. -/
def frontCore : Nat := 4096

/-- A write or a reduction of the front end for queue `q` and packet `tag`; with release it follows the queue's earlier
ones. -/
def frontReq (s : State) (kind : ReqKind) (size : Nat) (rel : Bool) (q ctx va : Nat) (val : DWord) (launch : DWord)
    (tag : Nat) : Req :=
  { id := s.nextId, kind := kind, code := 0, size := size, ord := if rel then 1 else 0, scope := 4, unit := frontUnit,
    grp := q, launch := launch, core := frontCore, ctx := ctx, va := va, op0 := val.setWidth 128, op1 := 0, lane := 0,
    reg := tag, slot := 0xFFFFFFFF, cluster := 0, index := none, performed := false, reply := none, halves := 0,
    wts := 0, batch := 0, ext := false, fault := none, arrived := false, replied := false, pkt := none }

/-- The die that holds a queue's slot, whose fault queue and translation caches serve it (R1, R381, R420). DESIGN CHOICE (log entry 113):
die 0 serves a queue that holds no slot. -/
def State.queueDie (s : State) (q : Nat) : Nat :=
  match s.queue? q with
  | some Q => Q.die.getD 0
  | none => 0

/-- The die of the home of an address. -/
def State.homeDie (s : State) (ctx va : Nat) : Nat := sliceDie (s.homeOf (s.keyOf ctx va).1)

/-- A request of the front end that is still to be sent, as its flow was full (R442). -/
def State.unsent (s : State) (q : Req) : Bool :=
  q.core == frontCore && q.travels && q.pkt.isNone && s.queueDie q.grp != s.homeDie q.ctx q.va

/-- A request of the front end of the same flow, made before `id`, is still to be sent. -/
def State.unsentBefore (s : State) (id src dst : Nat) : Bool :=
  s.reqs.any fun q => decide (q.id < id) && s.unsent q && s.queueDie q.grp == src && s.homeDie q.ctx q.va == dst

/-- Send a request of the front end, from the die of the queue's slot to the home's die; while the flow is full it stays to be sent
(R442). -/
def State.sendFront (s : State) (kind : ReqKind) (size : Nat) (rel : Bool) (q ctx va : Nat) (val : DWord) (launch : DWord)
    (tag : Nat) : State :=
  let held := s.flowFull (s.queueDie q) (s.homeDie ctx va) 3 || s.unsentBefore s.nextId (s.queueDie q) (s.homeDie ctx va)
  let (p, s1) := if held then (none, s) else s.sendPkt (s.queueDie q) (s.homeDie ctx va) 3
  { s1 with reqs := s1.reqs ++ [{ frontReq s kind size rel q ctx va val launch tag with pkt := p }] }.fresh

/-- Issue the returns listed for a unit index, in list order (R372). -/
def issueRetracts (L : Launch) (idx : Nat) : List Retract → State → State
  | [], s => s
  | r :: rs, s =>
    issueRetracts L idx rs
      (if r.unit == idx then s.sendFront .red 3 true L.queue L.ctx r.ctr.toNat (r.amount.signExtend 64) L.id r.unit else s)

/-- Stop every unit of a launch that has not finished; a tentative one that bind-off has not confirmed returns its retractable
allocations (R281, R372, R375). -/
def stopUnits (L : Launch) : List Nat → State → State
  | [], s => s
  | u :: us, s =>
    match s.units[u]? with
    | some U =>
      if U.launch == L.id && !U.svc && U.st != .retired && U.st != .frogged then
        let s1 := s.discardUnit u .frogged
        stopUnits L us (if U.firm || U.promoting then s1 else issueRetracts L U.idx L.retracts s1)
      else stopUnits L us s
    | none => stopUnits L us s

/-- Units of a launch that have started. -/
def State.startedOf (s : State) (L : Launch) : Nat := ((s.units.drop L.base).filter fun U => U.launch == L.id && !U.svc).length

/-- Return the allocations of unit indices that never started (R372). -/
def returnRange (L : Launch) (lo n : Nat) (s : State) : State :=
  (L.retracts.filter fun r => decide (lo ≤ r.unit ∧ r.unit < lo + n)).foldl
    (fun t r => t.sendFront .red 3 true L.queue L.ctx r.ctr.toNat (r.amount.signExtend 64) L.id r.unit) s

/-- The launch still runs: neither complete nor ending. -/
def Launch.live (L : Launch) : Bool := !L.done && L.status == 0
/-- The launch ends otherwise than by its units: none starts any more (R375). -/
def Launch.stopped (L : Launch) : Bool := L.cancelled || L.aborted || L.uncorr || L.faulted.isSome
/-- The launch's units have been stopped (R375, R376). -/
def Launch.halted (L : Launch) : Bool := L.stopped && L.failing.isNone

/-- A record of an access made for a launch, which its cancel withdraws (R423): those of its units go with the units. -/
def State.recOfLaunch (s : State) (id : DWord) (p : Posted) : Bool :=
  match p.agent with
  | .req n => s.reqs.any fun q => q.id == n && q.launch == id && q.core != frontCore
  | .launchRec _ => p.frec.launch == id
  | .group _ _ | .cmd _ _ | .task _ _ | .port _ _ _ | .queue _ | .front _ => false

/-- A record of the source was retried in this cycle: the source goes on from the next cycle, so that a withdrawal of the same cycle
comes before it (R422, R435). -/
def State.retriedNow (s : State) (a : FaultAgent) : Bool :=
  s.posted.any fun p => p.agent == a && p.frec.state == 2 && p.since == s.clock

/-- The records of a launch's requests are withdrawn; a request that waited behind one, or whose retry was of this cycle, is never
performed (R423, R435). -/
def State.withdrawLaunch (s : State) (id : DWord) : State :=
  let s1 := withdraw (s.recOfLaunch id) s.posted s
  { s1 with reqs := s1.reqs.filter fun q =>
      !(q.launch == id && q.core != frontCore && (q.fault.isSome || s.retriedNow (.req q.id))) }

/-- Cancel a launch (R375): the flag is set by `f`, every unit is stopped, none starts any more. A tentative unit that had
not started returns its allocations too. Where the units have been stopped before, only the flag is set, as long as the launch has no
status: the status is that of the first cause in R285's list, whichever came first. -/
def State.cancelLaunch (s : State) (id : DWord) (f : Launch → Launch) : State :=
  match s.launch? id with
  | none => s
  | some L =>
    if L.halted then (if L.live then s.modLaunch id f else s)
    else
      let s1 := s.modLaunch id fun l => { f l with needPolicy := false, failing := none }
      let s2 := (stopUnits L (List.range s1.units.length) s1).withdrawLaunch id
      let lo := max (s.startedOf L) L.cast.toNat
      if L.shape == 0 || L.bound then s2 else returnRange L lo (L.pred - lo) s2

/-- A launch that must end FAULTED with DETAIL 0x06; the first record gives INFO (R425). -/
def State.failLaunch (s : State) (id : DWord) (seq : Nat) : State :=
  s.cancelLaunch id fun l => { l with faulted := l.faulted <|> some (6, seq % 65536) }

/-- A group of the launch has stopped (R200): the launch will end FAULTED, and is cancelled for it once its other groups have taken
their course (R359, R425; log entry 101). -/
def State.groupFails (s : State) (id : DWord) (seq : Nat) : State :=
  s.modLaunch id fun l => { l with
    faulted := l.faulted <|> some (6, seq % 65536)
    failing := if l.stopped then l.failing else some s.clock }

/-- A launch that consumed uncorrectable data (R434). -/
def State.uncorrLaunch (s : State) (id : DWord) : State := s.cancelLaunch id fun l => { l with uncorr := true }

/-- The die whose slice holds the home line of a physical address; 4 where none holds it. -/
def State.paDie? (s : State) (pa : Nat) : Nat :=
  match homeLineAt s.lines (pa % paMod) with
  | some (l, _) => l.die
  | none => 4

/-- The block that reports uncorrectable data at an address: a row of the slice that holds it, or what lies behind it, which of the
two is not stated; that is the HBM row, and a link lane for an address outside HBM. The row of a slice and the lane are free values (R482;
log entry 42). -/
def State.reporter (s : State) (v : BitVec 64) (pa : Nat) : Block :=
  let behind : Block := if pa < hbmEnd then .hbmRow (pa / 2097152) (Config.hbmRow pa) else .linkLane (bitsAt v.toNat 1 8)
  match homeLineAt s.lines (pa % paMod) with
  | some (l, _) => if v.getLsbD 0 then .sramRow (s.homeOf l.key) (bitsAt v.toNat 9 12) else behind
  | none => behind

/-- A detection of uncorrectable data at an address is reported, and its block is to be tested (R434, R482, R483). -/
def State.detect (s : State) (id : DWord) (pa : Nat) : State :=
  let (v, s1) := s.freeVal
  { s1 with owed := s1.owed ++ [s.reporter v pa] }.event ⟨8, s.paDie? pa, 0, BitVec.ofNat 64 pa, id, none⟩

/-- A launch consumes uncorrectable data, which is reported and ends it (R434). -/
def State.consume (s : State) (id : DWord) (pa : Nat) : State := (s.detect id pa).uncorrLaunch id

/-! ### Traps (R198 to R200, R415, R416, R419, R491) -/

/-- A walk's finding for a fault record: KIND, ACCESS, LEVEL (R408, R421). -/
structure WalkInfo where
  kind : Nat
  access : Nat
  level : Nat
  deriving DecidableEq, Repr

/-- A trap: cause, %trapva, lanes, return slot, and the walk that raised it (R198). -/
structure Trap where
  cause : Nat
  va : DWord
  mask : Word
  ret : DWord
  walk : Option WalkInfo
  deriving DecidableEq, Repr

/-- WHERE of a group's record (R421). -/
def whereOf (core g : Nat) : Nat := core % 512 + 512 * (g % 32)

/-- The record built for a walk's PFAULT or PROT (R416), or posted for an undelivered cause (R491). -/
def trapRecord (U : Unit) (g : Nat) (t : Trap) (state : Nat) : FaultRec :=
  match t.walk with
  | some w => ⟨t.va, U.ctx, 1, w.kind, w.access, state, w.level, U.launch, U.idx, whereOf U.core g,
      BitVec.ofNat 64 t.cause, t.ret⟩
  | none => ⟨t.va, U.ctx, 1, 8, 0, state, 0, U.launch, U.idx, whereOf U.core g, BitVec.ofNat 64 t.cause, t.ret⟩

/-- A unit barrier generation completes when every group has arrived or ended: waiters resume, with
the acquire of R318. -/
def State.barCheck (s : State) (u : Nat) : State :=
  match s.units[u]? with
  | none => s
  | some U =>
    if !U.barArr.isEmpty && U.groups.zipIdx.all fun x => x.1.st == .ended || U.barArr.contains x.2 then
      (s.modUnit u fun V => { V with
        barArr := []
        groups := V.groups.map fun G => if G.st == .waiting .barSync then { G.adv with st := .ready } else G }).acqFence U.core
    else s

/-- A trap that is not delivered: the group stops, its record is posted in STATE 3 and the launch ends FAULTED (R200, R419, R491).
While the ring is full the group stalls in place (R420). A service group has no launch. Groups that wait in BAR.sync for no other are
released (R102). -/
def State.trapFail (s : State) (u g : Nat) (U : Unit) (t : Trap) : State :=
  match s.post (dieOf U.core) (trapRecord U g t 3) (.group u g) with
  | none => s.modGroup u g fun G => { G with st := .stalled }
  | some (s1, seq) =>
    let s2 := (s1.modGroup u g fun G => { G with st := .ended }).barCheck u
    if U.svc then s2 else s2.groupFails U.launch seq

/-- With HANDLER = 0 a walk's trap parks the group as PARK does, on the record it built (R419). -/
def State.trapPark (s : State) (u g : Nat) (U : Unit) (t : Trap) : State :=
  match s.post (dieOf U.core) (trapRecord U g t 1) (.group u g) with
  | none => s.modGroup u g fun G => { G with st := .stalled }
  | some (s1, seq) => s1.modGroup u g fun G => { G with
      st := .parked, pc := t.ret, parkedOn := some (dieOf U.core, seq), retpc := t.ret, retmask := G.mask, entryMask := G.mask,
      tdepth := G.split.length, record := some (trapRecord U g t 1) }

/-- The state of a group that enters its handler (R199, R204, R205, R415, R416). -/
def Group.enter (G : Group) (U : Unit) (g : Nat) (t : Trap) (handler : DWord) (clock : Nat) : Group :=
  { G with
    st := .ready
    retpc := t.ret
    retmask := G.mask
    entryMask := G.mask
    tdepth := G.split.length
    readyFrom := none
    claim := none
    tileFrom := none
    mxCode := none
    cause := BitVec.ofNat 8 t.cause
    trapcause := BitVec.ofNat 32 t.cause
    trapva := t.va
    trapmask := t.mask
    mask := t.mask
    sup := true
    supset := ⟨0, 0, t.va, 0, 0⟩
    supSince := clock
    pc := handler
    faultrec := if t.walk.isSome then BitVec.allOnes 64 else 0
    record := if t.walk.isSome then some { trapRecord U g t 1 with va := t.va } else none }

/-- Take a trap (R21, R199): deliver it to the context's handler, or end the launch, or park. A trap in supervisor or
service state is not delivered (R200, R201). -/
def State.takeTrap (s : State) (u g : Nat) (t : Trap) : State :=
  match s.group? u g with
  | none => s
  | some (U, G) =>
    if t.cause == 0x0A then (match t.walk with
      | some w => s.consume U.launch w.level
      | none => s.uncorrLaunch U.launch)
    else if G.sup || U.svc then s.trapFail u g U t
    else if s.handler U.ctx == 0 then (if t.walk.isSome then s.trapPark u g U t else s.trapFail u g U t)
    else s.modGroup u g fun H => H.enter U g t (s.handler U.ctx) s.clock

/-- Discard split-table entries at or above the depth at trap entry (R255); the list's head is the most recent. -/
def Group.dropSplit (G : Group) : List SplitEntry := G.split.drop (G.split.length - G.tdepth)

/-- Leave supervisor state as RTE does (R203, R255, R415). -/
def Group.rte (G : Group) : Group :=
  { G with
    split := G.dropSplit
    mask := G.retmask
    pc := G.retpc
    sup := false
    trapcause := 0
    record := none }

end Sys2Proof.Machine
end

