-- ==== Sys2Proof/Machine/Operands.lean ====
section
/-! DEFINITION. Operand forms: the registers an instruction sees (R23, R415), reading and writing every operand class and
width (R22 to R26, R35), guards and active lanes (R17, R18), the limits of R23 and R24 that depend on the unit, register
interlocks (R19), and the frame in which a group executes an instruction (R20, R21). -/

namespace Sys2Proof

/-! ### Operands of an instruction -/

/-- The B and C operands, the zero operand in the immediate form. -/
def BC.b : BC → Opnd
  | .imm _ => Opnd.z
  | .ops b _ => b
/-- The C operand, the zero operand in the immediate form. -/
def BC.c : BC → Opnd
  | .imm _ => Opnd.z
  | .ops _ c => c

/-- Operands and the number of 32-bit registers of their values. -/
abbrev Uses := List (Opnd × Nat)

/-- Registers per value of a width flag. -/
def regsOf (wide : Bool) : Nat := if wide then 2 else 1

/-- The operands of an integer or floating-point instruction. -/
def Args.uses (x : Args) (wd wa wb wc : Bool) : Uses :=
  (x.d, regsOf wd) :: (x.a, regsOf wa) :: match x.bc with
    | .imm _ => []
    | .ops b c => [(b, regsOf wb), (c, regsOf wc)]

/-- The operands of an instruction with four fields, each of one register. -/
def Ops4.uses (x : Ops4) : Uses := [(x.d, 1), (x.a, 1), (x.b, 1), (x.c, 1)]
/-- The operands of an instruction with four fields, D of two scalars. -/
def Ops4.usesWideD (x : Ops4) : Uses := [(x.d, 2), (x.a, 1), (x.b, 1), (x.c, 1)]

end Sys2Proof

namespace Sys2Proof.Machine

open Sys2Proof

/-! ### The registers an instruction sees -/

/-- The registers of a group, or of an operator lane (R190), as an instruction names them; `outs` are the tokens it gave
so far, queue index and value. -/
structure Regs where
  v : Sparse Word
  s : Sparse Word
  a : Sparse DWord
  p : Sparse Word
  stoch : Sparse Word
  outs : List (Nat × Word)
  deriving DecidableEq, Repr

/-- What is fixed while an instruction executes: lane positions, scalar registers S, active mask, constant banks (R23),
format slots (R57) and the head tokens of an operator's queues (R190). -/
structure Env where
  lanes : Nat
  ns : Nat
  mask : Word
  banks : Sparse Byte
  fs : List Word
  toks : List (Nat × Word)
  deriving DecidableEq, Repr

/-- The registers of a group: in supervisor state s0, a14, a15, p13 and p14 name the supervisor set (R415). -/
def Group.regs (G : Group) : Regs :=
  if G.sup then
    { v := G.v
      s := spSet 0 G.s 0 G.supset.s0
      a := spSet 0 (spSet 0 G.a 14 G.supset.a14) 15 G.supset.a15
      p := spSet 0 (spSet 0 G.p 13 G.supset.p13) 14 G.supset.p14
      stoch := G.stoch
      outs := [] }
  else ⟨G.v, G.s, G.a, G.p, G.stoch, []⟩

/-- A group after an instruction left these registers (R415). -/
def Group.putRegs (G : Group) (r : Regs) : Group :=
  if G.sup then
    { G with
      v := r.v
      s := spSet 0 r.s 0 (spGet 0 G.s 0)
      a := spSet 0 (spSet 0 r.a 14 (spGet 0 G.a 14)) 15 (spGet 0 G.a 15)
      p := spSet 0 (spSet 0 r.p 13 (spGet 0 G.p 13)) 14 (spGet 0 G.p 14)
      stoch := r.stoch
      supset := ⟨spGet 0 r.s 0, spGet 0 r.a 14, spGet 0 r.a 15, spGet 0 r.p 13, spGet 0 r.p 14⟩ }
  else { G with v := r.v, s := r.s, a := r.a, p := r.p, stoch := r.stoch }

/-! ### Guards and active lanes (R17, R35) -/

/-- Predicate `i` of a lane; p15 reads true. -/
def Regs.pred (r : Regs) (i l : Nat) : Bool := i == 15 || (spGet 0 r.p i).getLsbD l
/-- The guard holds in a lane (R17). -/
def Regs.guard (r : Regs) (h : Hd) (l : Nat) : Bool := r.pred h.gp.toNat l != h.gn
/-- The active lanes in which the guard holds, in increasing order (R35). -/
def activeLanes (e : Env) (r : Regs) (h : Hd) : List Nat :=
  (List.range e.lanes).filter fun l => e.mask.getLsbD l && r.guard h l
/-- The mask of a list of lanes. -/
def maskOf : List Nat → Word
  | [] => 0
  | l :: ls => BitVec.ofNat 32 (2 ^ l) ||| maskOf ls

/-! ### Reading operands (R23, R24, R65) -/

/-- A 32-bit word of a constant bank (R23). -/
def Env.const (e : Env) (idx : Nat) : Nat :=
  ofBytesLE (spGetList 0 e.banks (1024 * (idx / 256) + 4 * (idx % 256)) 4)
/-- A vector register of a lane. -/
def Regs.vec (r : Regs) (i l : Nat) : Nat := (spGet 0 r.v (32 * i + l)).toNat
/-- A scalar register. -/
def Regs.scal (r : Regs) (i : Nat) : Nat := (spGet 0 r.s i).toNat
/-- An address register. -/
def Regs.addr (r : Regs) (i : Nat) : Nat := (spGet 0 r.a i).toNat
/-- The head token of a queue, as every read of a firing sees it (R190). -/
def Env.tok (e : Env) (q : Nat) : Nat :=
  match e.toks.find? fun t => t.1 == q with
  | some t => t.2.toNat
  | none => 0

/-- ReadOp of a 32-bit operand (R23, R35). -/
def rd32 (e : Env) (r : Regs) (o : Opnd) (l : Nat) : Nat :=
  let i := o.idx.toNat
  match o.cls with
  | .vec => r.vec i l
  | .scal => r.scal i
  | .pred => if r.pred i l then 1 else 0
  | .addr => r.addr i % 2 ^ 32
  | .queue => e.tok i
  | .const => e.const i
  | .simm => patOf 32 (sext 12 i)
  | .pair | .quad => r.vec i l
  | .acc | .sreg | .fslot | .zero => 0

/-- ReadOp of a 64-bit operand (R24, R65). -/
def rd64 (e : Env) (r : Regs) (o : Opnd) (l : Nat) : Nat :=
  let i := o.idx.toNat
  match o.cls with
  | .pair | .quad | .vec => r.vec i l + 2 ^ 32 * r.vec (i + 1) l
  | .scal => r.scal i + 2 ^ 32 * r.scal (i + 1)
  | .addr => r.addr i
  | .const => e.const i + 2 ^ 32 * e.const (i + 1)
  | .simm => patOf 64 (sext 12 i)
  | .queue => e.tok i
  | .pred | .acc | .sreg | .fslot | .zero => 0

/-- ReadOp of a 128-bit operand (R24). -/
def rd128 (r : Regs) (o : Opnd) (l : Nat) : Nat :=
  let i := o.idx.toNat
  match o.cls with
  | .quad => r.vec i l + 2 ^ 32 * r.vec (i + 1) l + 2 ^ 64 * r.vec (i + 2) l + 2 ^ 96 * r.vec (i + 3) l
  | _ => 0

/-- ReadOp of an operand of 32 or 64 bits. -/
def rd (e : Env) (r : Regs) (wide : Bool) (o : Opnd) (l : Nat) : Nat := if wide then rd64 e r o l else rd32 e r o l

/-- A binary32 immediate widened to binary64 (R26): exact, and a NaN becomes quiet with its sign and payload. -/
def widenImm (w : Word) : Nat :=
  let x := w.toNat
  if (fmt32.decode x).isNaN then
    bitsAt x 31 1 * 2 ^ 63 + 0x7FF8000000000000 ||| (bitsAt x 0 23 * 2 ^ 29)
  else roundTo fmt64 .rn false false (fmt32.decode x)

/-- The immediate of an integer instruction (R26). -/
def immOf (ty : IType) (w : Word) : Nat :=
  match ty with
  | .i64 => patOf 64 (sext 32 w.toNat)
  | .i32 | .n32 | .n64 | .i16x2 | .n16x2 | .i8x4 | .n8x4 => w.toNat

/-- ReadOp of B in the integer family (R26, R35). -/
def rdB (e : Env) (r : Regs) (ty : IType) (bc : BC) (l : Nat) : Nat :=
  match bc with
  | .imm w => immOf ty w
  | .ops b _ => rd e r ty.wide b l

/-- ReadOp of C of the given width; 0 in the immediate form, which has none. -/
def rdC (e : Env) (r : Regs) (wide : Bool) (bc : BC) (l : Nat) : Nat :=
  match bc with
  | .imm _ => 0
  | .ops _ c => rd e r wide c l

/-- ReadOp of B in the floating-point family, before negation (R26). -/
def rdFB (e : Env) (r : Regs) (ty : FType) (bc : BC) (l : Nat) : Nat :=
  match bc with
  | .imm w => if ty.wide then widenImm w else w.toNat
  | .ops b _ => rd e r ty.wide b l

/-! ### Writing operands (R23, R35) -/

/-- Write `n` consecutive registers of a lane from the words of a value. -/
def Regs.putVec (r : Regs) (i l n x : Nat) : Regs :=
  match n with
  | 0 => r
  | n + 1 => { r with v := spSet 0 r.v (32 * i + l) (BitVec.ofNat 32 x) }.putVec (i + 1) l n (x / 2 ^ 32)

/-- Write a predicate of a lane; a write to p15 is discarded. -/
def Regs.putPred (r : Regs) (i l : Nat) (b : Bool) : Regs :=
  if i == 15 then r
  else
    let m : Word := BitVec.ofNat 32 (2 ^ l)
    let old := spGet 0 r.p i
    { r with p := spSet 0 r.p i (if b then old ||| m else old &&& ~~~m) }

/-- Write a scalar register, or an even pair of them. -/
def Regs.putScal (r : Regs) (wide : Bool) (i x : Nat) : Regs :=
  let s1 := spSet 0 r.s i (BitVec.ofNat 32 x)
  { r with s := if wide then spSet 0 s1 (i + 1) (BitVec.ofNat 32 (x / 2 ^ 32)) else s1 }

/-- Write an address register. -/
def Regs.putAddr (r : Regs) (i x : Nat) : Regs := { r with a := spSet 0 r.a i (BitVec.ofNat 64 x) }

/-- WriteOp of one lane into a per-lane destination. -/
def Regs.putLane (r : Regs) (o : Opnd) (l x : Nat) : Regs :=
  let i := o.idx.toNat
  match o.cls with
  | .vec => r.putVec i l 1 x
  | .pair => r.putVec i l 2 x
  | .quad => r.putVec i l 4 x
  | .pred => r.putPred i l (x % 2 == 1)
  | .scal | .addr | .acc | .queue | .const | .simm | .sreg | .fslot | .zero => r

/-- WriteOp over the active lanes with their values, lowest lane first: a scalar, address or queue destination takes the
first (R35). -/
def Regs.write (r : Regs) (o : Opnd) (wide : Bool) (xs : List (Nat × Nat)) : Regs :=
  match xs with
  | [] => r
  | (_, x) :: _ =>
    match o.cls with
    | .scal => r.putScal wide o.idx.toNat x
    | .addr => r.putAddr o.idx.toNat x
    | .queue => { r with outs := r.outs ++ [(o.idx.toNat, BitVec.ofNat 32 x)] }
    | .vec | .pair | .quad | .pred => xs.foldl (fun r y => r.putLane o y.1 y.2) r
    | .acc | .const | .simm | .sreg | .fslot | .zero => r

/-- An instruction that computes one value in each active lane: every source is read before the destination is written
(R25). -/
def lanewise (e : Env) (r : Regs) (h : Hd) (d : Opnd) (wide : Bool) (f : Nat → Nat) : Regs :=
  r.write d wide ((activeLanes e r h).map fun l => (l, f l))

/-! ### Limits that depend on the unit (R23, R24) -/

/-- The index lies within the unit's registers, and the class is one SIMT code may name. -/
def Unit.usable (U : Unit) (x : Opnd × Nat) : Bool :=
  let i := x.1.idx.toNat
  match x.1.cls with
  | .vec => decide (i < U.nv)
  | .pair => decide (i + 1 < U.nv)
  | .quad => decide (i + 3 < U.nv)
  | .scal => decide (i + x.2 ≤ U.ns)
  | .acc => decide (i < U.accs)
  | .queue => false
  | .pred | .addr | .const | .simm | .sreg | .fslot | .zero => true

/-- Every operand is usable. -/
def Unit.usableAll (U : Unit) (xs : Uses) : Bool := xs.all U.usable

/-! ### Interlocks (R19) -/

/-- The vector and scalar registers an operand names: register number, with 256 added for scalars. -/
def useRegs (x : Opnd × Nat) : List Nat :=
  let i := x.1.idx.toNat
  match x.1.cls with
  | .vec => [i]
  | .pair => [i, i + 1]
  | .quad => [i, i + 1, i + 2, i + 3]
  | .scal => (List.range x.2).map fun k => 256 + i + k
  | .pred | .addr | .acc | .queue | .const | .simm | .sreg | .fslot | .zero => []

/-- The register a load's piece is for, numbered the same way; key 64 is the supervisor's s0. -/
def LoadDst.regNo (d : LoadDst) : Nat := if d.scal then 256 + (if d.reg == 64 then 0 else d.reg) else d.reg / 32

/-- Registers of a group that a load or atomic in flight will write. -/
def State.pendingRegs (s : State) (u g : Nat) : List Nat :=
  ((s.loads.filter fun p => p.unit == u && p.grp == g).flatMap fun p => p.dsts.map LoadDst.regNo) ++
    ((s.reqs.filter fun q => q.unit == u && q.grp == g && q.kind != .red && !q.replied && !q.ext && q.core < 4096).flatMap fun q =>
      (List.range (2 ^ (q.size - 2))).map fun k => q.reg + k)

/-- An operand waits for a load or atomic in flight. -/
def State.interlocked (s : State) (u g : Nat) (xs : Uses) : Bool :=
  let pend := s.pendingRegs u g
  xs.any fun x => (useRegs x).any pend.contains

/-! ### Executing in a group (R20, R21) -/

/-- A group stalls: it executes the same slot again (R247). -/
def State.stall (s : State) (u g : Nat) : State := s.modGroup u g fun G => { G with st := .stalled }
/-- A group waits at its slot (R247). -/
def State.waitAt (s : State) (u g : Nat) (k : WaitKind) : State := s.modGroup u g fun G => { G with st := .waiting k }

/-- Count one on a performance counter (R212). -/
def Group.count (G : Group) (i : Nat) : Group := { G with perf := spSet 0 G.perf i (spGet 0 G.perf i + 1) }

/-- A group waits for nothing any more. -/
def Group.clearWaits (G : Group) : Group := { G with readyFrom := none, claim := none, tileFrom := none, mxCode := none }

/-- An instruction completes: STALL of R19, and the counter of instructions issued; with YLD the group is passed over at the first
cycle at which it could issue (R250). -/
def Group.done (G : Group) (h : Hd) (clock : Nat) : Group :=
  { (G.clearWaits).count 0 with
    st := .ready
    readyAt := clock + max 1 h.stall.toNat
    passAt := if h.yld then clock + max 1 h.stall.toNat else G.passAt }

/-- A stalled or waiting group notes the full structure it waits for, and since when (R312, R342). -/
def State.claimAt (s : State) (u g : Nat) (k : Claim) : State :=
  (s.modGroup u g fun G => { G with claim := match G.claim with
    | some (k', t) => if k' == k then some (k', t) else some (k, s.clock)
    | none => some (k, s.clock) }).stall u g

/-- An instruction completes and the next slot follows (R14). -/
def State.finish (s : State) (u g : Nat) (h : Hd) : State := s.modGroup u g fun G => (G.done h s.clock).adv
/-- An instruction completes and goes to a slot address. -/
def State.finishAt (s : State) (u g : Nat) (h : Hd) (pc : DWord) : State :=
  s.modGroup u g fun G => { G.done h s.clock with pc := pc }

/-- A trap of the whole group at its slot (R20, R198). -/
def groupTrap (G : Group) (cause : Nat) (va : Nat) : Trap := ⟨cause, BitVec.ofNat 64 va, G.mask, G.pc, none⟩
/-- Take a trap of the whole group. -/
def State.trapGroup (s : State) (u g : Nat) (G : Group) (cause va : Nat) : Out :=
  .next (s.takeTrap u g (groupTrap G cause va))

/-- The launch of a unit, none for a service unit. -/
def State.launchOf (s : State) (U : Unit) : Option Launch := s.launch? U.launch

/-- The constant banks a unit reads: its stage's, or its launch's (R23, R366). -/
def Launch.banksOf (L : Launch) (U : Unit) : Sparse Byte :=
  match L.stages[U.stage]? with
  | some st => st.banks
  | none => L.banks

/-- What an instruction of a group sees besides its registers. -/
def State.env (s : State) (U : Unit) (G : Group) : Env :=
  match s.launchOf U with
  | some L => ⟨U.lanes, U.ns, G.mask, L.banksOf U, L.fs, []⟩
  | none => ⟨U.lanes, U.ns, G.mask, [], [], []⟩

/-- Whether the group is in supervisor or service state (R201). -/
def privileged (U : Unit) (G : Group) : Bool := G.sup || U.svc

/-- The frame of every instruction of a group (R20): the checks of steps 3 and 4 that depend on the unit and its launch,
the interlock of R19, then the instruction's own effect. -/
def issueEnv (pre : Env → Option Nat) (uses : Env → Uses) (s : State) (k : Nat → Nat → Unit → Group → Out) : Out :=
  match s.cur with
  | .front => .fault .noIssuer
  | .queue _ => .fault .noIssuer
  | .oper _ _ => .fault .noIssuer
  | .group u g =>
    match s.group? u g with
    | none => .fault .noIssuer
    | some (U, G) =>
      match pre (s.env U G) with
      | some cause => s.trapGroup u g G cause G.pc.toNat
      | none =>
        if !U.usableAll (uses (s.env U G)) then s.trapGroup u g G 2 G.pc.toNat
        else if s.interlocked u g (uses (s.env U G)) then .next (s.stall u g)
        else k u g U G

/-- The frame of an instruction whose checks need no more than its operands. -/
def issue (uses : Uses) (s : State) (k : Nat → Nat → Unit → Group → Out) : Out :=
  issueEnv (fun _ => none) (fun _ => uses) s k

end Sys2Proof.Machine
end

