-- ==== Sys2Proof/Machine/Operator.lean ====
section
/-! DEFINITION. What an operator lane of a spatial configuration executes with: its registers and queues (R190, R257, R258),
the waits of a firing (R268), the traps of a run (R186), and the instructions that work in registers alone, in a group or in
an operator (R63, R189). -/

namespace Sys2Proof.Machine

open Sys2Proof

/-! ### Parts of a configuration -/

/-- Change a unit's configuration. -/
def State.modSpat (s : State) (u : Nat) (f : Spat → Spat) : State := s.modUnit u fun U => { U with spat := U.spat.map f }
/-- Change an operator lane. -/
def State.modOper (s : State) (u o : Nat) (f : SOper → SOper) : State := s.modSpat u fun c => { c with ops := updAt c.ops o f }
/-- Operators of a configuration begin firings: it runs, or its exit operator fires in this cycle (R195, R266). -/
def Unit.running (U : Unit) (c : Spat) (clock : Nat) : Bool :=
  U.st == .resident && !c.frozen && (c.step == .run || (c.step == .exit && c.exitAt.map (·.1) == some clock))
/-- A slot holds STRST. -/
def slotStores (w : Slot) : Bool := (Raw.ofSlot w).op.toNat == 0xE5
/-- A firing has taken the guard token of a STRST that it has not executed (R193, R195). -/
def SOper.owes (p : SOper) : Bool := p.resume != 0 && (p.code.drop (p.resume - 1)).any slotStores
/-- An operator's firing goes on: while operators fire, and after SPEXIT for the stores whose guard tokens it has taken (R195,
R265). -/
def Unit.goesOn (U : Unit) (c : Spat) (p : SOper) (clock : Nat) : Bool :=
  p.resume != 0 && (U.running c clock || (U.st == .resident && !c.frozen && c.step == .exit && p.owes))
/-- A unit, its configuration and one of its operator lanes. -/
def State.oper? (s : State) (u o : Nat) : Option (Unit × Spat × SOper) :=
  match s.units[u]? with
  | none => none
  | some U => match U.spat with
    | none => none
    | some c => match c.ops[o]? with
      | none => none
      | some p => some (U, c, p)

/-- The registers of an operator lane: temporaries and predicates stand in lane 0 (R190). -/
def SOper.regs (p : SOper) : Regs where
  v := p.t.map fun x => (32 * x.1, x.2)
  s := []
  a := []
  p := p.p.map fun x => (x.1, if x.2 then 1 else 0)
  stoch := spSet 0 [] 0 p.stoch
  outs := []
/-- An operator lane after an instruction left these registers. -/
def SOper.putRegs (p : SOper) (r : Regs) : SOper :=
  { p with
    t := r.v.map fun x => (x.1 / 32, x.2)
    p := r.p.map fun x => (x.1, x.2.getLsbD 0)
    stoch := spGet 0 r.stoch 0 }

/-- A queue of a configuration by core and index (R226). -/
def Spat.queue? (c : Spat) (core q : Nat) : Option SQueue := c.queues.find? fun x => x.core == core && x.idx == q
/-- Change a queue of a configuration. -/
def Spat.modQueue (c : Spat) (core q : Nat) (f : SQueue → SQueue) : Spat :=
  { c with queues := c.queues.map fun x => if x.core == core && x.idx == q then f x else x }
/-- Put a token on a queue, into room its firing reserved (R190, R258). -/
def Spat.give (c : Spat) (core q : Nat) (v : Word) : Spat :=
  c.modQueue core q fun x => { x with toks := x.toks ++ [v], resv := x.resv - 1 }

/-- A temporary awaits a read of a port (R268). -/
def Spat.tempBusy (c : Spat) (o t : Nat) : Bool := c.ports.any fun p => p.reads.any fun r => r.dst == .temp o t
/-- A queue awaits a read of a port other than the one given: tokens keep their order (R260). -/
def Spat.queueBusy (c : Spat) (core q : Nat) (but : Option (Nat × Nat)) : Bool :=
  c.ports.any fun p => some (p.core, p.port) != but && p.reads.any fun r => r.dst == .queue core q

/-- The temporaries an operand names. -/
def useTemps (x : Opnd × Nat) : List Nat :=
  let i := x.1.idx.toNat
  match x.1.cls with
  | .vec => [i]
  | .pair => [i, i + 1]
  | .quad | .scal | .pred | .addr | .acc | .queue | .const | .simm | .sreg | .fslot | .zero => []

/-- An instruction waits for a temporary it names (R268). -/
def Spat.waits (c : Spat) (o : Nat) (xs : Uses) : Bool := (xs.flatMap useTemps).any fun t => c.tempBusy o t

/-- What an operator's instruction sees besides its registers: one lane, the constants and format slots of its unit, and the
tokens the firing has taken (R190). -/
def State.operEnv (s : State) (U : Unit) (p : SOper) : Env :=
  match s.launchOf U with
  | some L => ⟨1, 0, 1, L.banksOf U, L.fs, p.toks⟩
  | none => ⟨1, 0, 1, [], [], p.toks⟩

/-! ### The firing's progress and the traps of a run -/

/-- The firing is over: the program counter is that of the first slot again. -/
def SOper.over (p : SOper) : SOper :=
  { p with resume := 0, toks := [], pc := p.pc - BitVec.ofNat 64 (12 * (p.resume - 1)) }
/-- The next instruction of the firing; after the last the firing is over (R14, R258). -/
def SOper.advance (p : SOper) : SOper :=
  if p.code.length ≤ p.resume then p.over else { p with resume := p.resume + 1, pc := p.pc + 12 }
/-- An operator's instruction is done. -/
def State.operDone (s : State) (u o : Nat) : State := s.modOper u o SOper.advance

/-- Take a trap in one group of a unit, where it has not ended. -/
def State.trapLive (s : State) (u g cause va : Nat) : State :=
  match s.group? u g with
  | none => s
  | some (_, G) => if G.st == .ended then s else s.takeTrap u g ⟨cause, BitVec.ofNat 64 va, G.mask, G.pc, none⟩

/-- The records of a unit's stream ports. -/
def portOf (u : Nat) (p : Posted) : Bool :=
  match p.agent with
  | .port v _ _ => v == u
  | _ => false

/-- A trap of the mode switch or of a run: the configuration is discarded, its records are withdrawn, and every live group
traps at SPATON (R186). -/
def State.spatTrap (s : State) (u cause va : Nat) : State :=
  match s.units[u]? with
  | none => s
  | some U =>
    let s1 := (withdraw (portOf u) s.posted s).modUnit u fun V =>
      { V with spat := none, groups := V.groups.map fun G => { G with spatB := none } }
    (List.range U.groups.length).foldl (fun t g => t.trapLive u g cause va) s1

/-- Configuration-relative lane number of an operator (R186). -/
def SOper.relLane (p : SOper) : Nat := p.core * 128 + p.lane
/-- An operator raises a trap; in the exit step, which raises none, its firing ends (R186, R266; log entry 28). -/
def State.operTrap (s : State) (u o cause va : Nat) : State :=
  match s.oper? u o with
  | none => s
  | some (_, c, _) => if c.step == .exit then s.modOper u o SOper.over else s.spatTrap u cause va
/-- SPATRATE names the operator's configuration-relative lane number (R186). -/
def State.rateTrap (s : State) (u o : Nat) (p : SOper) : State := s.operTrap u o 8 p.relLane

/-- The frame of an operator's instruction: a firing of the operator is under way. -/
def operStep (uses : Unit → SOper → Uses) (u o : Nat) (s : State) (k : Unit → Spat → SOper → Out) : Out :=
  match s.oper? u o with
  | none => .fault .noIssuer
  | some (U, c, p) =>
    if !U.goesOn c p s.clock then .fault .noIssuer
    else if c.waits o (uses U p) then .next s
    else k U c p

/-! ### Instructions that work in registers alone (R63, R189) -/

/-- An instruction that works in registers alone: its header, the trap cause of a check that depends on the launch (an
invalid format slot, R59), its operands, its effect. -/
structure Alu where
  h : Hd
  pre : Env → Option Nat
  uses : Env → Uses
  run : Env → Regs → Regs

/-- A group executes such an instruction. -/
def groupAlu (x : Alu) (s : State) : Out :=
  issueEnv x.pre x.uses s fun u g U G =>
    .next ((s.modGroup u g fun H => H.putRegs (x.run (s.env U G) G.regs)).finish u g x.h)

/-- An operator executes such an instruction; a D that names a queue gives its token (R190). -/
def operAlu (x : Alu) (u o : Nat) (s : State) : Out :=
  operStep (fun U p => x.uses (s.operEnv U p)) u o s fun U c p =>
    let e := s.operEnv U p
    match x.pre e with
    | some cause => .next (s.operTrap u o cause p.pc.toNat)
    | none =>
      let r := x.run e p.regs
      if r.outs.any fun t => c.queueBusy p.core t.1 none then .next s
      else
        let s1 := s.modSpat u fun c => r.outs.foldl (fun c t => c.give p.core t.1 t.2) c
        .next ((s1.modOper u o fun p => p.putRegs r).operDone u o)

/-- A group or an operator executes such an instruction. -/
def aluStep (x : Alu) (s : State) : Out :=
  match s.cur with
  | .oper u o => operAlu x u o s
  | .front | .group _ _ | .queue _ => groupAlu x s

end Sys2Proof.Machine
end

