-- ==== Sys2Proof/Machine/Flags.lean ====
section
/-! DEFINITION. Flag computations. The machine has no status flags (R44); its flags are predicates, and every predicate an
instruction computes is defined here: carry and borrow (R70), compares (R87, R130), votes (R90) and predicate tables
(R88). -/

namespace Sys2Proof.Machine

open Sys2Proof

/-- ADDC: the sum of two `w`-bit values and a carry, and the carry out (R70). -/
def addCarry (w u v : Nat) (ci : Bool) : Nat × Bool :=
  let s := u + v + (if ci then 1 else 0)
  (s % 2 ^ w, decide (2 ^ w ≤ s))

/-- SUBB: the difference of two `w`-bit values and a borrow, and the borrow out (R70). -/
def subBorrow (w u v : Nat) (ci : Bool) : Nat × Bool :=
  let c := if ci then 1 else 0
  ((u + 2 ^ (w + 1) - v - c) % 2 ^ w, decide (u < v + c))

/-- Compare of ITEST (R87). -/
def icmp (c : ICmp) (a b : Int) : Bool :=
  match c with
  | .eq => decide (a = b)
  | .ne => decide (a ≠ b)
  | .lt => decide (a < b)
  | .le => decide (a ≤ b)
  | .gt => decide (b < a)
  | .ge => decide (b ≤ a)

/-- Compare of FTEST: exact, −0 = +0 (R87). -/
def fcmp (c : FCmp) (a b : FVal) : Bool :=
  let un := a.isNaN || b.isNaN
  let o := a.cmp b
  match c with
  | .eq => !un && o == .eq
  | .ne => !un && o != .eq
  | .lt => !un && o == .lt
  | .le => !un && o != .gt
  | .gt => !un && o == .gt
  | .ge => !un && o != .lt
  | .equ => un || o == .eq
  | .neu => un || o != .eq
  | .ltu => un || o == .lt
  | .leu => un || o != .gt
  | .gtu => un || o == .gt
  | .geu => un || o != .lt
  | .num => !un
  | .nan => un

/-- Width and signedness of a non-packed integer type. -/
def wtypeOf : WType → Nat × Bool
  | .i32 => (32, true) | .n32 => (32, false) | .i64 => (64, true) | .n64 => (64, false)

/-- Compare of WAITC on a word of `w` bits; `.any` is a common one bit (R130). -/
def wcmp (c : WCmp) (w x ref : Nat) : Bool :=
  match c with
  | .eq => x == ref
  | .ne => x != ref
  | .lt => decide (sext w x < sext w ref)
  | .ge => decide (sext w ref ≤ sext w x)
  | .ltu => decide (x < ref)
  | .geu => decide (ref ≤ x)
  | .any => bitsAt x 0 w &&& ref != 0

/-- A predicate table indexed by three predicates, the first the least significant bit (R88). -/
def plutBit (lut : BitVec 8) (a b c : Bool) : Bool :=
  lut.getLsbD ((if a then 1 else 0) + (if b then 2 else 0) + (if c then 4 else 0))

/-- VOTE over the values of the active lanes (R90). -/
def voteAll (xs : List Bool) : Bool := xs.all id
/-- VOTE.any (R90). -/
def voteAny (xs : List Bool) : Bool := xs.any id
/-- VOTE.uni (R90). -/
def voteUni (xs : List Bool) : Bool := xs.all id || xs.all not

end Sys2Proof.Machine
end

