-- ==== Sys2Proof/Machine/Integer.lean ====
section
/-! DEFINITION. The integer and address family, OP 0x01 to 0x32 (R67 to R77). Each instruction has its effect on
registers (`addOp` and so on), which operators share (R107), and its meaning in a group (`execAdd`). -/

namespace Sys2Proof.Machine

open Sys2Proof

/-! ### Elements (R66) -/

/-- Width of an element. -/
def elemW : IType → Nat
  | .i32 | .n32 => 32
  | .i64 | .n64 => 64
  | .i16x2 | .n16x2 => 16
  | .i8x4 | .n8x4 => 8
/-- Elements of an operand. -/
def elemN : IType → Nat
  | .i32 | .n32 | .i64 | .n64 => 1
  | .i16x2 | .n16x2 => 2
  | .i8x4 | .n8x4 => 4
/-- Element `j` of a pattern, as a pattern. -/
def elemPat (ty : IType) (x j : Nat) : Nat := bitsAt x (elemW ty * j) (elemW ty)
/-- Element `j` as an integer of the type. -/
def elemInt (ty : IType) (x j : Nat) : Int := intOf (elemW ty) ty.signed (elemPat ty x j)
/-- Pattern from element patterns, element 0 lowest. -/
def joinElems (w : Nat) : List Nat → Nat
  | [] => 0
  | x :: xs => x % 2 ^ w + 2 ^ w * joinElems w xs
/-- Wrap or Sat to a type, as a pattern (R35). -/
def narrow (w : Nat) (signed sat : Bool) (x : Int) : Nat := patOf w (if sat then satInt w signed x else x)
/-- A pattern computed element by element. -/
def perElem (ty : IType) (f : Nat → Nat) : Nat := joinElems (elemW ty) ((List.range (elemN ty)).map f)

/-- The scheme of R67: F on exact integers, then Wrap or Sat. -/
def intScheme (m : IntMod) (F : Int → Int → Int → Int) (a b c : Nat) : Nat :=
  perElem m.ty fun j => narrow (elemW m.ty) m.ty.signed m.sat (F (elemInt m.ty a j) (elemInt m.ty b j) (elemInt m.ty c j))

/-- An instruction whose result in a lane is a function of the patterns of A, B and C, all of TYPE's width. -/
def intAlu (h : Hd) (m : IntMod) (x : Args) (f : Nat → Nat → Nat → Nat) : Alu :=
  let w := m.ty.wide
  { h := h, pre := fun _ => none, uses := fun _ => x.uses w w w w
    run := fun e r => lanewise e r h x.d w fun l => f (rd e r w x.a l) (rdB e r m.ty x.bc l) (rdC e r w x.bc l) }

/-! ### Arithmetic (R67 to R70) -/

/-- ADD (R67). -/
def addOp (h : Hd) (m : IntMod) (x : Args) : Alu := intAlu h m x (intScheme m fun a b _ => a + b)
/-- SUB (R67). -/
def subOp (h : Hd) (m : IntMod) (x : Args) : Alu := intAlu h m x (intScheme m fun a b _ => a - b)
/-- MUL (R67). -/
def mulOp (h : Hd) (m : IntMod) (x : Args) : Alu := intAlu h m x (intScheme m fun a b _ => a * b)
/-- MULH: the floor of a × b / 2^W (R67). -/
def mulhOp (h : Hd) (m : IntMod) (x : Args) : Alu :=
  intAlu h m x (intScheme m fun a b _ => (a * b) / (2 ^ elemW m.ty : Int))
/-- MAD (R67). -/
def madOp (h : Hd) (m : IntMod) (x : Args) : Alu := intAlu h m x (intScheme m fun a b c => a * b + c)

/-- MADW: 32-bit A and B, 64-bit C and D (R69). -/
def madwOp (h : Hd) (m : IntMod) (x : Args) : Alu :=
  let sg := m.ty.signed
  { h := h, pre := fun _ => none, uses := fun _ => x.uses true false false true
    run := fun e r => lanewise e r h x.d true fun l =>
      narrow 64 sg m.sat (intOf 32 sg (rd e r false x.a l) * intOf 32 sg (rdB e r m.ty x.bc l) +
        intOf 64 sg (rdC e r true x.bc l)) }

/-- DIV on one element: all ones for a zero divisor (R68). -/
def divElem (w : Nat) (signed sat : Bool) (a b : Int) : Nat :=
  if b = 0 then 2 ^ w - 1 else narrow w signed sat (a.tdiv b)
/-- REM on one element (R68). -/
def remElem (w : Nat) (a b : Int) : Nat := if b = 0 then patOf w a else patOf w (a.tmod b)

/-- DIV (R68). -/
def divOp (h : Hd) (m : IntMod) (x : Args) : Alu :=
  intAlu h m x fun a b _ => perElem m.ty fun j =>
    divElem (elemW m.ty) m.ty.signed m.sat (elemInt m.ty a j) (elemInt m.ty b j)
/-- REM (R68). -/
def remOp (h : Hd) (m : IntMod) (x : Args) : Alu :=
  intAlu h m x fun a b _ => perElem m.ty fun j => remElem (elemW m.ty) (elemInt m.ty a j) (elemInt m.ty b j)
/-- ABS (R67). -/
def absOp (h : Hd) (m : IntMod) (x : Args) : Alu := intAlu h m x (intScheme m fun a _ _ => (a.natAbs : Int))
/-- NEG (R67). -/
def negOp (h : Hd) (m : IntMod) (x : Args) : Alu := intAlu h m x (intScheme m fun a _ _ => -a)
/-- MIN (R67). -/
def minOp (h : Hd) (m : IntMod) (x : Args) : Alu := intAlu h m x (intScheme m fun a b _ => min a b)
/-- MAX (R67). -/
def maxOp (h : Hd) (m : IntMod) (x : Args) : Alu := intAlu h m x (intScheme m fun a b _ => max a b)

/-! ### Bits and logic (R71) -/

/-- AND (R71). -/
def andOp (h : Hd) (m : IntMod) (x : Args) : Alu := intAlu h m x fun a b _ => a &&& b
/-- OR (R71). -/
def orOp (h : Hd) (m : IntMod) (x : Args) : Alu := intAlu h m x fun a b _ => a ||| b
/-- XOR (R71). -/
def xorOp (h : Hd) (m : IntMod) (x : Args) : Alu := intAlu h m x fun a b _ => a ^^^ b
/-- NOT (R71). -/
def notOp (h : Hd) (m : IntMod) (x : Args) : Alu := intAlu h m x fun a _ _ => 2 ^ elemW m.ty - 1 - a

/-- Number of one bits among the `n` lowest. -/
def popcount (x : Nat) : Nat → Nat
  | 0 => 0
  | n + 1 => popcount x n + bitsAt x n 1
/-- Number of leading zero bits of a `w`-bit value. -/
def leadingZeros (w x : Nat) : Nat := if x = 0 then w else w - 1 - Nat.log2 x
/-- Bits reversed within `n` bits. -/
def revBits (x : Nat) : Nat → Nat
  | 0 => 0
  | n + 1 => 2 * revBits x n + bitsAt x n 1

/-- An instruction with a 32-bit result of a one operand. -/
def countAlu (h : Hd) (m : IntMod) (x : Args) (f : Nat → Nat) : Alu :=
  { h := h, pre := fun _ => none, uses := fun _ => x.uses false m.ty.wide false false
    run := fun e r => lanewise e r h x.d false fun l => f (rd e r m.ty.wide x.a l) }
/-- POPC (R71). -/
def popcOp (h : Hd) (m : IntMod) (x : Args) : Alu := countAlu h m x fun a => popcount a (elemW m.ty)
/-- CLZ (R71). -/
def clzOp (h : Hd) (m : IntMod) (x : Args) : Alu := countAlu h m x fun a => leadingZeros (elemW m.ty) a
/-- BREV (R71): bit i of D is bit W − 1 − i of A. -/
def brevOp (h : Hd) (m : IntMod) (x : Args) : Alu := intAlu h m x fun a _ _ => revBits a (elemW m.ty)

/-- SEL: A where the lane's predicate C is true, else B (R71). -/
def selOp (h : Hd) (m : IntMod) (x : Args) : Alu :=
  let w := m.ty.wide
  { h := h, pre := fun _ => none, uses := fun _ => x.uses w w w false
    run := fun e r => lanewise e r h x.d w fun l =>
      if r.pred x.bc.c.idx.toNat l then rd e r w x.a l else rdB e r m.ty x.bc l }
/-- MOV (R71). -/
def movOp (h : Hd) (m : IntMod) (x : Args) : Alu := intAlu h m x fun a _ _ => a
/-- MOVI (R71). -/
def moviOp (h : Hd) (m : IntMod) (x : Args) : Alu := intAlu h m x fun _ b _ => b

/-! ### Shifts (R72) -/

/-- SHL on one element (R72). -/
def shlElem (w : Nat) (signed sat : Bool) (a : Int) (s : Nat) : Nat := narrow w signed sat (a * (2 ^ min s w : Nat))
/-- ROT on one element, right where `right` (R72). -/
def rotElem (w : Nat) (right : Bool) (a s : Nat) : Nat :=
  let k := if right then (w - s % w) % w else s % w
  (a * 2 ^ k + a / 2 ^ (w - k)) % 2 ^ w

/-- SHL (R72). -/
def shlOp (h : Hd) (m : IntMod) (x : Args) : Alu :=
  intAlu h m x fun a b _ => perElem m.ty fun j =>
    shlElem (elemW m.ty) m.ty.signed m.sat (elemInt m.ty a j) (elemPat m.ty b j)
/-- SHR (R72). -/
def shrOp (h : Hd) (m : IntMod) (x : Args) : Alu :=
  intAlu h m x fun a b _ => perElem m.ty fun j => elemPat m.ty a j / 2 ^ min (elemPat m.ty b j) (elemW m.ty)
/-- SAR (R72). -/
def sarOp (h : Hd) (m : IntMod) (x : Args) : Alu :=
  intAlu h m x fun a b _ => perElem m.ty fun j =>
    patOf (elemW m.ty) (sext (elemW m.ty) (elemPat m.ty a j) / (2 ^ min (elemPat m.ty b j) (elemW m.ty) : Int))
/-- ROT (R72). -/
def rotOp (h : Hd) (m : IntMod) (x : Args) : Alu :=
  intAlu h m x fun a b _ => perElem m.ty fun j =>
    rotElem (elemW m.ty) (m.var == 1) (elemPat m.ty a j) (elemPat m.ty b j)

/-! ### Bit fields, tables, bytes (R73 to R75) -/

/-- BFX of a `w`-bit value under a control word (R73). -/
def bfx (w : Nat) (signed : Bool) (a ctl : Nat) : Nat :=
  let len := min (bitsAt ctl 8 8) w
  let p := min (bitsAt ctl 0 8) w
  let f := (intOf w signed a / (2 ^ p : Int) % (2 ^ len : Int)).toNat
  if len = 0 then 0 else if signed then patOf w (sext len f) else f
/-- BFI of B into A under a control word (R73). -/
def bfi (w : Nat) (a b ctl : Nat) : Nat :=
  let len := min (bitsAt ctl 8 8) w
  let p := min (bitsAt ctl 0 8) w
  let mask := (2 ^ len - 1) * 2 ^ p % 2 ^ w
  (a &&& (2 ^ w - 1 - mask)) ||| (b * 2 ^ p % 2 ^ w &&& mask)

/-- BFX: the control is a 32-bit B (R73). -/
def bfxOp (h : Hd) (m : IntMod) (x : Args) : Alu :=
  { h := h, pre := fun _ => none, uses := fun _ => x.uses m.ty.wide m.ty.wide false false
    run := fun e r => lanewise e r h x.d m.ty.wide fun l =>
      bfx (elemW m.ty) m.ty.signed (rd e r m.ty.wide x.a l) (rd e r false x.bc.b l) }
/-- BFI: the control is a 32-bit C (R73). -/
def bfiOp (h : Hd) (m : IntMod) (x : Args) : Alu :=
  { h := h, pre := fun _ => none, uses := fun _ => x.uses m.ty.wide m.ty.wide m.ty.wide false
    run := fun e r => lanewise e r h x.d m.ty.wide fun l =>
      bfi (elemW m.ty) (rd e r m.ty.wide x.a l) (rdB e r m.ty x.bc l) (rd e r false x.bc.c l) }

/-- BLUT over the `n` lowest bit positions (R74). -/
def blut (lut a b d : Nat) : Nat → Nat
  | 0 => 0
  | n + 1 => blut lut a b d n + 2 ^ n * bitsAt lut (bitsAt a n 1 + 2 * bitsAt b n 1 + 4 * bitsAt d n 1) 1
/-- BLUT: the third input is the prior D (R74). -/
def blutOp (h : Hd) (m : IntMod) (x : Args) : Alu :=
  let w := m.ty.wide
  { h := h, pre := fun _ => none, uses := fun _ => x.uses w w w false
    run := fun e r => lanewise e r h x.d w fun l =>
      blut (x.bc.c.idx.toNat % 256) (rd e r w x.a l) (rdB e r m.ty x.bc l) (rd e r w x.d l) (elemW m.ty) }

/-- One destination byte of BPERM (R75). -/
def bpermByte (src n : Nat) : Nat :=
  let b := bitsAt src (8 * (n % 8)) 8
  if bitsAt n 4 1 == 1 then 0 else if bitsAt n 3 1 == 1 then (if bitsAt b 7 1 == 1 then 0xFF else 0) else b
/-- BPERM (R75). -/
def bpermOp (h : Hd) (m : IntMod) (x : Args) : Alu :=
  intAlu h m x fun a b c => joinElems 8 ((List.range 4).map fun i => bpermByte (a + 2 ^ 32 * b) (bitsAt c (8 * i) 8))

/-! ### Carry chains (R70) -/

/-- The carry or borrow and the result of a lane. -/
def carryLane (sub : Bool) (e : Env) (r : Regs) (m : IntMod) (x : Args) (l : Nat) : Nat × Bool :=
  let w := m.ty.wide
  let f := if sub then subBorrow else addCarry
  f (elemW m.ty) (rd e r w x.a l) (rdB e r m.ty x.bc l) (r.pred m.var.toNat l)

/-- ADDC and SUBB: D, and p[VAR] in every active lane (R70). -/
def carryAlu (sub : Bool) (h : Hd) (m : IntMod) (x : Args) : Alu :=
  let w := m.ty.wide
  { h := h, pre := fun _ => none, uses := fun _ => x.uses w w w w
    run := fun e r =>
      (activeLanes e r h).foldl (fun r1 l => r1.putPred m.var.toNat l (carryLane sub e r m x l).2)
        (lanewise e r h x.d w fun l => (carryLane sub e r m x l).1) }
/-- ADDC (R70). -/
def addcOp (h : Hd) (m : IntMod) (x : Args) : Alu := carryAlu false h m x
/-- SUBB (R70). -/
def subbOp (h : Hd) (m : IntMod) (x : Args) : Alu := carryAlu true h m x

/-! ### Addresses (R76) -/

/-- Ext of R76: a 32-bit operand extended by TYPE; i64 takes a 64-bit operand. -/
def extAddr (ty : IType) (x : Nat) : Int :=
  match ty with
  | .i32 => sext 32 x
  | .i64 => sext 64 x
  | .n32 | .n64 | .i16x2 | .n16x2 | .i8x4 | .n8x4 => (x : Int)

/-- Registers of an address instruction: D and A of two scalars. -/
def addrUses (x : Args) (wb : Bool) : Uses := x.uses true true wb false

/-- AADD (R76). -/
def aaddOp (h : Hd) (m : IntMod) (x : Args) : Alu :=
  { h := h, pre := fun _ => none, uses := fun _ => addrUses x m.ty.wide
    run := fun e r => lanewise e r h x.d true fun l =>
      patOf 64 ((rd64 e r x.a l : Int) + extAddr m.ty (rdB e r m.ty x.bc l)) }
/-- AMAD (R76). -/
def amadOp (h : Hd) (m : IntMod) (x : Args) : Alu :=
  { h := h, pre := fun _ => none, uses := fun _ => addrUses x false
    run := fun e r => lanewise e r h x.d true fun l =>
      patOf 64 ((rd64 e r x.a l : Int) + extAddr m.ty (rdB e r m.ty x.bc l) * extAddr m.ty (rdC e r false x.bc l)) }
/-- AMOV (R76). -/
def amovOp (h : Hd) (_m : IntMod) (x : Args) : Alu :=
  { h := h, pre := fun _ => none, uses := fun _ => addrUses x false
    run := fun e r => lanewise e r h x.d true fun l => rd64 e r x.a l }
/-- AGET (R76). -/
def agetOp (h : Hd) (_m : IntMod) (x : Args) : Alu :=
  { h := h, pre := fun _ => none, uses := fun _ => addrUses x false
    run := fun e r => lanewise e r h x.d true fun l => rd64 e r x.a l }
/-- LEA (R76). -/
def leaOp (h : Hd) (m : IntMod) (x : Args) : Alu :=
  { h := h, pre := fun _ => none, uses := fun _ => addrUses x false
    run := fun e r => lanewise e r h x.d true fun l =>
      patOf 64 ((rd64 e r x.a l : Int) + extAddr m.ty (rdB e r m.ty x.bc l) * (2 ^ m.var.toNat : Int)) }

/-! ### Dot products and differences (R77) -/

/-- Σ f(a[j], b[j]) over the elements. -/
def elemSum (tyA tyB : IType) (f : Int → Int → Int) (a b : Nat) : Int :=
  ((List.range (elemN tyA)).map fun j => f (elemInt tyA a j) (elemInt tyB b j)).sum
/-- The type of the same elements with the other signedness (R77). -/
def flipSign : IType → IType
  | .i32 => .n32 | .n32 => .i32 | .i64 => .n64 | .n64 => .i64 | .i16x2 => .n16x2 | .n16x2 => .i16x2
  | .i8x4 => .n8x4 | .n8x4 => .i8x4
/-- A dot product plus C, read as the result type (R77). -/
def dotLane (m : IntMod) (a b c : Nat) : Nat :=
  let tyB := if m.var == 1 then flipSign m.ty else m.ty
  let sg := m.ty.signed || tyB.signed
  narrow 32 sg m.sat (elemSum m.ty tyB (· * ·) a b + intOf 32 sg c)
/-- DP4 (R77). -/
def dp4Op (h : Hd) (m : IntMod) (x : Args) : Alu := intAlu h m x (dotLane m)
/-- DP2 (R77). -/
def dp2Op (h : Hd) (m : IntMod) (x : Args) : Alu := intAlu h m x (dotLane m)
/-- SAD (R77). -/
def sadOp (h : Hd) (m : IntMod) (x : Args) : Alu :=
  intAlu h m x fun a b c =>
    narrow 32 false m.sat (elemSum m.ty m.ty (fun p q => ((p - q).natAbs : Int)) a b + (c : Int))

/-! ### Meanings in a group -/

/-- ADD in a group. -/
def execAdd (h : Hd) (m : IntMod) (x : Args) (s : State) : Out := aluStep (addOp h m x) s
/-- SUB in a group. -/
def execSub (h : Hd) (m : IntMod) (x : Args) (s : State) : Out := aluStep (subOp h m x) s
/-- MUL in a group. -/
def execMul (h : Hd) (m : IntMod) (x : Args) (s : State) : Out := aluStep (mulOp h m x) s
/-- MULH in a group. -/
def execMulh (h : Hd) (m : IntMod) (x : Args) (s : State) : Out := aluStep (mulhOp h m x) s
/-- MAD in a group. -/
def execMad (h : Hd) (m : IntMod) (x : Args) (s : State) : Out := aluStep (madOp h m x) s
/-- MADW in a group. -/
def execMadw (h : Hd) (m : IntMod) (x : Args) (s : State) : Out := aluStep (madwOp h m x) s
/-- DIV in a group. -/
def execDiv (h : Hd) (m : IntMod) (x : Args) (s : State) : Out := aluStep (divOp h m x) s
/-- REM in a group. -/
def execRem (h : Hd) (m : IntMod) (x : Args) (s : State) : Out := aluStep (remOp h m x) s
/-- ABS in a group. -/
def execAbs (h : Hd) (m : IntMod) (x : Args) (s : State) : Out := aluStep (absOp h m x) s
/-- NEG in a group. -/
def execNeg (h : Hd) (m : IntMod) (x : Args) (s : State) : Out := aluStep (negOp h m x) s
/-- MIN in a group. -/
def execMin (h : Hd) (m : IntMod) (x : Args) (s : State) : Out := aluStep (minOp h m x) s
/-- MAX in a group. -/
def execMax (h : Hd) (m : IntMod) (x : Args) (s : State) : Out := aluStep (maxOp h m x) s
/-- AND in a group. -/
def execAnd (h : Hd) (m : IntMod) (x : Args) (s : State) : Out := aluStep (andOp h m x) s
/-- OR in a group. -/
def execOr (h : Hd) (m : IntMod) (x : Args) (s : State) : Out := aluStep (orOp h m x) s
/-- XOR in a group. -/
def execXor (h : Hd) (m : IntMod) (x : Args) (s : State) : Out := aluStep (xorOp h m x) s
/-- NOT in a group. -/
def execNot (h : Hd) (m : IntMod) (x : Args) (s : State) : Out := aluStep (notOp h m x) s
/-- SHL in a group. -/
def execShl (h : Hd) (m : IntMod) (x : Args) (s : State) : Out := aluStep (shlOp h m x) s
/-- SHR in a group. -/
def execShr (h : Hd) (m : IntMod) (x : Args) (s : State) : Out := aluStep (shrOp h m x) s
/-- SAR in a group. -/
def execSar (h : Hd) (m : IntMod) (x : Args) (s : State) : Out := aluStep (sarOp h m x) s
/-- ROT in a group. -/
def execRot (h : Hd) (m : IntMod) (x : Args) (s : State) : Out := aluStep (rotOp h m x) s
/-- BFX in a group. -/
def execBfx (h : Hd) (m : IntMod) (x : Args) (s : State) : Out := aluStep (bfxOp h m x) s
/-- BFI in a group. -/
def execBfi (h : Hd) (m : IntMod) (x : Args) (s : State) : Out := aluStep (bfiOp h m x) s
/-- POPC in a group. -/
def execPopc (h : Hd) (m : IntMod) (x : Args) (s : State) : Out := aluStep (popcOp h m x) s
/-- CLZ in a group. -/
def execClz (h : Hd) (m : IntMod) (x : Args) (s : State) : Out := aluStep (clzOp h m x) s
/-- BREV in a group. -/
def execBrev (h : Hd) (m : IntMod) (x : Args) (s : State) : Out := aluStep (brevOp h m x) s
/-- BLUT in a group. -/
def execBlut (h : Hd) (m : IntMod) (x : Args) (s : State) : Out := aluStep (blutOp h m x) s
/-- SEL in a group. -/
def execSel (h : Hd) (m : IntMod) (x : Args) (s : State) : Out := aluStep (selOp h m x) s
/-- MOV in a group. -/
def execMov (h : Hd) (m : IntMod) (x : Args) (s : State) : Out := aluStep (movOp h m x) s
/-- MOVI in a group. -/
def execMovi (h : Hd) (m : IntMod) (x : Args) (s : State) : Out := aluStep (moviOp h m x) s
/-- BPERM in a group. -/
def execBperm (h : Hd) (m : IntMod) (x : Args) (s : State) : Out := aluStep (bpermOp h m x) s
/-- ADDC in a group. -/
def execAddc (h : Hd) (m : IntMod) (x : Args) (s : State) : Out := aluStep (addcOp h m x) s
/-- SUBB in a group. -/
def execSubb (h : Hd) (m : IntMod) (x : Args) (s : State) : Out := aluStep (subbOp h m x) s
/-- AADD in a group. -/
def execAadd (h : Hd) (m : IntMod) (x : Args) (s : State) : Out := aluStep (aaddOp h m x) s
/-- AMAD in a group. -/
def execAmad (h : Hd) (m : IntMod) (x : Args) (s : State) : Out := aluStep (amadOp h m x) s
/-- AMOV in a group. -/
def execAmov (h : Hd) (m : IntMod) (x : Args) (s : State) : Out := aluStep (amovOp h m x) s
/-- AGET in a group. -/
def execAget (h : Hd) (m : IntMod) (x : Args) (s : State) : Out := aluStep (agetOp h m x) s
/-- LEA in a group. -/
def execLea (h : Hd) (m : IntMod) (x : Args) (s : State) : Out := aluStep (leaOp h m x) s
/-- DP4 in a group. -/
def execDp4 (h : Hd) (m : IntMod) (x : Args) (s : State) : Out := aluStep (dp4Op h m x) s
/-- DP2 in a group. -/
def execDp2 (h : Hd) (m : IntMod) (x : Args) (s : State) : Out := aluStep (dp2Op h m x) s
/-- SAD in a group. -/
def execSad (h : Hd) (m : IntMod) (x : Args) (s : State) : Out := aluStep (sadOp h m x) s

end Sys2Proof.Machine
end

