-- ==== Sys2Proof/Machine/FloatOps.lean ====
section
/-! DEFINITION. The floating-point family, OP 0x40 to 0x51 (R78 to R80): each instruction's effect on registers (`faddOp`
and so on), which operators share (R107), and its meaning in a group (`execFadd`). -/

namespace Sys2Proof.Machine

open Sys2Proof

/-- Format of an element (R28). -/
def ftypeFmt : FType → FFmt
  | .f32 => fmt32 | .f16x2 => fmt16 | .bf16x2 => fmtB16 | .f64 => fmt64
/-- Elements of an operand. -/
def ftypeN : FType → Nat
  | .f32 | .f64 => 1
  | .f16x2 | .bf16x2 => 2

/-- Input element `j` of a pattern: its sign flipped where negated (R28), then flushed under FTZ (R45). -/
def fElemOf (f : FFmt) (ftz neg : Bool) (x j : Nat) : Nat :=
  let y := bitsAt x (f.bits * j) f.bits
  let z := if neg then y ^^^ 2 ^ (f.bits - 1) else y
  if ftz then f.flush z else z

/-- An instruction whose element `j` is a function of the input elements of A, B and C, as patterns (R78). -/
def fpAlu (h : Hd) (m : FpMod) (x : Args) (f : FFmt → Nat → Nat → Nat → Nat) : Alu :=
  let w := m.ty.wide
  let F := ftypeFmt m.ty
  { h := h, pre := fun _ => none, uses := fun _ => x.uses w w w w
    run := fun e r => lanewise e r h x.d w fun l =>
      let a := rd e r w x.a l
      let b := rdFB e r m.ty x.bc l
      let c := rdC e r w x.bc l
      joinElems F.bits ((List.range (ftypeN m.ty)).map fun j =>
        f F (fElemOf F m.ftz m.nega a j) (fElemOf F m.ftz m.negb b j) (fElemOf F m.ftz false c j)) }

/-- The scheme of R78: F on exact values, then one rounding. -/
def fpScheme (h : Hd) (m : FpMod) (x : Args) (g : RMode → FVal → FVal → FVal → FVal) : Alu :=
  let r := RMode.ofRnd m.rnd
  fpAlu h m x fun f a b c => roundTo f r m.ftz false (g r (f.decode a) (f.decode b) (f.decode c))

/-- The value one. -/
def FVal.one : FVal := .fin false 1 0 false

/-- FADD (R78). -/
def faddOp (h : Hd) (m : FpMod) (x : Args) : Alu := fpScheme h m x fun r a b _ => a.add r b
/-- FSUB (R78). -/
def fsubOp (h : Hd) (m : FpMod) (x : Args) : Alu := fpScheme h m x fun r a b _ => a.add r b.neg
/-- FMUL (R78). -/
def fmulOp (h : Hd) (m : FpMod) (x : Args) : Alu := fpScheme h m x fun _ a b _ => a.mul b
/-- FFMA: exact, one rounding (R78). -/
def ffmaOp (h : Hd) (m : FpMod) (x : Args) : Alu := fpScheme h m x fun r a b c => (a.mul b).add r c
/-- FMIN (R79). -/
def fminOp (h : Hd) (m : FpMod) (x : Args) : Alu := fpAlu h m x fun f a b _ => fMinMax f false a b
/-- FMAX (R79). -/
def fmaxOp (h : Hd) (m : FpMod) (x : Args) : Alu := fpAlu h m x fun f a b _ => fMinMax f true a b
/-- FRCP (R78). -/
def frcpOp (h : Hd) (m : FpMod) (x : Args) : Alu := fpScheme h m x fun _ a _ _ => FVal.one.div a
/-- FRSQ (R78). -/
def frsqOp (h : Hd) (m : FpMod) (x : Args) : Alu := fpScheme h m x fun _ a _ _ => a.rsqrt
/-- FSQRT (R78). -/
def fsqrtOp (h : Hd) (m : FpMod) (x : Args) : Alu := fpScheme h m x fun _ a _ _ => a.sqrt
/-- FDIV (R78). -/
def fdivOp (h : Hd) (m : FpMod) (x : Args) : Alu := fpScheme h m x fun _ a b _ => a.div b
/-- A correctly rounded function of one operand (R78). -/
def fun1Alu (fn : Fun1) (h : Hd) (m : FpMod) (x : Args) : Alu := fpAlu h m x fun f a _ _ => fun1 fn f m.ftz (f.decode a)
/-- FEX2 (R78). -/
def fex2Op (h : Hd) (m : FpMod) (x : Args) : Alu := fun1Alu .ex2 h m x
/-- FLG2 (R78). -/
def flg2Op (h : Hd) (m : FpMod) (x : Args) : Alu := fun1Alu .lg2 h m x
/-- FSIN (R78). -/
def fsinOp (h : Hd) (m : FpMod) (x : Args) : Alu := fun1Alu .sin h m x
/-- FCOS (R78). -/
def fcosOp (h : Hd) (m : FpMod) (x : Args) : Alu := fun1Alu .cos h m x
/-- FTANH (R78). -/
def ftanhOp (h : Hd) (m : FpMod) (x : Args) : Alu := fun1Alu .tanh h m x
/-- FSIGM (R78). -/
def fsigmOp (h : Hd) (m : FpMod) (x : Args) : Alu := fun1Alu .sigm h m x

/-- Exact sum of products and an addend (R62, R80). -/
def dotSum (r : RMode) (c : FVal) : List (FVal × FVal) → FVal
  | [] => c
  | (a, b) :: xs => (a.mul b).add r (dotSum r c xs)

/-- FDOT2 and FDOT4 on `n` elements: the exact total rounded once to f32 (R80). -/
def fdotLane (n : Nat) (m : FpMod) (a b c : Nat) : Nat :=
  let f := ftypeFmt m.ty
  let r := RMode.ofRnd m.rnd
  let xs := (List.range n).map fun j => (f.decode (fElemOf f m.ftz m.nega a j), f.decode (fElemOf f m.ftz m.negb b j))
  roundTo fmt32 r m.ftz false (dotSum r (fmt32.decode (fElemOf fmt32 m.ftz false c 0)) xs)

/-- FDOT2: 32-bit A and B (R80). -/
def fdot2Op (h : Hd) (m : FpMod) (x : Args) : Alu :=
  { h := h, pre := fun _ => none, uses := fun _ => x.uses false false false false
    run := fun e r => lanewise e r h x.d false fun l =>
      fdotLane 2 m (rd e r false x.a l) (rdFB e r m.ty x.bc l) (rdC e r false x.bc l) }
/-- FDOT4: 64-bit A and B (R80). -/
def fdot4Op (h : Hd) (m : FpMod) (x : Args) : Alu :=
  { h := h, pre := fun _ => none, uses := fun _ => x.uses false true true false
    run := fun e r => lanewise e r h x.d false fun l =>
      fdotLane 4 m (rd e r true x.a l) (rd e r true x.bc.b l) (rdC e r false x.bc l) }

/-! ### Meanings in a group -/

/-- FADD in a group. -/
def execFadd (h : Hd) (m : FpMod) (x : Args) (s : State) : Out := aluStep (faddOp h m x) s
/-- FSUB in a group. -/
def execFsub (h : Hd) (m : FpMod) (x : Args) (s : State) : Out := aluStep (fsubOp h m x) s
/-- FMUL in a group. -/
def execFmul (h : Hd) (m : FpMod) (x : Args) (s : State) : Out := aluStep (fmulOp h m x) s
/-- FFMA in a group. -/
def execFfma (h : Hd) (m : FpMod) (x : Args) (s : State) : Out := aluStep (ffmaOp h m x) s
/-- FMIN in a group. -/
def execFmin (h : Hd) (m : FpMod) (x : Args) (s : State) : Out := aluStep (fminOp h m x) s
/-- FMAX in a group. -/
def execFmax (h : Hd) (m : FpMod) (x : Args) (s : State) : Out := aluStep (fmaxOp h m x) s
/-- FRCP in a group. -/
def execFrcp (h : Hd) (m : FpMod) (x : Args) (s : State) : Out := aluStep (frcpOp h m x) s
/-- FRSQ in a group. -/
def execFrsq (h : Hd) (m : FpMod) (x : Args) (s : State) : Out := aluStep (frsqOp h m x) s
/-- FSQRT in a group. -/
def execFsqrt (h : Hd) (m : FpMod) (x : Args) (s : State) : Out := aluStep (fsqrtOp h m x) s
/-- FDIV in a group. -/
def execFdiv (h : Hd) (m : FpMod) (x : Args) (s : State) : Out := aluStep (fdivOp h m x) s
/-- FEX2 in a group. -/
def execFex2 (h : Hd) (m : FpMod) (x : Args) (s : State) : Out := aluStep (fex2Op h m x) s
/-- FLG2 in a group. -/
def execFlg2 (h : Hd) (m : FpMod) (x : Args) (s : State) : Out := aluStep (flg2Op h m x) s
/-- FSIN in a group. -/
def execFsin (h : Hd) (m : FpMod) (x : Args) (s : State) : Out := aluStep (fsinOp h m x) s
/-- FCOS in a group. -/
def execFcos (h : Hd) (m : FpMod) (x : Args) (s : State) : Out := aluStep (fcosOp h m x) s
/-- FTANH in a group. -/
def execFtanh (h : Hd) (m : FpMod) (x : Args) (s : State) : Out := aluStep (ftanhOp h m x) s
/-- FSIGM in a group. -/
def execFsigm (h : Hd) (m : FpMod) (x : Args) (s : State) : Out := aluStep (fsigmOp h m x) s
/-- FDOT2 in a group. -/
def execFdot2 (h : Hd) (m : FpMod) (x : Args) (s : State) : Out := aluStep (fdot2Op h m x) s
/-- FDOT4 in a group. -/
def execFdot4 (h : Hd) (m : FpMod) (x : Args) (s : State) : Out := aluStep (fdot4Op h m x) s

end Sys2Proof.Machine
end

