-- ==== Sys2Proof/Machine/Convert.lean ====
section
/-! DEFINITION. Conversions, OP 0x58 to 0x5C (R81 to R86), with the stochastic state of each lane (R49, R50). -/

namespace Sys2Proof.Machine

open Sys2Proof

/-! ### Format slots and rounding of a conversion (R59, R82) -/

/-- A format slot of the launch. -/
def Env.slot (e : Env) (n : Nat) : FSlot := FSlot.ofWord ((e.fs[n]?).getD 0)

/-- How a conversion rounds: the mode's code (0 to 3), stochastic or not, saturation. -/
structure CvtRnd where
  rnd : Rnd
  stoch : Bool
  sat : Bool

/-- The slot's rounding where the destination is a slot, else the immediate word's (R59). -/
def cvtRnd (e : Env) (m : CvtMod) : CvtRnd :=
  if m.dst == .slot then
    let s := e.slot m.slot.toNat
    ⟨if s.rnd == 1 then .rz else .rn, s.rnd == 2, s.sat⟩
  else ⟨m.rnd, m.stoch, m.sat⟩

/-- The mode for one element, with Rand16 of the stepped state, and the state after it (R49, R50). -/
def CvtRnd.draw (c : CvtRnd) (g : Word) : RMode × Word :=
  if c.stoch then
    let g1 := randStep g
    (.sr (g1.toNat / 2 ^ 16), g1)
  else (RMode.ofRnd c.rnd, g)

/-- A code with code 15 replaced by the slot's KIND. -/
def cvtFmt (e : Env) (m : CvtMod) (f : Fmt) : Fmt := if f == .slot then (e.slot m.slot.toNat).fmt else f

/-- Stochastic state of a lane. -/
def Regs.rand (r : Regs) (l : Nat) : Word := spGet 0 r.stoch l
/-- The states of lanes after an instruction, where it rounds stochastically. -/
def Regs.putRand (r : Regs) (c : CvtRnd) (gs : List (Nat × Word)) : Regs :=
  if c.stoch then gs.foldl (fun r x => { r with stoch := spSet 0 r.stoch x.1 x.2 }) r else r

/-- Results of the active lanes with the states after them, written as one instruction (R25). -/
def cvtWrite (e : Env) (r : Regs) (h : Hd) (c : CvtRnd) (d : Opnd) (wide : Bool) (f : Nat → Nat × Word) : Regs :=
  let xs := (activeLanes e r h).map fun l => (l, f l)
  (r.write d wide (xs.map fun x => (x.1, x.2.1))).putRand c (xs.map fun x => (x.1, x.2.2))

/-! ### CVT (R82) -/

/-- Checks of CVT that depend on its slot: a slot that is invalid or not of the plain shape raises ILLOPND, a conversion
between integers with RND or STOCH raises ILLOP, and operands of the wrong width raise ILLOPND. -/
def cvtPre (m : CvtMod) (d a : Opnd) (e : Env) : Option Nat :=
  if m.dst != .slot && m.src != .slot then none
  else if !(e.slot m.slot.toNat).plain then some 2
  else if m.dst != .slot && m.dst.isInt && (cvtFmt e m m.src).isInt && (m.stoch || m.rnd != .rn) then some 1
  else if (cvtFmt e m m.dst).dOk d && (cvtFmt e m m.src).aOk a then none
  else some 2

/-- One conversion with its draw. -/
def cvtElem (dst src : Fmt) (c : CvtRnd) (g : Word) (x : Nat) : Nat × Word :=
  let (r, g1) := c.draw g
  (convert dst src r c.sat x, g1)

/-- CVT (R82). -/
def cvtOp (h : Hd) (m : CvtMod) (d a : Opnd) : Alu :=
  { h := h, pre := cvtPre m d a
    uses := fun e => [(d, regsOf (cvtFmt e m m.dst).wide), (a, regsOf (cvtFmt e m m.src).wide)]
    run := fun e r =>
      let dst := cvtFmt e m m.dst
      let src := cvtFmt e m m.src
      let c := cvtRnd e m
      cvtWrite e r h c d dst.wide fun l =>
        let (y, g) := cvtElem dst src c (r.rand l) (rd e r src.wide a l)
        (widenDst dst y, g) }

/-! ### CVTS (R83) -/

/-- Registers of the container of four elements. -/
def packRegs (f : Fmt) : Nat := if f.width ≤ 8 then 1 else if f.width == 16 then 2 else 4
/-- Read a container. -/
def rdPack (e : Env) (r : Regs) (f : Fmt) (o : Opnd) (l : Nat) : Nat :=
  if f.width ≤ 8 then rd32 e r o l else if f.width == 16 then rd64 e r o l else rd128 r o l

/-- Convert elements in order, threading the lane's state (R50). -/
def cvtsElems (dst src : Fmt) (c : CvtRnd) : List Nat → Word → List Nat × Word
  | [], g => ([], g)
  | x :: xs, g =>
    let (y, g1) := cvtElem dst src c g x
    let (ys, g2) := cvtsElems dst src c xs g1
    (y :: ys, g2)

/-- CVTS (R83). -/
def cvtsOp (h : Hd) (m : CvtMod) (d a : Opnd) : Alu :=
  { h := h, pre := fun _ => none, uses := fun _ => [(d, packRegs m.dst), (a, packRegs m.src)]
    run := fun e r =>
      let c := cvtRnd e m
      cvtWrite e r h c d (m.dst.width == 16) fun l =>
        let x := rdPack e r m.src a l
        let (ys, g) := cvtsElems m.dst m.src c ((List.range 4).map fun i => bitsAt x (m.src.width * i) m.src.width) (r.rand l)
        (joinElems m.dst.width ys, g) }

/-! ### Blocks (R84, R85) -/

/-- The block length of a slot. -/
def FSlot.len (s : FSlot) : Nat := 2 ^ s.blog

/-- The slot of BFPK is a block of 16 or 32 lanes, of 16 in CM16 (R84, R108). -/
def bfpkPre (m : CvtMod) (e : Env) : Option Nat :=
  let s := e.slot m.slot.toNat
  if s.block && s.len ≤ e.lanes then none else some 2

/-- The draws of the active lanes of a block. -/
def blockDraws (c : CvtRnd) (r : Regs) (ls : List Nat) : List (Nat × RMode × Word) :=
  ls.map fun l => let (m, g) := c.draw (r.rand l); (l, m, g)

/-- Code and header of each active lane of a block, lanes in order (R84). -/
def packBlock (s : FSlot) (vals : List FVal) (draws : List (Nat × RMode × Word)) : List (Nat × Nat × Word) :=
  let scale := blockScale s vals
  (vals.zip draws).map fun (v, l, m, g) =>
    (l, blockElem s scale m v + 2 ^ 32 * (scale + 2 ^ 8 * s.blog), g)

/-- BFPK (R84): a block is the active lanes among its lane positions. -/
def bfpkOp (h : Hd) (m : CvtMod) (d a : Opnd) : Alu :=
  { h := h, pre := bfpkPre m, uses := fun _ => [(d, 2), (a, 1)]
    run := fun e r =>
      let s := e.slot m.slot.toNat
      let c := cvtRnd e m
      let act := activeLanes e r h
      let f := (Fmt.ffmt m.src).getD fmt32
      let out := (List.range (e.lanes / s.len)).flatMap fun b =>
        let ls := act.filter fun l => l / s.len == b
        packBlock s (ls.map fun l => f.decode (rd32 e r a l % 2 ^ f.bits)) (blockDraws c r ls)
      (r.write d true (out.map fun x => (x.1, x.2.1))).putRand c (out.map fun x => (x.1, x.2.2)) }

/-- BFPX's slot is of a block shape (R85). -/
def bfpxPre (m : CvtMod) (e : Env) : Option Nat := if (e.slot m.slot.toNat).block then none else some 2

/-- BFPX (R85): a header that does not describe the slot's block gives NaN (R54). -/
def bfpxOp (h : Hd) (m : CvtMod) (d a : Opnd) : Alu :=
  { h := h, pre := bfpxPre m, uses := fun _ => [(d, 1), (a, 2)]
    run := fun e r =>
      let s := e.slot m.slot.toNat
      let c := cvtRnd e m
      let f := (Fmt.ffmt m.dst).getD fmt32
      cvtWrite e r h c d false fun l =>
        let x := rd64 e r a l
        let hd := x / 2 ^ 32
        let (md, g) := c.draw (r.rand l)
        let v := if headerOk s hd then blockVal s (hd % 256) (x % 2 ^ s.elemW) else .nan
        (roundTo f md false c.sat v, g) }

/-! ### QSCL (R86) -/

/-- QSCL (R86). -/
def qsclOp (h : Hd) (m : CvtMod) (d a : Opnd) : Alu :=
  { h := h, pre := fun _ => none, uses := fun _ => [(d, 1), (a, 2)]
    run := fun e r =>
      let c := cvtRnd e m
      let fs := (Fmt.ffmt m.src).getD fmt32
      let fd := (Fmt.ffmt m.dst).getD fmt32
      cvtWrite e r h c d false fun l =>
        let x := rd64 e r a l
        let sc := bitsAt x 32 8
        let (md, g) := c.draw (r.rand l)
        let v := if sc == 0xFF then .nan else (fs.decode (x % 2 ^ fs.bits)).scale ((sc : Int) - 127)
        (roundTo fd md false c.sat v, g) }

/-! ### Meanings in a group -/

/-- CVT in a group. -/
def execCvt (h : Hd) (m : CvtMod) (d a : Opnd) (s : State) : Out := aluStep (cvtOp h m d a) s
/-- CVTS in a group. -/
def execCvts (h : Hd) (m : CvtMod) (d a : Opnd) (s : State) : Out := aluStep (cvtsOp h m d a) s
/-- BFPK in a group. -/
def execBfpk (h : Hd) (m : CvtMod) (d a : Opnd) (s : State) : Out := aluStep (bfpkOp h m d a) s
/-- BFPX in a group. -/
def execBfpx (h : Hd) (m : CvtMod) (d a : Opnd) (s : State) : Out := aluStep (bfpxOp h m d a) s
/-- QSCL in a group. -/
def execQscl (h : Hd) (m : CvtMod) (d a : Opnd) (s : State) : Out := aluStep (qsclOp h m d a) s

end Sys2Proof.Machine
end

