-- ==== Sys2Proof/Machine/Lane.lean ====
section
/-! DEFINITION. Compares, predicates, lane exchange and reductions, OP 0x80 to 0x8A (R87 to R94, R106, R108). -/

namespace Sys2Proof.Machine

open Sys2Proof

/-! ### Compares and predicates (R87 to R89) -/

/-- ITEST in a lane (R87). -/
def itestLane (e : Env) (r : Regs) (ty : WType) (nc : Bool) (cmp : ICmp) (x : Ops4) (l : Nat) : Bool :=
  let (w, sg) := wtypeOf ty
  let wd := w == 64
  icmp cmp (intOf w sg (rd e r wd x.a l)) (intOf w sg (rd e r wd x.b l)) && (r.pred x.c.idx.toNat l != nc)

/-- FTEST in a lane: never flushes (R87). -/
def ftestLane (e : Env) (r : Regs) (f64 nc : Bool) (cmp : FCmp) (x : Ops4) (l : Nat) : Bool :=
  let f := if f64 then fmt64 else fmt32
  fcmp cmp (f.decode (rd e r f64 x.a l)) (f.decode (rd e r f64 x.b l)) && (r.pred x.c.idx.toNat l != nc)

/-- An instruction whose result in a lane is a predicate. -/
def predAlu (h : Hd) (uses : Uses) (x : Ops4) (f : Env → Regs → Nat → Bool) : Alu :=
  { h := h, pre := fun _ => none, uses := fun _ => uses
    run := fun e r => lanewise e r h x.d false fun l => if f e r l then 1 else 0 }

/-- ITEST (R87). -/
def itestOp (h : Hd) (ty : WType) (nc : Bool) (cmp : ICmp) (x : Ops4) : Alu :=
  predAlu h [(x.a, regsOf ty.wide), (x.b, regsOf ty.wide)] x fun e r l => itestLane e r ty nc cmp x l
/-- FTEST (R87). -/
def ftestOp (h : Hd) (f64 nc : Bool) (cmp : FCmp) (x : Ops4) : Alu :=
  predAlu h [(x.a, regsOf f64), (x.b, regsOf f64)] x fun e r l => ftestLane e r f64 nc cmp x l
/-- PLUT (R88). -/
def plutOp (h : Hd) (lut : BitVec 8) (x : Ops4) : Alu :=
  predAlu h [] x fun _ r l => plutBit lut (r.pred x.a.idx.toNat l) (r.pred x.b.idx.toNat l) (r.pred x.c.idx.toNat l)

/-- The sixteen predicates of a lane as a word (R89). -/
def packPreds (r : Regs) (l : Nat) : Nat → Nat
  | 0 => 0
  | n + 1 => packPreds r l n + (if r.pred n l then 2 ^ n else 0)
/-- PMOV.pack (R89). -/
def pmovPackOp (h : Hd) (x : Ops4) : Alu :=
  { h := h, pre := fun _ => none, uses := fun _ => [(x.d, 1)]
    run := fun e r => lanewise e r h x.d false fun l => packPreds r l 16 }

/-- Predicates p0 to p(n−1) of a lane from the bits of a word. -/
def unpackPreds (r : Regs) (l x : Nat) : Nat → Regs
  | 0 => r
  | n + 1 => (unpackPreds r l x n).putPred n l (bitsAt x n 1 == 1)
/-- PMOV.unpack: p0 to p14 (R89). -/
def pmovUnpackOp (h : Hd) (x : Ops4) : Alu :=
  { h := h, pre := fun _ => none, uses := fun _ => [(x.a, 1)]
    run := fun e r => (activeLanes e r h).foldl (fun r1 l => unpackPreds r1 l (rd32 e r x.a l) 15) r }

/-! ### Votes and matches (R90, R91) -/

/-- VOTE over the active lanes, as one value for each of them (R90). -/
def voteVal (e : Env) (r : Regs) (h : Hd) (m : VoteMode) (x : Ops4) : Nat :=
  let act := activeLanes e r h
  let vs := act.map fun l => r.pred x.a.idx.toNat l
  match m with
  | .all => if voteAll vs then 1 else 0
  | .any => if voteAny vs then 1 else 0
  | .uni => if voteUni vs then 1 else 0
  | .ballot => (maskOf (act.filter fun l => r.pred x.a.idx.toNat l)).toNat
/-- VOTE (R90). -/
def voteOp (h : Hd) (m : VoteMode) (x : Ops4) : Alu :=
  { h := h, pre := fun _ => none, uses := fun _ => [(x.d, 1)]
    run := fun e r => lanewise e r h x.d false fun _ => voteVal e r h m x }

/-- MATCH (R91): the active lanes whose A equals the lane's. -/
def matchLanesOp (h : Hd) (b64 : Bool) (x : Ops4) : Alu :=
  { h := h, pre := fun _ => none, uses := fun _ => [(x.d, 1), (x.a, regsOf b64)]
    run := fun e r => lanewise e r h x.d false fun l =>
      (maskOf ((activeLanes e r h).filter fun k => rd e r b64 x.a k == rd e r b64 x.a l)).toNat }

/-! ### Exchange (R92, R93) -/

/-- The segment width of XLANE from C: the largest power of two not above C[5:0], within the lane positions (R92). -/
def xlaneWidth (lanes c : Nat) : Nat :=
  let w := c % 64
  if w = 0 ∨ lanes < w then lanes else 2 ^ Nat.log2 w
/-- The source lane of XLANE (R92). -/
def xlaneSrc (m : XMode) (lanes c b l : Nat) : Nat :=
  let w := xlaneWidth lanes c
  let base := l - l % w
  match m with
  | .idx => base + b % w
  | .up => if l - base < b then l else l - b
  | .down => if base + w - l ≤ b then l else l + b
  | .xor => base + ((l - base) ^^^ (b % w))
/-- XLANE (R92): sources are read whether or not their lanes are active. -/
def xlaneOp (h : Hd) (b64 : Bool) (m : XMode) (x : Ops4) : Alu :=
  { h := h, pre := fun _ => none, uses := fun _ => [(x.d, regsOf b64), (x.a, regsOf b64), (x.b, 1), (x.c, 1)]
    run := fun e r => lanewise e r h x.d b64 fun l =>
      rd e r b64 x.a (xlaneSrc m e.lanes (rd32 e r x.c l) (rd32 e r x.b l) l) }
/-- BCAST (R93). -/
def bcastOp (h : Hd) (x : Ops4) : Alu :=
  { h := h, pre := fun _ => none, uses := fun _ => [(x.d, 1), (x.a, 1), (x.b, 1)]
    run := fun e r => lanewise e r h x.d false fun l => rd32 e r x.a (rd32 e r x.b l % e.lanes) }
/-- SMOV: the lowest active lane's A into scalar D (R93). -/
def smovOp (h : Hd) (x : Ops4) : Alu :=
  let w := x.a.cls == .pair
  { h := h, pre := fun _ => none, uses := fun _ => [(x.d, regsOf w), (x.a, regsOf w)]
    run := fun e r => lanewise e r h x.d w fun l => rd e r w x.a l }

/-! ### Reductions and scans (R62, R94) -/

/-- Width and signedness of an integer TYPE; floating types by width. -/
def rtypeOf : RType → Nat × Bool
  | .i32 => (32, true) | .n32 => (32, false) | .i64 => (64, true) | .n64 => (64, false)
  | .f32 => (32, false) | .f64 => (64, false)
/-- Format of a floating TYPE. -/
def rtypeFmt (t : RType) : FFmt := if t.wide then fmt64 else fmt32

/-- One rounded addition of a reduction (R62). -/
def redFAdd (m : RedMod) (ftz : Bool) (x y : Nat) : Nat :=
  let f := rtypeFmt m.ty
  let r := RMode.ofRnd m.rnd
  roundTo f r ftz false ((f.decode x).add r (f.decode y))

/-- One level of the tree of R62 over positions; an absent operand passes the other. -/
def treeLevel (g : Nat → Nat → Nat) : List (Option Nat) → List (Option Nat)
  | a :: b :: r =>
    (match a, b with
      | some x, some y => some (g x y)
      | some x, none => some x
      | none, y => y) :: treeLevel g r
  | r => r
/-- The tree of R62: `n` levels. -/
def treeSum (g : Nat → Nat → Nat) : Nat → List (Option Nat) → Option Nat
  | 0, xs => (xs[0]?).getD none
  | n + 1, xs => treeSum g n (treeLevel g xs)

/-- A floating result: canonical where NaN, else its bits (R94). -/
def canonF (f : FFmt) (x : Nat) : Nat := if (f.decode x).isNaN then f.nan else x

/-- An integer reduction of patterns: exact, then Wrap or Sat (R94). -/
def redInt (m : RedMod) (sat : Bool) (xs : List Nat) : Nat :=
  let (w, sg) := rtypeOf m.ty
  match xs with
  | [] => 0
  | x :: r =>
    match m.red with
    | .add => narrow w sg sat ((xs.map (intOf w sg)).sum)
    | .min => patOf w ((r.map (intOf w sg)).foldl min (intOf w sg x))
    | .max => patOf w ((r.map (intOf w sg)).foldl max (intOf w sg x))
    | .and => r.foldl (· &&& ·) x
    | .or => r.foldl (· ||| ·) x
    | .xor => r.foldl (· ^^^ ·) x

/-- A floating minimum or maximum of patterns (R79, R94). -/
def redMinMax (f : FFmt) (isMax : Bool) : List Nat → Nat
  | [] => 0
  | x :: r => canonF f (r.foldl (fMinMax f isMax) x)

/-- FTZ and SAT of C (R94). -/
def redOpts (c : Opnd) : Bool × Bool :=
  if c.cls == .simm then (c.idx.getLsbD 0, c.idx.getLsbD 1) else (false, false)

/-- The reduction of LREDUCE over the values at the active positions (R94). -/
def reduceVals (m : RedMod) (c : Opnd) (lanes : Nat) (xs : List (Nat × Nat)) : Nat :=
  let (ftz, sat) := redOpts c
  let f := rtypeFmt m.ty
  let vs := xs.map fun x => if ftz then f.flush x.2 else x.2
  if !m.ty.isFloat then redInt m sat vs
  else match m.red with
    | .add =>
      let at0 := (List.range lanes).map fun l => ((xs.zip vs).find? fun y => y.1.1 == l).map (·.2)
      canonF f ((treeSum (redFAdd m ftz) (Nat.log2 lanes) at0).getD 0)
    | .max => redMinMax f true vs
    | .min | .and | .or | .xor => redMinMax f false vs

/-- LREDUCE (R94). -/
def lreduceOp (h : Hd) (m : RedMod) (x : Ops4) : Alu :=
  { h := h, pre := fun _ => none, uses := fun _ => [(x.d, regsOf m.ty.wide), (x.a, regsOf m.ty.wide)]
    run := fun e r =>
      let xs := (activeLanes e r h).map fun l => (l, rd e r m.ty.wide x.a l)
      lanewise e r h x.d m.ty.wide fun _ => reduceVals m x.c e.lanes xs }

/-- The inclusive reduction of LSCAN over a prefix of the active lanes' values (R62, R94). -/
def scanVals (m : RedMod) (c : Opnd) (xs : List Nat) : Nat :=
  let (ftz, sat) := redOpts c
  let f := rtypeFmt m.ty
  let vs := xs.map fun x => if ftz then f.flush x else x
  if !m.ty.isFloat then redInt m sat vs
  else match m.red with
    | .add =>
      match vs with
      | [] => 0
      | v :: r => canonF f (r.foldl (redFAdd m ftz) v)
    | .max => redMinMax f true vs
    | .min | .and | .or | .xor => redMinMax f false vs

/-- LSCAN (R94). -/
def lscanOp (h : Hd) (m : RedMod) (x : Ops4) : Alu :=
  { h := h, pre := fun _ => none, uses := fun _ => [(x.d, regsOf m.ty.wide), (x.a, regsOf m.ty.wide)]
    run := fun e r =>
      let act := activeLanes e r h
      lanewise e r h x.d m.ty.wide fun l => scanVals m x.c ((act.filter (· ≤ l)).map fun k => rd e r m.ty.wide x.a k) }

/-! ### Meanings in a group -/

/-- ITEST in a group. -/
def execItest (h : Hd) (ty : WType) (nc : Bool) (cmp : ICmp) (x : Ops4) (s : State) : Out := aluStep (itestOp h ty nc cmp x) s
/-- FTEST in a group. -/
def execFtest (h : Hd) (f64 nc : Bool) (cmp : FCmp) (x : Ops4) (s : State) : Out := aluStep (ftestOp h f64 nc cmp x) s
/-- PLUT in a group. -/
def execPlut (h : Hd) (lut : BitVec 8) (x : Ops4) (s : State) : Out := aluStep (plutOp h lut x) s
/-- PMOV.pack in a group. -/
def execPmovPack (h : Hd) (x : Ops4) (s : State) : Out := aluStep (pmovPackOp h x) s
/-- PMOV.unpack in a group. -/
def execPmovUnpack (h : Hd) (x : Ops4) (s : State) : Out := aluStep (pmovUnpackOp h x) s
/-- VOTE in a group. -/
def execVote (h : Hd) (m : VoteMode) (x : Ops4) (s : State) : Out := aluStep (voteOp h m x) s
/-- MATCH in a group. -/
def execMatchLanes (h : Hd) (b64 : Bool) (x : Ops4) (s : State) : Out := aluStep (matchLanesOp h b64 x) s
/-- XLANE in a group. -/
def execXlane (h : Hd) (b64 : Bool) (m : XMode) (x : Ops4) (s : State) : Out := aluStep (xlaneOp h b64 m x) s
/-- LREDUCE in a group. -/
def execLreduce (h : Hd) (m : RedMod) (x : Ops4) (s : State) : Out := aluStep (lreduceOp h m x) s
/-- LSCAN in a group. -/
def execLscan (h : Hd) (m : RedMod) (x : Ops4) (s : State) : Out := aluStep (lscanOp h m x) s
/-- BCAST in a group. -/
def execBcast (h : Hd) (x : Ops4) (s : State) : Out := aluStep (bcastOp h x) s
/-- SMOV in a group. -/
def execSmov (h : Hd) (x : Ops4) (s : State) : Out := aluStep (smovOp h x) s

end Sys2Proof.Machine
end

