-- ==== Sys2Proof/Machine/Mem.lean ====
section
/-! DEFINITION. Memory: translation (R407 to R411, R490), the physical map (R444), page heat and compression on an access
(R475, R481), keys and lines of the tile cache (R299 to R307), lease stamps (R329, R330, R436 to R441), and reads and
writes performed at the home. -/

namespace Sys2Proof.Machine

open Sys2Proof

/-! ### Physical map (R444, R450, R452) -/

/-- Kinds of physical target (R444). -/
inductive PaKind where
  | hbm | host | pool (excl atom : Bool) | peer | bad
  deriving DecidableEq, Repr

/-- The target of a physical address (R444). -/
def State.paKind (s : State) (pa : Nat) : PaKind :=
  if pa < 0xC000000000 then .hbm
  else if pa < 0x1000000000000 then .bad
  else if pa < 0x2000000000000 then .host
  else if pa < 0x8000000000000 then
    match poolWin s.regs.poolwin pa with
    | some w => .pool (w.getLsbD 64) (w.getLsbD 65)
    | none => .bad
  else if pa < 0xC000000000000 then
    let off := pa % 2 ^ 40
    let id := pa / 2 ^ 40 % 1024
    let (en, n, self) := s.peerCfg
    if !en || decide (n ≤ id) || decide (0xC000000000 ≤ off) then .bad
    else if id == self then .hbm else .peer
  else .bad

/-- Both ends of a range are good targets (R444). -/
def State.paOk (s : State) (pa size : Nat) : Bool := s.paKind pa != .bad && s.paKind (pa + size - 1) != .bad

/-- Whether the device caches lines of the target (R301, R448, R451). -/
def State.cached (s : State) (pa : Nat) : Bool :=
  match s.paKind pa with
  | .hbm => true
  | .host => s.cxl.1 || s.cxl.2
  | .pool e _ => e
  | .peer => true
  | .bad => false

/-- Sampler of the host port of the pool window that covers an address: host ports are numbered 2048 and 2049. -/
def poolSampler (ws : Sparse (BitVec 128)) (pa : Nat) : Nat :=
  match poolWin ws pa with
  | some w => 2048 + bitsAt w.toNat 66 2
  | none => 2048

/-- The accesses that the device makes to a target outside it: its cached lines are proxies (R439, R448, R451). -/
def State.outside (s : State) (pa : Nat) : Bool :=
  match s.paKind pa with
  | .host | .pool _ _ | .peer => true
  | .hbm | .bad => false

/-- The port to a target outside the device: host ports 4 and 5, UALink 6 (R442, R444). -/
def State.linkPort (s : State) (pa : Nat) : Nat :=
  match s.paKind pa with
  | .pool _ _ => 4 + (poolSampler s.regs.poolwin pa - 2048) % 2
  | .peer => 6
  | .host | .hbm | .bad => 4

/-! ### Failed links and locks (R213, R443) -/

/-- A port whose link has failed (R443): host ports 0 and 1, UALink ports 2 to 19. -/
def State.portFailed (s : State) (p : Nat) : Bool := s.failedFlows.any fun f => f.1 == p
/-- Every way to a target outside the device runs over failed links (R443). -/
def State.cutPa (s : State) (pa : Nat) : Bool :=
  !s.failedFlows.isEmpty && match s.paKind pa with
    | .hbm | .bad => false
    | .host => s.portFailed 0 && s.portFailed 1
    | .pool _ _ => s.portFailed (poolSampler s.regs.poolwin pa - 2048)
    | .peer => (List.range 18).all fun i => s.portFailed (2 + i)
/-- The link between two dies has failed (R443). -/
def State.cutDies (s : State) (a b : Nat) : Bool := s.failedDies.any fun f => f == (a, b) || f == (b, a)

/-- A locked line holds a byte of the range: a service group has locked its line or its address (R213). -/
def State.lockedPa (s : State) (pa n : Nat) : Bool :=
  (s.lines.any fun l => l.lock.isSome && !l.proxy && l.within pa n) || s.paLocks.any fun x => meets (256 * x.1) 256 pa n

/-! ### Page walks (R407, R408) -/

/-- A 57-bit virtual address is canonical: bits 63 to 57 equal bit 56 (R30, R490; log entry 8). -/
def canonical (va : Nat) : Bool :=
  let hi := bitsAt va 56 8
  hi == 0 || hi == 255

/-- Accesses a walk distinguishes (R421). -/
inductive Acc where
  | read | write | rmw | fetch
  deriving DecidableEq, Repr

/-- ACCESS code (R421). -/
def Acc.code : Acc → Nat
  | .read => 0 | .write => 1 | .rmw => 2 | .fetch => 3
/-- The access writes. -/
def Acc.writes : Acc → Bool
  | .write | .rmw => true
  | _ => false

/-- What a walk finds: a leaf (its address, level, physical page), KIND and LEVEL of a fault, or an uncorrectable entry (R434). -/
inductive Walk where
  | leaf (ptr level pa : Nat) (bits : Nat)
  | fault (kind level : Nat)
  | uncorr (pa : Nat)
  deriving DecidableEq, Repr

/-- Bytes of a page at a level (R407). -/
def levelSize : Nat → Nat
  | 1 => 4096
  | 2 => 2097152
  | _ => 1073741824

/-- Walk from a table of a level down (R407, R408). -/
def State.walkFrom (s : State) (va : Nat) : Nat → Nat → Walk
  | 0, _ => .fault 2 1
  | lvl + 1, tbl =>
    let ptr := s.canonPa tbl + 8 * bitsAt va (12 + 9 * lvl) 9
    let e := s.physNat ptr 8
    let level := lvl + 1
    let leaf := bitsAt e 1 1 == 1
    let pa := bitsAt e 12 40 * 4096
    if s.uncorr.contains (ptr / 32) then .uncorr ptr
    else if bitsAt e 0 1 == 0 then .fault 1 level
    else if bitsAt e 52 12 != 0 || bitsAt e 9 3 != 0 || bitsAt e 2 1 != 0 then .fault 2 level
    else if leaf then
      if level ≥ 4 then .fault 2 level
      else if pa % levelSize level != 0 || !s.paOk pa (levelSize level) then .fault 2 level
      else .leaf ptr level pa e
    else if level == 1 then .fault 2 level
    else s.walkFrom va lvl pa

/-- Addresses of the entries that a walk from a table of a level down reads, the first one first. -/
def State.walkTrail (s : State) (va : Nat) : Nat → Nat → List Nat
  | 0, _ => []
  | lvl + 1, tbl =>
    let ptr := s.canonPa tbl + 8 * bitsAt va (12 + 9 * lvl) 9
    let e := s.physNat ptr 8
    ptr :: (if s.uncorr.contains (ptr / 32) || bitsAt e 0 1 == 0 || bitsAt e 1 1 == 1 then []
      else s.walkTrail va lvl (bitsAt e 12 40 * 4096))

/-- Where a walk's read of an entry travels to: the home's die, or a port (R442). -/
def State.entryRoute (s : State) (a : Nat) : Nat := if s.outside a then s.linkPort a else sliceDie (s.paSlice a)

/-- A die's read of an entry travels over a failed link (R443). -/
def State.entryCut (s : State) (die a : Nat) : Bool :=
  s.cutPa a || (!s.failedDies.isEmpty && !s.outside a && s.cutDies die (sliceDie (s.paSlice a)))

/-- A walk has to wait: behind the lock of a line that it reads or changes, or for room in a flow (R213, R442). -/
def State.walkHeld (s : State) (die : Nat) (trail : List Nat) : Bool :=
  (trail.any fun a => s.lockedPa a 8) || !s.flowsRoom die 0 (trail.map s.entryRoute)

/-- The slice that holds an entry sleeps (R438). -/
def State.entrySleeps (s : State) (a : Nat) : Bool := s.asleep.any fun x => x.1 == s.paSlice a

/-- The reads of a walk wake the slices that hold the entries, and travel in flows (R438, R442). -/
def State.walkReads (s : State) (die : Nat) (trail : List Nat) : State :=
  let ds := trail.map s.entryRoute
  ((trail.foldl (fun t a => t.touchSlice (t.paSlice a)) s).passPkts die 0 ds).backPkts die 0 ds

/-- Root of a context's tables (R406). -/
def State.root (s : State) (ctx : Nat) : Nat := s.pa52 (s.physNat (s.ctxDesc ctx) 8)
/-- A whole walk of a context's tables. -/
def State.walk (s : State) (ctx va : Nat) : Walk := s.walkFrom va 5 (s.root ctx)

/-- The physical byte a valid leaf gives a virtual address, whatever its permissions. -/
def State.walkPa (s : State) (ctx va : Nat) : Option Nat :=
  match s.walk ctx va with
  | .leaf _ lvl pa _ => some (s.canonPa (pa + va % levelSize lvl))
  | .fault _ _ | .uncorr _ => none

/-! ### Translation caches (R410, R411) -/

/-- The entry of a place that covers an address. -/
def tlbFind (p : TlbPlace) (ctx va : Nat) (l : List TlbEnt) : Option TlbEnt :=
  l.find? fun e => e.place == p && e.ctx == ctx && e.va == va / e.size

/-- Entries a place holds (R2, R411). -/
def TlbPlace.size : TlbPlace → Nat
  | .core _ => Config.coreTlb
  | .last _ => Config.lastTlb
  | .edge _ => Config.edgeTlb

/-- At most `n` entries of a place, the latest ones. -/
def keepPlace (p : TlbPlace) : Nat → List TlbEnt → List TlbEnt
  | _, [] => []
  | n, e :: r => if e.place == p then (match n with
      | 0 => keepPlace p 0 r
      | k + 1 => e :: keepPlace p k r) else e :: keepPlace p n r

/-- The entry permits the access without another walk (R408, R410). -/
def TlbEnt.permits (e : TlbEnt) (acc : Acc) (sup : Bool) : Bool :=
  match acc with
  | .read => true
  | .write | .rmw => e.write && e.dirty
  | .fetch => e.exec && (sup || !e.sup)

/-- The physical address an entry gives. -/
def TlbEnt.target (e : TlbEnt) (va : Nat) : Nat := e.pa + va % e.size

/-- Put an entry into a place, in place of one that covers the address; a full place loses its oldest (log entry 88). -/
def tlbPut (p : TlbPlace) (ctx va : Nat) (e : TlbEnt) (l : List TlbEnt) : List TlbEnt :=
  { e with place := p } ::
    keepPlace p (p.size - 1) (l.filter fun x => !(x.place == p && x.ctx == ctx && x.va == va / x.size))

/-- What stands for KIND where a walk met an uncorrectable entry; LEVEL then is its address. No record carries it. -/
def kindUncorr : Nat := 256
/-- What stands for KIND where a walk has to wait for a locked line, a sleeping slice or room in a flow. No record carries it. -/
def kindWait : Nat := 257

/-- The cause of a translation's fault: KIND 3 and 4 are protection faults (R408); an uncorrectable entry is consumed (R434). Cause 0,
which is never reported (R198), is a walk's wait. -/
def walkCause (kind : Nat) : Nat :=
  if kind == kindWait then 0 else if kind == kindUncorr then 10 else if kind == 3 || kind == 4 then 6 else 5

/-- The permission fault of a leaf for an access (R408). -/
def permFault (bits : Nat) (acc : Acc) (sup : Bool) : Option Nat :=
  match acc with
  | .read => none
  | .write | .rmw => if bitsAt bits 3 1 == 0 then some 3 else none
  | .fetch => if bitsAt bits 4 1 == 0 || (bitsAt bits 8 1 == 1 && !sup) then some 4 else none

/-- The end of a walk for an access (R407, R408): the leaf's place and level, the page, and the leaf as it stands after ACC and DIRTY
are set. -/
def State.walkEnd (s : State) (w : Walk) (acc : Acc) (sup : Bool) : Except WalkInfo (Nat × Nat × Nat × Nat × State) :=
  match w with
  | .uncorr a => .error ⟨kindUncorr, acc.code, a⟩
  | .fault k l => .error ⟨k, acc.code, l⟩
  | .leaf ptr lvl pa bits =>
    match permFault bits acc sup with
    | some k => .error ⟨k, acc.code, lvl⟩
    | none =>
      let want := bits ||| 32 ||| (if acc.writes then 64 else 0)
      .ok (ptr, lvl, s.canonPa pa, want, if want == bits then s else s.ownPut ptr 8 want)

/-- A walk of a die's translation from a table of a level down: one that a failed link cuts off ends as one that meets an uncorrectable
entry (R443); one that must wait does so before it has any effect, and one that finds a fault waits for the slices it reads to wake (R213,
R438, R442). -/
def State.walkMake (s : State) (die va lvl tbl : Nat) (acc : Acc) (sup : Bool) : Except WalkInfo (Nat × Nat × Nat × Nat × State) :=
  let trail := s.walkTrail va lvl tbl
  match trail.find? (s.entryCut die) with
  | some a => .error ⟨kindUncorr, acc.code, a⟩
  | none =>
    if s.walkHeld die trail then .error ⟨kindWait, acc.code, 0⟩
    else match (s.walkReads die trail).walkEnd (s.walkFrom va lvl tbl) acc sup with
      | .ok r => .ok r
      | .error e => .error (if trail.any s.entrySleeps then ⟨kindWait, acc.code, 0⟩ else e)

/-- A cached translation of a page, with its permissions. -/
def pageEnt (p : TlbPlace) (ctx va size pa bits : Nat) : TlbEnt :=
  ⟨p, ctx, va / size, size, pa, bitsAt bits 3 1 == 1, bitsAt bits 4 1 == 1, bitsAt bits 8 1 == 1, bitsAt bits 6 1 == 1, false⟩

/-- What the last-level TLB keeps of a walk: a 2 MiB leaf, the 2 MiB piece of a 1 GiB leaf, or the level-2 entry of a range of
smaller pages (R411). -/
def lastEnt (ctx va ptr lvl pa bits : Nat) : TlbEnt :=
  if lvl == 1 then ⟨.last 0, ctx, va / 2097152, 2097152, ptr / 4096 * 4096, false, false, false, false, true⟩
  else pageEnt (.last 0) ctx va 2097152 (pa + va % levelSize lvl / 2097152 * 2097152) bits

/-- Translate by a walk from a table of a level down: ACC and DIRTY are set, and the place and the die's last-level TLB filled. -/
def State.translateWalk (s : State) (lvl tbl : Nat) (p : TlbPlace) (die ctx va : Nat) (acc : Acc) (sup : Bool) :
    Except WalkInfo (Nat × State) :=
  match s.walkMake die va lvl tbl acc sup with
  | .error e => .error e
  | .ok (ptr, lvl, pa, want, s1) =>
    let put := tlbPut (.last die) ctx va (lastEnt ctx va ptr lvl pa want)
    .ok (pa + va % levelSize lvl, { s1 with tlb := match p with
      | .last _ => put s1.tlb
      | .core _ | .edge _ => put (tlbPut p ctx va (pageEnt p ctx va (levelSize lvl) pa want) s1.tlb) })

/-- Translate an address for an access from a place of a die (R407 to R411): by an entry of the place that permits it, by the
die's last-level TLB, whose level-2 entries leave one read, or by a whole walk. -/
def State.translate (s : State) (p : TlbPlace) (die ctx va : Nat) (acc : Acc) (sup : Bool) :
    Except WalkInfo (Nat × State) :=
  let far : Except WalkInfo (Nat × State) :=
    match tlbFind (.last die) ctx va s.tlb with
    | none => s.translateWalk 5 (s.root ctx) p die ctx va acc sup
    | some e =>
      if e.table then s.translateWalk 1 e.pa p die ctx va acc sup
      else if e.permits acc sup then .ok (e.target va, { s with tlb := tlbPut p ctx va e s.tlb })
      else s.translateWalk 5 (s.root ctx) p die ctx va acc sup
  match tlbFind p ctx va s.tlb with
  | some e => if !e.table && e.permits acc sup then .ok (e.target va, s) else far
  | none => far

/-- A translation's walk has to wait (R213, R438, R442). -/
def State.mustWait (s : State) (p : TlbPlace) (die ctx va : Nat) (acc : Acc) (sup : Bool) : Bool :=
  match s.translate p die ctx va acc sup with
  | .ok _ => false
  | .error w => w.kind == kindWait

/-- Whether a translation of the access would succeed, without changing anything. -/
def State.canTranslate (s : State) (p : TlbPlace) (die ctx va : Nat) (acc : Acc) (sup : Bool) : Bool :=
  match s.translate p die ctx va acc sup with
  | .ok _ => true
  | .error _ => false

/-! ### Page heat (R475) and compression (R480, R481) -/

/-- HEATCTL.EN and SHIFT (R474). -/
def State.heatOn (s : State) : Bool := s.regs.heatctl.getLsbD 63
/-- The accepted tier range of a physical address. -/
def State.tierAt (s : State) (pa : Nat) : Option Tier := s.tiers.find? fun t => decide (t.base ≤ pa ∧ pa < t.base + t.size)

/-- Every counter of a heat array from `a` on decays; `n` counts them (R476). -/
def decayFrom (a : Nat) : Nat → State → State
  | 0, s => s
  | n + 1, s => decayFrom (a + 2) n (let c := s.physNat a 2; if c = 0 then s else s.ownPut a 2 (3 * c / 4))

/-- The decay period (R474). -/
def State.decayPeriod (s : State) : Nat := 2 ^ bitsAt s.regs.heatctl.toNat 8 6

/-- A decay of page heat is due: once a period (R476). -/
def State.decayDue (s : State) : Bool := s.heatOn && decide (s.decayAt + s.decayPeriod ≤ s.clock)

/-- Every counter c becomes floor(3c / 4), where the decay is due (R476). -/
def State.decay (s : State) : State :=
  if s.decayDue then { s.tiers.foldl (fun t x => decayFrom x.heat (x.size / 65536) t) s with decayAt := s.decayAt + s.decayPeriod }
  else s

/-- One event of page heat at a sampler: slices are numbered 0 to 2047, host ports 2048 and 2049 (R475). A decay
that is due comes before the increment (R476). -/
def State.heat (s0 : State) (samp pa : Nat) : State :=
  if !s0.heatOn then s0
  else match s0.tierAt pa with
    | none => s0
    | some t =>
      let s := s0.decay
      let period := 2 ^ bitsAt s.regs.heatctl.toNat 0 4
      let c := (spGet 0 s.sampler samp + 1) % period
      let s1 := { s with sampler := spSet 0 s.sampler samp c }
      if c == 0 then
        let a := t.heat + 2 * ((pa - t.base) / 65536)
        s1.ownPut a 2 (min 0xFFFF (s1.physNat a 2 + 1))
      else s1

/-- Address of a logical page's map entry (R480). -/
def Tier.mapAddr (t : Tier) (pa : Nat) : Nat := t.pmap + 24 * ((pa - t.base) / 4096)

/-- Take `n` chunk indices from a ring of R417 layout, or none where it cannot supply them. -/
def takeRing (ring : Nat) : Nat → State → Option (List Nat × State)
  | 0, s => some ([], s)
  | n + 1, s =>
    let head := s.physNat (ring + 0x10) 8
    if head == s.physNat (ring + 0x18) 8 then none
    else
      let entries := 2 ^ s.physNat (ring + 8) 4
      let x := s.physNat (s.pa52 (s.physNat ring 8) + 8 * (head % entries)) 8
      match takeRing ring n (s.ownPut (ring + 0x10) 8 ((head + 1) % 2 ^ 64)) with
      | none => none
      | some (xs, s1) => some (x :: xs, s1)

/-- Chunks of a tier's store take a page's form, which is not architectural: free values (R480; log entry 5). -/
def State.fillChunks (s : State) (t : Tier) (xs : List Nat) : State :=
  xs.foldl (fun r x => { r with freeCtr := r.freeCtr + 128 }.ownWrite (t.chunks + 1024 * x)
    ((List.range 128).flatMap fun k => toBytesLE 8 (Config.freeDWord (r.freeCtr + k)).toNat)) s

/-- The first permitted write into a logical page of a compressed range reserves its chunks (R481); none where the ring
cannot supply them. -/
def State.reserve (s : State) (pa : Nat) : Option State :=
  match s.tierAt pa with
  | none => some s
  | some t =>
    if !t.comp then some s
    else
      let a := t.mapAddr pa
      let b := s.physNat (a + 0x10) 1
      if bitsAt b 7 1 == 1 then some s
      else
        let c := min 4 (bitsAt b 0 3)
        match takeRing t.cring (4 - c) s with
        | none => none
        | some (xs, s1) =>
          let s2 := (s1.fillChunks t xs).ownWrite (a + 4 * c) (xs.flatMap (toBytesLE 4))
          let s3 := s2.ownPut (a + 0x10) 1 (c + 128)
          some { s3 with dirtyAt := spSet 0 s3.dirtyAt (pa / 4096) 0 }

/-- The reservation's failure is posted as a KIND 4 event (R481). -/
def State.reserveFailed (s : State) (ctx pa : Nat) : State :=
  s.event ⟨4, 4, 0, BitVec.ofNat 64 (pa / 4096 * 4096), BitVec.ofNat 64 ctx, none⟩

/-! ### Keys (R303, R306) -/

/-- The tensor of a descriptor's 64 bytes (R303). -/
def tensorOf (ctx id d : Nat) : Tensor where
  ctx := ctx
  id := id
  base := bitsAt d 0 64
  esize := bitsAt d 64 16
  ndim := bitsAt d 80 8
  n := (List.range 4).map fun j => bitsAt d (128 + 32 * j) 32
  st := (List.range 3).map fun j => bitsAt d (256 + 64 * j) 64
  e := (List.range 4).map fun j => bitsAt d (448 + 16 * j) 16

/-- TMAP of a context (R363). -/
def State.tmapOf (s : State) (ctx : Nat) : Nat :=
  match s.ctxTmaps.find? fun x => x.1 == ctx with
  | some x => x.2.toNat
  | none => 0

/-- An entry of a context's tensor map as it stands in memory, where byte 0x0B says that it is registered; IDs run from 1 to
2^24 - 1 (R304, R305). -/
def State.tmapRead (s : State) (ctx id : Nat) : Option Tensor :=
  if id = 0 || decide (2 ^ 24 ≤ id) || !(s.ctxTmaps.any fun x => x.1 == ctx) then none
  else match s.walkPa ctx ((s.tmapOf ctx + 64 * id) % 2 ^ 64) with
    | none => none
    | some pa => if s.physNat (pa + 11) 1 == 1 then some (tensorOf ctx id (s.physNat pa 64)) else none

/-- A registered tensor: an entry installed on the dies, or else read from memory (R305). -/
def State.tensor? (s : State) (ctx id : Nat) : Option Tensor :=
  match s.tensors.find? fun t => t.ctx == ctx && t.id == id with
  | some t => some t
  | none => s.tmapRead ctx id

/-- The address of byte `pos` of a tile, none for padding and positions outside the tensor (R301, R303). -/
def Tensor.tileVa (t : Tensor) (tile pos : Nat) : Option Nat :=
  let el := pos / t.esize
  let e0 := (t.dim 0).2.1
  let e1 := (t.dim 1).2.1
  let e2 := (t.dim 2).2.1
  let e3 := (t.dim 3).2.1
  let i0 := tile % t.grid 0 * e0 + el % e0
  let i1 := tile / t.grid 0 % t.grid 1 * e1 + el / e0 % e1
  let i2 := tile / (t.grid 0 * t.grid 1) % t.grid 2 * e2 + el / (e0 * e1) % e2
  let i3 := tile / (t.grid 0 * t.grid 1 * t.grid 2) * e3 + el / (e0 * e1 * e2)
  if el < e0 * e1 * e2 * e3 ∧ i0 < (t.dim 0).1 ∧ i1 < (t.dim 1).1 ∧ i2 < (t.dim 2).1 ∧ i3 < (t.dim 3).1 then
    some (t.base + i0 * t.esize + i1 * (t.dim 1).2.2 + i2 * (t.dim 2).2.2 + i3 * (t.dim 3).2.2 + pos % t.esize)
  else none

/-- The address of a byte of a line (R299, R306). -/
def State.keyVa (s : State) (k : Key) (o : Nat) : Option Nat :=
  if k.tensor == 0 then
    let x := k.tile * 4096 + k.line * 256 + o
    some (if x < 2 ^ 56 then x else x + (2 ^ 64 - 2 ^ 57))
  else match s.tensor? k.ctx k.tensor with
    | none => none
    | some t => t.tileVa k.tile (256 * k.line + o)

/-! ### Lines (R299 to R301) -/

/-- The home's line of a key. -/
def State.line? (s : State) (k : Key) : Option Line := s.lines.find? fun l => l.key == k && !l.proxy
/-- A die's proxy copy of a key (R439). -/
def State.proxy? (s : State) (k : Key) (die : Nat) : Option Line :=
  s.lines.find? fun l => l.key == k && l.proxy && l.die == die
/-- The set of a slice that a key belongs to (R299; log entry 86). -/
def Key.set (k : Key) : Nat := (16 * k.tile + k.line + k.tensor) % (Config.sliceLines / Config.sliceWays)

/-- Stretches of a line that are backed by memory, by the tables as they stand; `hint` is the accessed byte's own
translation, which an anonymous line uses whole. -/
def State.lineSegs (s : State) (k : Key) (hint : Option (Nat × Nat)) : List (Nat × Nat × Nat) :=
  if k.tensor == 0 then
    match hint with
    | some (o, pa) => [(0, 256, pa - o)]
    | none => match (s.keyVa k 0).bind (s.walkPa k.ctx) with
      | some pa => [(0, 256, pa)]
      | none => []
  else
    (List.range 256).filterMap fun o =>
      match hint with
      | some (o', pa) => if o == o' then some (o, 1, pa) else
          ((s.keyVa k o).bind (s.walkPa k.ctx)).map fun p => (o, 1, p)
      | none => ((s.keyVa k o).bind (s.walkPa k.ctx)).map fun p => (o, 1, p)

/-- Bytes of memory in the stretches of a line, by offset. -/
def State.segData (s : State) : List (Nat × Nat × Nat) → Sparse Byte
  | [] => []
  | (o, n, p) :: r =>
    (s.mem.filter fun c => decide (s.memAt p ≤ c.1 ∧ c.1 < s.memAt p + n)).foldl
      (fun d c => spSet 0 d (o + (c.1 - s.memAt p)) c.2) (s.segData r)

/-- The physical byte behind an offset. -/
def segPa : List (Nat × Nat × Nat) → Nat → Option Nat
  | [], _ => none
  | (o, n, p) :: r, x => if o ≤ x ∧ x < o + n then some (p + (x - o)) else segPa r x

/-- Memory after the dirty bytes of a line that belong to elements have been written back (R301). -/
def State.writeDirty (s : State) (l : Line) : List Nat → List Host.Cell → List Host.Cell
  | [], m => m
  | o :: os, m =>
    s.writeDirty l os (match segPa l.segs o with
      | some pa => spSet 0 m (s.memAt pa) (spGet 0 l.data o)
      | none => m)

/-- What a home does with a line of a target outside the device travels in a flow of the port, and is answered (R442). -/
def State.linkPkt (s : State) (die pa cls : Nat) : State :=
  if s.outside pa then (s.passPkts die cls [s.linkPort pa]).backPkts die cls [s.linkPort pa] else s

/-- The flow to a target outside the device has room for a write (R442). -/
def State.linkRoom (s : State) (die pa : Nat) : Bool := !s.outside pa || s.flowRoom die (s.linkPort pa) 1 1

/-- A line may be written back: it is clean, or its flow has room (R301, R442). -/
def State.wbRoom (s : State) (l : Line) : Bool := l.dirty.isEmpty || match l.segs with
  | g :: _ => s.linkRoom l.die g.2.2
  | [] => true

/-- Write a home line back: it stays valid and clean (R133, R301); to a target outside the device that travels in a flow (R442). -/
def State.writeBack (s : State) (k : Key) : State :=
  match s.line? k with
  | none => s
  | some l =>
    let s1 := ({ s with mem := s.writeDirty l l.dirty s.mem }).putLine { l with dirty := [] }
    match l.segs with
    | g :: _ => if l.dirty.isEmpty then s1 else s1.linkPkt l.die g.2.2 1
    | [] => s1

/-- Remove a home line, dropping what is dirty. -/
def State.dropLine (s : State) (k : Key) : State :=
  match s.line? k with
  | none => s
  | some l => { s.noteGone l.die (stampRead (s.epochOf l.die) l.rts) with
      lines := s.lines.filter fun l => !(l.key == k && !l.proxy) }

/-! ### Stamps and times (R329, R330, R436, R437, R441) -/

/-- A load read a line with this WTS (R329). -/
def State.rhRaise (s : State) (core v : Nat) : State := { s with rh := spSet 0 s.rh core (max (s.rhOf core) v) }

/-- The core stands at the hold, so that no lease of its L1 may serve it (R437). -/
def State.tcHeld (s : State) (core : Nat) : Bool := decide (tcHold (s.epochOf (dieOf core)) ≤ s.tcOf core)

/-! ### Filling a line (R299, R301, R441) -/

/-- A line has been accessed: it is the last that its set replaces (R301). -/
def State.touchLine (s : State) (n : LineName) : State := { s with lru := n :: s.lru.filter (· != n) }

/-- Lines of a set of a slice, tentative ones among them (R277, R299). -/
def State.setUse (s : State) (sl st : Nat) : Nat :=
  (s.lines.filter fun l => s.sliceOf l.name == sl && l.key.set == st).length +
    (s.tent.filter fun t => s.homeOf t.key == sl && t.key.set == st).length

/-- The line of a set that is replaced: the least recently used that no service group has locked and that may be written back (R213, R301,
R442). -/
def State.victim (s : State) (sl st : Nat) : Option Line :=
  let mine := s.lines.filter fun l => s.sliceOf l.name == sl && l.key.set == st && l.lock.isNone && s.wbRoom l
  match mine.find? fun l => !s.lru.contains l.name with
  | some l => some l
  | none => match (s.lru.filter fun n => mine.any fun l => l.name == n).getLast? with
    | none => none
    | some n => mine.find? fun l => l.name == n

/-- Replace a line: a dirty one is written back first (R301). -/
def State.replaceLine (s : State) (l : Line) : State :=
  if l.proxy then { s with lines := s.lines.filter fun (m : Line) => m.name != l.name }
  else (s.writeBack l.key).dropLine l.key

/-- Make room for one more line of a set; none where every way holds a tentative or a locked line (R213, R277, R299, R301). -/
def State.makeRoom (s : State) (sl st : Nat) : Option State :=
  if s.setUse sl st < Config.sliceWays then some s else (s.victim sl st).map s.replaceLine

/-- A set takes no line more: every way holds a tentative or a locked one. -/
def State.setShut (s : State) (sl st : Nat) : Bool := (s.makeRoom sl st).isNone

/-- A line whose byte behind `hint` was mapped after the fill takes it from memory (R301). -/
def Line.cover (l : Line) (s : State) : Option (Nat × Nat) → Line
  | none => l
  | some (o, pa) =>
    if (segPa l.segs o).isSome then l
    else { l with segs := l.segs ++ [(o, 1, pa)], data := spSet 0 l.data o (spGet 0 s.mem (s.memAt pa)) }

/-- The stamp a filled home line takes: past the leases on the lines that the die's slices gave up (log entry 84); a line homed
outside the device takes a proxy's (R441). -/
def State.fillStamp (s : State) (die : Nat) (out : Bool) : Nat :=
  if out then s.dieTime die else max (s.epochOf die * 2 ^ 24) (spGet 0 s.goneTs die)

/-- A line as a fill brings it (R301, R441). -/
def State.newLine (s : State) (k : Key) (hint : Option (Nat × Nat)) : State × Line :=
  let die := sliceDie (s.homeOf k)
  let segs := s.lineSegs k hint
  let far := match segs with
    | [] => none
    | g :: _ => if s.outside g.2.2 then some g.2.2 else none
  let n := s.fillStamp die far.isSome
  let l : Line := ⟨k, false, die, segs, s.segData segs, [], n, n, none⟩
  match far with
  | none => (s, l)
  | some pa => ((s.ptRaise die n).linkPkt die pa 0, l)

/-- The home's line of a key, filled from memory if it was not there; a set that takes no line more serves the request and keeps nothing
(R299, R301). -/
def State.fill (s : State) (k : Key) (hint : Option (Nat × Nat)) : State × Line :=
  let sl := s.homeOf k
  let s0 := s.touchSlice sl
  match s0.line? k with
  | some l =>
    let l1 := l.cover s0 hint
    ((s0.touchLine l.name).putLine l1, l1)
  | none => match s0.makeRoom sl k.set with
    | none => s0.newLine k hint
    | some s1 =>
      let (s2, l) := s1.newLine k hint
      ({ s2.touchLine l.name with lines := l :: s2.lines }, l)

/-! ### Reads and writes at the home -/

/-- Bytes of the line at an offset. -/
def Line.bytes (l : Line) (o n : Nat) : List Byte := spGetList 0 l.data o n

/-- A die may serve its cores' reads of a line: it is the home's, or holds a proxy copy (R439). Where the slice takes no copy the home
serves them, and nothing is kept (log entry 108). -/
def State.readable (s : State) (k : Key) (die : Nat) : Bool :=
  sliceDie (s.homeOf k) == die || (s.proxy? k die).isSome || s.setShut (dieSlice die (s.homeOf k)) k.set

/-- The page-heat event of a request: at the home slice, or at the host port of an uncached window (R475). -/
def State.heatReq (s : State) (ctx va pa : Nat) : State :=
  if s.cached pa then s.heat (s.homeOf (s.keyOf ctx va).1) pa else s.heat (poolSampler s.regs.poolwin pa) pa

/-- Read `n` bytes within one line at a virtual address for a device access: the line the die sees (R301, R439). -/
def State.homeRead (s : State) (die ctx va pa n : Nat) : List Byte × State :=
  if s.cached pa then
    let (k, o) := s.keyOf ctx va
    match s.proxy? k die with
    | some l =>
      let s1 := (s.touchSlice (s.sliceOf l.name)).touchLine l.name
      (if (segPa l.segs o).isSome then l.bytes o n else s1.physBytes pa n, s1)
    | none =>
      let (s2, l) := s.fill k (some (o, pa))
      (l.bytes o n, s2)
  else (s.physBytes pa n, s)

/-- Bytes of a write into one line: offset, physical address, byte. -/
abbrev LineBytes := List (Nat × Nat × Byte)

/-- The bytes of a write put into a line. -/
def Line.putAll (l : Line) : LineBytes → Line
  | [] => l
  | x :: xs => Line.putAll (l.put x.1 x.2.2) xs

/-- A line that holds every byte of a write. -/
def Line.coverAll (l : Line) (s : State) : LineBytes → Line
  | [] => l
  | x :: xs => Line.coverAll (l.cover s (some (x.1, x.2.1))) s xs

/-- Bytes written to memory. -/
def State.memPut (s : State) : LineBytes → List Host.Cell → List Host.Cell
  | [], m => m
  | x :: xs, m => s.memPut xs (spSet 0 m (s.memAt x.2.1) x.2.2)

/-- The writer's own die: its proxy copy of the line takes the bytes and, as its cores may hold leases on the copy, a proxy's
stamps; they are what the writer is acknowledged with (R440, R441; log entry 23). -/
def State.ownProxy (s : State) (k : Key) (die : Nat) (xs : LineBytes) : State × Nat :=
  let q := s.dieTime die
  ({ s.ptRaise die q with lines := s.lines.map fun (m : Line) =>
      if m.key == k && m.proxy && m.die == die then { (m.putAll xs) with dirty := [], rts := q, wts := q } else m }, q)

/-- Bytes that a home does not keep are in memory at once, where the next fill finds them with a stamp past theirs (R301, R329). -/
def State.passOn (s : State) (home pa w : Nat) (kept : Bool) (xs : LineBytes) : State :=
  let s1 := ({ s with mem := s.memPut xs s.mem }).linkPkt home pa 1
  if kept then s1 else s1.noteGone home w

/-- Write bytes of one line, performed at its home, with one pair of stamps (R301, R329, R439): the state and the stamp that the
writer is acknowledged with. A line homed at the host or a peer is never dirty: its writes travel on (R439, R448), as do those of a line
that its set cannot keep. -/
def State.lineWrite (s : State) (die tc floor : Nat) (k : Key) (xs : LineBytes) : State × Nat :=
  match xs with
  | [] => (s, 0)
  | x :: _ =>
    let (s1, l0) := s.fill k (some (x.1, x.2.1))
    let home := sliceDie (s1.homeOf k)
    let l1 := (l0.coverAll s1 xs).putAll xs
    let kept := (s1.line? k).isSome
    let through := !kept || s1.paKind x.2.1 == .host || s1.paKind x.2.1 == .peer
    let l2 : Line := if through then { l1 with dirty := l0.dirty } else l1
    let on (t : State) (w : Nat) : State := if through then t.passOn home x.2.1 w kept xs else t
    if die == home then
      let l3 := l2.stampWrite (s1.epochOf home) tc floor
      (on (s1.putLine l3) l3.wts, l3.wts)
    else
      let (s2, w) := s1.farWrite l2 home
      if die < 4 then (on s2 w).ownProxy k die xs else (on s2 w, w)

/-- Bytes of a write by virtual address, each with its physical address. -/
abbrev VaBytes := List (Nat × Nat × Byte)

/-- The bytes of a write that lie in a line. -/
def State.lineBytes (s : State) (ctx : Nat) (k : Key) (xs : VaBytes) : LineBytes :=
  xs.filterMap fun x => let q := s.keyOf ctx x.1; if q.1 == k then some (q.2, x.2.1, x.2.2) else none

/-- Write lines one after the other: the largest stamp. -/
def linesWrite (die tc floor ctx : Nat) (xs : VaBytes) : List Key → State → State × Nat
  | [], s => (s, 0)
  | k :: ks, s =>
    let (s1, w1) := s.lineWrite die tc floor k (s.lineBytes ctx k xs)
    let (s2, w2) := linesWrite die tc floor ctx xs ks s1
    (s2, max w1 w2)

/-- Write bytes at targets that are not cached. -/
def State.plainWrite (s : State) : VaBytes → State
  | [] => s
  | x :: xs => State.plainWrite (s.physPut x.2.1 x.2.2) xs

/-- Write bytes of one access at their homes: each line once, and targets that are not cached directly; the largest stamp. -/
def State.writeList (s : State) (die ctx tc floor : Nat) (xs : VaBytes) : State × Nat :=
  let cs := xs.filter fun x => s.cached x.2.1
  let us := xs.filter fun x => !s.cached x.2.1
  let (s1, w) := linesWrite die tc floor ctx cs ((cs.map fun x => (s.keyOf ctx x.1).1).dedup) s
  (s1.plainWrite us, if us.isEmpty then w else max w (max tc floor))

/-- WTS of the line that holds an address, as its home reads it; a line that its set could not keep brings a time past every lease of
the die. -/
def State.lineWts (s : State) (ctx va : Nat) : Nat :=
  match s.line? (s.keyOf ctx va).1 with
  | none => s.dieTime (sliceDie (s.homeOf (s.keyOf ctx va).1))
  | some l => stampRead (s.epochOf (sliceDie (s.homeOf l.key))) l.wts

/-- The logical time that a read made for an agent of a die brings it (R329): WTS of the line the die sees, or, where the read is
performed at another die's home or at a target that is not cached, a time past every lease of the die (log entry 85). -/
def State.readTime (s : State) (die ctx va pa : Nat) (atHome : Bool) : Nat :=
  let k := (s.keyOf ctx va).1
  if !s.cached pa then s.dieTime die
  else if sliceDie (s.homeOf k) == die then s.lineWts ctx va
  else match s.proxy? k die with
    | some l => if atHome then s.dieTime die else stampRead (s.epochOf die) l.wts
    | none => s.dieTime die

/-- The largest time of the bytes of a read. -/
def State.readTimes (s : State) (die ctx : Nat) (vas : List (Option Nat)) : Nat :=
  maxOf (vas.filterMap fun v => match v with
    | none => none
    | some va => match s.walkPa ctx va with
      | none => none
      | some pa => some (s.readTime die ctx va pa false))

/-- A unit's group waits for what it watches (R337, R338): it reads again before 1,024 cycles have passed. -/
def State.wakeGroup (s : State) (u g : Nat) : State :=
  (s.modUnit u fun U => if U.st == .saved then { U with eligible := true } else U).modGroup u g fun G =>
    if G.st == .waiting .waitc then { G with wcPoll := true, wakeBy := if G.wakeBy == 0 then s.clock + 1023 else G.wakeBy } else G

/-- A queue that waits on the signal evaluates it again (R388). -/
def State.wakeQueue (s : State) (q : Nat) : State :=
  s.modQueue q fun (Q : Queue) =>
    if Q.wait.isSome && !Q.woken then
      { Q with woken := true, wakeBy := if Q.wakeBy == 0 then s.clock + 1023 else min Q.wakeBy (s.clock + 1023) }
    else Q

/-- The watched completion signal of a running launch has become negative (R376). -/
def State.wakeLaunch (s : State) (id : DWord) (pa : Nat) : State :=
  if bitsAt (s.physNat pa 8) 63 1 == 1 then s.modLaunch id fun L => { L with sigAbort := true } else s

/-- Wake the watcher of a word. -/
def State.wake (s : State) (w : Watcher) (pa : Nat) : State :=
  match w with
  | .group u g => s.wakeGroup u g
  | .queue q => s.wakeQueue q
  | .launch id => s.wakeLaunch id pa

/-- Wake whoever watches a word of the written range (R132, R337, R376, R388). -/
def wakeMons (pa n : Nat) : List Monitor → State → State
  | [], s => s
  | m :: ms, s =>
    wakeMons pa n ms (match s.walkPa m.ctx m.va with
      | some p => if p / 8 * 8 < pa + n ∧ pa < p / 8 * 8 + 8 then s.wake m.who (p / 8 * 8) else s
      | none => s)

/-- The shape word of a launch that awaits bind-off sets VALID: the device takes COUNT from the first such write (R179,
R280). -/
def State.shapeWatch (s : State) : State :=
  { s with launches := s.launches.map fun (L : Launch) =>
      if L.shape == 0 || L.done || L.trueCount.isSome then L
      else match s.walkPa L.ctx L.shape.toNat with
        | none => L
        | some pa =>
          let w := s.physNat pa 8
          if bitsAt w 63 1 == 1 then { L with trueCount := some (bitsAt w 0 32) } else L }

/-- Pages of a range are no longer clean: `dirtyAt` holds, one more, the cycle at which a reserved page was found clean (R481). -/
def State.unclean (s : State) (pa n : Nat) : State :=
  { s with dirtyAt := spSet 0 (spSet 0 s.dirtyAt (pa / 4096) 0) ((pa + n - 1) / 4096) 0 }

/-- A context stands: one of its queues is enabled, or its descriptor has ENABLED (R369, R406; log entry 32). -/
def State.ctxLives (s : State) (ctx : Nat) : Bool :=
  (s.queues.any fun Q => Q.enabled && Q.ctx == ctx) || bitsAt (s.physNat (s.ctxDesc ctx + 8) 4) 0 1 == 1

/-- The swatch entries of destroyed contexts are cleared (R369). -/
def State.contextWatch (s : State) : State := { s with swatches := s.swatches.filter fun w => s.ctxLives w.ctx }

/-- The die from which a queue's wake comes: the home of its WIDX. -/
def State.wakeDie (s : State) (Q : Queue) : Nat := sliceDie (s.homeOf (s.keyOf Q.ctx Q.notify.toNat).1)

/-- The snoop filter: a write at the WIDX line of an enabled queue without a slot sends a wake to the scheduler; while the flow is full
the wake stays to be sent (R381, R442). -/
def State.widxWatch (s : State) (pa n : Nat) : State :=
  (s.queues.filter fun Q => Q.enabled && Q.die.isNone && Q.wakePkt.isNone && Q.error.isNone).foldl (fun t Q =>
    match t.walkPa Q.ctx Q.notify.toNat with
    | none => t
    | some a =>
      if a / 64 * 64 < pa + n ∧ pa < a / 64 * 64 + 64 then
        if t.flowFull (t.wakeDie Q) (Config.schedulerDie % 4) 3 then t
        else
          let (p, t1) := t.sendPkt (t.wakeDie Q) (Config.schedulerDie % 4) 3
          t1.modQueue Q.n fun (x : Queue) => { x with wakePkt := p }
      else t) s

/-- What follows a write performed at the home: monitors wake, a shape word takes effect, a context may have been destroyed, a queue
without a slot asks for one (R132, R179, R369, R381). -/
def State.wrote (s : State) (pa n : Nat) : State :=
  (((wakeMons pa n s.monitors (s.unclean pa n)).shapeWatch).contextWatch).widxWatch pa n

/-- Tentative bytes of a unit over bytes read through a key (R277). -/
def tentOver (tls : List TentLine) (u : Nat) (k : Key) (o : Nat) (bs : List Byte) : List Byte :=
  match tls.find? fun t => t.unit == u && t.key == k with
  | none => bs
  | some t => bs.zipIdx.map fun (b, i) => match t.data.find? fun d => d.1 == o + i with
    | some d => d.2
    | none => b

/-- The context has registered tensors, so that neighbouring bytes may lie in different lines. -/
def State.tensored (s : State) (ctx : Nat) : Bool := s.tensors.any fun t => t.ctx == ctx

/-- Bytes from an address on that surely lie in one line, at most `n`. -/
def State.pieceLen (s : State) (ctx va n : Nat) : Nat := if s.tensored ctx then 1 else min n (256 - va % 256)

/-- Tentative bytes of the unit that reads, where one reads (R135, R277). -/
def State.overlay (s : State) (u : Option Nat) (ctx va : Nat) (bs : List Byte) : List Byte :=
  match u with
  | none => bs
  | some u => tentOver s.tent u (s.keyOf ctx va).1 (s.keyOf ctx va).2 bs

/-- Read `n` bytes of one page: line by line, over the reading unit's tentative bytes; `fuel` bounds the pieces. -/
def spanRead (die ctx : Nat) (u : Option Nat) : Nat → Nat → Nat → Nat → State → List Byte × State
  | 0, _, _, _, s => ([], s)
  | fuel + 1, va, pa, n, s =>
    if n = 0 then ([], s)
    else
      let m := s.pieceLen ctx va n
      let (bs, s1) := s.homeRead die ctx va pa m
      let (rest, s2) := spanRead die ctx u fuel (va + m) (pa + m) (n - m) s1
      (s1.overlay u ctx va bs ++ rest, s2)

/-- Read `n` bytes of one page. -/
def State.readPage (s : State) (die ctx : Nat) (u : Option Nat) (va pa n : Nat) : List Byte × State :=
  spanRead die ctx u n va pa n s

/-- Write bytes of one page that lie one after the other. -/
def State.writePage (s : State) (die ctx va pa tc floor : Nat) (bs : List Byte) : State × Nat :=
  s.writeList die ctx tc floor (bs.zipIdx.map fun (b, i) => (va + i, pa + i, b))

/-- A die's reads of a line travel over a failed link: it holds no proxy copy (R439, R443). -/
def State.cutRead (s : State) (die ctx va pa : Nat) : Bool :=
  !s.failedDies.isEmpty && s.cached pa && s.cutDies die (sliceDie (s.homeOf (s.keyOf ctx va).1)) &&
    (s.proxy? (s.keyOf ctx va).1 die).isNone
/-- An invalidation that covers an address of a die's line waits on a failed link (R439, R443, R454). -/
def State.cutInval (s : State) (home pa : Nat) : Bool :=
  s.invals.any fun v => decide (v.base ≤ pa ∧ pa < v.base + v.size) && match v.target with
    | .die n => s.cutDies home n
    | .peer _ => (List.range 18).all fun i => s.portFailed (2 + i)
    | .host => s.portFailed 0 && s.portFailed 1
/-- A die's write to a line, or an invalidation it needs, travels over a failed link (R439, R443). -/
def State.cutWrite (s : State) (die ctx va pa : Nat) : Bool :=
  !(s.failedDies.isEmpty && s.failedFlows.isEmpty) && s.cached pa &&
    let home := sliceDie (s.homeOf (s.keyOf ctx va).1)
    s.cutDies die home || s.cutInval home pa

/-- Data of a range cannot be had: an uncorrectable sector lies in it, or its target is cut off (R434, R443). -/
def State.uncorrIn (s : State) (pa n : Nat) : Bool :=
  (s.uncorr.any fun x => decide (pa / 32 ≤ x ∧ x ≤ (pa + n - 1) / 32)) || s.cutPa pa

/-- One byte of a tentative unit's write, in the tentative line of its key (R277, R306). -/
def State.tentByte (s : State) (u ctx : Nat) (b : Nat × Byte) : State :=
  let (k, o) := s.keyOf ctx b.1
  match s.tent.find? fun t => t.unit == u && t.key == k with
  | some _ => { s with tent := s.tent.map fun t => if t.unit == u && t.key == k then
      { t with data := (o, b.2) :: t.data.filter fun x => x.1 != o } else t }
  | none =>
    let s1 := (s.makeRoom (s.homeOf k) k.set).getD s
    { s1 with tent := ⟨u, k, [(o, b.2)]⟩ :: s1.tent }

/-- A tentative unit's write (R277). -/
def State.tentWrite (s : State) (u ctx : Nat) (bs : List (Nat × Byte)) : State := bs.foldl (fun t b => t.tentByte u ctx b) s

/-- Tentative lines that a write of bytes at these addresses adds, each once. -/
def State.tentNew (s : State) (u ctx : Nat) (vas : List Nat) : List Key :=
  ((vas.map fun va => (s.keyOf ctx va).1).dedup).filter fun k => !s.tent.any fun t => t.unit == u && t.key == k

/-- Ways of a set that a tentative line cannot take: those of tentative and of locked lines (R213, R277, R301). -/
def State.setFixed (s : State) (sl st : Nat) : Nat :=
  (s.tent.filter fun t => s.homeOf t.key == sl && t.key.set == st).length +
    (s.lines.filter fun l => s.sliceOf l.name == sl && l.key.set == st && l.lock.isSome).length

/-- A tentative write fits the shares of its home slices and their sets: all its new lines together (R277, R299, R311). -/
def State.tentFits (s : State) (u ctx : Nat) (vas : List Nat) : Bool :=
  let new := s.tentNew u ctx vas
  new.all fun k =>
    let mine := new.filter fun k' => s.homeOf k' == s.homeOf k
    decide ((s.tent.filter fun t => s.homeOf t.key == s.homeOf k).length + mine.length ≤ Config.sliceTentative ∧
      s.setFixed (s.homeOf k) k.set + (mine.filter fun k' => k'.set == k.set).length ≤ Config.sliceWays)

/-! ### Directories (R440, R454) -/

/-- Dies whose proxy copies a write must invalidate: every die the region marks, where it marks one other than the writer's
(R440). -/
def State.proxiesOf (s : State) (k : Key) (pa die : Nat) : List Nat :=
  match s.regions.find? fun r => r.die == sliceDie (s.homeOf k) && r.covers pa with
  | none => []
  | some r => if r.present.any (· != die) then r.present else []

/-- Sharers of a 2 KiB region that a write must invalidate first (R447, R454): peers other than the writer, and the host
unless it writes itself. -/
def State.sharersOf (s : State) (pa : Nat) (writer : Option Nat) (byHost : Bool) : List InvTarget :=
  match s.peers.find? fun p => p.base == pa / 2048 * 2048 with
  | none => []
  | some p =>
    let (_, n, self) := s.peerCfg
    let ids := if p.coarse then (List.range n).filter (· != self) else p.sharers
    ((ids.filter fun i => some i != writer).map .peer) ++ (if p.host && !byHost then [.host] else [])

/-- Where a target's invalidation travels to: a die, a UALink port, a host port (R442). -/
def InvTarget.port : InvTarget → Nat
  | .die n => n
  | .peer _ => 6
  | .host => 4

/-- Send invalidations of a range from a home die, each in its flow (R442); a home's own copies need no packet. -/
def sendInvs (home base size : Nat) : List InvTarget → State → State
  | [], s => s
  | t :: ts, s =>
    let (p, s1) := s.sendPkt home t.port 2
    sendInvs home base size ts { s1 with invals := s1.invals ++ [⟨s1.nextId, t, base, size, p⟩], nextId := s1.nextId + 1 }

/-- The class 2 flows from a home to targets have room for an invalidation each; a sender waits until they have (R442). -/
def State.invRoom (s : State) (home : Nat) (ts : List InvTarget) : Bool := s.flowsRoom home 2 (ts.map InvTarget.port)

/-- Invalidate a region's marked copies of an address, splitting it (R440). -/
def State.regionInval (s : State) (pa : Nat) (r : Region) : State :=
  let halves := splitRegion r pa s.clock
  let hit : Region := (halves.find? fun (x : Region) => x.covers pa).getD r
  sendInvs r.die hit.base hit.size (r.present.map .die)
    { s with regions := halves ++ s.regions.filter fun (x : Region) => !r.same x }

/-- Invalidate the sharers of a 2 KiB region, whose entry goes (R454). -/
def State.peerInval (s : State) (home pa : Nat) (sh : List InvTarget) : State :=
  sendInvs home (pa / 2048 * 2048) 2048 sh { s with peers := s.peers.filter fun p => p.base != pa / 2048 * 2048 }

/-- Start the invalidation round a write needs, once its home slice is awake (R438 to R440, R454, R455); false where it needs none. It
waits while a flow that it needs is full (R442). -/
def State.startInval (s0 : State) (k : Key) (pa die : Nat) (writer : Option Nat) (byHost : Bool) : Bool × State :=
  let s := s0.touchSlice (s0.homeOf k)
  let home := sliceDie (s.homeOf k)
  let ds := s.proxiesOf k pa die
  let sh := s.sharersOf pa writer byHost
  if !s.invRoom home (ds.map .die ++ sh) then (true, s)
  else
    let s1 := if ds.isEmpty then s else match s.regions.find? fun r => r.die == home && r.covers pa with
      | some r => s.regionInval pa r
      | none => s
    (!(ds.isEmpty && sh.isEmpty), if sh.isEmpty then s1 else s1.peerInval home pa sh)

/-- An invalidation round that covers an address has not been acknowledged: writes wait for it (R439, R440, R454). -/
def State.invalPending (s : State) (pa : Nat) : Bool := s.invals.any fun v => decide (v.base ≤ pa ∧ pa < v.base + v.size)

/-- A held page: its writes wait while a migration moves it (R478). -/
def State.heldPage (s : State) (pa : Nat) : Bool :=
  s.migrations.any fun m => decide (m.old ≤ pa ∧ pa < m.old + (if m.large then 2097152 else 65536))

end Sys2Proof.Machine
end

