-- ==== Sys2Proof/Machine/Proxy.lean ====
section
/-! DEFINITION. Proxy copies of lines homed on another die, and the region directory that records them (R439 to R441, R455). -/

namespace Sys2Proof.Machine

open Sys2Proof

/-! ### The region directory (R440) -/

/-- A directory's entries. -/
def State.regionsOf (s : State) (home : Nat) : List Region := s.regions.filter (·.die == home)

/-- The entry with the oldest last invalidation. -/
def oldestRegion : List Region → Option Region
  | [] => none
  | r :: rs => match oldestRegion rs with
    | none => some r
    | some x => some (if r.lastInv ≤ x.lastInv then r else x)

/-- Remove an entry; its copies are to be invalidated first (R440). It waits while a flow that it needs is full (R442). -/
def State.evictRegion (s : State) (r : Region) : State :=
  if !s.invRoom r.die (r.present.map .die) then s
  else sendInvs r.die r.base r.size (r.present.map .die) { s with regions := s.regions.filter fun (x : Region) => !r.same x }

/-- The largest region of at most 64 KiB around an address that overlaps no entry; `k` counts down. -/
def newRegion (home pa clock die : Nat) (rs : List Region) : Nat → Region
  | 0 => ⟨home, pa / 256 * 256, 0, [die], clock⟩
  | k + 1 =>
    let size := 256 * 2 ^ (k + 1)
    let base := pa / size * size
    if rs.all fun r => !meets r.base r.size base size then ⟨home, base, k + 1, [die], clock⟩
    else newRegion home pa clock die rs k

/-- Record a die's proxy copy of an address: false where an entry must first be evicted (R440). -/
def State.markRegion (s : State) (home pa die : Nat) : Bool × State :=
  match (s.regionsOf home).find? fun r => r.covers pa with
  | some r =>
    let set (x : Region) : Region :=
      if Region.same r x && !x.present.contains die then { x with present := x.present ++ [die] } else x
    (true, { s with regions := s.regions.map set })
  | none =>
    if (s.regionsOf home).length < 262144 then
      (true, { s with regions := s.regions ++ [newRegion home pa s.clock die (s.regionsOf home) 8] })
    else match oldestRegion (s.regionsOf home) with
      | some r => (false, s.evictRegion r)
      | none => (false, s)

/-- Record a proxy copy for every stretch of a line. -/
def markSegs (home die : Nat) : List (Nat × Nat × Nat) → State → Bool × State
  | [], s => (true, s)
  | g :: gs, s => match s.markRegion home g.2.2 die with
    | (true, s1) => markSegs home die gs s1
    | (false, s1) => (false, s1)

/-! ### Proxy copies (R439, R441) -/

/-- A copy comes to the slice of its die that the restricted interleave names, where the set takes it (R439). -/
def State.addProxy (s : State) (copy : Line) : Option State :=
  let sl := s.sliceOf copy.name
  ((s.touchSlice sl).makeRoom sl copy.key.set).map fun s1 =>
    let s2 := s1.touchLine copy.name
    { s2 with lines := copy :: s2.lines }

/-- A line's home would have to fill it from outside the device, and waits for the hold or for room in the flow (R437, R442). -/
def State.homeHeld (s : State) (k : Key) (segs : List (Nat × Nat × Nat)) : Bool :=
  let home := sliceDie (s.homeOf k)
  (s.line? k).isNone && match segs with
    | [] => false
    | g :: _ => s.outside g.2.2 && (!s.ptFits home (s.ptAfter home 1) || !s.flowRoom home (s.linkPort g.2.2) 0 1)

/-- A proxy fill waits behind locks and invalidations of the line, behind the hold, or for room in a flow (R213, R437, R442, R455). -/
def State.proxyWaits (s : State) (k : Key) (die : Nat) (segs : List (Nat × Nat × Nat)) : Bool :=
  !s.ptFits die (s.ptAfter die 1) || s.flowFull die (sliceDie (s.homeOf k)) 0 || s.homeHeld k segs ||
    segs.any fun g => s.lockedPa g.2.2 g.2.1 || s.invals.any fun v => meets v.base v.size g.2.2 g.2.1

/-- The request of a proxy fill reaches the home: it travels in a flow, and counts as an event of page heat (R442, R475). -/
def State.askHome (s : State) (k : Key) (die : Nat) (segs : List (Nat × Nat × Nat)) : State :=
  let s1 := s.passPkts die 0 [sliceDie (s.homeOf k)]
  match segs with
  | [] => s1
  | g :: _ => s1.heat (s1.homeOf k) g.2.2

/-- A slice of a die takes a proxy copy of a line homed on another die, unless it has to wait; the home's directory records it and the
copy takes its stamps from PT (R439 to R441, R455). The data come back in a packet of class 0 (R442). A set that takes no line more gets
none. -/
def State.proxyFill (s : State) (die : Nat) (k : Key) : State :=
  let home := sliceDie (s.homeOf k)
  let segs := match s.line? k with
    | some l => l.segs
    | none => s.lineSegs k none
  if 4 ≤ die || home == die || (s.proxy? k die).isSome || s.cutDies die home || segs.isEmpty || s.proxyWaits k die segs then s
  else
    let (s1, l) := (s.askHome k die segs).fill k none
    match markSegs home die l.segs s1 with
      | (false, s2) => s2
      | (true, s2) =>
        let pt := s2.ptAfter die 1
        let copy : Line := { l with proxy := true, die := die, dirty := [], rts := pt, wts := pt, lock := none }
        match s2.addProxy copy with
        | some s3 => (s3.setPt die pt).backPkts die 0 [home]
        | none => s

end Sys2Proof.Machine
end

