-- ==== Sys2Proof/Machine/Control.lean ====
section
/-! DEFINITION. Branches, divergence, barriers, waits and no-ops, OP 0x90 to 0x9B (R95 to R105), over the split table
(R254 to R256). -/

namespace Sys2Proof.Machine

open Sys2Proof

/-! ### Slots (R14, R95, R254) -/

/-- The slot that slot indices of a group count from: the entry slot, and the handler's in supervisor state (log entry
21). -/
def State.textBase (s : State) (U : Unit) (G : Group) : DWord := if G.sup then s.handler U.ctx else U.entry
/-- Slot index of an address, as a split-table entry holds it. DESIGN CHOICE (log entry 114): an address between two slots counted from the
entry slot has the index of the lower one. -/
def slotIdx (base pc : DWord) : BitVec 16 := BitVec.ofNat 16 ((pc - base).toNat / 12)
/-- Address of a slot index. -/
def slotAddr (base : DWord) (i : BitVec 16) : DWord := base + 12 * i.setWidth 64
/-- Target of a branch: a signed count of slots from the slot after it (R14). -/
def branchTo (pc : DWord) (off : Int) : DWord := pc + 12 + BitVec.ofInt 64 (12 * off)

/-- SplitPush (R254): the list's head is the most recent entry. -/
def Group.splitPush (G : Group) (mask : Word) (target join : BitVec 16) : Group :=
  { G with split := ⟨join, target, mask⟩ :: G.split }

/-! ### BRA, BRX, JOIN, EXIT (R96 to R99) -/

/-- BRA's effect on the mask, the table and the PC (R96). -/
def Group.bra (G : Group) (base : DWord) (taken : Word) (target join : DWord) : Group :=
  if taken == 0 then G.adv
  else if G.mask &&& ~~~taken == 0 then { G with pc := target }
  else { (G.splitPush taken (slotIdx base target) (slotIdx base join)).adv with mask := G.mask &&& ~~~taken }

/-- BRA (R96). -/
def execBra (h : Hd) (join : BitVec 16) (off : Word) (s : State) : Out :=
  issue [] s fun u g U G =>
    let taken := maskOf (activeLanes (s.env U G) G.regs h)
    .next (s.modGroup u g fun H =>
      (H.done h s.clock).bra (s.textBase U G) taken (branchTo G.pc off.toInt) (branchTo G.pc join.toInt))

/-- Lanes grouped by equal slot index, the set of the lowest lane first; `fuel` bounds the number of sets. -/
def brxSets : Nat → List (Nat × Nat) → List (Nat × List Nat)
  | 0, _ => []
  | _, [] => []
  | n + 1, (l, t) :: r =>
    (t, l :: (r.filter fun x => x.2 == t).map (·.1)) :: brxSets n (r.filter fun x => x.2 != t)

/-- BRX's effect: the first set continues, the others are pushed so that the set of the lowest lane is the most recent
(R98). -/
def Group.brx (G : Group) (base : DWord) (join : DWord) (sets : List (Nat × List Nat)) : Group :=
  match sets with
  | [] => G.adv
  | (t, ls) :: rest =>
    let G1 := rest.foldr (fun x H => H.splitPush (maskOf x.2) (BitVec.ofNat 16 x.1) (slotIdx base join)) G
    { G1 with mask := maskOf ls, pc := base + BitVec.ofNat 64 (12 * t) }

/-- BRX (R95, R98). -/
def execBrx (h : Hd) (a : Opnd) (join : Word) (s : State) : Out :=
  issue [(a, 1)] s fun u g U G =>
    let e := s.env U G
    let r := G.regs
    let base := s.textBase U G
    let act := activeLanes e r h
    let bad := act.filter fun l => 65536 ≤ rd32 e r a l
    match act, bad with
    | [], _ => .next (s.finish u g h)
    | _, b :: _ =>
      .next (s.takeTrap u g ⟨6, base + BitVec.ofNat 64 (12 * rd32 e r a b), maskOf bad, G.pc, none⟩)
    | _, [] =>
      let next := (slotIdx base (G.pc + 12)).toNat
      let all := (List.range e.lanes).filter fun l => e.mask.getLsbD l
      let sets := brxSets e.lanes (all.map fun l => (l, if act.contains l then rd32 e r a l else next))
      .next (s.modGroup u g fun H => (H.done h s.clock).brx base (branchTo G.pc join.toInt) sets)

/-- The group has no split-table entry of its own: in its handler, those of the interrupted code do not count, for the handler cannot
disturb them (R255). -/
def Group.noEntry (G : Group) : Bool := decide (G.split.length ≤ if G.sup then G.tdepth else 0)

/-- JOIN's effect at slot J (R97): after a merge, JOIN runs again. -/
def Group.joinAt (G : Group) (base : DWord) : Group :=
  let J := slotIdx base G.pc
  match G.split with
  | [] => G.adv
  | e :: r =>
    if G.noEntry || e.join != J then G.adv
    else if e.target != J then
      { G with split := ⟨J, J, G.mask⟩ :: r, mask := e.mask, pc := slotAddr base e.target }
    else { G with split := r, mask := G.mask ||| e.mask }
/-- JOIN (R97). -/
def execJoin (h : Hd) (s : State) : Out :=
  issue [] s fun u g U G => .next (s.modGroup u g fun H => (H.done h s.clock).joinAt (s.textBase U G))

/-- EXIT's effect: lanes leave; an empty mask pops the table; an empty table ends the group (R99). DESIGN CHOICE (log entry 92): in a
handler whose own entries are used up, the pop takes the interrupted code's entry, its slot counted from the handler's entry slot. -/
def Group.exitLanes (G : Group) (base : DWord) (gone : Word) : Group :=
  let m := G.mask &&& ~~~gone
  if m != 0 then { G.adv with mask := m }
  else match G.split with
    | [] => { G with mask := 0, st := .ended }
    | e :: r => { G with split := r, mask := e.mask, pc := slotAddr base e.target }
/-- EXIT (R99). -/
def execExit (h : Hd) (s : State) : Out :=
  issue [] s fun u g U G =>
    let gone := maskOf (activeLanes (s.env U G) G.regs h)
    .next ((s.modGroup u g fun H => (H.done h s.clock).exitLanes (s.textBase U G) gone).barCheck u)

/-! ### CALL, RET, LOOP (R100, R101) -/

/-- CALL: the return slot goes to aD (R100). -/
def execCall (h : Hd) (ind : Bool) (d a : Opnd) (off : Word) (s : State) : Out :=
  issue [] s fun u g U G =>
    let target := if ind then BitVec.ofNat 64 (rd64 (s.env U G) G.regs a 0) else branchTo G.pc off.toInt
    .next ((s.modGroup u g fun H =>
      H.putRegs (H.regs.putAddr d.idx.toNat (H.pc + 12).toNat)).finishAt u g h target)
/-- RET (R100). -/
def execRet (h : Hd) (x : Ops4) (s : State) : Out :=
  issue [] s fun u g U G => .next (s.finishAt u g h (BitVec.ofNat 64 (rd64 (s.env U G) G.regs x.a 0)))
/-- LOOP (R101). -/
def execLoop (h : Hd) (d : Opnd) (off : Word) (s : State) : Out :=
  issue [(d, 1)] s fun u g U G =>
    let n : Word := BitVec.ofNat 32 (rd32 (s.env U G) G.regs d 0) - 1
    .next ((s.modGroup u g fun H => H.putRegs (H.regs.putScal false d.idx.toNat n.toNat)).finishAt u g h
      (if n == 0 then G.pc + 12 else branchTo G.pc off.toInt))

/-! ### BAR, GSYNC, SLEEP, YIELD, NOP (R102 to R105) -/

/-- Load sectors of a group that have not returned (R115). -/
def State.outLoads (s : State) (u g : Nat) : Nat := (s.loads.filter fun p => p.unit == u && p.grp == g).length
/-- Writes of a group that have not been acknowledged: stores, and reductions not yet performed (R115, R125). -/
def State.unacked (s : State) (u g : Nat) : Nat :=
  (s.stores.filter fun p => p.unit == u && p.grp == g).length +
    (s.reqs.filter fun q => q.unit == u && q.grp == g && q.kind == .red && !q.performed && !q.ext && q.core < 4096).length

/-- An acquire read of the group has not returned, so that no later access may be performed (R319). -/
def State.acqBlocked (s : State) (u g : Nat) : Bool :=
  (s.loads.any fun p => p.unit == u && p.grp == g && p.acq) ||
    (s.reqs.any fun q => q.unit == u && q.grp == g && q.core < 4096 && q.ord != 0 && q.kind != .red && !q.replied)

/-- Atomics of a group whose reply has not arrived. -/
def State.awaitsReply (s : State) (u g : Nat) : Bool :=
  s.reqs.any fun q => q.unit == u && q.grp == g && q.core < 4096 && q.kind != .red && !q.replied

/-- Every earlier read of the group has returned and every earlier write is acknowledged (R319, R325). A release waits for it too:
the group's earlier reads happen before it (R321, R322; log entry 89). -/
def State.quiet (s : State) (u g : Nat) : Bool := s.outLoads u g == 0 && s.unacked u g == 0 && !s.awaitsReply u g

/-- A group arrives at the unit barrier (R102). -/
def State.barArrive (s : State) (u g : Nat) : State :=
  s.modUnit u fun U => { U with barArr := g :: U.barArr }

/-- BAR.sync: a release, then a wait (R102, R319, R321). -/
def execBarSync (h : Hd) (s : State) : Out :=
  issue [] s fun u g U _ =>
    if U.barArr.contains g || !s.quiet u g then .next (s.stall u g)
    else .next (((s.modGroup u g fun H => { H.done h s.clock with st := .waiting .barSync }).barArrive u g).barCheck u)
/-- BAR.arrive: a release (R102, R319, R321). -/
def execBarArrive (h : Hd) (s : State) : Out :=
  issue [] s fun u g U _ =>
    if U.barArr.contains g || !s.quiet u g then .next (s.stall u g)
    else .next (((s.finish u g h).barArrive u g).barCheck u)
/-- YIELD (R104). -/
def execYield (h : Hd) (s : State) : Out := issue [] s fun u g _ _ => .next (s.finish u g { h with yld := true })
/-- NOP (R104). -/
def execNop (h : Hd) (s : State) : Out := issue [] s fun u g _ _ => .next (s.finish u g h)

/-- SLEEP: the group is ready again no earlier than b cycles after issue (R105). -/
def execSleep (h : Hd) (x : Ops4) (s : State) : Out :=
  issue [(x.b, 1)] s fun u g U G =>
    match activeLanes (s.env U G) G.regs h with
    | [] => .next (s.finish u g h)
    | l :: _ =>
      let b := min (rd32 (s.env U G) G.regs x.b l) 1048576
      .next ((s.finish u g h).modGroup u g fun H => { H with st := .waiting .sleep, sleepUntil := s.clock + b })

/-- GSYNC: until every load has returned and every write is acknowledged (R103); a returning atomic in flight counts as both, as
R325 says of every earlier load and write (log entry 90). -/
def execGsync (h : Hd) (s : State) : Out :=
  issue [] s fun u g _ _ =>
    if s.quiet u g then .next (s.finish u g h) else .next (s.waitAt u g .gsync)

end Sys2Proof.Machine
end

