-- ==== Sys2Proof/Machine/Access.lean ====
section
/-! DEFINITION. What the memory instructions share: lane addresses (R30, R112), the checks of step 6 of R20 (R21, R36, R481,
R490), L1 sectors (R296 to R298), and fences and the waits that ordering asks for (R319, R323 to R325, R329). -/

namespace Sys2Proof.Machine

open Sys2Proof

/-! ### Lane addresses -/

/-- Bytes of a SIZE (R30). -/
def sizeBytes : Size → Nat
  | .b8 => 1 | .b16 => 2 | .b32 => 4 | .b64 => 8 | .b128 => 16
/-- Registers of a value of a SIZE. -/
def sizeRegs : Size → Nat
  | .b8 | .b16 | .b32 => 1
  | .b64 => 2
  | .b128 => 4
/-- SCOPE code (R30). -/
def scopeCode (x : Scope) : Nat := x.code.toNat
/-- The byte offset of C. -/
def offOf (o : Opnd) : Int := if o.cls == .simm then sext 12 o.idx.toNat else 0
/-- The effective address of a lane (R30). -/
def laneEa (e : Env) (r : Regs) (a b : Opnd) (off : Int) (bytes l : Nat) : Nat :=
  patOf 64 ((rd64 e r a l : Int) + sext 32 (rd32 e r b l) * bytes + off)
/-- A uniform access is made once, in the lowest active lane (R112). -/
def accessLanes (uniform : Bool) (act : List Nat) : List Nat := if uniform then act.take 1 else act
/-- The address of a group-wide memory operand: aA plus the offset of C (R144, R161). -/
def groupEa (r : Regs) (a c : Opnd) : Nat := patOf 64 ((r.addr a.idx.toNat : Int) + offOf c)

/-! ### Requests that service programs hold (R461) -/

/-- The address of a request is physical: a peer's or a service program's own (R454; log entry 22). -/
def State.reqPhys (s : State) (q : Req) : Bool := q.ext || match s.units[q.unit]? with
  | some U => U.svc
  | none => false

/-- The physical address of a request. -/
def State.reqPa (s : State) (q : Req) : Option Nat := if s.reqPhys q then some (s.pa52 q.va) else s.walkPa q.ctx q.va

/-- The request at a physical address that a service program holds. -/
def State.svcReq (s : State) (pa : Nat) : Option Req := s.reqs.find? fun q => q.index.isSome && !q.performed && s.reqPa q == some pa

/-- The launch charged for a service program's access to an address (R434). -/
def State.svcLaunch (s : State) (pa : Nat) : DWord := match s.svcReq pa with
  | some q => q.launch
  | none => 0

/-- The unit whose request a service program serves at an address; a free value where it serves none (R421; log entry 1). -/
def State.svcUnitIdx (s : State) (pa : Nat) : Nat × State :=
  match (s.svcReq pa).bind fun q => s.units[q.unit]? with
  | some V => (V.idx, s)
  | none => (s.freeVal.1.toNat % 2 ^ 32, s.freeVal.2)

/-- A service group's write into a page whose chunks the ring cannot supply: its record comes from the compression path, beside the KIND 4
event, and the group stalls in place until the replay (R414, R420, R481). -/
def State.noChunks (s : State) (u g : Nat) (U : Unit) (pa : Nat) : State :=
  let (idx, s1) := s.svcUnitIdx pa
  match s1.post (dieOf U.core) ⟨BitVec.ofNat 64 pa, U.ctx, 8, 6, 1, 1, 0, s.svcLaunch pa, idx, U.core % 512, 0, 0⟩ (.group u g) with
  | none => s.modGroup u g fun G => { G with st := .stalled }
  | some (s2, seq) =>
    (s2.reserveFailed U.ctx pa).modGroup u g fun G => { G with st := .parked, parkedOn := some (dieOf U.core, seq) }

/-! ### Checks of step 6 (R20, R21) -/

/-- A lane that raises a cause. -/
structure LaneFail where
  lane : Nat
  cause : Nat
  ea : Nat
  walk : Option WalkInfo
  pa : Nat
  deriving DecidableEq, Repr

/-- A lane whose access may be made. -/
structure LaneOk where
  lane : Nat
  ea : Nat
  pa : Nat
  deriving DecidableEq, Repr

/-- The lowest cause among failing lanes. -/
def lowestCause : List LaneFail → Nat
  | [] => 0
  | [f] => f.cause
  | f :: fs => min f.cause (lowestCause fs)

/-- The trap of failing lanes: the lowest cause, its lanes, and the address of the lowest of them (R21). -/
def laneTrap (G : Group) (fs : List LaneFail) : Trap :=
  let c := lowestCause fs
  let ls := fs.filter fun f => f.cause == c
  match ls with
  | [] => groupTrap G c 0
  | f :: _ => ⟨c, BitVec.ofNat 64 f.ea, maskOf (ls.map (·.lane)), G.pc, f.walk⟩

/-- A lane's walk has to wait: the instruction is tried again (R213, R438, R442). -/
def walksWait (fs : List LaneFail) : Bool := fs.any fun f => f.cause == 0

/-- Take the trap of failing lanes; a reservation that failed is posted as an event, and stalls a service group (R481). While a lane's walk
waits the group stalls. -/
def State.trapLanes (s : State) (u g ctx : Nat) (G : Group) (fs : List LaneFail) : Out :=
  if walksWait fs then .next (s.stall u g)
  else match if lowestCause fs == 13 then fs.find? fun f => f.cause == 13 else none with
    | none => .next (s.takeTrap u g (laneTrap G fs))
    | some f => match s.units[u]? with
      | some U => .next (if U.svc then s.noChunks u g U f.pa else (s.reserveFailed ctx f.pa).takeTrap u g (laneTrap G fs))
      | none => .next s

/-- Translate an address for a unit; a service group's addresses are physical (log entry 22). -/
def State.unitTranslate (s : State) (U : Unit) (G : Group) (va : Nat) (acc : Acc) : Except WalkInfo (Nat × State) :=
  if U.svc then .ok (s.pa52 va, s) else s.translate (.core U.core) (dieOf U.core) U.ctx va acc G.sup

/-- Check one lane: alignment, canonical form, translation, the instruction's own check of the target, and the write
reservation of a compressed page (R408, R481). DESIGN CHOICE (log entry 98): the ACC and DIRTY bits and the chunks that a tentative
unit's access sets and reserves here survive its frog. -/
def State.checkLane (s : State) (U : Unit) (G : Group) (align : Nat) (acc : Acc) (extra : State → Nat → Option Nat)
    (lane ea : Nat) : Except LaneFail (LaneOk × State) :=
  if ea % align != 0 then .error ⟨lane, 4, ea, none, 0⟩
  else if !U.svc && !canonical ea then .error ⟨lane, 6, ea, none, 0⟩
  else match s.unitTranslate U G ea acc with
    | .error w => .error ⟨lane, walkCause w.kind, ea, some w, 0⟩
    | .ok (pa, s1) =>
      match extra s1 pa with
      | some c => .error ⟨lane, c, ea, none, pa⟩
      | none =>
        if acc.writes then
          match s1.reserve pa with
          | none => .error ⟨lane, 13, ea, none, pa⟩
          | some s2 => .ok (⟨lane, ea, pa⟩, s2)
        else .ok (⟨lane, ea, pa⟩, s1)

/-- Check every lane before any access is made (R21): the lanes that may access, and those that fail. -/
def checkLanes (U : Unit) (G : Group) (align : Nat) (acc : Acc) (extra : State → Nat → Option Nat) :
    List (Nat × Nat) → State → State × List LaneOk × List LaneFail
  | [], s => (s, [], [])
  | (l, ea) :: r, s =>
    match s.checkLane U G align acc extra l ea with
    | .error f =>
      let (s2, oks, fs) := checkLanes U G align acc extra r s
      (s2, oks, f :: fs)
    | .ok (o, s1) =>
      let (s2, oks, fs) := checkLanes U G align acc extra r s1
      (s2, o :: oks, fs)

/-- Every check passes, or the trap is taken with no other effect. -/
def withLanes (s : State) (u g : Nat) (U : Unit) (G : Group) (align : Nat) (acc : Acc) (extra : State → Nat → Option Nat)
    (eas : List (Nat × Nat)) (k : List LaneOk → State → Out) : Out :=
  match checkLanes U G align acc extra eas s with
  | (s1, oks, []) => k oks s1
  | (_, _, f :: fs) => s.trapLanes u g U.ctx G (f :: fs)

/-- No check of the target beyond translation. -/
def noExtra : State → Nat → Option Nat := fun _ _ => none

/-! ### Ordering (R319, R323, R324, R329) -/

/-- A release fence: the group's later writes take stamps of at least max(TC, RH) (R329). -/
def State.relFence (s : State) (u g core : Nat) : State :=
  s.modGroup u g fun G => { G with relFloor := max G.relFloor (max (s.tcOf core) (s.rhOf core)) }

/-- The other agent lies in the instance of a fence's scope (R314). -/
def ScFence.sees (a b : ScFence) : Bool :=
  match a.scope with
  | 0 => a.unit == b.unit && a.grp == b.grp
  | 1 => a.unit == b.unit
  | 2 => a.cluster == b.cluster
  | _ => true
/-- Two fences are mutually in scope (R315). -/
def ScFence.mutual (a b : ScFence) : Bool := a.sees b && b.sees a

/-- The largest time among fences. -/
def maxTime : List ScFence → Nat
  | [] => 0
  | f :: fs => max f.time (maxTime fs)

/-- FENCE.sc (R323): after every fence mutually in scope that came before it. Its core's time moves past theirs, its own
read horizon and its die's proxy time; at .dev and .sys, where the others may stand on other dies, past every lease of its die
(log entry 85). -/
def State.scFence (s : State) (u g core scope : Nat) : State :=
  let me : ScFence := ⟨u, g, clusterOf core, scope, 0⟩
  let seen := maxTime (s.scs.filter me.mutual)
  let far := if 3 ≤ scope then s.dieTime (dieOf core) else s.ptOf (dieOf core)
  let s1 := s.tcRaise core (max (max (s.rhOf core) far) seen)
  let s2 := s1.relFence u g core
  { s2 with scs := { me with time := s2.tcOf core } :: s2.scs.filter fun f =>
      !(f.unit == u && f.grp == g && f.scope == scope && f.cluster == me.cluster) }

/-! ### The tile cache's counters (R212) -/

/-- Keys of the lines that hold a range, each once. -/
def State.keysOf (s : State) (ctx va n : Nat) : List Key :=
  if s.tensored ctx then ((List.range n).map fun i => (s.keyOf ctx (va + i)).1).dedup else [(s.keyOf ctx va).1]

/-- The die holds the lines of a range, at home or as proxies (R212). -/
def State.presentRange (s : State) (die ctx va n : Nat) : Bool :=
  (s.keysOf ctx va n).all fun k => (s.proxy? k die).isSome || (sliceDie (s.homeOf k) == die && (s.line? k).isSome)

/-- The lines of a range are held at their homes. -/
def State.homeHolds (s : State) (ctx va n : Nat) : Bool := (s.keysOf ctx va n).all fun k => (s.line? k).isSome

/-- A die's slices hold every byte of a physical range. -/
def State.physHolds (s : State) (die pa n : Nat) : Bool :=
  (List.range n).all fun i => s.lines.any fun l => l.die == die && l.within (pa + i) 1

/-- DESIGN CHOICE (log entry 14): an access of a group to a cached target counts once, as a line hit where the slices that it asks hold all
its lines, and as a line miss otherwise (R212). -/
def State.countTile (s : State) (u g pa : Nat) (hit : Bool) : State :=
  if s.cached pa then s.modGroup u g fun G => G.count (if hit then 4 else 5) else s

/-! ### L1 sectors (R296, R297, R329) -/

/-- A leased sector that may serve a load of a core: its lease is in force and the core does not stand at the hold (R329,
R437). -/
def State.l1Hit (s : State) (core ctx va : Nat) : Option L1Sector :=
  if s.tcHeld core then none
  else s.l1.find? fun x => x.core == core && x.ctx == ctx && x.va == va / 32 && decide (s.tcOf core ≤ x.le)

/-- The registers a lane's piece of a load fills: one entry for each register, its bytes within the sector. -/
def loadDsts (G : Group) (d : Opnd) (lane ea bytes : Nat) : List LoadDst :=
  let i := d.idx.toNat
  (List.range ((bytes + 3) / 4)).map fun k =>
    if d.cls == .scal then ⟨if G.sup && i + k == 0 then 64 else i + k, true, 0, ea % 32 + 4 * k, min 4 bytes⟩
    else ⟨32 * (i + k) + lane, false, 0, ea % 32 + 4 * k, min 4 bytes⟩

/-- Fill a register from a sector (R296). -/
def Group.fillDst (G : Group) (bs : List Byte) (d : LoadDst) : Group :=
  let w : Word := BitVec.ofNat 32 (ofBytesLE ((bs.drop d.off).take d.len))
  if !d.scal then { G with v := spSet 0 G.v d.reg w }
  else if d.reg == 64 then { G with supset := { G.supset with s0 := w } }
  else { G with s := spSet 0 G.s d.reg w }

/-- A sector a load touches: virtual and physical address, and what it fills. -/
structure SectorReq where
  va : Nat
  pa : Nat
  dsts : List LoadDst
  deriving DecidableEq, Repr

/-- Sectors of lanes, each once (R296). -/
def sectorsOf (G : Group) (d : Opnd) (bytes : Nat) : List LaneOk → List SectorReq
  | [] => []
  | o :: r =>
    let rest := sectorsOf G d bytes r
    let va := o.ea / 32 * 32
    let ds := loadDsts G d o.lane o.ea bytes
    match rest.find? fun q => q.va == va with
    | some _ => rest.map fun q => if q.va == va then { q with dsts := ds ++ q.dsts } else q
    | none => ⟨va, o.pa - o.ea % 32, ds⟩ :: rest

/-- Bytes of a sector with the unit's own tentative bytes over them (R135). -/
def State.overSector (s : State) (u ctx va : Nat) (bs : List Byte) : List Byte :=
  if s.tent.any fun t => t.unit == u then bs.zipIdx.flatMap fun (b, i) => s.overlay (some u) ctx (va + i) [b] else bs

/-- A store's bytes overlap a range. -/
def PendStore.overlaps (p : PendStore) (va n : Nat) : Bool := p.bytes.any fun b => decide (va ≤ b.1 ∧ b.1 < va + n)

/-- An atomic in flight overlaps a range. -/
def Req.overlaps (q : Req) (va n : Nat) : Bool := decide (q.va < va + n ∧ va < q.va + 2 ^ q.size)

/-- An atomic of the group to a range, older than `id`, has not been performed (R316). -/
def State.olderReq (s : State) (id u g va n : Nat) : Bool :=
  s.reqs.any fun q => decide (q.id < id) && q.unit == u && q.grp == g && !q.ext && q.core < 4096 && !q.performed &&
    q.overlaps va n

/-- A load of the sector must go to the home: an older access of the group to it is in flight, or no lease serves it (R316,
R329). -/
def State.sectorMiss (s : State) (u g : Nat) (U : Unit) (q : SectorReq) : Bool :=
  (s.loads.any fun p => p.unit == u && p.grp == g && p.va == q.va) ||
    (s.reqs.any fun a => a.unit == u && a.grp == g && !a.ext && a.core < 4096 && a.overlaps q.va 32) ||
    (s.stores.any fun p => p.unit == u && p.grp == g && p.overlaps q.va 32) || U.svc ||
    (s.l1Hit U.core U.ctx q.va).isNone

/-- The port through which an access leaves the device, where its target is not cached: host ports 4 and 5, UALink 6 (R442,
R444). -/
def State.outPort (s : State) (pa : Nat) : Option Nat := if s.cached pa || !s.outside pa then none else some (s.linkPort pa)

/-- Where an access of a die travels to: the home's die, or a port (R442). -/
def State.routeOf (s : State) (ctx va pa : Nat) : Nat := (s.outPort pa).getD (sliceDie (s.homeOf (s.keyOf ctx va).1))

/-- Send a read that leaves the device (R442, class 0). -/
def State.sendRead (s : State) (die pa : Nat) : Option Pkt × State :=
  match s.outPort pa with
  | some p => s.sendPkt die p 0
  | none => (none, s)

/-- The flows of reads that leave the device have room for them all (R442). -/
def State.readRoom (s : State) (die : Nat) (pas : List Nat) : Bool := s.flowsRoom die 0 (pas.filterMap s.outPort)

/-- Serve one sector at issue: from L1, or as a request in flight. -/
def State.serveSector (s : State) (u g : Nat) (U : Unit) (acq : Bool) (q : SectorReq) : State :=
  if s.sectorMiss u g U q then
    let die := dieOf U.core
    let s0 := s.countTile u g q.pa (if U.svc then s.physHolds die q.pa 32 else s.presentRange die U.ctx q.va 32)
    let (p, s1) := s0.sendRead die q.pa
    ({ s1 with loads := s1.loads ++ [(⟨s1.nextId, u, g, q.va, q.pa, q.dsts, acq, s1.tcOf U.core, p⟩ : PendLoad)] }.fresh).modGroup u g
      fun G => G.count 3
  else match s.l1Hit U.core U.ctx q.va with
    | none => s
    | some x =>
      let bs := s.overSector u U.ctx q.va x.data
      let s0 : State := { s with l1 := x :: s.l1.filter (· != x) }
      let s1 := (s0.rhRaise U.core x.wts).modGroup u g fun G => q.dsts.foldl (fun H d => H.fillDst bs d) (G.count 2)
      if acq then s1.tcRaise U.core x.wts else s1

/-- Names of the lines of 128 bytes that a set of a core's L1 holds, the latest first (R2, R297). -/
def l1Set (core set : Nat) (l : List L1Sector) : List (Nat × Nat) :=
  (((l.filter fun x => x.core == core && x.va / 4 % (Config.l1Lines / Config.l1Ways) == set).map fun x => (x.ctx, x.va / 4)).reverse.dedup).reverse

/-- Put a sector into a core's L1; a full set replaces its least recently used line (R297). -/
def State.l1Put (s : State) (x : L1Sector) : State :=
  let rest := s.l1.filter fun y => !(y.core == x.core && y.ctx == x.ctx && y.va == x.va)
  let held := (l1Set x.core (x.va / 4 % (Config.l1Lines / Config.l1Ways)) rest).filter (· != (x.ctx, x.va / 4))
  let gone := held.drop (Config.l1Ways - 1)
  { s with l1 := x :: rest.filter fun y => !(y.core == x.core && gone.contains (y.ctx, y.va / 4)) }

/-- A core drops its copies of the sectors of a range, after a read of it at the home (R316). -/
def State.l1Drop (s : State) (core ctx va n : Nat) : State :=
  { s with l1 := s.l1.filter fun x => !(x.core == core && x.ctx == ctx && decide (32 * x.va < va + n ∧ va < 32 * x.va + 32)) }

/-- The group's own earlier writes to a range have not been performed (R316). -/
def State.ownPending (s : State) (u g va n : Nat) : Bool :=
  s.olderReq s.nextId u g va n || s.stores.any fun p => p.unit == u && p.grp == g && p.wts.isNone && p.overlaps va n

/-- Outstanding sector requests of a core (R298). -/
def State.coreLoads (s : State) (core : Nat) : Nat :=
  (s.loads.filter fun p => match s.units[p.unit]? with
    | some V => V.core == core
    | none => false).length

end Sys2Proof.Machine
end

