-- ==== Sys2Proof/Machine/Service.lean ====
section
/-! DEFINITION. Accesses by physical address: what service programs read and write (R213, R414, R461, R481; log entry 22) and the RMWs of
peers (R454), with the locks (R213), the wakes of slices (R438), the packets (R442), the page heat (R475) and the copies on other dies
(R439) that they meet. -/

namespace Sys2Proof.Machine

open Sys2Proof

/-! ### Keys, locks and copies -/

/-- A service group has locked the physical line of an address (R213). -/
def State.paLocked (s : State) (pa : Nat) : Bool := s.paLocks.any fun x => x.1 == pa % paMod / 256

/-- Another group has locked a line or an address of a physical range (R213). -/
def State.lockedBy (s : State) (u g pa n : Nat) : Bool :=
  (s.lines.any fun l => !l.proxy && l.lock.any (· != (u, g)) && l.within pa n) ||
    s.paLocks.any fun x => x.2 != (u, g) && meets (256 * x.1) 256 pa n

/-- The line of a request that a service program holds covers a physical byte. -/
def State.reqLineAt (s : State) (q : Req) (pa : Nat) : Bool :=
  q.index.isSome && !q.performed && !s.reqPhys q && match s.walkPa q.ctx q.va with
    | none => false
    | some p => let (k, o) := s.keyOf q.ctx q.va; (segOff (s.lineSegs k (some (o, p))) pa).isSome

/-- The key under which a physical line is known: its line in the tile cache, or that of a request a service program holds. -/
def State.svcKey (s : State) (pa : Nat) : Option Key :=
  match homeLineAt s.lines pa with
  | some (l, _) => some l.key
  | none =>
    match s.reqs.find? fun q => s.reqLineAt q pa with
    | some q => some (s.keyOf q.ctx q.va).1
    | none => none

/-- A die's proxy copy that holds a physical byte, and the byte's offset (R439). -/
def proxyAt (die pa : Nat) : List Line → Option (Line × Nat)
  | [] => none
  | l :: r =>
    if l.proxy && l.die == die then (match segOff l.segs pa with
      | some o => some (l, o)
      | none => proxyAt die pa r)
    else proxyAt die pa r

/-- A physical byte as a die's service group reads it: from its die's copy of the line, or at the home. -/
def State.svcByte (s : State) (die pa : Nat) : Byte :=
  match proxyAt die pa s.lines with
  | some (l, o) => spGet 0 l.data o
  | none => s.physByte pa

/-- The service group of a die may read a range: its lines are homed there or have copies there (R439). -/
def State.svcReadable (s : State) (die pa n : Nat) : Bool :=
  (List.range n).all fun i => match homeLineAt s.lines (pa + i) with
    | none => true
    | some (l, _) => l.die == die || (proxyAt die (pa + i) s.lines).isSome ||
        s.setShut (dieSlice die (s.homeOf l.key)) l.key.set

/-- Where an access of a service group travels to: the home's die, or a port (R442). -/
def State.svcRoute (s : State) (pa : Nat) : Nat := (s.outPort pa).getD (sliceDie (s.paSlice pa))

/-- The flow that an access of a service group needs is full (R442). -/
def State.svcFull (s : State) (die pa cls : Nat) : Bool := !s.flowRoom die (s.svcRoute pa) cls 1

/-- A read of a service group travels over a failed link (R443). -/
def State.svcCutRead (s : State) (die pa : Nat) : Bool :=
  s.cutPa pa || (!s.failedDies.isEmpty && s.cached pa && s.cutDies die (sliceDie (s.paSlice pa)) &&
    (proxyAt die pa s.lines).isNone)

/-- A write of a service group, or an invalidation it needs, travels over a failed link (R443). -/
def State.svcCutWrite (s : State) (die pa : Nat) : Bool :=
  s.cutPa pa || (!(s.failedDies.isEmpty && s.failedFlows.isEmpty) && s.cached pa &&
    (s.cutDies die (sliceDie (s.paSlice pa)) || s.cutInval (sliceDie (s.paSlice pa)) pa))

/-! ### What an access leaves -/

/-- A request of a service group is an event of page heat (R475). -/
def State.svcHeat (s : State) (pa : Nat) : State :=
  s.heat (if s.cached pa then s.paSlice pa else poolSampler s.regs.poolwin pa) pa

/-- An access of a service group at a line's home: the slice wakes, page heat counts it, and it travels in a flow (R438, R442, R475). -/
def State.svcAtHome (s : State) (die cls pa : Nat) : State :=
  let d := s.svcRoute pa
  let s1 := if s.cached pa then s.touchSlice (s.paSlice pa) else s
  ((s1.svcHeat pa).passPkts die cls [d]).backPkts die cls [d]

/-- A read of a service group: a copy of its die serves it, or the home (R438, R439). -/
def State.svcReads (s : State) (die pa : Nat) : State :=
  match proxyAt die pa s.lines with
  | some (l, _) => (s.touchSlice (s.sliceOf l.name)).touchLine l.name
  | none => s.svcAtHome die 0 pa

/-- Requests at a physical address that service programs hold. -/
def State.heldAt (s : State) (pa : Nat) : List Req :=
  s.reqs.filter fun q => q.index.isSome && !q.performed && s.reqPa q == some pa

/-- The time that a service program's write on a die takes for the requests it may serve: no less than their issuers' times and floors,
and past every lease of the die where one comes from elsewhere (R329; log entry 23). -/
def State.heldTime (s : State) (die pa : Nat) : Nat :=
  maxOf ((s.heldAt pa).map fun q => if isCore q.core && dieOf q.core == die then max (s.tcOf q.core) q.wts else s.dieTime die)

/-- The stamps of a line that a service program writes for a request: as its issuer's write has them (R329). -/
def State.svcStamp (s : State) (l : Line) (pa : Nat) : State :=
  let home := sliceDie (s.homeOf l.key)
  let s1 := s.putLine (l.stampWrite (s.epochOf home) (s.heldTime home pa) 0)
  if (s.heldAt pa).all fun q => isCore q.core && dieOf q.core == home then s1 else s1.ptRaise home (s.dieTime home)

/-- The stamp of a byte that has been written by its physical address, at its line's home; one that no line keeps stands past every lease
of the writer's die, and so does the next fill (R301, R329). -/
def State.physTime (s : State) (die pa : Nat) : Nat :=
  match homeLineAt s.lines (pa % paMod) with
  | some (l, _) => stampRead (s.epochOf (sliceDie (s.homeOf l.key))) l.wts
  | none => max (s.heldTime die pa) (s.dieTime die)

/-- Write a value for a service group at its home with a new stamp (R213, R329). A line that its set does not keep is written in
memory, and the next fill stands past it. -/
def State.svcWrite (s : State) (die pa : Nat) (bs : List Byte) : State :=
  let s1 := (s.svcAtHome die 1 pa).ownWrite pa bs
  let s2 := match homeLineAt s1.lines (pa % paMod) with
    | none => s1.noteGone die (s1.physTime die pa)
    | some (l, _) => s1.svcStamp l pa
  s2.wrote pa bs.length

/-! ### Invalidations and chunks -/

/-- Start the invalidation round of a write from outside the device, once the home slice is awake; true where none is needed (R438,
R439, R454, R455). It waits while a flow that it needs is full (R442). -/
def State.extInval (s0 : State) (pa : Nat) (writer : Option Nat) (byHost : Bool) : Bool × State :=
  let sl := s0.paSlice pa
  let s := s0.touchSlice sl
  let rs := s.regions.filter fun (r : Region) => r.covers pa && !r.present.isEmpty
  let sh := s.sharersOf pa writer byHost
  if !s.invRoom (sliceDie sl) sh || rs.any fun r => !s.invRoom r.die (r.present.map .die) then (false, s)
  else
    let s1 := rs.foldl (fun t r => t.regionInval pa r) s
    if sh.isEmpty then (rs.isEmpty, s1) else (false, s1.peerInval (sliceDie sl) pa sh)

/-- Start the invalidation that a service group's write of an address needs; true where it must wait (R439, R454). -/
def State.svcInval1 (s : State) (die pa : Nat) : Bool × State :=
  if s.invalPending pa then (true, s)
  else match s.svcKey pa with
    | some k => s.startInval k pa die none false
    | none => let (done, s1) := s.extInval pa none false; (!done, s1)

/-- Invalidations that a service program's writes must wait for are started (R439, R454). -/
def svcInvals (die : Nat) : List Nat → State → Bool × State
  | [], s => (false, s)
  | pa :: ps, s =>
    let (a, s1) := s.svcInval1 die pa
    let (b, s2) := svcInvals die ps s1
    (a || b, s2)

/-- DESIGN CHOICE (log entry 119): a write of the host or of a peer that finds no chunks posts the KIND 4 event and waits; the event's
context is a free value (R481). -/
def State.extNoChunks (s : State) (page : Nat) : State :=
  let (v, s1) := s.freeVal
  s1.reserveFailed (v.toNat % 4096) page

/-- Chunks for the pages of a service group's writes, or the address whose ring cannot supply them (R481). -/
def svcReserve : List Nat → State → Except Nat State
  | [], s => .ok s
  | pa :: ps, s => match s.reserve pa with
    | none => .error pa
    | some s1 => svcReserve ps s1

end Sys2Proof.Machine
end

