-- ==== Sys2Proof/Machine/Memory.lean ====
section
/-! DEFINITION. Loads, stores and fences of global memory (R111 to R115, R120, R121, R135), and the steps that return a
load's sector, perform a store at its home and acknowledge it (R115, R296, R297, R329, R439). -/

namespace Sys2Proof.Machine

open Sys2Proof

/-! ### LD (R114) -/

/-- The access order acquires on a read (R30). -/
def ordAcq (o : Ord) : Bool := o == .half || o == .sc

/-- LD after its checks: sectors are served or requested; without a free request entry the group stalls (R296, R298). -/
def State.loadGo (s0 : State) (u g : Nat) (U : Unit) (h : Hd) (m : MemMod) (secs : List SectorReq) (s : State) : State :=
  let s1 := s.tcCatchUp U.core
  let s2 := if m.ord == .sc then s1.scFence u g U.core (scopeCode m.scope) else s1
  if 2048 < s2.coreLoads U.core + (secs.filter fun q => s2.sectorMiss u g U q).length ||
      !s2.readRoom (dieOf U.core) (secs.map (·.pa)) then s0.stall u g
  else (secs.foldl (fun t q => t.serveSector u g U (ordAcq m.ord) q) s2).finish u g h

/-- LD (R114). -/
def execLd (h : Hd) (m : MemMod) (x : Ops4) (s : State) : Out :=
  let n := sizeBytes m.size
  issue [(x.d, sizeRegs m.size), (x.b, 1)] s fun u g U G =>
    let e := s.env U G
    match accessLanes (x.d.cls == .scal) (activeLanes e G.regs h) with
    | [] => .next (s.finish u g h)
    | l :: ls =>
      if s.acqBlocked u g || (m.ord == .sc && !s.quiet u g) then .next (s.stall u g)
      else withLanes s u g U G n .read noExtra
        ((l :: ls).map fun l => (l, laneEa e G.regs x.a x.b (offOf x.c) n l)) fun oks s1 =>
          .next (s.loadGo u g U h m (sectorsOf G x.d n oks) s1)

/-! ### ST (R114) -/

/-- The value a store takes from its source (R111). -/
def storeVal (e : Env) (r : Regs) (sz : Size) (d : Opnd) (l : Nat) : Nat :=
  match sz with
  | .b8 | .b16 | .b32 => rd32 e r d l
  | .b64 => rd64 e r d l
  | .b128 => rd128 r d l

/-- The bytes of a value at an address. -/
def bytesAt (ea n x : Nat) : List (Nat × Byte) := (toBytesLE n x).zipIdx.map fun (b, i) => (ea + i, b)

/-- Lanes with the bytes they store: where lanes overlap, the highest-numbered lane's remain (R113). -/
def storeBytes (val : Nat → Nat) (n : Nat) : List LaneOk → List (LaneOk × List (Nat × Byte))
  | [] => []
  | o :: r =>
    let rest := storeBytes val n r
    let later := r.map (·.ea)
    (o, (bytesAt o.ea n (val o.lane)).filter fun b => !later.any fun ea => decide (ea ≤ b.1 ∧ b.1 < ea + n)) :: rest

/-- Where a unit's access travels to (R442). -/
def State.unitRoute (s : State) (U : Unit) (ea pa : Nat) : Nat := if U.svc then s.svcRoute pa else s.routeOf U.ctx ea pa

/-- One store of a lane in flight. -/
def State.addStore (s : State) (u g : Nat) (U : Unit) (rel : Bool) (floor : Nat) (x : LaneOk × List (Nat × Byte)) :
    State :=
  let (p, s1) := s.sendPkt (dieOf U.core) (s.unitRoute U x.1.ea x.1.pa) 1
  { s1 with stores := s1.stores ++
      [(⟨s1.nextId, u, g, U.core, U.ctx, x.1.ea, x.1.pa, x.2, rel, floor, none, p⟩ : PendStore)] }.fresh

/-- A unit's stores after their checks: tentative lines, or stores in flight (R135, R277). DESIGN CHOICE (log entry 127): a tentative
store wakes no monitor, of the unit's own groups either. -/
def State.putStores (s : State) (u g : Nat) (U : Unit) (rel : Bool) (floor : Nat) (xs : List (LaneOk × List (Nat × Byte))) :
    State :=
  if U.firm then (xs.filter fun x => !x.2.isEmpty).foldl (fun t x => t.addStore u g U rel floor x) s
  else xs.foldl (fun t x => t.tentWrite u U.ctx x.2) s

/-- The stores of a unit must wait: a flow holds as many packets as it can (R442), or, in a tentative unit, the share of a slice is
full (R277, R311) or an older load of the group to one of their sectors has not returned (R316). -/
def State.storesHeld (s : State) (u g : Nat) (U : Unit) (xs : List (LaneOk × List (Nat × Byte))) : Bool :=
  if U.firm then !s.flowsRoom (dieOf U.core) 1 (xs.map fun x => s.unitRoute U x.1.ea x.1.pa)
  else !s.tentFits u U.ctx (xs.flatMap fun x => x.2.map (·.1)) ||
    s.loads.any fun p => p.unit == u && p.grp == g && xs.any fun x => x.2.any fun b => decide (p.va ≤ b.1 ∧ b.1 < p.va + 32)

/-- An .sc access whose own part is done: FENCE.sc, then the next slot (R324). -/
def State.scTail (s : State) (u g : Nat) (U : Unit) (h : Hd) (scope : Nat) : State :=
  if s.quiet u g then
    ((s.scFence u g U.core scope).modGroup u g fun H => { H with mid := false }).finish u g h
  else s.stall u g

/-- The stamp floor of a group's write: a release's is max(TC, RH) (R329). -/
def State.writeFloor (s : State) (U : Unit) (G : Group) (rel : Bool) : Nat :=
  if rel then max G.relFloor (max (s.tcOf U.core) (s.rhOf U.core)) else G.relFloor

/-- ST (R114, R324): a release waits for the group's writes (R319); .sc is followed by FENCE.sc. -/
def execSt (h : Hd) (m : MemMod) (x : Ops4) (s : State) : Out :=
  let n := sizeBytes m.size
  issue [(x.d, sizeRegs m.size), (x.b, 1)] s fun u g U G =>
    let e := s.env U G
    if G.mid then .next (s.scTail u g U h (scopeCode m.scope))
    else match accessLanes (x.d.cls == .scal && x.b.cls == .zero) (activeLanes e G.regs h) with
    | [] => .next (s.finish u g h)
    | l :: ls =>
      let rel := m.ord != .rlx
      if s.acqBlocked u g || (rel && !s.quiet u g) then .next (s.stall u g)
      else withLanes s u g U G n .write noExtra
        ((l :: ls).map fun l => (l, laneEa e G.regs x.a x.b (offOf x.c) n l)) fun oks s1 =>
          let xs := storeBytes (storeVal e G.regs m.size x.d) n oks
          if s1.storesHeld u g U xs then .next (s.stall u g)
          else
            let s2 := s1.putStores u g U rel (s1.writeFloor U G rel) xs
            if m.ord == .sc then .next ((s2.modGroup u g fun H => { H with mid := true }).stall u g)
            else .next (s2.finish u g h)

/-! ### FENCE (R120, R121) -/

/-- A fence acts once the conditions of R319 hold; `ready` says whether they do. -/
def fenceStep (h : Hd) (s : State) (ready : Nat → Nat → Bool) (act : Nat → Nat → Nat → State → State) : Out :=
  issue [] s fun u g U G =>
    if (activeLanes (s.env U G) G.regs h).isEmpty then .next (s.finish u g h)
    else if ready u g then .next ((act u g U.core s).finish u g h)
    else .next (s.stall u g)

/-- FENCE.acq, .rel, .acqrel and .sc (R120, R323, R329). -/
def execFence (h : Hd) (k : FenceKind) (sc : Scope) (s : State) : Out :=
  match k with
  | .acq => fenceStep h s (fun u g => s.outLoads u g == 0 && !s.awaitsReply u g) fun _ _ core t => t.acqFence core
  | .rel => fenceStep h s s.quiet fun u g core t => t.relFence u g core
  | .acqrel => fenceStep h s s.quiet fun u g core t => (t.acqFence core).relFence u g core
  | .sc => fenceStep h s s.quiet fun u g core t => t.scFence u g core (scopeCode sc)
/-- FENCE.async (R121). -/
def execFenceAsync (h : Hd) (s : State) : Out :=
  fenceStep h s (fun u g => s.unacked u g == 0) fun _ _ _ t => t

/-! ### Steps of the memory path -/

/-- A line of the range is locked by a service group (R213). -/
def State.lockedRange (s : State) (ctx va n : Nat) : Bool :=
  ((s.keysOf ctx va n).any fun k => match s.line? k with
    | some l => l.lock.isSome
    | none => false) ||
  (!s.paLocks.isEmpty && (List.range n).any fun i => match s.walkPa ctx (va + i) with
    | some pa => s.paLocked pa
    | none => false)

/-- Every line of the range may be read on the die: at home there, or through a proxy copy (R439). -/
def State.readableRange (s : State) (die ctx va n : Nat) : Bool := (s.keysOf ctx va n).all fun k => s.readable k die

/-- A request of a core, whose TC was `tc`, for a lease of `n` ticks on a line that its die holds: the stamps it leaves, and WTS (R329).
A line that no slice keeps gives no lease, and a time past every lease of the die. -/
def State.leaseLine (s : State) (core n tc : Nat) (k : Key) : State × Nat :=
  let die := dieOf core
  let ep := s.epochOf die
  match if sliceDie (s.homeOf k) == die then s.line? k else s.proxy? k die with
  | none => (s, s.dieTime die)
  | some l =>
    let w := stampRead ep l.wts
    (s.putLine { l with rts := max (stampRead ep l.rts) (tc + n - 1), wts := w }, w)

/-- Lease every line of a sector: the largest WTS. -/
def leaseAll (core n tc : Nat) : List Key → State → State × Nat
  | [], s => (s, 0)
  | k :: ks, s =>
    let (s1, w1) := s.leaseLine core n tc k
    let (s2, w2) := leaseAll core n tc ks s1
    (s2, max w1 w2)

/-- Lines of a range that would have to be filled from outside the device. -/
def State.farKeys (s : State) (ctx va pa n : Nat) : List Key :=
  if s.cached pa && s.outside pa then (s.keysOf ctx va n).filter fun k => (s.line? k).isNone else []

/-- The fill of lines homed outside the device would need PT to pass the hold, and waits for the advance (R437, R441), or a flow has no
room for it (R442). -/
def State.fillHeld (s : State) (ctx va pa n : Nat) : Bool :=
  let ds := (s.farKeys ctx va pa n).map fun k => sliceDie (s.homeOf k)
  ds.any fun d =>
    let m := (ds.filter (· == d)).length
    !s.ptFits d (s.ptAfter d m) || !s.flowRoom d (s.linkPort pa) 0 m

/-- A write has to wait for the fill of its line, or for room in the flow in which it travels on to a target outside the device (R437, R439,
R442, R448). -/
def State.writeHeld (s : State) (ctx va pa n : Nat) : Bool :=
  s.fillHeld ctx va pa n || (s.cached pa && s.outside pa && !(s.keysOf ctx va n).all fun k => s.linkRoom (sliceDie (s.homeOf k)) pa)

/-- A die may read a range now: its lines are at home there or have proxies, and no service group has locked them; a read that leaves
the device has its turn and room in its flow (R213, R437, R439, R442). -/
def State.readReady (s : State) (die ctx va pa n : Nat) : Bool :=
  if s.cached pa then s.readableRange die ctx va n && !s.lockedRange ctx va n && !s.fillHeld ctx va pa n
  else match s.outPort pa with
    | none => true
    | some o => s.flowRoom die o 0 1 && !s.behindRead (s.nextPkt die o 0) pa

/-- A request of a die for a line reaches the line's home: no proxy copy serves it (R439, R475). -/
def State.reachesHome (s : State) (die ctx va : Nat) : Bool :=
  let k := (s.keyOf ctx va).1
  sliceDie (s.homeOf k) == die || (s.proxy? k die).isNone

/-- The page-heat event of a read by an agent of a die (R475). -/
def State.heatRead (s : State) (die ctx va pa : Nat) : State := if s.reachesHome die ctx va then s.heatReq ctx va pa else s

/-- A load in flight may return: older accesses of its group to the sector are done, the line is readable and unlocked, and earlier
packets of its flow to the line have been delivered (R316, R439, R442). -/
def State.loadReady (s : State) (p : PendLoad) (U : Unit) : Bool :=
  !(s.loads.any fun q => q.id < p.id && q.unit == p.unit && q.grp == p.grp && q.va == p.va) &&
    !(s.stores.any fun q => q.id < p.id && q.unit == p.unit && q.grp == p.grp && q.wts.isNone && q.overlaps p.va 32) &&
    !s.olderReq p.id p.unit p.grp p.va 32 && !s.behindLoad p &&
    if U.svc then s.svcReadable (dieOf U.core) p.pa 32 && !s.lockedBy p.unit p.grp p.pa 32 && !s.svcFull (dieOf U.core) p.pa 0
    else !s.fillHeld U.ctx p.va p.pa 32 &&
      (!s.cached p.pa || (s.readableRange (dieOf U.core) U.ctx p.va 32 && !s.lockedRange U.ctx p.va 32))

/-- Fill the registers a load waits for, and drop it. -/
def State.fillLoad (s : State) (p : PendLoad) (bs : List Byte) : State :=
  { s with loads := s.loads.filter (·.id != p.id) }.modGroup p.unit p.grp fun G => p.dsts.foldl (fun H d => H.fillDst bs d) G

/-- A sector goes into a core's L1 where the die holds its lines; no lease protects another, which takes the place of an older copy all the
same (R297, R316, R329). -/
def State.l1Keep (s : State) (x : L1Sector) : State :=
  if s.presentRange (dieOf x.core) x.ctx (32 * x.va) 32 then s.l1Put x else s.l1Drop x.core x.ctx (32 * x.va) 32

/-- A cached sector returns with a lease of `n` ticks, counted from the core's TC at the request (R329): L1, RH, and TC for an
acquire. -/
def State.returnCached (s : State) (p : PendLoad) (U : Unit) (n : Nat) : State :=
  let (bs, s1) := (s.heatRead (dieOf U.core) U.ctx p.va p.pa).readPage (dieOf U.core) U.ctx none p.va p.pa 32
  let (s2, w) := leaseAll U.core n p.tc (s1.keysOf U.ctx p.va 32) s1
  let s3 := s2.l1Keep ⟨U.core, U.ctx, p.va / 32, bs, p.tc + n - 1, w⟩
  let s4 := s3.rhRaise U.core w
  (if p.acq then s4.tcRaise U.core w else s4).fillLoad p (s4.overSector p.unit U.ctx p.va bs)

/-- A sector returns from a target that is not cached: nothing is kept, and the read brings a time past every lease of the die (R320,
R448, R451; log entry 85). -/
def State.returnPlain (s : State) (p : PendLoad) (U : Unit) : State :=
  let s1 := (s.heatReq U.ctx p.va p.pa).backPkts (dieOf U.core) 0 (s.outPort p.pa).toList
  let t := s1.dieTime (dieOf U.core)
  let s2 := s1.rhRaise U.core t
  (if p.acq then s2.tcRaise U.core t else s2).fillLoad p (s2.overSector p.unit U.ctx p.va (s2.physBytes p.pa 32))

/-- A sector returns to a service group, which has no leases (R438, R439, R475; log entry 22). -/
def State.returnSvc (s : State) (p : PendLoad) (U : Unit) : State :=
  let die := dieOf U.core
  (s.svcReads die p.pa).fillLoad p ((List.range 32).map fun i => s.svcByte die (p.pa + i))

/-- The data of a load in flight cannot be had: its way runs over a failed link (R443). -/
def State.loadCut (s : State) (p : PendLoad) (U : Unit) : Bool :=
  if U.svc then s.svcCutRead (dieOf U.core) p.pa else s.cutRead (dieOf U.core) U.ctx p.va p.pa

/-- The launch that a unit's access of an address is charged to: a service program's is its request's (R434). -/
def State.charged (s : State) (U : Unit) (pa : Nat) : DWord := if U.svc then s.svcLaunch pa else U.launch

/-- LOAD_SECTOR_RETURN: a load's sector returns with a lease of `lease` ticks, 1 to 256 (R296, R329). Uncached targets are
read at the target (R448, R451); uncorrectable data and a failed link end the launch (R434, R443). A sector that may not return yet waits. -/
def execLoadSectorReturn (id : Nat) (lease : Nat) (s : State) : Out :=
  match s.loads.find? fun p => p.id == id with
  | none => .next s
  | some p =>
    match s.units[p.unit]? with
    | none => .next s
    | some U =>
      let cut := s.loadCut p U
      if lease = 0 || 256 < lease || !(cut || s.loadReady p U) then .next s
      else if cut || s.uncorrIn p.pa 32 then
        .next ({ s with loads := s.loads.filter (·.id != id) }.consume (s.charged U p.pa) p.pa)
      else if U.svc then .next (s.returnSvc p U)
      else if !s.cached p.pa then .next ((s.tcCatchUp U.core).returnPlain p U)
      else .next ((s.tcCatchUp U.core).returnCached p U lease)

/-- A store is a service group's, whose address is physical (log entry 22). -/
def State.storeSvc (s : State) (p : PendStore) : Bool := match s.units[p.unit]? with
  | some U => U.svc
  | none => false

/-- A store in flight may be performed: older accesses of its group to its bytes are done, its page is not held, its line
is not locked (R316, R213, R478). -/
def State.storeReady (s : State) (p : PendStore) : Bool :=
  !(s.loads.any fun q => q.id < p.id && q.unit == p.unit && q.grp == p.grp && p.overlaps q.va 32) &&
    !(s.stores.any fun q => q.id < p.id && q.unit == p.unit && q.grp == p.grp && q.wts.isNone &&
      p.bytes.any fun b => q.bytes.any fun c => b.1 == c.1) &&
    !s.olderReq p.id p.unit p.grp p.va 16 && !s.invalPending p.pa && !s.heldPage p.pa && !s.behindWrite p.pkt p.ctx p.va &&
    if s.storeSvc p then !s.lockedBy p.unit p.grp p.pa 16
    else !(p.bytes.any fun b => s.lockedRange p.ctx b.1 1) && !s.writeHeld p.ctx p.va p.pa p.bytes.length

/-- Update the issuing core's L1 copy of written bytes, where it holds one, with the stamp of the write (R297, R329). -/
def State.l1Update (s : State) (core ctx w : Nat) (bs : List (Nat × Byte)) : State :=
  { s with l1 := s.l1.map fun (x : L1Sector) =>
      if x.core == core && x.ctx == ctx && bs.any fun b => b.1 / 32 == x.va then
        { x with wts := max x.wts w, data := x.data.zipIdx.map fun (b, i) => match bs.find? fun c => c.1 == 32 * x.va + i with
            | some c => c.2
            | none => b }
      else x }

/-- The bytes of a store in flight with their physical addresses. -/
def PendStore.placed (p : PendStore) : VaBytes := p.bytes.map fun b => (b.1, p.pa + (b.1 - p.va), b.2)

/-- Perform a store at its home (R297, R329). -/
def State.performStore (s : State) (p : PendStore) : State :=
  let s0 := if s.cached p.pa then s.countTile p.unit p.grp p.pa (s.homeHolds p.ctx p.va p.bytes.length) else s.heatReq p.ctx p.va p.pa
  let (s1, w) := s0.writeList (dieOf p.core) p.ctx (s0.tcOf p.core) p.floor p.placed
  let s2 : State := { s1 with stores := s1.stores.map fun (q : PendStore) =>
    if q.id == p.id then { q with wts := some w } else q }
  (s2.l1Update p.core p.ctx w p.bytes).wrote p.pa 16

/-- Perform a service group's store at its home (R213, R329; log entry 22). -/
def State.performSvc (s : State) (p : PendStore) : State :=
  let die := dieOf p.core
  let s1 := p.placed.foldl (fun t x => t.svcWrite die x.2.1 [x.2.2]) (s.countTile p.unit p.grp p.pa (s.physHolds die p.pa p.bytes.length))
  { s1 with stores := s1.stores.map fun (q : PendStore) => if q.id == p.id then { q with wts := some (s1.physTime die p.pa) } else q }

/-- A store travels over a failed link (R443). -/
def State.storeCut (s : State) (p : PendStore) : Bool :=
  if s.storeSvc p then s.svcCutWrite (dieOf p.core) p.pa else s.cutWrite (dieOf p.core) p.ctx p.va p.pa

/-- Start the invalidation rounds of a write to the lines of a list (R439, R440); false where none is needed. -/
def startInvals (pa die : Nat) : List Key → State → Bool × State
  | [], s => (false, s)
  | k :: ks, s =>
    let (a, s1) := s.startInval k pa die none false
    let (b, s2) := startInvals pa die ks s1
    (a || b, s2)

/-- STORE_PERFORMED: a store in flight is performed at its home, after the invalidations it needs (R297, R439). A merge into
an uncorrectable sector is not performed and ends the launch (R434). -/
def execStorePerformed (id : Nat) (s : State) : Out :=
  match s.stores.find? fun p => p.id == id && p.wts.isNone with
  | none => .next s
  | some p =>
    let cut := s.storeCut p
    if !(cut || s.storeReady p) then .next s
    else if cut || s.uncorrIn p.pa 1 then
      let s1 : State := { s with stores := s.stores.filter (·.id != id) }
      match s.units[p.unit]? with
      | some U => .next (s1.consume (s.charged U p.pa) p.pa)
      | none => .next s1
    else if s.storeSvc p then
      let (w, s1) := if s.cached p.pa then s.svcInval1 (dieOf p.core) p.pa else (false, s)
      .next (if w then s1 else s.performSvc p)
    else if !s.cached p.pa then .next (s.performStore p)
    else
      let (w, s1) := startInvals p.pa (dieOf p.core) (s.keysOf p.ctx p.va p.bytes.length) s
      .next (if w then s1 else s.performStore p)

/-- The acknowledgement of a packet comes back in its class (R442). -/
def State.ackPkt (s : State) : Option Pkt → State
  | none => s
  | some p => s.backPkts p.src p.cls [p.dst]

/-- WRITE_ACKNOWLEDGEMENT: the acknowledgement of a performed store arrives and carries its stamp (R115, R329). -/
def execWriteAcknowledgement (id : Nat) (s : State) : Out :=
  match s.stores.find? fun p => p.id == id with
  | none => .next s
  | some p =>
    match p.wts with
    | none => .next s
    | some w => .next (({ s with stores := s.stores.filter (·.id != id) }.ackPkt p.pkt).tcRaise p.core w)

end Sys2Proof.Machine
end

