-- ==== Sys2Proof/Machine/Scratch.lean ====
section
/-! DEFINITION. Scratchpad, cluster window, constant banks and accumulator tiles (R116 to R119, R129, R291, R293), the range
scoreboard (R139), and the operations of read-modify-write instructions (R123). -/

namespace Sys2Proof.Machine

open Sys2Proof

/-! ### Scratchpad bytes and the range scoreboard (R139, R291) -/

/-- A command's scoreboard entry of the given kind overlaps a range. -/
def Cmd.holds (c : Cmd) (dst : Bool) (lo n : Nat) : Bool :=
  match c.sb with
  | none => false
  | some (b, len, d) => d == dst && decide (b < lo + n ∧ lo < b + len)
/-- A range of the unit's scratchpad overlaps a destination range in flight. -/
def Unit.dstBusy (U : Unit) (lo n : Nat) : Bool := U.copyq.any fun c => c.holds true lo n
/-- A range of the unit's scratchpad overlaps a source range in flight. -/
def Unit.srcBusy (U : Unit) (lo n : Nat) : Bool := U.copyq.any fun c => c.holds false lo n

/-! ### Lanes of a scratchpad or window access (R116, R117, R293) -/

/-- A lane's access to a scratchpad: the unit that owns it and the byte offset. -/
structure PadLane where
  lane : Nat
  unit : Nat
  off : Nat
  deriving DecidableEq, Repr

/-- The unit of a cohort rank (R117, R293): units of one launch with consecutive indices. -/
def State.cohortUnit (s : State) (u : Nat) (U : Unit) (slot : Nat) : Option Nat :=
  if slot = U.idx % U.cohort then some u
  else s.units.findIdx? fun V => V.launch == U.launch && !V.svc && V.idx == U.idx / U.cohort * U.cohort + slot &&
    V.st != .frogged && V.st != .retired

/-- The unit and offset a window address names, none where R117 or R293 refuses it. -/
def State.window (s : State) (u : Nat) (U : Unit) (ea : Nat) : Option (Nat × Nat) :=
  if bitsAt ea 26 38 != 0 || decide (U.cohort ≤ bitsAt ea 21 5) then none
  else match s.cohortUnit u U (bitsAt ea 21 5) with
    | none => none
    | some v => match s.units[v]? with
      | none => none
      | some V => if bitsAt ea 0 21 < V.spadSize then some (v, bitsAt ea 0 21) else none

/-- Check one lane: alignment, then the range of the scratchpad or of the window. -/
def State.padLane (s : State) (u : Nat) (U : Unit) (win : Bool) (align lane ea : Nat) : Except LaneFail PadLane :=
  if ea % align != 0 then .error ⟨lane, 4, ea, none, 0⟩
  else if win then
    match s.window u U ea with
    | none => .error ⟨lane, 6, ea, none, 0⟩
    | some (v, off) => .ok ⟨lane, v, off⟩
  else if ea < U.spadSize then .ok ⟨lane, u, ea⟩ else .error ⟨lane, 6, ea, none, 0⟩

/-- The lanes that may access and those that fail. -/
def splitLanes : List (Except LaneFail PadLane) → List PadLane × List LaneFail
  | [] => ([], [])
  | .ok o :: r => let (a, b) := splitLanes r; (o :: a, b)
  | .error f :: r => let (a, b) := splitLanes r; (a, f :: b)

/-- Every lane passes its checks, or the trap is taken with no other effect (R21). -/
def withPad (s : State) (u g : Nat) (U : Unit) (G : Group) (win : Bool) (align : Nat) (eas : List (Nat × Nat))
    (k : List PadLane → Out) : Out :=
  match splitLanes (eas.map fun x => s.padLane u U win align x.1 x.2) with
  | (oks, []) => k oks
  | (_, f :: fs) => s.trapLanes u g U.ctx G (f :: fs)

/-! ### Ordering of scratchpad accesses (R318, R319, R324) -/

/-- A scratchpad access may be made: the waits of R319, and of the fences of an .sc access. -/
def State.padReady (s : State) (u g : Nat) (rel sc : Bool) : Bool :=
  !s.acqBlocked u g && (!(rel || sc) || s.quiet u g)

/-- A read takes the logical time the scratchpad carries; an acquire moves its core past it (R329). -/
def State.padRead (s : State) (core : Nat) (acq : Bool) : List Nat → State
  | [] => s
  | v :: vs =>
    let t := match s.units[v]? with
      | some V => V.spadTime
      | none => 0
    let s1 := s.rhRaise core t
    State.padRead (if acq then s1.tcRaise core t else s1) core acq vs

/-- A write leaves the time a release asks for with the scratchpad (R329). -/
def State.padWrote (s : State) (U : Unit) (G : Group) (rel : Bool) : List Nat → State
  | [] => s
  | v :: vs =>
    State.padWrote (s.modUnit v fun V => { V with spadTime := max V.spadTime (s.writeFloor U G rel) }) U G rel vs

/-- The FENCE.sc that an .sc access brings (R324). -/
def State.padFence (s : State) (u g : Nat) (U : Unit) (sc : Bool) (scope : Scope) : State :=
  if sc then s.scFence u g U.core (scopeCode scope) else s

/-! ### Requests a service program has performed (R461) -/

/-- A write's acknowledgement brings its stamp to the core that made it (R329). -/
def State.ackCore (s : State) (core w : Nat) : State := if isCore core then s.tcRaise core w else s

/-- A performed request's acknowledgement brings its stamp to the unit that made it: to the core it runs on, which leases of its own die
must not serve behind the write, or, while it is saved, to its next restore (R316, R322, R326, R327, R329). -/
def State.ackReq (s : State) (q : Req) (w : Nat) : State :=
  match s.units[q.unit]? with
  | none => s.ackCore q.core w
  | some U =>
    let t := if U.core == q.core then w else max w (s.dieTime (dieOf U.core))
    if U.st == .resident then s.ackCore U.core t else s.modUnit q.unit fun V => { V with engTime := max V.engTime t }

/-- A performed request: a reduction is done and its unit takes the stamp, the others wait for their reply; one whose reply has
arrived is done. The acknowledgement travels in the flow (R442). -/
def State.endReq (s : State) (q : Req) (ret w : Nat) : State :=
  if q.kind == .red || q.kind == .store || q.replied then
    ({ s with reqs := s.reqs.filter (·.id != q.id) }.ackPkt q.pkt).ackReq q w
  else { s with reqs := s.reqs.map fun (p : Req) =>
    if p.id == q.id then { p with performed := true, reply := some (BitVec.ofNat 128 ret), wts := w } else p }

/-- The logical time that a request performed at its home brings its core (R329). -/
def State.reqTime (s : State) (q : Req) : Nat :=
  match if s.reqPhys q then none else s.walkPa q.ctx q.va with
  | some pa => s.readTime (dieOf q.core) q.ctx q.va pa true
  | none => s.dieTime (dieOf q.core)

/-- The service program of a cluster has advanced TAIL past the request. -/
def Req.passed (q : Req) (cl tail : Nat) : Bool :=
  q.cluster == cl && !q.performed && match q.index with
    | some i => decide (i < tail)
    | none => false

/-- Mark one request performed: a reduction is done, the others wait for their reply (R461). -/
def State.passReq (s : State) (q : Req) : State :=
  let w := s.reqTime q
  if q.kind == .red || q.replied then s.endReq q 0 w
  else { s with reqs := s.reqs.map fun (p : Req) =>
    if p.id == q.id then { p with performed := true, wts := max p.wts w } else p }

/-- A service program moved TAIL: the requests before it are performed (R461). -/
def State.svcPerformed (s : State) (cl tail : Nat) : State :=
  (s.reqs.filter fun q => q.passed cl tail).foldl State.passReq s

/-- A write of a service program to its scratchpad may have moved TAIL (R461). -/
def State.tailMoved (s : State) (u : Nat) (U : Unit) : State :=
  if U.svc then s.svcPerformed (U.core - 512) (s.spadNat u 8 8) else s

/-! ### LDS, LDX, STS, STX (R116, R117) -/

/-- A load from scratchpad or window (R114, R116, R117). -/
def padLoad (win : Bool) (h : Hd) (m : MemMod) (x : Ops4) (s : State) : Out :=
  let n := sizeBytes m.size
  issue [(x.d, sizeRegs m.size), (x.b, 1)] s fun u g U G =>
    let e := s.env U G
    match accessLanes (x.d.cls == .scal) (activeLanes e G.regs h) with
    | [] => .next (s.finish u g h)
    | l :: ls =>
      if !s.padReady u g false (m.ord == .sc) then .next (s.stall u g)
      else withPad s u g U G win n ((l :: ls).map fun l => (l, laneEa e G.regs x.a x.b (offOf x.c) n l)) fun oks =>
        if oks.any fun o => o.unit == u && U.dstBusy o.off n then .next (s.stall u g)
        else
          let s1 := (s.padFence u g U (m.ord == .sc) m.scope).padRead U.core (ordAcq m.ord) (oks.map (·.unit))
          let vals := oks.map fun o => (o.lane, s.spadNat o.unit o.off n)
          .next ((s1.modGroup u g fun H => H.putRegs (H.regs.write x.d (m.size == .b64) vals)).finish u g h)

/-- Store a value for each lane, in increasing lane order: the highest lane's bytes remain (R113). -/
def putPad (n : Nat) (val : Nat → Nat) : List PadLane → State → State
  | [], s => s
  | o :: os, s => putPad n val os (s.modUnit o.unit fun V => V.spadPut o.off (toBytesLE n (val o.lane)))

/-- A store to scratchpad or window (R114, R116, R117). A tentative unit's window store waits (R135); a
service program's store may move TAIL (R461). -/
def padStore (win : Bool) (h : Hd) (m : MemMod) (x : Ops4) (s : State) : Out :=
  let n := sizeBytes m.size
  issue [(x.d, sizeRegs m.size), (x.b, 1)] s fun u g U G =>
    let e := s.env U G
    match accessLanes (x.d.cls == .scal && x.b.cls == .zero) (activeLanes e G.regs h) with
    | [] => .next (s.finish u g h)
    | l :: ls =>
      let rel := m.ord != .rlx
      if (win && !U.firm) || !s.padReady u g rel (m.ord == .sc) then .next (s.stall u g)
      else withPad s u g U G win n ((l :: ls).map fun l => (l, laneEa e G.regs x.a x.b (offOf x.c) n l)) fun oks =>
        if oks.any fun o => o.unit == u && (U.dstBusy o.off n || U.srcBusy o.off n) then .next (s.stall u g)
        else
          let s1 := putPad n (storeVal e G.regs m.size x.d) oks (s.padWrote U G rel (oks.map (·.unit)))
          let s2 := s1.tailMoved u U
          .next ((s2.padFence u g U (m.ord == .sc) m.scope).finish u g h)

/-- LDS (R116). -/
def execLds (h : Hd) (m : MemMod) (x : Ops4) (s : State) : Out := padLoad false h m x s
/-- STS (R116). -/
def execSts (h : Hd) (m : MemMod) (x : Ops4) (s : State) : Out := padStore false h m x s
/-- LDX (R117). -/
def execLdx (h : Hd) (m : MemMod) (x : Ops4) (s : State) : Out := padLoad true h m x s
/-- STX (R117). -/
def execStx (h : Hd) (m : MemMod) (x : Ops4) (s : State) : Out := padStore true h m x s

/-! ### LDC (R118) -/

/-- The bank byte address of a lane. -/
def ldcAddr (e : Env) (r : Regs) (x : Ops4) (n l : Nat) : Int :=
  4 * (x.a.idx.toNat % 256 : Nat) + sext 32 (rd32 e r x.b l) * n + offOf x.c

/-- A lane of LDC that must not read, with its cause. -/
def ldcFail (n : Nat) (x : Nat × Int) : Option LaneFail :=
  if x.2 % n != 0 then some ⟨x.1, 4, patOf 64 x.2, none, 0⟩
  else if x.2 < 0 ∨ 1024 ≤ x.2 then some ⟨x.1, 6, patOf 64 x.2, none, 0⟩ else none

/-- LDC (R118). -/
def execLdc (h : Hd) (m : MemMod) (x : Ops4) (s : State) : Out :=
  let n := sizeBytes m.size
  issue [(x.d, sizeRegs m.size), (x.b, 1)] s fun u g U G =>
    let e := s.env U G
    let eas := (accessLanes (x.d.cls == .scal) (activeLanes e G.regs h)).map fun l => (l, ldcAddr e G.regs x n l)
    match eas.filterMap (ldcFail n) with
    | f :: fs => s.trapLanes u g U.ctx G (f :: fs)
    | [] =>
      let vals := eas.map fun y =>
        (y.1, ofBytesLE (spGetList 0 e.banks (1024 * (x.a.idx.toNat / 256) + y.2.toNat) n))
      .next ((s.modGroup u g fun H => H.putRegs (H.regs.write x.d (m.size == .b64) vals)).finish u g h)

/-! ### LDM and STM (R119) -/

/-- The accumulator tile a task writes (R163). -/
def Task.dst (t : Task) : Nat := bitsAt t.desc.toNat 8 4
/-- A task that has not reached a final status (R167). -/
def TaskSt.live : TaskSt → Bool
  | .queued | .running | .stalled => true
  | .done | .discarded | .cancelled | .badwait | .badstream => false

/-- An element of scratchpad as FP32 (R119); a bf16 NaN becomes the canonical one (R43). -/
def tileIn (n x : Nat) : Word :=
  if n = 2 then (if (fmtB16.decode x).isNaN then 0x7FC00000 else BitVec.ofNat 32 (x * 65536)) else BitVec.ofNat 32 x
/-- An FP32 element as scratchpad holds it (R119). -/
def tileOut (n : Nat) (x : Word) : List Byte :=
  if n = 2 then toBytesLE 2 (roundTo fmtB16 .rn false false (fmt32.decode x.toNat)) else toBytesLE 4 x.toNat

/-- Rows from scratchpad to tile. -/
def Unit.tileLoad (U : Unit) (t row n base k : Nat) : Unit :=
  let xs := (List.range (256 * k)).map fun i => tileIn n (U.spadNat (base + n * i) n)
  { U with acc := spSetList 0 U.acc (8192 * t + 256 * row) xs }
/-- Rows from tile to scratchpad. -/
def Unit.tileStore (U : Unit) (t row n base k : Nat) : Unit :=
  U.spadPut base ((spGetList 0 U.acc (8192 * t + 256 * row) (256 * k)).flatMap (tileOut n))

/-- An LDM or STM notes its tile and the number of the first task that is posted later (R119). -/
def State.markTile (s : State) (u g t : Nat) : State :=
  s.modGroup u g fun G => { G with tileFrom := match G.tileFrom with
    | some x => some x
    | none => some (t, s.nextId) }

/-- A task that an LDM or STM of the group on tile `t` waits for: a live one of that tile which it has not been followed by (R119). -/
def Task.aheadOf (y : Task) (u t : Nat) (mark : Option (Nat × Nat)) : Bool :=
  y.unit == u && y.st.live && y.dst == t && match mark with
    | some (_, n) => decide (y.seq < n)
    | none => true

/-- LDM and STM: the checks, the wait for earlier tasks on the tile, the scoreboard, then `act` on first row, element bytes, base
and number of rows (R119, R319, R326). An STM (`wr`) writes scratchpad and leaves its group's time there (R329). -/
def tileMove (wr : Bool) (busy : Unit → Nat → Nat → Bool) (act : Unit → Nat → Nat → Nat → Nat → Nat → Unit) (h : Hd) (m : MemMod)
    (x : Ops4) (s : State) : Out :=
  let n := sizeBytes m.size
  issue [(x.d, 1), (x.b, 1)] s fun u g U G =>
    let e := s.env U G
    match activeLanes e G.regs h with
    | [] => .next (s.finish u g h)
    | l :: _ =>
      let base := groupEa G.regs x.a x.c
      let b := rd32 e G.regs x.b l
      let row := bitsAt b 0 5
      let k := bitsAt b 5 5 + 1
      let t := x.d.idx.toNat
      if base % 16 != 0 then s.trapGroup u g G 4 base
      else if row + k > 32 ∨ base + 256 * k * n > U.spadSize then s.trapGroup u g G 6 base
      else if s.acqBlocked u g then .next (s.stall u g)
      else if s.tasks.any fun y => y.aheadOf u t G.tileFrom then .next ((s.markTile u g t).waitAt u g .tile)
      else if busy U base (256 * k * n) then .next ((s.markTile u g t).stall u g)
      else
        let s1 := (s.padWrote U G false (if wr then [u] else [])).tcRaise U.core U.engTime
        .next ((s1.modUnit u fun V => act V t row n base k).finish u g h)

/-- LDM (R119). -/
def execLdm (h : Hd) (m : MemMod) (x : Ops4) (s : State) : Out :=
  tileMove false (fun U lo n => U.dstBusy lo n || U.srcBusy lo n) Unit.tileLoad h m x s
/-- STM (R119). -/
def execStm (h : Hd) (m : MemMod) (x : Ops4) (s : State) : Out := tileMove true Unit.dstBusy Unit.tileStore h m x s

/-! ### Read-modify-write operations (R123, R127) -/

/-- The floating-point operations of R123 in one format. -/
def rmwFloat (f : FFmt) (code old b : Nat) : Nat :=
  match code with
  | 11 => roundTo f .rn false false ((f.decode old).add .rn (f.decode b))
  | 13 => fMinMax f false old b
  | _ => fMinMax f true old b

/-- The new value of an operation code on values of `w` bits (R123). -/
def rmwVal (code w old b : Nat) : Nat :=
  match code with
  | 0 => (old + b) % 2 ^ w
  | 1 => if intOf w true b < intOf w true old then b else old
  | 2 => min old b
  | 3 => if intOf w true old < intOf w true b then b else old
  | 4 => max old b
  | 5 => old &&& b
  | 6 => old ||| b
  | 7 => old ^^^ b
  | 8 => b
  | 9 => if b ≤ old then 0 else old + 1
  | 10 => if old = 0 ∨ b < old then b else old - 1
  | 12 => rmwFloat fmtB16 11 (bitsAt old 0 16) (bitsAt b 0 16) + 65536 * rmwFloat fmtB16 11 (bitsAt old 16 16) (bitsAt b 16 16)
  | c => rmwFloat (if w = 64 then fmt64 else fmt32) c old b

/-- `k` vector registers of a lane as one number. -/
def Regs.words (r : Regs) (i l : Nat) : Nat → Nat
  | 0 => 0
  | k + 1 => r.vec i l + 2 ^ 32 * r.words (i + 1) l k

/-! ### ATOMS and CASS (R129) -/

/-- One lane after another: the old values and the scratchpad; `f` gives a lane's new value (R113). -/
def padRmwLanes (n : Nat) (f : Nat → Nat → Nat) : List PadLane → Unit → List (Nat × Nat) × Unit
  | [], U => ([], U)
  | o :: os, U =>
    let old := U.spadNat o.off n
    let (r, V) := padRmwLanes n f os (U.spadPut o.off (toBytesLE n (f o.lane old)))
    ((o.lane, old) :: r, V)

/-- An atomic on the unit's own scratchpad (R129, R324): the low half of D receives the old value. -/
def padRmw (h : Hd) (m : MemMod) (x : Ops4) (off : Int) (f : Regs → Nat → Nat → Nat) (s : State) : Out :=
  let n := sizeBytes m.size
  let k := sizeRegs m.size
  issue [(x.d, 2 * k), (x.b, 1)] s fun u g U G =>
    let e := s.env U G
    match activeLanes e G.regs h with
    | [] => .next (s.finish u g h)
    | l :: ls =>
      let rel := m.ord == .acqrel || m.ord == .sc
      if !s.padReady u g rel (m.ord == .sc) then .next (s.stall u g)
      else withPad s u g U G false n ((l :: ls).map fun l => (l, laneEa e G.regs x.a x.b off n l)) fun oks =>
        if oks.any fun o => U.dstBusy o.off n || U.srcBusy o.off n then .next (s.stall u g)
        else
          let s1 := ((s.padFence u g U (m.ord == .sc) m.scope).padRead U.core (m.ord != .rlx) [u]).padWrote U G rel [u]
          let (olds, _) := padRmwLanes n (f G.regs) oks U
          let s2 := s1.modUnit u fun V => (padRmwLanes n (f G.regs) oks V).2
          let s3 := s2.modGroup u g fun H =>
            H.putRegs (olds.foldl (fun r y => r.putVec x.d.idx.toNat y.1 k y.2) H.regs)
          .next (((s3.tailMoved u U).padFence u g U (m.ord == .sc) m.scope).finish u g h)

/-- ATOMS (R123, R129). -/
def execAtoms (h : Hd) (m : MemMod) (x : Ops4) (s : State) : Out :=
  let k := sizeRegs m.size
  padRmw h m x 0 (fun r l old => rmwVal x.c.idx.toNat (8 * sizeBytes m.size) old (r.words (x.d.idx.toNat + k) l k)) s
/-- CASS (R127, R129). -/
def execCass (h : Hd) (m : MemMod) (x : Ops4) (s : State) : Out :=
  let k := sizeRegs m.size
  padRmw h m x (offOf x.c) (fun r l old =>
    if old = r.words x.d.idx.toNat l k then r.words (x.d.idx.toNat + k) l k else old) s

end Sys2Proof.Machine
end

