-- ==== Sys2Proof/Machine/Atomic.lean ====
section
/-! DEFINITION. Global atomics and their service groups (R122 to R128, R332 to R335, R414, R424, R449, R451, R460, R461),
condition monitors (R130 to R132, R337, R338), cache control and prefetch (R133, R134). -/

namespace Sys2Proof.Machine

open Sys2Proof

/-! ### Issue of ATOM, RED, CAS and ATOMX (R122, R124 to R128) -/

/-- What an atomic instruction asks of the service group; `reads` says whether it returns a value. -/
structure AtomForm where
  kind : ReqKind
  code : Nat
  off : Int
  uses : Uses
  deriving DecidableEq, Repr

/-- The instruction returns a value to its lanes. -/
def AtomForm.returns (f : AtomForm) : Bool := f.kind != .red

/-- An atomic of the kind and code may be performed on host memory (R449). -/
def hostAtomOk (kind : ReqKind) (code : Nat) : Bool :=
  match kind with
  | .atom => code == 0 || code == 8
  | .red => code == 0
  | .cas => true
  | .atomx => false
  | .store => true

/-- The target refuses the atomic (R449, R451). -/
def atomExtra (f : AtomForm) (s : State) (pa : Nat) : Option Nat :=
  match s.paKind pa with
  | .host => if hostAtomOk f.kind f.code then none else some 6
  | .pool _ a => if a && hostAtomOk f.kind f.code then none else some 6
  | .hbm | .peer | .bad => none

/-- Firmware operation `n` is loaded for the access size (R460). -/
def State.atomxReady (s : State) (n : Nat) (sz : Size) : Bool :=
  match s.fw with
  | none => false
  | some f => match f.atomx[n]? with
    | none => false
    | some (off, flags) => off != 0 && bitsAt flags (if sz == .b64 then 1 else 0) 1 == 1

/-- Requests of a core that wait in its send queue: none that has reached its service group (R332). -/
def State.sendQueue (s : State) (core : Nat) : Nat :=
  (s.reqs.filter fun q => q.core == core && !q.ext && q.index.isNone && !q.performed && !q.arrived).length
/-- Return slots of a core that await a reply (R332). -/
def State.slotsUsed (s : State) (core : Nat) : List Nat :=
  (s.reqs.filter fun q => q.core == core && !q.ext && q.kind != .red && !q.replied).map (·.slot)
/-- Free return slots of a core. -/
def State.slotsFree (s : State) (core : Nat) : List Nat :=
  let used := s.slotsUsed core
  (List.range 1024).filter fun i => !used.contains i

/-- The operands a lane sends: for CAS the compare value and the new value, else the operand (R124, R125, R127). -/
def atomOps (f : AtomForm) (e : Env) (r : Regs) (m : MemMod) (d : Opnd) (l : Nat) : Nat × Nat :=
  let k := sizeRegs m.size
  let i := d.idx.toNat
  match f.kind with
  | .red => (rd e r (m.size == .b64) d l, 0)
  | .cas => (r.words i l k, r.words (i + k) l k)
  | .atom | .atomx | .store => (r.words (i + k) l k, 0)

/-- The request of one lane. -/
def atomReq (s : State) (u g : Nat) (U : Unit) (G : Group) (f : AtomForm) (m : MemMod) (d : Opnd) (ops : Nat × Nat)
    (slot floor : Nat) (o : LaneOk) : Req :=
  { id := s.nextId, kind := f.kind, code := f.code, size := m.size.code.toNat, ord := m.ord.code.toNat,
    scope := scopeCode m.scope, unit := u, grp := g, launch := U.launch, core := U.core, ctx := U.ctx, va := o.ea,
    op0 := BitVec.ofNat 128 ops.1, op1 := BitVec.ofNat 128 ops.2, lane := o.lane, reg := d.idx.toNat, slot := slot,
    cluster := sliceCluster (s.homeOf (s.keyOf U.ctx o.ea).1), index := none, performed := false, reply := none,
    halves := 0, wts := floor, batch := if f.returns then 0 else G.openB, ext := false, fault := none, arrived := false,
    replied := false, pkt := none }

/-- Send the requests of the lanes, lowest lane first (R113). -/
def sendReqs (u g : Nat) (U : Unit) (G : Group) (f : AtomForm) (m : MemMod) (d : Opnd) (ops : Nat → Nat × Nat) (floor : Nat) :
    List Nat → List LaneOk → State → State
  | _, [], s => s
  | slots, o :: os, s =>
    let q := atomReq s u g U G f m d (ops o.lane) (if f.returns then slots.headD 0 else 0xFFFFFFFF) floor o
    let (p, s1) := s.sendPkt (dieOf U.core) (s.routeOf U.ctx o.ea o.pa) 1
    sendReqs u g U G f m d ops floor slots.tail os { s1 with reqs := s1.reqs ++ [{ q with pkt := p }] }.fresh

/-- The write half of an atomic releases (R30, R318). -/
def atomRel (f : AtomForm) (o : Ord) : Bool := o == .acqrel || o == .sc || (f.kind == .red && o == .half)

/-- ATOM, RED, CAS and ATOMX: a tentative unit waits (R135); checks, then room in the core's structures (R332); an .sc
access is followed by FENCE.sc once its replies are in (R324). -/
def atomStep (f : AtomForm) (h : Hd) (m : MemMod) (x : Ops4) (s : State) : Out :=
  let n := sizeBytes m.size
  issue f.uses s fun u g U G =>
    let e := s.env U G
    if G.mid then .next (s.scTail u g U h (scopeCode m.scope))
    else match accessLanes (!f.returns && x.d.cls == .scal && x.b.cls == .zero) (activeLanes e G.regs h) with
    | [] => .next (s.finish u g h)
    | l :: ls =>
      let rel := atomRel f m.ord
      if !U.firm || s.acqBlocked u g || ((rel || m.ord == .sc) && !s.quiet u g) then .next (s.stall u g)
      else withLanes s u g U G n .rmw (atomExtra f)
        ((l :: ls).map fun l => (l, laneEa e G.regs x.a x.b f.off n l)) fun oks s1 =>
          if f.kind == .atomx && !s.atomxReady f.code m.size then
            s.trapGroup u g G 16 (laneEa e G.regs x.a x.b f.off n l)
          else if 256 < s.sendQueue U.core + oks.length ||
              (f.returns && decide ((s.slotsFree U.core).length < oks.length)) ||
              !s1.flowsRoom (dieOf U.core) 1 (oks.map fun o => s1.routeOf U.ctx o.ea o.pa) then .next (s.stall u g)
          else
            let s2 := if m.ord == .sc then (s1.tcCatchUp U.core).scFence u g U.core (scopeCode m.scope) else s1
            let s3 := sendReqs u g U G f m x.d (atomOps f e G.regs m x.d) (s2.writeFloor U G rel) (s2.slotsFree U.core) oks s2
            if m.ord == .sc then .next ((s3.modGroup u g fun H => { H with mid := true }).stall u g)
            else .next (s3.finish u g h)

/-- ATOM (R124). -/
def execAtom (h : Hd) (m : MemMod) (x : Ops4) (s : State) : Out :=
  atomStep ⟨.atom, x.c.idx.toNat, 0, [(x.d, 2 * sizeRegs m.size), (x.b, 1)]⟩ h m x s
/-- RED (R125). -/
def execRed (h : Hd) (m : MemMod) (x : Ops4) (s : State) : Out :=
  atomStep ⟨.red, x.c.idx.toNat, 0, [(x.d, sizeRegs m.size), (x.b, 1)]⟩ h m x s
/-- The operands of CAS; a b128 D takes eight registers (R127). -/
def casUses (m : MemMod) (x : Ops4) : Uses :=
  let hi : Opnd := ⟨.quad, x.d.idx + 4⟩
  if m.size == .b128 then [(x.d, 4), (hi, 4), (x.b, 1)] else [(x.d, 2 * sizeRegs m.size), (x.b, 1)]
/-- CAS (R127). -/
def execCas (h : Hd) (m : MemMod) (x : Ops4) (s : State) : Out := atomStep ⟨.cas, 0, offOf x.c, casUses m x⟩ h m x s
/-- ATOMX (R128). -/
def execAtomx (h : Hd) (m : MemMod) (x : Ops4) (s : State) : Out :=
  atomStep ⟨.atomx, x.c.idx.toNat, 0, [(x.d, 2 * sizeRegs m.size), (x.b, 1)]⟩ h m x s

/-! ### Performance at the home (R122, R329, R333) -/

/-- New value, where one is written, and returned value of an RMW on the location's value (R123, R127, R128). -/
def rmwApply (kind : ReqKind) (code size : Nat) (op0 op1 : BitVec 128) (old : Nat) : Option Nat × Nat :=
  let w := 8 * 2 ^ size
  match kind with
  | .atom | .red => (some (rmwVal code w old op0.toNat), old)
  | .cas => (if old = op0.toNat then some op1.toNat else none, old)
  | .store => (some op0.toNat, old)
  | .atomx =>
    let r := Config.atomxFun code (2 ^ size) (BitVec.ofNat 128 old) op0
    (some (r.1.toNat % 2 ^ w), r.2.toNat % 2 ^ w)

/-- What a request does to the location's value. -/
def Req.apply (q : Req) (old : Nat) : Option Nat × Nat := rmwApply q.kind q.code q.size q.op0 q.op1 old

/-- The die that a request's write comes from: none for the front end. -/
def Req.fromDie (q : Req) : Nat := if isCore q.core then dieOf q.core else 4

/-- The die that a request is sent from: for the front end the one that holds its queue's slot. -/
def State.reqFrom (s : State) (q : Req) : Nat := if isCore q.core then dieOf q.core else s.queueDie q.grp

/-- The tile-cache hit or miss of a core's request (R212). -/
def State.countReq (s : State) (q : Req) (pa : Nat) : State :=
  if q.ext || !isCore q.core then s
  else if s.reqPhys q then s.countTile q.unit q.grp pa (s.physHolds (dieOf q.core) pa (2 ^ q.size))
  else s.countTile q.unit q.grp pa (s.homeHolds q.ctx q.va (2 ^ q.size))

/-- A core's read horizon takes the time of a read made for it at a home (R329). -/
def State.rhCore (s : State) (core w : Nat) : State := if isCore core then s.rhRaise core w else s

/-- Perform a request as one indivisible step at its home (R122, R329). -/
def State.performReq (s : State) (q : Req) (pa : Nat) : State :=
  let n := 2 ^ q.size
  let (bs, s1) := ((s.countReq q pa).heatReq q.ctx q.va pa).readPage 4 q.ctx none q.va pa n
  match q.apply (ofBytesLE bs) with
  | (none, ret) =>
    let w := s1.readTime (dieOf q.core) q.ctx q.va pa true
    (s1.rhCore q.core w).endReq q ret (if q.ord != 0 then w else 0)
  | (some x, ret) =>
    let (s2, w) := s1.writePage q.fromDie q.ctx q.va pa (s1.tcOf q.core) q.wts (toBytesLE n x)
    (s2.wrote pa n).endReq q ret w

/-! ### SERVICE_REQUEST_DELIVERY (R333, R414, R424, R461) -/

/-- The service unit of a cluster. -/
def State.svcUnit (s : State) (cl : Nat) : Option Nat :=
  s.units.findIdx? fun V => V.svc && V.core == 512 + cl && V.st == .resident

/-- An older access of the same group to the request's bytes has not been performed (R316); a release of the front end
follows all its queue's earlier writes (R385). -/
def State.reqBlocked (s : State) (q : Req) : Bool :=
  let n := 2 ^ q.size
  (q.unit == frontUnit && q.ord != 0 && s.reqs.any fun p => decide (p.id < q.id) && p.unit == frontUnit && p.grp == q.grp) ||
  (s.reqs.any fun p => decide (p.id < q.id) && p.index.isNone && !p.performed && p.unit == q.unit && p.grp == q.grp &&
      p.ext == q.ext && p.overlaps q.va n) ||
    (s.loads.any fun p => decide (p.id < q.id) && p.unit == q.unit && p.grp == q.grp && q.overlaps p.va 32) ||
    (s.stores.any fun p => decide (p.id < q.id) && p.unit == q.unit && p.grp == q.grp && p.wts.isNone && p.overlaps q.va n)

/-- The service group of the request's home holds as many faulted requests as it can, and takes no more (R414). -/
def State.faultsHeld (s : State) (q : Req) : Bool :=
  decide (256 ≤ (s.reqs.filter fun p => p.cluster == q.cluster && p.fault.isSome).length)

/-- A request of the cluster to the same line waits behind a fault, or the group takes none (R414). -/
def State.behindFault (s : State) (q : Req) : Bool :=
  (s.reqs.any fun p => p.id != q.id && p.fault.isSome && (s.keyOf p.ctx p.va).1 == (s.keyOf q.ctx q.va).1) || s.faultsHeld q

/-- The fault record of a request (R421, R424); the front end is named by its queue. -/
def reqRecord (s : State) (q : Req) (w : WalkInfo) (state : Nat) : FaultRec :=
  let idx := match s.units[q.unit]? with
    | some U => U.idx
    | none => q.grp
  ⟨BitVec.ofNat 64 q.va, q.ctx, if w.kind == 6 then 8 else if q.core == frontCore then 10 else 7, w.kind, w.access, state, w.level, q.launch, idx,
    if q.core == frontCore then 0 else whereOf q.core 0, if q.core == frontCore || w.kind == 6 then 0 else BitVec.ofNat 64 q.slot, 0⟩

/-- The request is charged to a queue: the front end makes it for no launch (R421). -/
def Req.ofQueue (q : Req) : Bool := q.core == frontCore && q.launch == 0

/-- The die whose fault queue serves a request: the one that holds the queue's slot for the front end, and the home's otherwise
(R1, R420). -/
def State.reqDie (s : State) (q : Req) : Nat := if q.core == frontCore then s.queueDie q.grp else q.cluster / 4 % 4

/-- Post the record of a request that faults; it waits for the replay (R126, R424). A non-canonical address ends the launch
charged, and the request is dropped (R490). -/
def State.reqFault (s : State) (q : Req) (w : WalkInfo) : State :=
  match s.postKept (s.reqDie q) (reqRecord s q w (if w.kind == 7 then 3 else 1)) (.req q.id) with
  | none => s
  | some (s1, seq) =>
    if w.kind == 7 then
      let s2 : State := { s1 with reqs := s1.reqs.filter (·.id != q.id) }
      if q.ofQueue then s2 else s2.failLaunch q.launch seq
    else { s1 with reqs := s1.reqs.map fun (p : Req) =>
      if p.id == q.id then { p with fault := some (s.reqDie q, seq), arrived := true } else p }

/-- RSLOT of a request (R461, R462). -/
def Req.rslot (q : Req) : Nat :=
  if q.kind == .red then 0xFFFFFFFF else if q.ext then q.slot else q.core % 512 + 512 * q.slot

/-- The 64 bytes of a request entry (R461). -/
def Req.entry (q : Req) (pa : Nat) : List Byte :=
  let kind := match q.kind with
    | .atom => 1
    | .red => 2
    | .cas => 3
    | .atomx => 4
    | .store => 0
  toBytesLE 8 pa ++ toBytesLE 16 q.op0.toNat ++ toBytesLE 16 q.op1.toNat ++ toBytesLE 1 kind ++ toBytesLE 1 q.code ++
    toBytesLE 1 q.size ++ toBytesLE 1 (q.ord + 4 * q.scope) ++
    toBytesLE 4 q.rslot ++ toBytesLE 8 q.launch.toNat ++
    toBytesLE 8 0

/-- Write a request into a service unit's queue, then HEAD (R461). -/
def State.enqueueReq (s : State) (q : Req) (v pa : Nat) : State :=
  let head := s.spadNat v 0 8
  if 4096 ≤ (head + 2 ^ 64 - s.spadNat v 8 8) % 2 ^ 64 then s
  else
    let s1 := (s.countReq q pa).modUnit v fun V =>
      (V.spadPut (4096 + 64 * (head % 4096)) (q.entry pa)).spadPut 0 (toBytesLE 8 ((head + 1) % 2 ^ 64))
    { s1 with reqs := s1.reqs.map fun (p : Req) => if p.id == q.id then { p with index := some head, cluster := q.cluster } else p }

/-- A request that meets uncorrectable data is not performed, and ends the launch it is charged to (R434). -/
def State.reqConsumes (s : State) (q : Req) (pa : Nat) : State :=
  let s1 : State := { s with reqs := s.reqs.filter (·.id != q.id) }
  if q.ofQueue || q.ext then s1.detect 0 pa else s1.consume q.launch pa

/-- An atomic on host memory that the host completes with an error, since it does not support AtomicOps (R449). -/
def State.hostRefuses (s : State) (q : Req) (pa : Nat) : Bool :=
  q.kind != .store && (s.paKind pa matches .host) && !Config.hostAtomics

/-- Such an atomic is not performed, and its launch ends UNCORR (R449). -/
def State.reqRefused (s : State) (q : Req) : State :=
  let s1 : State := { s with reqs := s.reqs.filter (·.id != q.id) }
  if q.ofQueue then s1 else s1.uncorrLaunch q.launch

/-- Perform a request by its physical address as one indivisible step at its home (R122, R454; log entry 22). -/
def State.performPhys (s : State) (q : Req) (pa : Nat) : State :=
  let n := 2 ^ q.size
  let die := sliceDie (s.paSlice pa)
  match q.apply (s.physNat pa n) with
  | (none, ret) => (s.svcAtHome die 1 pa).endReq q ret 0
  | (some x, ret) => let s1 := s.svcWrite die pa (toBytesLE n x); s1.endReq q ret (s1.physTime die pa)

/-- The service program that takes a request by its physical address: that of the cluster whose slices are the address's home (R454, R461).
-/
def State.physSvc (s : State) (q : Req) (pa : Nat) : Option Nat :=
  if s.cached pa && !(s.paKind pa matches .peer | .host) then s.svcUnit q.cluster else none

/-- A request by its physical address is performed at once where no service program takes it: after the invalidations of every sharer but
the peer that makes it (R454), held pages and locked lines; uncorrectable data ends its launch (R434). -/
def State.deliverPhys (s : State) (q : Req) (pa : Nat) : State :=
  let n := 2 ^ q.size
  match s.physSvc q pa with
  | some v => s.enqueueReq q v pa
  | none =>
    if s.lockedPa pa n || s.heldPage pa || s.invalPending pa then s
    else if s.uncorrIn pa n then s.reqConsumes q pa
    else if s.hostRefuses q pa then s.reqRefused q
    else if !s.cached pa then s.performPhys q pa
    else
      let (done, s1) := s.extInval pa (if q.ext then some q.grp else none) false
      if done then s1.performPhys q pa else s1

/-- A translated request: one that a failed link cuts off ends its launch (R443); a service program takes it where its home is a slice
of the device, the host where it names host memory, or it is performed at once. Uncorrectable data ends its launch (R434), and its write
waits for invalidations, held pages, locked lines and the hold (R213, R437, R439, R449, R478). -/
def State.deliverReq (s : State) (q : Req) (pa : Nat) : State :=
  let svc := if s.cached pa && !(s.paKind pa matches .peer | .host) && q.kind != .store then s.svcUnit q.cluster else none
  let n := 2 ^ q.size
  if s.cutWrite (s.reqFrom q) q.ctx q.va pa then s.reqConsumes q pa
  else match svc with
  | some v => s.enqueueReq q v pa
  | none =>
    if s.lockedRange q.ctx q.va n || s.heldPage pa || s.invalPending pa || s.writeHeld q.ctx q.va pa n then s
    else if s.uncorrIn pa n then s.reqConsumes q pa
    else if s.hostRefuses q pa then s.reqRefused q
    else if !s.cached pa then s.performReq q pa
    else
      let (w, s1) := startInvals pa q.fromDie (s.keysOf q.ctx q.va n) s
      if w then s1 else s.performReq q pa

/-- A reply that waits for its other half (R462). -/
def Req.half (q : Req) : Bool := q.index.isSome && q.size == 4 && q.halves != 3

/-- A request whose reply has arrived is done once it has been performed; one that its service program has yet to pass stays until
then (R461, R462). -/
def State.replyDone (s : State) (q : Req) : State :=
  if q.performed then { s with reqs := s.reqs.filter (·.id != q.id) }
  else { s with reqs := s.reqs.map fun (p : Req) => if p.id == q.id then { p with replied := true } else p }

/-- ATOMIC_REPLY: a reply arrives; the lane's registers take the value and the core its stamp, and the core drops its own copy of
the location (R124, R127, R316, R329, R462). -/
def execAtomicReply (id : Nat) (s : State) : Out :=
  match s.reqs.find? fun q => q.id == id && !q.replied && !q.half with
  | none => .next s
  | some q =>
    match q.reply with
    | none => .next s
    | some v =>
      let s1 := (((s.replyDone q).ackPkt q.pkt).l1Drop q.core q.ctx q.va (2 ^ q.size)).ackCore q.core
        (if q.performed then q.wts else s.reqTime q)
      let k := 2 ^ (q.size - 2)
      .next (s1.modGroup q.unit q.grp fun G =>
        { G with v := (Regs.putVec ⟨G.v, [], [], [], [], []⟩ q.reg q.lane k v.toNat).v })

/-! ### WAITC (R130 to R132, R337, R338) -/

/-- The home of an address lies outside the device (R132). -/
def State.homeOutside (s : State) (pa : Nat) : Bool :=
  match s.paKind pa with
  | .hbm => false
  | .host | .pool _ _ | .peer | .bad => true

/-- Monitors of a slice in use: one for each watched word (R337). -/
def State.monsAt (s : State) (sl : Nat) : Nat :=
  (((s.monitors.filter fun m => s.homeOf (s.keyOf m.ctx m.va).1 == sl).map fun m => (m.ctx, m.va)).dedup).length

/-- Arm a monitor on a word for a watcher; false where none is free or the home is outside the device (R132, R337). -/
def State.armWord (s : State) (w : Watcher) (ctx va pa : Nat) : Bool × State :=
  let m : Monitor := ⟨w, ctx, va / 8 * 8⟩
  if s.homeOutside pa then (false, s)
  else if s.monitors.contains m then (true, s)
  else if (s.monitors.any fun x => x.ctx == ctx && x.va == m.va) || s.monsAt (s.homeOf (s.keyOf ctx m.va).1) < 4096 then
    (true, { s with monitors := m :: s.monitors })
  else (false, s)

/-- Arm a monitor for a lane's word, or poll (R132, R337). -/
def State.armMon (s : State) (u g ctx : Nat) (o : LaneOk) : State :=
  match s.armWord (.group u g) ctx o.ea o.pa with
  | (true, s1) => s1
  | (false, s1) => s1.modGroup u g fun G => { G with sleepUntil := s.clock + 1024 }

/-- Release the monitors of a group but those of the words given: the words of lanes that still wait (R337). -/
def State.disarmBut (s : State) (u g : Nat) (words : List Nat) : State :=
  { s with monitors := s.monitors.filter fun m => !(m.who == .group u g && !words.contains m.va) }
/-- Release the monitors of a group. -/
def State.disarm (s : State) (u g : Nat) : State := s.disarmBut u g []

/-- The data of a lane's word cannot be had (R434, R443). -/
def State.waitcLost (s : State) (U : Unit) (n : Nat) (o : LaneOk) : Bool :=
  s.uncorrIn o.pa n || s.cutRead (dieOf U.core) U.ctx o.ea o.pa

/-- Read the word of each unresolved lane as its die sees it, which counts as a miss of the L1 (R131, R439, R475; log entry 14); a value
that satisfies the compare resolves it. None where the data cannot be had. -/
def waitcRead (u g : Nat) (U : Unit) (m : WaitMod) (ref : Nat → Nat) : List LaneOk → State → Option (List (Nat × Nat) × State)
  | [], s => some ([], s)
  | o :: os, s =>
    let n := if m.b64 then 8 else 4
    if s.waitcLost U n o then none
    else
      let (bs, s1) := (s.heatRead (dieOf U.core) U.ctx o.ea o.pa).readPage (dieOf U.core) U.ctx (some u) o.ea o.pa n
      let x := ofBytesLE bs
      let w := s1.readTime (dieOf U.core) U.ctx o.ea o.pa false
      let s2 := (s1.rhRaise U.core w).l1Drop U.core U.ctx o.ea n
      if wcmp m.cmp (8 * n) x (ref o.lane) then
        match waitcRead u g U m ref os (if m.acq then s2.tcRaise U.core w else s2) with
        | none => none
        | some (r, s3) => some ((o.lane, x) :: r, s3)
      else waitcRead u g U m ref os s2

/-- The group's own writes to a word are still on their way (R316). -/
def State.ownWrites (s : State) (u g : Nat) (oks : List LaneOk) (n : Nat) : Bool := oks.any fun o => s.ownPending u g o.ea n

/-- The ports through which the reads of a WAITC leave the device. -/
def State.waitcRoutes (s : State) (oks : List LaneOk) : List Nat := oks.filterMap fun o => s.outPort o.pa

/-- A reading has to wait: for the group's own writes, for a locked line (R213), for the hold (R437), for a proxy copy (R439), or for room
in a flow (R442). -/
def State.waitcHeld (s : State) (u g : Nat) (U : Unit) (oks : List LaneOk) (n : Nat) : Bool :=
  s.ownWrites u g oks n || !s.flowsRoom (dieOf U.core) 0 (s.waitcRoutes oks) ||
    oks.any fun o => s.lockedRange U.ctx o.ea n || s.fillHeld U.ctx o.ea o.pa n ||
      (s.cached o.pa && !s.readableRange (dieOf U.core) U.ctx o.ea n)

/-- A reading is counted (R212) and asks for the proxy copies that its die lacks (R439). -/
def State.waitcFetch (s : State) (u g : Nat) (U : Unit) (n : Nat) (o : LaneOk) : State :=
  let s1 := s.countTile u g o.pa (s.presentRange (dieOf U.core) U.ctx o.ea n)
  if s1.cached o.pa && !s1.cutRead (dieOf U.core) U.ctx o.ea o.pa then
    (s1.keysOf U.ctx o.ea n).foldl (fun t k => t.proxyFill (dieOf U.core) k) s1
  else s1

/-- A reading that has to wait is made again in the next cycle (R338). -/
def State.waitcLater (s : State) (u g : Nat) (held : List (Nat × Nat)) : State :=
  (s.waitAt u g .waitc).modGroup u g fun H => { H with wcVals := held, wcPoll := true, wakeBy := s.clock + 1 }

/-- One reading of the unresolved lanes: the group resumes once every lane is resolved. -/
def State.waitcTry (s : State) (u g : Nat) (U : Unit) (h : Hd) (m : WaitMod) (x : Ops4) (all : List Nat) (ref : Nat → Nat)
    (oks : List LaneOk) (held : List (Nat × Nat)) : State :=
  let n := if m.b64 then 8 else 4
  let ds := s.waitcRoutes oks
  match oks.find? (s.waitcLost U n) with
  | some o => (s.disarm u g).consume U.launch o.pa
  | none =>
    if s.waitcHeld u g U oks n then s.waitcLater u g held
    else match waitcRead u g U m ref oks ((s.passPkts (dieOf U.core) 0 ds).backPkts (dieOf U.core) 0 ds) with
    | none => s.waitcLater u g held
    | some (r, s1) =>
      let vals := held ++ r
      if all.all fun l => vals.any fun v => v.1 == l then
        ((s1.disarm u g).modGroup u g fun H =>
          { H.putRegs (vals.foldl (fun r v => r.putVec x.d.idx.toNat v.1 (n / 4) v.2) H.regs) with
            wcVals := [], wcPoll := false, wakeBy := 0 }).finish u g h
      else
        let words := (oks.filter fun o => !r.any fun v => v.1 == o.lane).map fun o => o.ea / 8 * 8
        ((s1.disarmBut u g words).waitAt u g .waitc).modGroup u g fun H => { H with wcVals := vals, wcPoll := false, wakeBy := 0 }

/-- WAITC (R130 to R132): the first execution arms its monitors and then reads; a wake or the poll reads again. -/
def execWaitc (h : Hd) (m : WaitMod) (x : Ops4) (s : State) : Out :=
  let n := if m.b64 then 8 else 4
  issue [(x.d, n / 2), (x.b, 1)] s fun u g U G =>
    let e := s.env U G
    let all := activeLanes e G.regs h
    let first := G.st != .waiting .waitc
    if all.isEmpty then .next (s.finish u g h)
    else if !first && !G.wcPoll then .next s
    else if first && s.acqBlocked u g then .next (s.stall u g)
    else
      let held := if first then [] else G.wcVals
      let open_ := all.filter fun l => !held.any fun v => v.1 == l
      let t := if first then s else s.disarm u g
      match checkLanes U G n .read noExtra (open_.map fun l => (l, laneEa e G.regs x.a x.b (offOf x.c) n l)) s with
      | (_, _, f :: fs) =>
        if walksWait (f :: fs) then .next (if first then s.stall u g else s.waitcLater u g held) else t.trapLanes u g U.ctx G (f :: fs)
      | (s1, oks, []) =>
        let s2 := if first then oks.foldl (fun t o => t.armMon u g U.ctx o) (s1.tcCatchUp U.core) else s1.tcCatchUp U.core
        .next ((oks.foldl (fun t o => t.waitcFetch u g U n o) s2).waitcTry u g U h m x all (fun l => G.regs.words (x.d.idx.toNat + n / 4) l (n / 4)) oks held)

/-- WAITC_REPOLL: 1,024 cycles have passed, and a polling group reads again before anything else of the cycle (R132, R338); an evicted
unit becomes eligible (R253). -/
def execWaitcRepoll (u g : Nat) (s : State) : Out :=
  match s.group? u g with
  | none => .next s
  | some (U, G) =>
    if G.st == .waiting .waitc && G.sleepUntil != 0 && decide (G.sleepUntil ≤ s.clock) then
      .next ((s.modUnit u fun V => if U.st == .saved then { V with eligible := true } else V).modGroup u g fun H =>
        { H with wcPoll := true, sleepUntil := G.sleepUntil + 1024, wakeBy := s.clock })
    else .next s

/-! ### CCTL and PREF (R133, R134) -/

/-- A request to write a line back reaches its home slice, which wakes; it travels as a write does (R438, R442; log entry
107). -/
def State.cctlAsk (s : State) (U : Unit) (k : Key) : State :=
  let d := sliceDie (s.homeOf k)
  ((s.touchSlice (s.homeOf k)).passPkts (dieOf U.core) 1 [d]).backPkts (dieOf U.core) 1 [d]

/-- A lane's line may not be written back now: it is locked, or a flow has no room (R213, R442). -/
def State.cctlHeld (s : State) (U : Unit) (ea : Nat) : Bool :=
  let k := (s.keyOf U.ctx ea).1
  s.lockedRange U.ctx ea 1 || !s.flowRoom (dieOf U.core) (sliceDie (s.homeOf k)) 1 1 || (s.line? k).any fun l => !s.wbRoom l

/-- The effect of CCTL on one lane's line. -/
def State.cctlLane (s : State) (U : Unit) (op : CctlOp) (ea : Nat) : State :=
  let k := (s.keyOf U.ctx ea).1
  match op with
  | .l1inv => { s with l1 := s.l1.filter fun y => !(y.core == U.core && y.ctx == U.ctx && y.va / 4 == ea / 128) }
  | .l1all => { s with l1 := s.l1.filter fun y => !(y.core == U.core && y.ctx == U.ctx) }
  | .wb => (s.cctlAsk U k).writeBack k
  | .wbinv => ((s.cctlAsk U k).writeBack k).dropLine k

/-- CCTL (R133): a write-back is performed at once; it waits for a locked line, and in a tentative unit. -/
def execCctl (h : Hd) (op : CctlOp) (x : Ops4) (s : State) : Out :=
  issue [(x.b, 1)] s fun u g U G =>
    let e := s.env U G
    match activeLanes e G.regs h with
    | [] => .next (s.finish u g h)
    | l :: ls =>
      let wb := op == .wb || op == .wbinv
      if (wb && !U.firm) || s.acqBlocked u g then .next (s.stall u g)
      else withLanes s u g U G 1 .read noExtra
        ((l :: ls).map fun l => (l, laneEa e G.regs x.a x.b (offOf x.c) 1 l)) fun oks s1 =>
          if wb && oks.any fun o => s1.cctlHeld U o.ea then .next (s.stall u g)
          else .next ((oks.foldl (fun t o => t.cctlLane U op o.ea) s1).finish u g h)

/-- Bring one sector into L1 with the shortest lease (R134, R329); a hint counts no page heat (R33). -/
def State.prefSector (s : State) (U : Unit) (hint : Bool) (va pa : Nat) : State :=
  if !s.cached pa || s.uncorrIn pa 32 || !s.readableRange (dieOf U.core) U.ctx va 32 || s.lockedRange U.ctx va 32 ||
      s.fillHeld U.ctx va pa 32 then s
  else
    let (bs, s1) := (if hint then s else s.heatRead (dieOf U.core) U.ctx va pa).readPage (dieOf U.core) U.ctx none va pa 32
    let (s2, w) := leaseAll U.core 1 (s.tcOf U.core) (s1.keysOf U.ctx va 32) s1
    s2.l1Keep ⟨U.core, U.ctx, va / 32, bs, s.tcOf U.core, w⟩

/-- A translation has written no memory: the leaf's ACC bit was set, or no walk was made. -/
def State.sameMemory (s t : State) : Bool := decide (s.mem = t.mem ∧ s.lines = t.lines)

/-- Bring a lane's line into the tile cache at its home (R134); the request travels in a flow, and none is made over a failed link, behind a
lock or while the fill must wait (R213, R437, R442, R443). -/
def State.prefTc (s : State) (U : Unit) (ea pa : Nat) : State :=
  let k := (s.keyOf U.ctx ea).1
  let d := sliceDie (s.homeOf k)
  if !s.cached pa || s.cutPa pa || s.cutDies (dieOf U.core) d || s.fillHeld U.ctx ea pa 1 || s.lockedRange U.ctx ea 1 ||
      !s.flowRoom (dieOf U.core) d 0 1 then s
  else (((s.passPkts (dieOf U.core) 0 [d]).backPkts (dieOf U.core) 0 [d]).fill k (some ((s.keyOf U.ctx ea).2, pa))).1

/-- The walk of a lane of PREF has to wait (R213, R438, R442). -/
def State.prefWaits (s : State) (U : Unit) (G : Group) (ea : Nat) : Bool :=
  !U.svc && canonical ea && s.mustWait (.core U.core) (dieOf U.core) U.ctx ea .read G.sup

/-- PREF's effect on one lane: a lane whose address is not canonical or does not translate is dropped (R134), and a hint's whose
translation would write memory (R33). -/
def State.prefLane (s : State) (U : Unit) (G : Group) (hint tc : Bool) (ea : Nat) : State :=
  if U.svc || !canonical ea then s
  else match s.translate (.core U.core) (dieOf U.core) U.ctx ea .read G.sup with
    | .error _ => s
    | .ok (pa, s1) =>
      if hint && !s.sameMemory s1 then s
      else if tc then
        s1.prefTc U ea pa
      else (List.range 4).foldl (fun t i => t.prefSector U hint (ea / 128 * 128 + 32 * i) (pa - ea % 128 + 32 * i)) s1

/-- PREF (R134), and HPREF with its hint's limits (R33, R197). -/
def prefStep (h : Hd) (hint tc : Bool) (x : Ops4) (s : State) : Out :=
  issue [(x.b, 1)] s fun u g U G =>
    let e := s.env U G
    let eas := (activeLanes e G.regs h).map fun l => laneEa e G.regs x.a x.b (offOf x.c) 1 l
    if !hint && eas.any fun ea => s.prefWaits U G ea then .next (s.stall u g)
    else .next ((eas.foldl (fun t ea => t.prefLane U G hint tc ea) (s.tcCatchUp U.core)).finish u g h)
/-- PREF (R134). -/
def execPref (h : Hd) (tc : Bool) (x : Ops4) (s : State) : Out := prefStep h false tc x s

end Sys2Proof.Machine
end

