-- ==== Sys2Proof/Machine/Engine.lean ====
section
/-! DEFINITION. What the engines share that reach global memory on a unit's or a queue's behalf: reads and writes through the
translation caches of their die (R309, R411, R434, R439), and the fault records they post (R414, R421, R490, R481). -/

namespace Sys2Proof.Machine

open Sys2Proof

/-- The outcome of one request of an engine: its result, a fault at an address, uncorrectable data at a physical address,
or a wait that leaves the state given. -/
inductive Piece (α : Type) where
  | ok (a : α) (s : State)
  | fault (va : Nat) (w : WalkInfo)
  | uncorr (pa : Nat)
  | wait (s : State)

/-- Who makes an engine's access: translation place, die, context, and the unit whose tentative lines it sees. -/
structure Port where
  place : TlbPlace
  die : Nat
  ctx : Nat
  unit : Option Nat
  deriving DecidableEq, Repr

/-- A fault of an engine's translation; a walk that meets an uncorrectable entry consumes it (R434), and one that must wait is made
again. -/
def Piece.ofWalk {α : Type} (s : State) (va : Nat) (w : WalkInfo) : Piece α :=
  if w.kind == kindWait then .wait s else if w.kind == kindUncorr then .uncorr w.level else .fault va w

/-- A byte may be read on the die of a port. -/
def State.engReadable (s : State) (p : Port) (va pa : Nat) : Bool := s.readReady p.die p.ctx va pa 1

/-- The last byte of its line among those that a request reads: the read of a line that leaves the device is one packet (R442). -/
def lineEnds (va : Nat) : List (Option Nat) → Bool
  | some v :: _ => v / 256 != va / 256
  | none :: _ | [] => true

/-- The packet of a read that leaves the device (R442). -/
def State.sentRead (s : State) (p : Port) (pa : Nat) (last : Bool) : State :=
  match s.outPort pa with
  | none => s
  | some o => if last then (s.passPkts p.die 0 [o]).backPkts p.die 0 [o] else s

/-- Read bytes given by their addresses, none for a byte outside the tensor, which reads as zero (R151, R157). -/
def engRead (p : Port) : List (Option Nat) → State → Piece (List Byte)
  | [], s => .ok [] s
  | none :: r, s =>
    match engRead p r s with
    | .ok bs s1 => .ok (0 :: bs) s1
    | e => e
  | some va :: r, s =>
    if !canonical va then .fault va ⟨7, 0, 0⟩
    else match s.translate p.place p.die p.ctx va .read false with
      | .error w => .ofWalk s va w
      | .ok (pa, s1) =>
        if s1.uncorrIn pa 1 || s1.cutRead p.die p.ctx va pa then .uncorr pa
        else if !s1.engReadable p va pa then .wait s
        else
          let (b, s2) := (s1.sentRead p pa (lineEnds va r)).readPage p.die p.ctx p.unit va pa 1
          match engRead p r s2 with
          | .ok bs s3 => .ok (b ++ bs) s3
          | e => e

/-- One heat event for a write that starts at an address (R475). -/
def State.engHeat (s : State) (ctx : Nat) (vas : List (Option Nat)) : State :=
  match vas.filterMap id with
  | [] => s
  | va :: _ => match s.walkPa ctx va with
    | some pa => s.heatReq ctx va pa
    | none => s

/-- One heat event for a read that starts at an address and that no proxy copy of the die serves (R475). -/
def State.engReadHeat (s : State) (die ctx : Nat) (vas : List (Option Nat)) : State :=
  match vas.filterMap id with
  | [] => s
  | va :: _ => if s.reachesHome die ctx va then s.engHeat ctx vas else s

/-- A write has its turn and room in its flow (R442). -/
def State.writeTurn (s : State) (p : Port) (va pa : Nat) : Bool :=
  let o := s.routeOf p.ctx va pa
  s.flowRoom p.die o 1 1 && !s.behindWrite (s.nextPkt p.die o 1) p.ctx va

/-- A translated byte may be written: the reservation of a compressed page (KIND 6 where it fails), holds, locks, invalidations and the
flow it travels in (R437, R439, R442, R478, R481). -/
def engAdmit (p : Port) (va pa : Nat) (s : State) : Piece PUnit :=
  match s.reserve pa with
  | none => .fault va ⟨6, 1, 0⟩
  | some s2 =>
    if s2.cutWrite p.die p.ctx va pa then .uncorr pa
    else if s2.heldPage pa || s2.invalPending pa || (s2.cached pa && s2.lockedRange p.ctx va 1) || s2.writeHeld p.ctx va pa 1 ||
        !s2.writeTurn p va pa then .wait s2
    else if s2.cached pa && (s2.startInval (s2.keyOf p.ctx va).1 pa p.die none false).1 then
      .wait (s2.startInval (s2.keyOf p.ctx va).1 pa p.die none false).2
    else .ok ⟨⟩ s2

/-- Check bytes to be written, each translated and admitted. -/
def engCheck (p : Port) : List (Nat × Byte) → State → Piece (List (Nat × Nat × Byte))
  | [], s => .ok [] s
  | (va, b) :: r, s =>
    if !canonical va then .fault va ⟨7, 1, 0⟩
    else match s.translate p.place p.die p.ctx va .write false with
      | .error w => .ofWalk s va w
      | .ok (pa, s1) => match engAdmit p va pa s1 with
        | .fault a w => .fault a w
        | .uncorr a => .uncorr a
        | .wait s2 => .wait s2
        | .ok _ s2 => match engCheck p r s2 with
          | .ok xs s3 => .ok ((va, pa, b) :: xs) s3
          | e => e

/-- Sectors with uncorrectable data that the bytes replace whole. -/
def State.replaced (s : State) (xs : List (Nat × Nat × Byte)) : List Nat :=
  s.uncorr.filter fun x => (List.range 32).all fun i => xs.any fun y => y.2.1 == 32 * x + i

/-- What follows the performance of written bytes. -/
def bytesWrote : List (Nat × Nat × Byte) → State → State
  | [], s => s
  | x :: xs, s => bytesWrote xs (s.wrote x.2.1 1)

/-- Write checked bytes at their homes: the largest stamp. -/
def engPut (p : Port) (tc floor : Nat) (xs : List (Nat × Nat × Byte)) (s : State) : State × Nat :=
  let (s1, w) := s.writeList p.die p.ctx tc floor xs
  (bytesWrote xs s1, w)

/-- Where the lines of a write travel to, each line once (R442). -/
def State.engRoutes (s : State) (p : Port) (xs : List (Nat × Nat × Byte)) : List Nat :=
  ((xs.map fun x => ((s.keyOf p.ctx x.1).1, s.routeOf p.ctx x.1 x.2.1)).dedup).map (·.2)

/-- Write checked bytes as one request. A merge into an uncorrectable sector is not performed (R434). -/
def engStore (p : Port) (tc floor : Nat) (xs : List (Nat × Nat × Byte)) (s1 : State) : Piece Nat :=
  let rep := s1.replaced xs
  match xs.find? fun y => s1.uncorrIn y.2.1 1 && !rep.contains (y.2.1 / 32) with
  | some y => .uncorr y.2.1
  | none =>
    let ds := s1.engRoutes p xs
    let (s2, w) := engPut p tc floor xs ((s1.passPkts p.die 1 ds).backPkts p.die 1 ds)
    .ok w { s2 with uncorr := s2.uncorr.filter fun x => !rep.contains x }

/-- Write bytes as one request, all or none: the stamp. -/
def engWrite (p : Port) (tc floor : Nat) (bs : List (Nat × Byte)) (s : State) : Piece Nat :=
  match engCheck p bs s with
  | .ok xs s1 => engStore p tc floor xs s1
  | .fault va w => .fault va w
  | .uncorr pa => .uncorr pa
  | .wait s1 => .wait s1

/-- SOURCE of a record: the compression path reports a reservation that failed (R421, R481). -/
def engSource (src kind : Nat) : Nat := if kind == 6 then 8 else src

/-- Post an engine's record (R414): in STATE 3 for a non-canonical address, whose launch then ends (R490), with an event for
a reservation that failed, whose record comes from the compression path (R421, R481). Answers whether the record is pending; none for a
record in STATE 3 while the ring is full. -/
def State.engPost (s : State) (die : Nat) (r : FaultRec) (agent : FaultAgent) : Option (State × Option (Nat × Nat)) :=
  let r0 := if r.kind == 6 then { r with loc := r.loc % 512, detail0 := 0, detail1 := 0 } else r
  let r1 := { r0 with source := engSource r.source r.kind, state := if r.kind == 7 then 3 else 1 }
  match s.postKept die r1 agent with
  | none => none
  | some (s1, seq) =>
    if r.kind == 7 then some (if r.launch == 0 then (s1, some (die, seq)) else (s1.failLaunch r.launch seq, none))
    else if r.kind == 6 then
      some (s1.reserveFailed r.ctx ((s1.walkPa r.ctx r.va.toNat).getD 0), some (die, seq))
    else some (s1, some (die, seq))

end Sys2Proof.Machine
end

