-- ==== Sys2Proof/Machine/Async.lean ====
section
/-! DEFINITION. Barrier objects (R141 to R146), batches (R147 to R149), copies and the copy engine's steps (R136 to R140,
R150 to R152, R309), and the tile-cache instructions (R153 to R159). -/

namespace Sys2Proof.Machine

open Sys2Proof

/-! ### Barrier objects (R141, R143 to R145) -/

/-- The object that BINIT writes: its reserved bits are 0 (R144). -/
def Unit.initBar (U : Unit) (off b : Nat) : Unit := (U.putBar off ⟨0, b, b, 0⟩).spadPut (off + 12) (toBytesLE 4 0)
/-- Bytes declared (R142, R144). -/
def BarObj.expect (b : BarObj) (n : Nat) : BarObj := { b with bal := (b.bal + n) % 2 ^ 32 }

/-- The cause an object address raises (R144). -/
def Unit.barFail (U : Unit) (off : Nat) (init : Bool) : Option Nat :=
  if off % 16 != 0 then some 4
  else if U.spadSize < off + 16 then some 6
  else if !init && ((U.barObj off).count == 0 || U.spadNat (off + 12) 4 != 0) then some 7
  else none

/-- A waiter acquires what a completed phase carries (R145). -/
def State.barAcquire (s : State) (u off core : Nat) : State :=
  match s.units[u]? with
  | none => s
  | some U => s.tcRaise core (spGet 0 U.barTime off)

/-- An instruction that acts once per group on uniform operands: `k` gets the lowest active lane; with none it has no effect
(R18, R136, R161). It waits for an acquire whose read has not returned (R319, R326). -/
def uniformStep (h : Hd) (uses : Uses) (s : State) (k : Nat → Nat → Unit → Group → Nat → Out) : Out :=
  issue uses s fun u g U G =>
    match activeLanes (s.env U G) G.regs h with
    | [] => .next (s.finish u g h)
    | l :: _ => if s.acqBlocked u g then .next (s.stall u g) else k u g U G l

/-- Write a scalar D, where there is one. -/
def State.putD (s : State) (u g : Nat) (d : Opnd) (x : Nat) : State :=
  s.modGroup u g fun H => if d.cls == .scal then H.putRegs (H.regs.putScal false d.idx.toNat x) else H
/-- Write a predicate D in every active lane of the group's mask under the guard, where there is one. -/
def State.putPredD (s : State) (u g : Nat) (h : Hd) (d : Opnd) (lanes : Nat) (b : Bool) : State :=
  s.modGroup u g fun H =>
    if d.cls == .pred then
      let ls := (List.range lanes).filter fun l => H.mask.getLsbD l && H.regs.guard h l
      H.putRegs (ls.foldl (fun r l => r.putPred d.idx.toNat l b) H.regs)
    else H

/-- BINIT (R144). -/
def execBinit (h : Hd) (x : Ops4) (s : State) : Out :=
  uniformStep h [(x.b, 1)] s fun u g U G l =>
    let off := groupEa G.regs x.a x.c
    let b := rd32 (s.env U G) G.regs x.b l
    match U.barFail off true with
    | some c => s.trapGroup u g G c off
    | none =>
      if b = 0 ∨ 65535 < b then s.trapGroup u g G 7 off
      else .next ((s.modUnit u fun V => V.initBar off b).finish u g h)

/-- BEXP (R144). -/
def execBexp (h : Hd) (x : Ops4) (s : State) : Out :=
  uniformStep h [(x.b, 1)] s fun u g U G l =>
    let off := groupEa G.regs x.a x.c
    let b := rd32 (s.env U G) G.regs x.b l
    match U.barFail off false with
    | some c => s.trapGroup u g G c off
    | none => .next ((s.modUnit u fun V => V.putBar off ((V.barObj off).expect b).test).finish u g h)

/-- The unit and offset of a BARRIVE, or its trap cause (R117, R144). -/
def State.barTarget (s : State) (u : Nat) (U : Unit) (ext : Bool) (ea : Nat) : Except Nat (Nat × Nat) :=
  if ext then
    if ea % 16 != 0 then .error 4
    else match s.window u U ea with
      | none => .error 6
      | some (v, off) => match s.units[v]? with
        | none => .error 6
        | some V => match V.barFail off false with
          | some c => .error c
          | none => .ok (v, off)
  else match U.barFail ea false with
    | some c => .error c
    | none => .ok (u, ea)

/-- BARRIVE and BARRIVE.x (R144, R145, R135): a release, then the arrival. -/
def execBarrive (h : Hd) (ext : Bool) (x : Ops4) (s : State) : Out :=
  uniformStep h [(x.d, 1)] s fun u g U G _ =>
    let ea := groupEa G.regs x.a x.c
    if (ext && !U.firm) || !s.quiet u g then .next (s.stall u g)
    else match s.barTarget u U ext ea with
      | .error c => s.trapGroup u g G c ea
      | .ok (v, off) =>
        let token := s.spadNat v off 4
        .next (((s.barArriveOn v off 0 U.core 0).putD u g x.d token).finish u g h)

/-- BWAIT (R143 to R145). -/
def execBwait (h : Hd) (x : Ops4) (s : State) : Out :=
  uniformStep h [(x.b, 1)] s fun u g U G l =>
    let off := groupEa G.regs x.a x.c
    match U.barFail off false with
    | some c => s.trapGroup u g G c off
    | none =>
      let d := tokenDist (U.barObj off).phase (rd32 (s.env U G) G.regs x.b l)
      if d = 0 then .next (s.waitAt u g .bwait)
      else if 2 ^ 31 < d then s.trapGroup u g G 7 off
      else .next ((s.barAcquire u off U.core).finish u g h)

/-- BTEST (R143 to R145). -/
def execBtest (h : Hd) (x : Ops4) (s : State) : Out :=
  uniformStep h [(x.b, 1)] s fun u g U G l =>
    let off := groupEa G.regs x.a x.c
    match U.barFail off false with
    | some c => s.trapGroup u g G c off
    | none =>
      let d := tokenDist (U.barObj off).phase (rd32 (s.env U G) G.regs x.b l)
      if 2 ^ 31 < d then s.trapGroup u g G 7 off
      else
        let s1 := if d = 0 then s else s.barAcquire u off U.core
        .next ((s1.putPredD u g h x.d U.lanes (decide (d ≠ 0))).finish u g h)

/-! ### Batches (R147 to R149) -/

/-- Numbers of the batches of a group that still hold an operation: commands, tasks, reductions (R147). -/
def State.openOps (s : State) (u g : Nat) (U : Unit) : List Word :=
  ((U.copyq.filter fun c => c.grp == g).map (·.batch)) ++
    ((s.tasks.filter fun t => t.unit == u && t.grp == g && t.st.live).map (·.batch)) ++
    ((s.reqs.filter fun q => q.unit == u && q.grp == g && q.kind == .red && !q.performed && !q.ext && q.core < 4096).map
      (·.batch))

/-- The batch number after `n`; 0 is skipped (R148). -/
def nextBatch (n : Word) : Word := if n + 1 = 0 then 1 else n + 1

/-- A SEAL that made a ninth incomplete batch waits for the oldest of them, whichever others complete (R148). -/
def Group.sealWaits (G : Group) (live : List Word) : Bool :=
  match G.claim, G.sealed with
  | some (.batch, _), b :: _ => live.contains b
  | _, _ => live.contains G.openB && decide (8 ≤ (G.sealed.filter live.contains).length)

/-- SEAL (R148): `sealed` holds the incomplete batches, oldest first; an empty one is complete at once. -/
def execSeal (h : Hd) (x : Ops4) (s : State) : Out :=
  uniformStep h [(x.d, 1)] s fun u g U G _ =>
    let live := s.openOps u g U
    let pend := G.sealed.filter live.contains
    if G.sealWaits live then .next ((s.modGroup u g fun H => { H with sealed := pend }).claimAt u g .batch)
    else .next (((s.modGroup u g fun H =>
      { H with sealed := (pend ++ [H.openB]).filter live.contains, openB := nextBatch H.openB }).putD u g x.d
        G.openB.toNat).finish u g h)

/-- WAITB (R149). -/
def execWaitb (h : Hd) (x : Ops4) (s : State) : Out :=
  uniformStep h [(x.b, 1)] s fun u g U G l =>
    let b := rd32 (s.env U G) G.regs x.b l
    let d := tokenDist G.openB.toNat b
    if b = 0 ∨ 2 ^ 31 < d then .next (s.finish u g h)
    else if d = 0 then s.trapGroup u g G 7 0
    else if (s.openOps u g U).any fun n => decide (d ≤ tokenDist G.openB.toNat n.toNat) then .next (s.waitAt u g .waitb)
    else .next (((s.acqFence U.core).tcRaise U.core U.engTime).finish u g h)

/-! ### Posting a command (R136 to R139, R142) -/

/-- The barrier operand C of a command (R150). -/
def barOpnd (e : Env) (r : Regs) (c : Opnd) (l : Nat) : Option Nat := if c.cls == .zero then none else some (rd32 e r c l)

/-- The checks of a command's barrier object: its cause and address (R144, R150). -/
def Unit.barOpndFail (U : Unit) (b : Option Nat) : Option (Nat × Nat) :=
  match b with
  | none => none
  | some off => (U.barFail off false).map fun c => (c, off)

/-- State of a guard slot of a unit (R171). -/
def State.guardOf (s : State) (u n : Nat) : Option Bool :=
  match s.units[u]? with
  | some U => (U.guards[n]?).getD none
  | none => none

/-- A command with the fields every command has. -/
def newCmd (s : State) (g : Nat) (G : Group) (m : CopyMod) (kind : CmdKind) (u len : Nat) (bar : Option Nat) : Cmd :=
  { id := s.nextId, kind := kind, grp := g, batch := G.openB, guard := if m.gd then some m.gslot.toNat else none,
    res := if m.gd then s.guardOf u m.gslot.toNat else some true, len := len,
    dst := 0, src := 0, opb := 0, bar := bar, barUnit := u, lanes := [], sb := none, slab := 0, started := false,
    discard := false, todo := [], fault := none, time := 0 }

/-- A conflict of R139 holds a command back. -/
def Unit.sbConflict (U : Unit) (e : Option (Nat × Nat × Bool)) : Bool :=
  match e with
  | none => false
  | some (lo, n, d) => if d then U.srcBusy lo n else U.dstBusy lo n

/-- Stalled groups of a unit that claim a scoreboard entry before group `g` does (R312). -/
def Unit.sbAhead (U : Unit) (g : Nat) (G : Group) : Nat :=
  (U.groups.zipIdx.filter fun x => x.2 != g && x.1.st == .stalled && match x.1.claim, G.claim with
    | some (.scoreboard, t), some (.scoreboard, t') => decide (t < t') || (t == t' && decide (x.2 < g))
    | some (.scoreboard, _), _ => true
    | _, _ => false).length

/-- No scoreboard entry is left for a command of the group: all 32 are in use, or go to groups that stalled before it (R139,
R312). -/
def Unit.sbFull (U : Unit) (g : Nat) (G : Group) (e : Option (Nat × Nat × Bool)) : Bool :=
  e.isSome && decide (32 ≤ (U.copyq.filter (·.sb.isSome)).length + U.sbAhead g G)

/-- The bytes a command declares on its object at issue: a CPYS.x adds nothing (R142). -/
def State.declare (s : State) (c : Cmd) : State :=
  match c.bar, c.kind with
  | none, _ => s
  | some _, .cpysx => s
  | some off, _ => s.modUnit c.barUnit fun V => V.putBar off ((V.barObj off).expect c.len)

/-- A command's arrival on its object (R141, R142). -/
def State.arriveCmd (s : State) (c : Cmd) (core : Nat) : State :=
  match c.bar with
  | none => s
  | some off => s.barArriveOn c.barUnit off c.len core c.time

/-- Place a command in the unit's queue, or stall (R136, R139); a freed scoreboard entry goes to the group that has stalled longest
(R312). An unguarded copy of length 0 arrives at once (R150), a CPYS of a tentative unit too (log entry 93). -/
def State.postCmd (s : State) (u g : Nat) (U : Unit) (G : Group) (h : Hd) (c : Cmd) (now : Bool) : Out :=
  if 64 ≤ U.copyq.length || U.sbConflict c.sb then .next ((s.modGroup u g fun H => { H with claim := none }).stall u g)
  else if U.sbFull g G c.sb then .next (s.claimAt u g .scoreboard)
  else
    let s1 := (s.declare c).modGroup u g fun H => H.count 7
    let s2 := if now && c.len == 0 && c.guard.isNone then s1.arriveCmd c U.core
      else (s1.modUnit u fun V => { V with copyq := V.copyq ++ [c] }).fresh
    .next (s2.finish u g h)

/-- A scoreboard range, none for no bytes. -/
def sbRange (lo n : Nat) (d : Bool) : Option (Nat × Nat × Bool) := if n = 0 then none else some (lo, n, d)

/-- The first failing check of a list: cause and %trapva. -/
def firstFail : List (Bool × Nat × Nat) → Option (Nat × Nat)
  | [] => none
  | (bad, c, va) :: r => if bad then some (c, va) else firstFail r

/-- Take the trap of the first failing check, then of the barrier object, or go on. DESIGN CHOICE (log entry 116): the range check of a
copy of length 0 fails where its scratchpad address lies beyond the scratchpad's end. -/
def State.copyChecks (s : State) (u g : Nat) (U : Unit) (G : Group) (xs : List (Bool × Nat × Nat)) (bar : Option Nat)
    (k : Out) : Out :=
  match firstFail xs with
  | some (c, va) => s.trapGroup u g G c va
  | none => match U.barOpndFail bar with
    | some (c, va) => s.trapGroup u g G c va
    | none => k

/-! ### CPY, CPYT, CPYG, CPYS (R150, R151) -/

/-- CPY (R150, R151). -/
def execCpy (h : Hd) (m : CopyMod) (x : Ops4) (s : State) : Out :=
  uniformStep h [(x.b, 1), (x.c, 1)] s fun u g U G l =>
    let e := s.env U G
    let dst := G.regs.addr x.d.idx.toNat
    let src := G.regs.addr x.a.idx.toNat
    let len := rd32 e G.regs x.b l
    let bar := barOpnd e G.regs x.c l
    s.copyChecks u g U G
      [(dst % 16 != 0, 4, dst), (src % 16 != 0, 4, src), (len % 16 != 0, 4, len), (decide (262144 < len), 6, len),
        (decide (U.spadSize < dst + len), 6, dst)] bar
      (s.postCmd u g U G h { newCmd s g G m .cpy u len bar with
        dst := BitVec.ofNat 64 dst, src := BitVec.ofNat 64 src, sb := sbRange dst len true } true)

/-- The 64-bit tile key of a scalar pair (R153). -/
def keyOpnd (r : Regs) (a : Opnd) : Nat := r.scal a.idx.toNat + 2 ^ 32 * r.scal (a.idx.toNat + 1)
/-- The tensor and tile a key names, none where R154 refuses it. -/
def State.keyTile (s : State) (ctx key : Nat) : Option (Tensor × Nat) :=
  if key % 2 ^ 24 = 0 then none
  else match s.tensor? ctx (key % 2 ^ 24) with
    | none => none
    | some t => if key / 2 ^ 24 < t.tiles then some (t, key / 2 ^ 24) else none

/-- CPYT (R150, R151, R154). DESIGN CHOICE (log entry 128): the key is checked before the alignment. -/
def execCpyt (h : Hd) (m : CopyMod) (x : Ops4) (s : State) : Out :=
  uniformStep h [(x.a, 2), (x.c, 1)] s fun u g U G l =>
    let e := s.env U G
    let dst := G.regs.addr x.d.idx.toNat
    let key := keyOpnd G.regs x.a
    let bar := barOpnd e G.regs x.c l
    match s.keyTile U.ctx key with
    | none => s.trapGroup u g G 6 key
    | some (t, _) =>
      let len := t.tileBytes
      s.copyChecks u g U G [(dst % 16 != 0, 4, dst), (decide (262144 < len), 6, len), (decide (U.spadSize < dst + len), 6, dst)]
        bar
        (s.postCmd u g U G h { newCmd s g G m .cpyt u len bar with
          dst := BitVec.ofNat 64 dst, src := BitVec.ofNat 64 key, sb := sbRange dst len true } true)

/-- The source address of a gathered element (R151). -/
def gatherVa (base : Nat) (idx : Word) (size : Nat) : Nat := patOf 64 ((base : Int) + idx.toInt * size)

/-- CPYG (R150, R151). -/
def execCpyg (h : Hd) (m : CopyMod) (x : Ops4) (s : State) : Out :=
  uniformStep h [(x.b, 1), (x.c, 1)] s fun u g U G l =>
    let e := s.env U G
    let size := 2 ^ m.sub.toNat
    let dst := G.regs.addr x.d.idx.toNat
    let base := G.regs.addr x.a.idx.toNat
    let act := activeLanes e G.regs h
    let lanes := act.map fun l => (l, BitVec.ofNat 32 (rd32 e G.regs x.b l))
    let span := size * (act.foldl max 0 + 1)
    let len := size * act.length
    let bar := barOpnd e G.regs x.c l
    let srcs := lanes.map fun y => (gatherVa base y.2 size % size != 0, 4, gatherVa base y.2 size)
    s.copyChecks u g U G ((dst % 16 != 0, 4, dst) :: srcs ++ [(decide (U.spadSize < dst + span), 6, dst)]) bar
      (s.postCmd u g U G h { newCmd s g G m (.cpyg size) u len bar with
        dst := BitVec.ofNat 64 dst, src := BitVec.ofNat 64 base, lanes := lanes, sb := sbRange dst span true } true)

/-- The checks of a CPYS.x on its window address and its object in the target unit (R117, R151). -/
def State.windowChecks (s : State) (u : Nat) (U : Unit) (ea len : Nat) (bar : Option Nat) : Except (Nat × Nat) (Nat × Nat) :=
  match s.window u U ea with
  | none => .error (6, ea)
  | some (v, off) =>
    match s.units[v]? with
    | none => .error (6, ea)
    | some V =>
      if V.spadSize < off + len then .error (6, ea)
      else match bar with
        | none => .ok (v, 0)
        | some b =>
          if b % 16 != 0 then .error (4, b)
          else match s.window u U b with
            | none => .error (6, b)
            | some (w, boff) =>
              if w != v then .error (6, b)
              else match V.barFail boff false with
                | some c => .error (c, b)
                | none => .ok (v, boff)

/-- CPYS and CPYS.x (R150, R151). -/
def execCpys (h : Hd) (m : CopyMod) (x : Ops4) (s : State) : Out :=
  uniformStep h [(x.b, 1), (x.c, 1)] s fun u g U G l =>
    let e := s.env U G
    let dst := G.regs.addr x.d.idx.toNat
    let src := G.regs.addr x.a.idx.toNat
    let len := rd32 e G.regs x.b l
    let bar := barOpnd e G.regs x.c l
    let base : List (Bool × Nat × Nat) :=
      [(src % 16 != 0, 4, src), (dst % 16 != 0, 4, dst), (len % 16 != 0, 4, len), (decide (262144 < len), 6, len),
        (decide (U.spadSize < src + len), 6, src)]
    let c : Cmd := { newCmd s g G m .cpys u len bar with
      dst := BitVec.ofNat 64 dst, src := BitVec.ofNat 64 src, sb := sbRange src len false }
    if m.sub == 0 then s.copyChecks u g U G base bar (s.postCmd u g U G h c true)
    else s.copyChecks u g U G base none
      (match s.windowChecks u U dst len bar with
        | .error (cause, va) => s.trapGroup u g G cause va
        | .ok (v, boff) => s.postCmd u g U G h { c with kind := .cpysx, bar := bar.map fun _ => boff, barUnit := v } true)

/-! ### TCLOOK, TCPREF, TCHALO, TCINV, TCWB (R154 to R158) -/

/-- Ordinary lines of a tile. -/
def State.tileLines (s : State) (ctx tensor tile : Nat) : List Line :=
  s.lines.filter fun l => !l.proxy && l.key.ctx == ctx && l.key.tensor == tensor && l.key.tile == tile

/-- The word of TCLOOK (R155). -/
def State.lookWord (s : State) (u ctx tensor tile : Nat) : Nat :=
  let ls := s.tileLines ctx tensor tile
  let ts := s.tent.filter fun t => t.unit == u && t.key.ctx == ctx && t.key.tensor == tensor && t.key.tile == tile
  let n := ((ls.map (·.key.line)) ++ ts.map (·.key.line)).dedup.length
  (if ls.isEmpty then 0 else 2 ^ 31) + (if ls.any fun l => !l.dirty.isEmpty then 2 ^ 30 else 0) +
    (if ts.isEmpty then 0 else 2 ^ 29) + n % 65536

/-- TCLOOK (R155). -/
def execTclook (h : Hd) (x : Ops4) (s : State) : Out :=
  uniformStep h [(x.d, 1), (x.a, 2)] s fun u g U G _ =>
    let key := keyOpnd G.regs x.a
    match s.keyTile U.ctx key with
    | none => s.trapGroup u g G 6 key
    | some (t, tile) => .next ((s.putD u g x.d (s.lookWord u U.ctx t.id tile)).finish u g h)

/-- The neighbour offsets of TCPREF's mask bits, in dimensions 0, 1 and 2 (R156). -/
def neighbours : List (Int × Int × Int) :=
  [(-1, -1, 0), (0, -1, 0), (1, -1, 0), (-1, 0, 0), (1, 0, 0), (-1, 1, 0), (0, 1, 0), (1, 1, 0), (0, 0, -1), (0, 0, 1)]

/-- The tile at an offset, none outside the grid (R153, R308). -/
def Tensor.tileAt (t : Tensor) (tile : Nat) (o : Int × Int × Int) : Option Nat :=
  let t0 : Int := (tile % t.grid 0 : Nat) + o.1
  let t1 : Int := (tile / t.grid 0 % t.grid 1 : Nat) + o.2.1
  let t2 : Int := (tile / (t.grid 0 * t.grid 1) % t.grid 2 : Nat) + o.2.2
  if 0 ≤ t0 ∧ t0 < t.grid 0 ∧ 0 ≤ t1 ∧ t1 < t.grid 1 ∧ 0 ≤ t2 ∧ t2 < t.grid 2 then
    some (t0.toNat + t.grid 0 * (t1.toNat + t.grid 1 * (t2.toNat + t.grid 2 * (tile / (t.grid 0 * t.grid 1 * t.grid 2)))))
  else none

/-- Pages of a tile's elements. -/
def Tensor.tilePages (t : Tensor) (tile : Nat) : List Nat :=
  ((List.range t.tileBytes).filterMap fun p => (t.tileVa tile p).map (· / 4096)).dedup

/-- Translate one address for reading where it translates, leaving what the walk leaves. -/
def State.touchTlb (s : State) (p : TlbPlace) (die ctx va : Nat) : State :=
  match s.translate p die ctx va .read false with
  | .ok (_, s1) => s1
  | .error _ => s

/-- The tile cache can take the lines of a list together: their sets have ways for them all that no tentative or locked line holds, and
lines from outside the device need neither PT past the hold nor more room than their flows have (R156, R277, R299, R437, R442). -/
def State.takesKeys (s : State) (ks : List Key) (out : Option Nat) : Bool :=
  let new := ks.filter fun k => (s.line? k).isNone
  let loose := ks.filter fun k => !((s.line? k).any fun l => l.lock.isSome)
  (ks.all fun k => decide (s.setFixed (s.homeOf k) k.set +
      (loose.filter fun x => s.homeOf x == s.homeOf k && x.set == k.set).length ≤ Config.sliceWays)) &&
    match out with
    | none => true
    | some pa => (List.range 4).all fun d =>
      let m := (new.filter fun k => sliceDie (s.homeOf k) == d).length
      s.ptFits d (s.ptAfter d m) && s.flowRoom d (s.linkPort pa) 0 m

/-- Bring a tile into the tile cache; a tile that does not translate, or that the cache cannot take, is skipped (R156). -/
def State.prefTile (s : State) (die ctx : Nat) (t : Tensor) (tile : Nat) : State :=
  let pages := (t.tilePages tile).map (· * 4096)
  let keys := (List.range ((t.tileBytes + 255) / 256)).map fun k => (⟨ctx, t.id, tile, k⟩ : Key)
  let far := (pages.filterMap (s.walkPa ctx)).find? s.outside
  if (pages.all fun va => canonical va && s.canTranslate (.last die) die ctx va .read false &&
      (match s.walkPa ctx va with
        | some pa => s.cached pa
        | none => false)) && s.takesKeys keys far then
    let s1 := pages.foldl (fun t va => t.touchTlb (.last die) die ctx va) s
    keys.foldl (fun s k => (s.fill k none).1) s1
  else s

/-- The walk of a tile's page has to wait (R213, R438, R442). -/
def State.tileWaits (s : State) (die ctx : Nat) (t : Tensor) (tile : Nat) : Bool :=
  ((t.tilePages tile).map (· * 4096)).any fun va => s.mustWait (.last die) die ctx va .read false

/-- TCPREF (R156). -/
def execTcpref (h : Hd) (x : Ops4) (s : State) : Out :=
  uniformStep h [(x.a, 2), (x.b, 1)] s fun u g U G l =>
    let key := keyOpnd G.regs x.a
    let mask := rd32 (s.env U G) G.regs x.b l
    match s.keyTile U.ctx key with
    | none => s.trapGroup u g G 6 key
    | some (t, tile) =>
      let tiles := tile :: (neighbours.zipIdx.filterMap fun (o, i) => if bitsAt mask i 1 == 1 then t.tileAt tile o else none)
      if tiles.any fun k => s.tileWaits (dieOf U.core) U.ctx t k then .next (s.stall u g)
      else .next ((tiles.foldl (fun r k => r.prefTile (dieOf U.core) U.ctx t k) s).finish u g h)

/-- Extents of TCHALO's output (R157). -/
def haloDims (t : Tensor) (h0 h1 : Nat) : Nat × Nat × Nat × Nat :=
  ((t.dim 0).2.1 + 2 * h0, (t.dim 1).2.1 + 2 * h1, (t.dim 2).2.1, (t.dim 3).2.1)

/-- Bytes of TCHALO's output (R157). -/
def haloLen (t : Tensor) (h0 h1 : Nat) : Nat :=
  let d := haloDims t h0 h1
  d.1 * d.2.1 * d.2.2.1 * d.2.2.2 * t.esize

/-- The address behind a byte of TCHALO's output, none outside the tensor (R157). -/
def haloVa (t : Tensor) (tile h0 h1 pos : Nat) : Option Nat :=
  let d := haloDims t h0 h1
  let el := pos / t.esize
  let at_ (j i h : Nat) (tj : Nat) : Int := (tj * (t.dim j).2.1 : Nat) + (i : Int) - h
  let x0 := at_ 0 (el % d.1) h0 (tile % t.grid 0)
  let x1 := at_ 1 (el / d.1 % d.2.1) h1 (tile / t.grid 0 % t.grid 1)
  let x2 := at_ 2 (el / (d.1 * d.2.1) % d.2.2.1) 0 (tile / (t.grid 0 * t.grid 1) % t.grid 2)
  let x3 := at_ 3 (el / (d.1 * d.2.1 * d.2.2.1)) 0 (tile / (t.grid 0 * t.grid 1 * t.grid 2))
  if 0 ≤ x0 ∧ x0 < (t.dim 0).1 ∧ 0 ≤ x1 ∧ x1 < (t.dim 1).1 ∧ 0 ≤ x2 ∧ x2 < (t.dim 2).1 ∧ 0 ≤ x3 ∧ x3 < (t.dim 3).1 then
    some (t.base + x0.toNat * t.esize + x1.toNat * (t.dim 1).2.2 + x2.toNat * (t.dim 2).2.2 + x3.toNat * (t.dim 3).2.2 +
      pos % t.esize)
  else none

/-- TCHALO (R157). DESIGN CHOICE (log entry 132): the limit of one copy command (R311) does not apply to its output. -/
def execTchalo (h : Hd) (m : CopyMod) (x : Ops4) (s : State) : Out :=
  uniformStep h [(x.a, 2), (x.b, 1), (x.c, 1)] s fun u g U G l =>
    let e := s.env U G
    let dst := G.regs.addr x.d.idx.toNat
    let key := keyOpnd G.regs x.a
    let b := rd32 e G.regs x.b l
    let bar := barOpnd e G.regs x.c l
    match s.keyTile U.ctx key with
    | none => s.trapGroup u g G 6 key
    | some (t, _) =>
      let h0 := bitsAt b 0 8
      let h1 := bitsAt b 8 8
      let len := haloLen t h0 h1
      s.copyChecks u g U G
        [(decide ((t.dim 0).2.1 < h0 ∨ (t.dim 1).2.1 < h1), 6, dst), (!([1, 2, 4, 8].contains t.esize), 6, dst),
          (dst % 16 != 0, 4, dst), (decide (U.spadSize < dst + len), 6, dst)] bar
        (s.postCmd u g U G h { newCmd s g G m .tchalo u len bar with
          dst := BitVec.ofNat 64 dst, src := BitVec.ofNat 64 key, opb := BitVec.ofNat 32 (b % 65536),
          sb := sbRange dst len true } true)

/-- TCINV and TCWB: a tentative unit waits (R135); the tensor ID is checked, then the object (R158). A nonzero bit above [23:0] of A
is reported with the whole operand (log entry 95). -/
def tensorCmd (kind : CmdKind) (h : Hd) (m : CopyMod) (x : Ops4) (s : State) : Out :=
  uniformStep h [(x.a, 1), (x.c, 1)] s fun u g U G l =>
    let e := s.env U G
    let id := rd32 e G.regs x.a l
    let bar := barOpnd e G.regs x.c l
    if !U.firm then .next (s.stall u g)
    else s.copyChecks u g U G
      [(decide (2 ^ 24 ≤ id), 6, id), (decide (id ≠ 0) && (s.tensor? U.ctx id).isNone, 6, id)] bar
      (s.postCmd u g U G h { newCmd s g G m kind u 0 bar with src := BitVec.ofNat 64 id } false)
/-- TCINV (R158). -/
def execTcinv (h : Hd) (m : CopyMod) (x : Ops4) (s : State) : Out := tensorCmd (.tcinv (m.sub == 1)) h m x s
/-- TCWB (R158). -/
def execTcwb (h : Hd) (m : CopyMod) (x : Ops4) (s : State) : Out := tensorCmd .tcwb h m x s

/-! ### The copy engine's steps (R138, R140, R151, R309) -/

/-- Line-sized requests over `n` positions from `off` on: each goes on from `start` to the end of the line of 256 bytes that it reads, so
that it parts no word (R309); `line` is that line, none while every position so far lies outside the tensor. -/
def lineReqs (va : Nat → Option Nat) : Nat → Nat → Nat → Option Nat → List (Nat × Nat)
  | 0, off, start, _ => if off = start then [] else [(start, off - start)]
  | n + 1, off, start, line =>
    match va off, line with
    | some a, some k =>
      if a / 256 = k then lineReqs va n (off + 1) start line else (start, off - start) :: lineReqs va n (off + 1) off (some (a / 256))
    | some a, none => lineReqs va n (off + 1) start (some (a / 256))
    | none, k => lineReqs va n (off + 1) start k

/-- The address behind a byte of a command's range, none for a byte outside the tensor, and for every byte where TMAPCLR has removed
the tensor of a queued command (R151, R157, R173; log entry 94). -/
def State.cmdVa (s : State) (U : Unit) (c : Cmd) (pos : Nat) : Option Nat :=
  let src := c.src.toNat
  match c.kind with
  | .cpyt => (s.keyTile U.ctx src).bind fun k => k.1.tileVa k.2 pos
  | .tchalo => (s.keyTile U.ctx src).bind fun k => haloVa k.1 k.2 (bitsAt c.opb.toNat 0 8) (bitsAt c.opb.toNat 8 8) pos
  | .cpy | .cpyg _ | .cpys | .cpysx | .tcinv _ | .tcwb | .slabld => some ((src + pos) % 2 ^ 64)

/-- The requests of a command (R309): one for each element of a gather, one visit for a tensor's lines. -/
def State.requests (s : State) (U : Unit) (c : Cmd) : List (Nat × Nat) :=
  match c.kind with
  | .cpyg size => c.lanes.map fun y => (y.1, size)
  | .tcinv _ | .tcwb => [(0, 0)]
  | .cpys | .cpysx => lineReqs (fun p => some (c.dst.toNat + p)) c.len 0 0 none
  | .cpy | .cpyt | .tchalo | .slabld => lineReqs (s.cmdVa U c) c.len 0 0 none

/-- Change a command of a unit. -/
def State.modCmd (s : State) (u id : Nat) (f : Cmd → Cmd) : State :=
  s.modUnit u fun V => { V with copyq := V.copyq.map fun c => if c.id == id then f c else c }

/-- COPY_COMMAND_START: the first command not yet started starts, with at most 8 in flight (R136, R309), once its guard is
resolved (R138) and, for a CPYS, the unit is firm (R135). -/
def execCopyCommandStart (u : Nat) (s : State) : Out :=
  match s.units[u]? with
  | none => .next s
  | some U =>
    match U.copyq.find? fun c => !c.started with
    | none => .next s
    | some c =>
      let holds := (c.kind == .cpys || c.kind == .cpysx) && !U.firm
      if U.st != .resident || U.saveAt.isSome || holds || 8 ≤ (U.copyq.filter (·.started)).length then .next s
      else match c.res with
        | none => .next s
        | some true => .next (s.modCmd u c.id fun d => { d with started := true, todo := s.requests U d })
        | some false => .next (s.modCmd u c.id fun d => { d with started := true, discard := true, sb := none })

/-- The addresses a request reads (R151, R157, R173). -/
def State.cmdVas (s : State) (U : Unit) (c : Cmd) (q : Nat × Nat) : List (Option Nat) :=
  match c.kind with
  | .cpyg size =>
    let idx := match c.lanes.find? fun y => y.1 == q.1 with
      | some y => y.2
      | none => 0
    (List.range size).map fun i => some ((gatherVa c.src.toNat idx size + i) % 2 ^ 64)
  | .cpy | .cpyt | .cpys | .cpysx | .tchalo | .tcinv _ | .tcwb | .slabld => (List.range q.2).map fun i => s.cmdVa U c (q.1 + i)

/-- A request is done; with the last the scoreboard entry retires (R139). -/
def Cmd.pop (c : Cmd) : Cmd :=
  { c with todo := c.todo.tail, sb := if c.todo.length ≤ 1 then none else c.sb }

/-- The byte offset that a command has reached: a gathered element's in its destination (R421; log entry 99). -/
def Cmd.reached (c : Cmd) (off : Nat) : Nat :=
  match c.kind with
  | .cpyg size => size * off
  | .cpy | .cpyt | .cpys | .cpysx | .tchalo | .tcinv _ | .tcwb | .slabld => off

/-- The record of a command that faults (R421). -/
def cmdRecord (U : Unit) (c : Cmd) (off va : Nat) (w : WalkInfo) : FaultRec :=
  let pos := (U.copyq.takeWhile fun d => d.id != c.id).length
  ⟨BitVec.ofNat 64 va, U.ctx, 2, w.kind, w.access, 1, w.level, U.launch, U.idx, whereOf U.core 0,
    BitVec.ofNat 64 (pos % 64 + 2 ^ 32 * c.reached off), 0⟩

/-- A command stalls in place behind a record (R140). -/
def State.cmdFault (s : State) (u : Nat) (U : Unit) (c : Cmd) (off va : Nat) (w : WalkInfo) : State :=
  match s.engPost (dieOf U.core) (cmdRecord U c off va w) (.cmd u c.id) with
  | none => s
  | some (s1, p) => s1.modCmd u c.id fun d => { d with fault := p }

/-- Remove the proxy copies of a tensor's lines (R158). -/
def State.dropProxies (s : State) (ctx tensor : Nat) : State :=
  { s with lines := s.lines.filter fun l => !(l.proxy && l.key.ctx == ctx && l.key.tensor == tensor) }

/-- Visit the lines of a tensor once (R158, R159). -/
def State.visitTensor (s : State) (ctx tensor : Nat) (wb inval : Bool) : State :=
  let ks := (s.lines.filter fun l => !l.proxy && l.key.ctx == ctx && l.key.tensor == tensor).map (·.key)
  let s1 := ks.foldl (fun t k =>
    let t1 := if wb then t.writeBack k else t
    if inval then t1.dropLine k else t1) s
  if inval then s1.dropProxies ctx tensor else s1

/-- A locked line of a tensor. -/
def State.tensorLocked (s : State) (ctx tensor : Nat) : Bool :=
  s.lines.any fun l => l.key.ctx == ctx && l.key.tensor == tensor && l.lock.isSome

/-- What a request that read its bytes does with them. -/
def State.cmdPut (s : State) (u : Nat) (c : Cmd) (off : Nat) (bs : List Byte) : State :=
  match c.kind with
  | .slabld => s.modUnit u fun V => { V with slabs := V.slabs.map fun b =>
      if b.handle.toNat == c.slab then { b with data := spSetList 0 b.data off bs } else b }
  | .cpyg size => s.modUnit u fun V => V.spadPut (c.dst.toNat + size * off) bs
  | .cpy | .cpyt | .cpys | .cpysx | .tchalo | .tcinv _ | .tcwb => s.modUnit u fun V => V.spadPut (c.dst.toNat + off) bs

/-- The translation place of a command's reads: gathers use the edge TLB (R151, R411). -/
def Cmd.place (c : Cmd) (die : Nat) : TlbPlace :=
  match c.kind with
  | .cpyg _ => .edge die
  | .cpy | .cpyt | .cpys | .cpysx | .tchalo | .tcinv _ | .tcwb | .slabld => .last die

/-- A command takes the logical time of what its requests read and write (R326). -/
def Cmd.at (c : Cmd) (t : Nat) : Cmd := { c with time := max c.time t }

/-- A command that meets uncorrectable data still arrives, and its launch ends UNCORR (R140, R434). -/
def State.cmdUncorr (s : State) (U : Unit) (c : Cmd) (pa : Nat) : State := (s.arriveCmd c U.core).consume U.launch pa

/-- A request that reads global memory. -/
def State.cmdRead (s : State) (u : Nat) (U : Unit) (c : Cmd) (q : Nat × Nat) : State :=
  let die := dieOf U.core
  let vas := s.cmdVas U c q
  match engRead ⟨c.place die, die, U.ctx, some u⟩ vas s with
  | .ok bs s1 =>
    ((s1.engReadHeat die U.ctx vas).cmdPut u c q.1 bs).modCmd u c.id fun d => d.pop.at (s1.readTimes die U.ctx vas)
  | .fault va w => s.cmdFault u U c q.1 va w
  | .uncorr pa => s.cmdUncorr U c pa
  | .wait s1 => s1

/-- A request that writes global memory. -/
def State.cmdWrite (s : State) (u : Nat) (U : Unit) (c : Cmd) (q : Nat × Nat) : State :=
  let die := dieOf U.core
  let bs := (spGetList 0 U.spad (c.src.toNat + q.1) q.2).zipIdx.map fun (b, i) => ((c.dst.toNat + q.1 + i) % 2 ^ 64, b)
  match engWrite ⟨.last die, die, U.ctx, none⟩ (s.tcOf U.core) 0 bs s with
  | .ok w s1 => (s1.engHeat U.ctx (bs.map fun b => some b.1)).modCmd u c.id fun d => d.pop.at w
  | .fault va w => s.cmdFault u U c q.1 va w
  | .uncorr pa => s.cmdUncorr U c pa
  | .wait s1 => s1

/-- A request that writes another unit's scratchpad (R151). -/
def State.cmdWindow (s : State) (u : Nat) (U : Unit) (c : Cmd) (q : Nat × Nat) : State :=
  match s.window u U c.dst.toNat with
  | none => s
  | some (v, off) =>
    (s.modUnit v fun V => V.spadPut (off + q.1) (spGetList 0 U.spad (c.src.toNat + q.1) q.2)).modCmd u c.id Cmd.pop

/-- Change a copy of the front end. -/
def State.modCopy (s : State) (id : Nat) (f : FrontCopy → FrontCopy) : State :=
  { s with copies := s.copies.map fun c => if c.id == id then f c else c }

/-- The slab a finished SLABLD has filled is loaded (R173). -/
def State.slabLoaded (s : State) (u : Nat) (c : Cmd) : State :=
  match c.kind with
  | .slabld => s.modUnit u fun V => { V with slabs := V.slabs.map fun b =>
      if b.handle.toNat == c.slab then { b with loaded := true } else b }
  | .cpy | .cpyt | .cpyg _ | .cpys | .cpysx | .tchalo | .tcinv _ | .tcwb => s

/-- COPY_COMMAND_ARRIVAL: a command whose requests have all been performed, or that was discarded, arrives and leaves the
queue (R136, R138, R142). -/
def execCopyCommandArrival (u : Nat) (cmd : Nat) (s : State) : Out :=
  match s.units[u]? with
  | none => .next s
  | some U =>
    match U.copyq.find? fun c => c.id == cmd && c.started && c.todo.isEmpty with
    | none => .next s
    | some c =>
      let s1 := (s.arriveCmd c U.core).slabLoaded u c
      .next (s1.modUnit u fun V => { V with
        copyq := V.copyq.filter fun d => d.id != cmd
        engTime := max V.engTime c.time })

end Sys2Proof.Machine
end

