-- ==== Sys2Proof/Machine/Matrix.lean ====
section
/-! DEFINITION. Tile tasks and the matrix engines (R60, R61, R161 to R170, R176, R177, R340 to R352), guard slots (R171, R172),
slabs (R173 to R175) and SPXS (R178). -/

namespace Sys2Proof.Machine

open Sys2Proof

/-! ### The tile-task record (R162, R163) -/

/-- A field of a record. -/
def Task.fld (t : Task) (lo n : Nat) : Nat := bitsAt t.desc.toNat lo n

/-- The fields of a record (R162, R163). -/
structure TaskRec where
  opk : Nat
  fsa : Nat
  fsb : Nat
  dst : Nat
  gd : Bool
  gslot : Nat
  prio : Nat
  any : Bool
  asel : Nat
  bsel : Nat
  zero : Bool
  wait : Bool
  kext : Nat
  asrc : Nat
  astride : Nat
  bstride : Nat
  bsrc : Nat
  cbar : Nat
  wbar : Nat
  wtok : Nat
  cstr : Nat
  clen : Nat
  rsvd : Bool
  deriving DecidableEq, Repr

/-- Read the fields of the 64 bytes. -/
def TaskRec.of (x : Nat) : TaskRec where
  opk := bitsAt x 0 2
  fsa := bitsAt x 2 3
  fsb := bitsAt x 5 3
  dst := bitsAt x 8 4
  gd := bitsAt x 12 1 == 1
  gslot := bitsAt x 13 4
  prio := bitsAt x 17 2
  any := bitsAt x 19 1 == 1
  asel := bitsAt x 20 2
  bsel := bitsAt x 22 2
  zero := bitsAt x 24 1 == 1
  wait := bitsAt x 25 1 == 1
  kext := bitsAt x 32 32
  asrc := bitsAt x 64 64
  astride := bitsAt x 128 32
  bstride := bitsAt x 160 32
  bsrc := bitsAt x 192 64
  cbar := bitsAt x 256 32
  wbar := bitsAt x 288 32
  wtok := bitsAt x 320 32
  cstr := bitsAt x 352 32
  clen := bitsAt x 384 32
  rsvd := bitsAt x 26 6 != 0 || bitsAt x 416 96 != 0

/-- The record of an entry. -/
def Task.rcd (t : Task) : TaskRec := TaskRec.of t.desc.toNat

/-! ### Operand formats (R60, R164) -/

/-- The kinds the engine accepts (R60). -/
def FSlot.mxOk (f : FSlot) : Bool := f.ok && (f.kind == 15 || (1 ≤ f.kind && f.kind ≤ 2) || (4 ≤ f.kind && f.kind ≤ 8))
/-- Storage width in bytes of a plain kind (R164). -/
def FSlot.store (f : FSlot) : Nat := if f.kind == 1 || f.kind == 2 then 2 else 1
/-- Bytes of one stored block (R53). -/
def FSlot.blockBytes (f : FSlot) : Nat := 4 + 4 * ((f.len * f.elemW + 31) / 32)
/-- Bytes of `k` elements in a slot's format, unpadded (R164). -/
def FSlot.seqBytes (f : FSlot) (k : Nat) : Nat := if f.scale == 1 then k / f.len * f.blockBytes else k * f.store
/-- The sequence size Z (R164). -/
def FSlot.seqSize (f : FSlot) (k : Nat) : Nat := (f.seqBytes k + 15) / 16 * 16
/-- Entry width (R60). -/
def FSlot.entryW (f : FSlot) : Nat := if f.kind == 15 then f.width else if f.kind == 1 || f.kind == 2 then 16 else 8
/-- Entry block length (R60). -/
def FSlot.entryLen (f : FSlot) : Nat := if f.scale == 1 then f.len else 16

/-- A block as it enters the engine: the E8M0 byte, 0xFF for a NaN block, and the mantissas (R51, R60). -/
structure MxBlock where
  scale : Nat
  m : List Int
  deriving DecidableEq, Repr

/-- Convert values into an entry block by R55 with RN. -/
def MxBlock.ofVals (w : Nat) (xs : List FVal) : MxBlock :=
  let f : FSlot := ⟨15, w, 0, 1, 0, false, true⟩
  let e := blockScale f xs
  ⟨e, xs.map fun x => sext w (blockElem f e .rn x)⟩

/-- A stored block as it enters the engine (R53, R54, R60). -/
def MxBlock.ofBytes (f : FSlot) (bs : List Byte) : MxBlock :=
  let hd := ofBytesLE (bs.take 4)
  let body := ofBytesLE (bs.drop 4)
  let codes := (List.range f.len).map fun i => bitsAt body (i * f.elemW) f.elemW
  if f.kind == 15 then
    if headerOk f hd then ⟨hd % 256, codes.map fun c => sext f.width c⟩ else ⟨255, codes.map fun _ => 0⟩
  else MxBlock.ofVals 8 (codes.map fun c => if headerOk f hd then blockVal f (hd % 256) c else .nan)

/-- The value of a plain element (R164). -/
def plainVal (f : FSlot) (x : Nat) : FVal :=
  match Fmt.ffmt f.fmt with
  | some g => g.decode (x % 2 ^ g.bits)
  | none => .nan

/-- Elements in groups of `n`; `fuel` bounds the groups. -/
def chunks {α : Type} (n : Nat) : Nat → List α → List (List α)
  | 0, _ => []
  | fuel + 1, xs => if xs.isEmpty then [] else xs.take n :: chunks n fuel (xs.drop n)

/-- The entry blocks of a stretch of a sequence, from its bytes. -/
def entryBlocks (f : FSlot) (bs : List Byte) : List MxBlock :=
  if f.scale == 1 then (chunks f.blockBytes bs.length bs).map (MxBlock.ofBytes f)
  else (chunks f.entryLen bs.length ((chunks f.store bs.length bs).map fun e => plainVal f (ofBytesLE e))).map
    (MxBlock.ofVals f.entryW)

/-! ### The sum of a pass (R61) -/

/-- The mantissas and scale of a segment: element `k` on, `n` long. -/
def segOf (len : Nat) (bs : List MxBlock) (k n : Nat) : Nat × List Int :=
  match bs[k / len]? with
  | none => (255, [])
  | some b => (b.scale, (b.m.drop (k % len)).take n)

/-- Exact sum of products of two segments, held to 37 bits (R61). -/
def segSum (xs ys : List Int) : Int :=
  let s := ((xs.zip ys).map fun p => p.1 * p.2).sum
  if s = 2 ^ 36 then 2 ^ 36 - 1 else s

/-- One segment's term t (R61). -/
def segTerm (wa wb : Nat) (a b : Nat × List Int) : FVal :=
  if a.1 = 255 ∨ b.1 = 255 then .nan
  else
    let e : Int := (a.1 : Int) - 127 - ((wa : Int) - 2) + ((b.1 : Int) - 127 - ((wb : Int) - 2))
    fmt32.decode (roundTo fmt32 .rn false false (.ofInt (segSum a.2 b.2) e))

/-- Add the segments of a stretch into an element, in increasing K (R61). -/
def addSegs (fa fb : FSlot) (a b : List MxBlock) (L : Nat) : List Nat → Nat → Nat
  | [], c => c
  | k :: ks, c =>
    let t := segTerm fa.entryW fb.entryW (segOf fa.entryLen a k L) (segOf fb.entryLen b k L)
    addSegs fa fb a b L ks (roundTo fmt32 .rn false false ((fmt32.decode c).add .rn t))

/-- An element of C after a stretch of `n` values of K. -/
def passElem (fa fb : FSlot) (a b : List MxBlock) (n c : Nat) : Nat :=
  let L := min fa.entryLen fb.entryLen
  addSegs fa fb a b L ((List.range (n / L)).map (· * L)) c

/-! ### Operand fetch (R164, R349, R350) -/

/-- The address behind a byte of an operand sequence by key: none outside the tensor (R164). -/
def mxKeyVa (t : Tensor) (tile row off : Nat) : Option Nat :=
  let k := off / t.esize
  let x0 := tile % t.grid 0 * (t.dim 0).2.1 + k
  let x1 := tile / t.grid 0 % t.grid 1 * (t.dim 1).2.1 + row
  let x2 := tile / (t.grid 0 * t.grid 1) % t.grid 2 * (t.dim 2).2.1
  let x3 := tile / (t.grid 0 * t.grid 1 * t.grid 2) * (t.dim 3).2.1
  if x0 < (t.dim 0).1 ∧ x1 < (t.dim 1).1 then
    some (t.base + x0 * t.esize + x1 * (t.dim 1).2.2 + x2 * (t.dim 2).2.2 + x3 * (t.dim 3).2.2 + off % t.esize)
  else none

/-- Where an operand comes from. -/
inductive MxSrc where
  | pad (base stride : Nat)
  | key (key : Nat)
  | slab (handle : Nat)
  | held (rows : List (List Byte))
  deriving DecidableEq, Repr

/-- A byte of an operand: one the unit holds, or an address, none outside the tensor. -/
inductive MxByte where
  | local (b : Byte)
  | va (a : Option Nat)

/-- Byte `off` of row or column `i` of an operand. -/
def State.mxByte (s : State) (U : Unit) (src : MxSrc) (z i off : Nat) : MxByte :=
  match src with
  | .pad base stride => .local (spGet 0 U.spad (base + i * stride + off))
  | .slab h => .local (match U.slabs.find? fun b => b.handle.toNat == h with
    | some b => spGet 0 b.data (i * z + off)
    | none => 0)
  | .held rows => .local ((((rows[i]?).getD [])[off]?).getD 0)
  | .key key => .va ((s.keyTile U.ctx key).bind fun k => mxKeyVa k.1 k.2 i off)

/-- Why the generators deliver nothing further. -/
inductive MxStop where
  | full
  | fault (va : Nat) (w : WalkInfo)
  | uncorr (pa : Nat)
  | wait

/-- Deliver the next `n` bytes of a pass's operands, `pos` being the first: what has come, the logical time of what was read, why no
more comes, and the state (R350). -/
def mxDeliver (p : Port) (item : State → Nat → MxByte) : Nat → Nat → State → List Byte × Nat × MxStop × State
  | 0, _, s => ([], 0, .full, s)
  | n + 1, pos, s =>
    match item s pos with
    | .local b =>
      let (bs, t, e, s1) := mxDeliver p item n (pos + 1) s
      (b :: bs, t, e, s1)
    | .va a => match engRead p [a] s with
      | .fault va w => ([], 0, .fault va w, s)
      | .uncorr pa => ([], 0, .uncorr pa, s)
      | .wait s1 => ([], 0, .wait, s1)
      | .ok b s1 =>
        let (bs, t, e, s2) := mxDeliver p item n (pos + 1) s1
        (b ++ bs, max t (s1.readTimes p.die p.ctx [a]), e, s2)

/-- The rows of a valid coordinate stream (R177), each its K indices; none for an invalid stream. -/
def streamRows (kext : Nat) : List Nat → List Nat → List (List Nat) → Option (List (List Nat))
  | [], _, _ => none
  | e :: es, row, rows =>
    if e < 0x4000 then
      match row with
      | [] => if e < kext then streamRows kext es [e] rows else none
      | k :: _ => if k < e ∧ e < kext then streamRows kext es (e :: row) rows else none
    else if e = 0xFFFE then streamRows kext es [] (rows ++ [row.reverse])
    else if e = 0xFFFF then (if row.isEmpty ∧ rows.length = 32 then some rows else none)
    else none

/-- The dense rows of a sparse task: each value at its K index, zero elsewhere (R177). -/
def sparseRows (es kext : Nat) : List (List Nat) → List Byte → List (List Byte)
  | [], _ => []
  | r :: rs, vs =>
    let vals := (r.zipIdx.map fun (k, j) => (k, (vs.drop (es * j)).take es))
    ((List.range kext).flatMap fun k => match vals.find? fun v => v.1 == k with
      | some v => v.2
      | none => List.replicate es 0) :: sparseRows es kext rs (vs.drop (es * r.length))

/-! ### The life of a task (R167, R169, R175) -/

/-- The task of a unit with a handle. -/
def State.task? (s : State) (u : Nat) (h : Word) : Option Task := s.tasks.find? fun t => t.unit == u && t.handle == h
/-- Change a task. -/
def State.modTask (s : State) (u : Nat) (h : Word) (f : Task → Task) : State :=
  { s with tasks := s.tasks.map fun t => if t.unit == u && t.handle == h then f t else t }

/-- Space of slabs that are no longer live returns once no task names them (R175). -/
def State.sweepSlabs (s : State) (u : Nat) : State :=
  s.modUnit u fun V =>
    let kept := V.slabs.filter fun b =>
      b.live || s.tasks.any fun t => t.unit == u && t.rcd.bsel == 0 && t.rcd.bsrc == b.handle.toNat
    { V with slabs := kept }

/-- Status codes (R167). -/
def TaskSt.code : TaskSt → Nat
  | .queued => 0 | .running => 1 | .done => 2 | .discarded => 3 | .cancelled => 4 | .badwait => 5 | .badstream => 6
  | .stalled => 7

/-- A task reaches a final status; what it held of slabs that are no longer live returns (R167, R175, R342). -/
def State.endTask (s : State) (t : Task) (st : TaskSt) : State := (s.finishTask t st st.code).sweepSlabs t.unit

/-- Distance of a task's wait token from its object's phase (R167). -/
def State.waitDist (s : State) (t : Task) : Nat := tokenDist (s.spadNat t.unit t.rcd.wbar 4) t.rcd.wtok

/-- The slab of a task has been loaded (R167, R173). -/
def State.slabReady (s : State) (t : Task) : Bool :=
  t.rcd.bsel != 0 || match s.units[t.unit]? with
    | some U => U.slabs.any fun b => b.handle.toNat == t.rcd.bsrc && b.loaded
    | none => false

/-- The waits of R167 are over for a queued task. -/
def State.taskReady (s : State) (t : Task) : Bool :=
  t.res.isSome && (!t.rcd.wait || s.waitDist t != 0) && s.slabReady t

/-- The final status a queued task takes without running, once its waits are over (R167). -/
def State.taskFate (s : State) (t : Task) : Option TaskSt :=
  if t.st != .queued || !s.taskReady t then none
  else if t.res == some false then some .discarded
  else if t.rcd.wait && decide (2 ^ 31 < s.waitDist t) then some .badwait
  else none

/-- End the tasks of a list that end without running. -/
def settle : List Task → State → State
  | [], s => s
  | t :: ts, s => settle ts (match s.taskFate t with
    | some st => s.endTask t st
    | none => s)

/-- End the queued tasks of a unit that end without running; an arrival may end further ones. -/
def State.settleTasks (s : State) (u : Nat) : State :=
  (List.range (s.tasks.length)).foldl (fun (t : State) (_ : Nat) => settle (t.tasks.filter (·.unit == u)) t) s

/-! ### MXPOST (R165, R166) -/

/-- The tensor a tile key of a record names, with the slot's storage width (R164, R166 step 9). -/
def State.mxKeyOk (s : State) (ctx key : Nat) (f : FSlot) : Bool :=
  match s.keyTile ctx key with
  | none => false
  | some (t, _) => f.scale == 0 && t.esize == f.store

/-- The slab of a record is live and large enough (R166 step 10). -/
def Unit.slabOk (U : Unit) (h need : Nat) : Bool :=
  U.slabs.any fun b => b.live && b.handle.toNat == h && decide (need ≤ 65536 * b.granules)

/-- A stride of a scratchpad operand (R166 step 7). -/
def strideBad (x z : Nat) : Bool := x % 16 != 0 || decide (x < z)

/-- Sparse conditions of R176. -/
def sparseBad (r : TaskRec) (fa : FSlot) : Bool :=
  r.asel != 0 || r.astride != 0 || !(fa.plain && [1, 2, 4, 5].contains fa.kind) || r.cstr % 2 != 0 ||
    decide (r.clen < 33 ∨ 32 * r.kext + 33 < r.clen)

/-- The object check of a record (R166 step 11). -/
def Unit.mxBar (U : Unit) (use : Bool) (off : Nat) : Bool × Nat × Nat :=
  match U.barFail off false with
  | some c => (use, c, off)
  | none => (false, 0, off)

/-- The checks of R166 in order, with cause and %trapva. -/
def State.mxChecks (s : State) (U : Unit) (e : Env) (ea : Nat) (r : TaskRec) : List (Bool × Nat × Nat) :=
  let fa := e.slot r.fsa
  let fb := e.slot r.fsb
  let za := fa.seqSize r.kext
  let zb := fb.seqSize r.kext
  let sparse := r.opk == 1
  let cap := U.spadSize
  [ (r.rsvd || decide (2 ≤ r.opk) || decide (2 ≤ r.asel) || r.bsel == 3 || (r.bsel == 0 && decide (65536 ≤ r.bsrc)) ||
      (!r.gd && r.gslot != 0) || (!r.wait && (r.wbar != 0 || r.wtok != 0)) ||
      (!sparse && (r.clen != 0 || r.cstr != 0)), 2, ea),
    (decide (U.accs ≤ r.dst), 2, ea),
    (r.kext % 64 != 0 || decide (r.kext < 64 ∨ 16384 < r.kext), 2, ea),
    (!fa.mxOk || !fb.mxOk || (sparse && sparseBad r fa), 2, ea),
    ((!sparse && r.asel == 0 && strideBad r.astride za) || (r.bsel == 1 && strideBad r.bstride zb) ||
      ((sparse || r.asel == 1) && r.astride != 0) || (r.bsel != 1 && r.bstride != 0), 2, ea),
    (!sparse && r.asel == 0 && decide (cap < r.asrc + 31 * r.astride + za), 6, r.asrc),
    (r.bsel == 1 && decide (cap < r.bsrc + 255 * r.bstride + zb), 6, r.bsrc),
    (sparse && decide (cap < r.asrc + r.clen * fa.store), 6, r.asrc),
    (sparse && decide (cap < r.cstr + 2 * r.clen), 6, r.cstr),
    (r.asel == 1 && !s.mxKeyOk U.ctx r.asrc fa, 6, r.asrc),
    (r.bsel == 2 && !s.mxKeyOk U.ctx r.bsrc fb, 6, r.bsrc),
    (r.bsel == 0 && !U.slabOk r.bsrc (256 * zb), 6, r.bsrc),
    U.mxBar (r.cbar != 0xFFFFFFFF) r.cbar,
    U.mxBar r.wait r.wbar ]

/-- The handle after `h`; 0 is skipped (R165). -/
def nextHandle (h : Word) : Word := if h + 1 = 0 then 1 else h + 1

/-- Entries of a quad's reservation table (R342). -/
def State.table (s : State) (quad : Nat) : List Task := s.tasks.filter (·.home == quad)

/-- One wait for an entry comes before another: the longer one, then that of the lower core, then of the lower group (R342). -/
def waitBefore (a b : Nat × Nat × Nat) : Bool :=
  decide (a.1 < b.1) || (a.1 == b.1 && (decide (a.2.1 < b.2.1) || (a.2.1 == b.2.1 && decide (a.2.2 < b.2.2))))

/-- The groups of a quad that wait for a table entry: since when, core and number (R342). -/
def State.tableWaits (s : State) (quad : Nat) : List (Nat × Nat × Nat) :=
  (s.units.filter fun V => V.st == .resident && V.saveAt.isNone && quadOf V.core == quad && !V.svc).flatMap fun V =>
    V.groups.zipIdx.filterMap fun x => match x.1.st, x.1.claim with
      | .stalled, some (.table, t) => some (t, V.core, x.2)
      | _, _ => none

/-- Entries of a quad's table that were freed in this cycle: they can be taken from the next one (R352). -/
def State.freshEntries (s : State) (quad : Nat) : Nat :=
  let x := s.engineOf quad
  if x.freedAt == s.clock + 1 then x.freed else 0

/-- No entry is left for a group's MXPOST: all 32 are in use, were so in this cycle, or go to groups that have waited longer (R165, R342,
R352). -/
def State.tableFull (s : State) (g : Nat) (U : Unit) (G : Group) : Bool :=
  let me : Nat × Nat × Nat := (match G.claim with
    | some (.table, t) => t
    | _ => s.clock + 1, U.core, g)
  let ahead := (s.tableWaits (quadOf U.core)).filter fun x => !(x.2.1 == U.core && x.2.2 == g) && waitBefore x me
  decide (32 ≤ (s.table (quadOf U.core)).length + s.freshEntries (quadOf U.core) + ahead.length)

/-- MXPOST (R165, R166). -/
def execMxpost (h : Hd) (x : Ops4) (s : State) : Out :=
  uniformStep h [(x.d, 1)] s fun u g U G _ =>
    let ea := groupEa G.regs x.a x.c
    let e := s.env U G
    if ea % 64 != 0 then s.trapGroup u g G 4 ea
    else if U.spadSize < ea + 64 then s.trapGroup u g G 6 ea
    else
      let desc := U.spadNat ea 64
      let r := TaskRec.of desc
      match firstFail (s.mxChecks U e ea r) with
      | some (c, va) => s.trapGroup u g G c va
      | none =>
        let quad := quadOf U.core
        if s.tableFull g U G then .next (s.claimAt u g .table)
        else
          let t : Task := ⟨u, g, G.openB, U.nextHandle, BitVec.ofNat 512 desc, .queued, s.clock, s.nextId, r.prio,
            if r.gd then s.guardOf u r.gslot else some true, 0, 0, quad, quad, false, false, [], [], [], none, none, 0⟩
          let s1 := ({ s with tasks := s.tasks ++ [t] }.fresh).modUnit u fun V => { V with nextHandle := nextHandle V.nextHandle }
          let s2 := (s1.modGroup u g fun H => H.count 6).putD u g x.d U.nextHandle.toNat
          .next ((s2.settleTasks u).finish u g h)

/-! ### MXWAIT, MXQRY, MXCAN (R169, R170) -/

/-- The status a handle reads, RETIRED for an old one (R169) and for one that was never posted (log entry 96). -/
def State.taskCode (s : State) (u : Nat) (U : Unit) (h : Word) (d : Nat) : Nat :=
  match s.task? u h with
  | some t => t.st.code
  | none =>
    if 256 < d then 8
    else match U.finals.find? fun f => f.1 == h with
      | some f => f.2.code
      | none => 8

/-- A handle operand and its distance from NextHandle, or BARPHASE (R169). -/
def handleStep (h : Hd) (x : Ops4) (s : State) (k : Nat → Nat → Unit → Group → Word → Nat → Out) : Out :=
  uniformStep h [(x.d, 1), (x.b, 1)] s fun u g U G l =>
    let w : Word := BitVec.ofNat 32 (rd32 (s.env U G) G.regs x.b l)
    let d := tokenDist U.nextHandle.toNat w.toNat
    if w = 0 ∨ d = 0 ∨ 2 ^ 31 < d then s.trapGroup u g G 7 w.toNat else k u g U G w d

/-- MXWAIT (R169): a wait that began before the task ended gets its final code, however old the handle is by then. What the task read
happens before what follows (R326). -/
def execMxwait (h : Hd) (x : Ops4) (s : State) : Out :=
  handleStep h x s fun u g U G w d =>
    if (s.task? u w).isSome then .next ((s.modGroup u g fun H => { H with mxCode := some (w, none) }).waitAt u g .mxwait)
    else
      let code := match G.mxCode with
        | some (_, some c) => c
        | some (_, none) | none => s.taskCode u U w d
      .next (((s.tcRaise U.core U.engTime).putD u g x.d code).finish u g h)
/-- MXQRY (R169). -/
def execMxqry (h : Hd) (x : Ops4) (s : State) : Out :=
  handleStep h x s fun u g U _ w d => .next ((s.putD u g x.d (s.taskCode u U w d)).finish u g h)
/-- MXCAN (R170). -/
def execMxcan (h : Hd) (x : Ops4) (s : State) : Out :=
  handleStep h x s fun u g U _ w _ =>
    match s.task? u w with
    | some t =>
      if t.st == .queued then
        .next (((s.putPredD u g h x.d U.lanes true).endTask t .cancelled).settleTasks u |>.finish u g h)
      else .next ((s.putPredD u g h x.d U.lanes false).finish u g h)
    | none => .next ((s.putPredD u g h x.d U.lanes false).finish u g h)

/-! ### Guard slots (R171, R172) -/

/-- A resolution reaches the commands and tasks that wait on the slot (R138, R171). -/
def State.resolve (s : State) (u n : Nat) (v : Bool) : State :=
  let s1 := s.modUnit u fun V => { V with
    guards := updAt V.guards n fun _ => some v
    copyq := V.copyq.map fun c => if c.guard == some n && c.res.isNone then { c with res := some v } else c }
  let set (t : Task) : Task :=
    if t.unit == u && t.rcd.gd && t.rcd.gslot == n && t.res.isNone then { t with res := some v } else t
  ({ s1 with tasks := s1.tasks.map set } : State).settleTasks u

/-- A GSET of a higher group has reached the slot in this cycle: it takes effect last, so this one reaches the slot in a later cycle
(R172). -/
def Unit.setLater (U : Unit) (n g clock : Nat) : Bool :=
  let x := spGet (0, 0) U.lastSet n
  x.1 == clock + 1 && decide (g < x.2)

/-- GSET and GSET.clr (R171, R172). -/
def execGset (h : Hd) (clr : Bool) (n : BitVec 4) (x : Ops4) (s : State) : Out :=
  uniformStep h [] s fun u g U G l =>
    if U.setLater n.toNat g s.clock then .next (s.stall u g)
    else
      let s1 := s.modUnit u fun V => { V with lastSet := spSet (0, 0) V.lastSet n.toNat (s.clock + 1, g) }
      if clr then .next ((s1.modUnit u fun V => { V with guards := updAt V.guards n.toNat fun _ => none }).finish u g h)
      else .next ((s1.resolve u n.toNat (G.regs.pred x.a.idx.toNat l)).finish u g h)

/-! ### Slabs (R173 to R175) -/

/-- Granules of a quad's B-slab store in use (R173, R347). -/
def State.slabUsed (s : State) (quad : Nat) : Nat :=
  ((s.units.filter fun V => V.st == .resident && quadOf V.core == quad).map fun V => (V.slabs.map (·.granules)).sum).sum

/-- A handle names a slab of the unit, or one that a queued SLABLD is still to fill (R173, R175). -/
def Unit.handleUsed (U : Unit) (h : Nat) : Bool :=
  (U.slabs.any fun b => b.handle.toNat == h) || U.copyq.any fun c => c.kind == .slabld && c.slab == h

/-- The least handle a unit does not use: at most 16 slabs are live, 64 commands queued and 32 tasks posted. -/
def Unit.freeHandle (U : Unit) : Nat :=
  ((List.range 256).map (· + 1)).find? (fun h => !U.handleUsed h) |>.getD 65535

/-- SLABLD (R173). DESIGN CHOICE (log entry 75): R173 gives no %trapva for a length that is no multiple of 16 or out of range; it is the
length L, and for a misaligned address that address. -/
def execSlabld (h : Hd) (m : CopyMod) (x : Ops4) (s : State) : Out :=
  uniformStep h [(x.d, 1), (x.b, 1), (x.c, 1)] s fun u g U G l =>
    let e := s.env U G
    let src := G.regs.addr x.a.idx.toNat
    let len := rd32 e G.regs x.b l
    let bar := barOpnd e G.regs x.c l
    let gran := (len + 65535) / 65536
    let handle := U.freeHandle
    s.copyChecks u g U G
      [(src % 16 != 0, 4, src), (len % 16 != 0, 4, len), (decide (len = 0 ∨ 4194304 < len), 6, len)] bar
      (if 64 < s.slabUsed (quadOf U.core) + gran || 16 ≤ (U.slabs.filter (·.live)).length then
        .next ((s.putD u g x.d 0).finish u g h)
      else if 64 ≤ U.copyq.length then .next (s.stall u g)
      else
        let s1 := (s.modUnit u fun V => { V with
          slabs := V.slabs ++ [(⟨BitVec.ofNat 16 handle, gran, len, [], true, false⟩ : Slab)] }).putD u g x.d handle
        s1.postCmd u g U G h { newCmd s g G m .slabld u len bar with src := BitVec.ofNat 64 src, slab := handle } false)

/-- SLABFREE (R175). -/
def execSlabfree (h : Hd) (x : Ops4) (s : State) : Out :=
  uniformStep h [(x.b, 1)] s fun u g U G l =>
    let b := rd32 (s.env U G) G.regs x.b l
    if !(U.slabs.any fun y => y.live && y.handle.toNat == b) then s.trapGroup u g G 6 b
    else .next (((s.modUnit u fun V => { V with slabs := V.slabs.map fun y =>
      if y.handle.toNat == b then { y with live := false } else y }).sweepSlabs u).finish u g h)

/-! ### SPXS (R178) -/

/-- The stores of SPXS in order and the cursor after them: value-stream and coordinate-stream offset (R178). -/
def spxsStores (es b : Nat) : List (Nat × Nat) → Nat → Nat → List (Nat × List Byte) × Nat × Nat
  | [], vo, co => ([], vo, co)
  | (l, x) :: r, vo, co =>
    if x % 2 ^ (8 * es - 1) = 0 then spxsStores es b r vo co
    else
      let (st, v, c) := spxsStores es b r (vo + es) (co + 2)
      ((vo, toBytesLE es x) :: (co, toBytesLE 2 (b + l)) :: st, v, c)

/-- SPXS (R178). -/
def execSpxs (h : Hd) (m : SpxsMod) (x : Ops4) (s : State) : Out :=
  uniformStep h [(x.a, 1), (x.b, 1)] s fun u g U G l =>
    let e := s.env U G
    let es := if m.e8 then 1 else 2
    let b := rd32 e G.regs x.b l
    let cur := G.regs.addr x.d.idx.toNat
    let vo := cur % 2 ^ 32
    let co := cur / 2 ^ 32
    let vals := (activeLanes e G.regs h).map fun l => (l, rd32 e G.regs x.a l % 2 ^ (8 * es))
    let (st, v, c) := spxsStores es b vals vo co
    let stops := (if m.s0 then [0xFFFE] else []) ++ (if m.s1 then [0xFFFF] else [])
    let all := st ++ stops.zipIdx.map fun (y, i) => (c + 2 * i, toBytesLE 2 y)
    let bad := vals.any fun y => y.2 % 2 ^ (8 * es - 1) != 0 && decide (0x3FFF < b + y.1)
    if bad then s.trapGroup u g G 6 b
    else if co % 2 != 0 then s.trapGroup u g G 4 co
    else if vo % es != 0 then s.trapGroup u g G 4 vo
    else match all.find? fun y => decide (U.spadSize < y.1 + y.2.length) with
      | some y => s.trapGroup u g G 6 y.1
      | none =>
        if all.any fun y => U.dstBusy y.1 y.2.length || U.srcBusy y.1 y.2.length then .next (s.stall u g)
        else
          let s1 := (s.padWrote U G false [u]).modUnit u fun V => all.foldl (fun V y => V.spadPut y.1 y.2) V
          .next ((s1.modGroup u g fun H =>
            H.putRegs (H.regs.putAddr x.d.idx.toNat ((c + 2 * stops.length) * 2 ^ 32 + v))).finish u g h)

/-! ### Engine steps (R340 to R350) -/

/-- The engine has a pass under way. -/
def State.engineBusy (s : State) (e : Nat) : Bool := s.tasks.any fun t => t.engine == e && t.pass

/-- An LDM or STM on the task's tile that came before it has not been made (R119). -/
def State.behindTile (s : State) (t : Task) : Bool :=
  match s.units[t.unit]? with
  | none => false
  | some U => U.groups.any fun G => match G.tileFrom with
    | some (m, n) => m == t.dst && decide (n ≤ t.seq)
    | none => false

/-- A record is eligible for a pass (R119, R343). -/
def State.eligible (s : State) (t : Task) : Bool :=
  let runs := match s.units[t.unit]? with
    | some U => U.st == .resident && U.saveAt.isNone
    | none => false
  runs && !t.pass && t.fault.isNone && t.res == some true &&
    (t.st == .running || (t.st == .queued && s.taskReady t && (s.taskFate t).isNone)) &&
    !(s.tasks.any fun y => y.unit == t.unit && y.dst == t.dst && decide (y.seq < t.seq)) && !s.behindTile t

/-- The better of two records: higher class, lower age, earlier entry (R344). -/
def better (a b : Task) : Bool := decide (b.cls < a.cls) || (a.cls == b.cls && decide (a.age < b.age))
/-- The best of a list, the earliest among equals (R344). DESIGN CHOICE (log entry 134): the order of the list, which is that of posting
with restored records last, is the order of the entry indices. -/
def bestTask : List Task → Option Task
  | [] => none
  | t :: ts => match bestTask ts with
    | none => some t
    | some y => if better y t then some y else some t

/-- Source of A (R164, R349). -/
def Task.srcA (t : Task) (f : FSlot) : MxSrc :=
  let r := t.rcd
  if r.opk == 1 then
    .held (match streamRows r.kext t.coords [] [] with
      | some rows => sparseRows f.store r.kext rows t.vals
      | none => [])
  else if r.asel == 1 then .key r.asrc else .pad r.asrc r.astride
/-- Source of B (R164). -/
def Task.srcB (t : Task) : MxSrc :=
  let r := t.rcd
  if r.bsel == 0 then .slab r.bsrc else if r.bsel == 1 then .pad r.bsrc r.bstride else .key r.bsrc

/-- Values of K in the task's next pass (R340). -/
def Task.passLen (t : Task) : Nat := min 1024 (t.rcd.kext - t.k0)

/-- The record of an operand-fetch fault (R350, R421): SOURCE 3 for A, 4 for B. -/
def mxRecord (U : Unit) (t : Task) (src row off es va : Nat) (w : WalkInfo) : FaultRec :=
  ⟨BitVec.ofNat 64 va, U.ctx, src, w.kind, w.access, 1, w.level, U.launch, U.idx, whereOf U.core 0,
    BitVec.ofNat 64 (t.handle.toNat + 2 ^ 32 * (t.k0 % 65536) + 2 ^ 48 * (off / es % 65536)), BitVec.ofNat 64 row⟩

/-- The engine stalls in place behind its record (R350, R420). -/
def State.mxFault (s : State) (t : Task) (U : Unit) (src row off es va : Nat) (w : WalkInfo) : State :=
  match s.engPost (dieOf U.core) (mxRecord U t src row off es va w) (.task t.unit t.handle) with
  | none => s.modTask t.unit t.handle fun y => { y with st := .stalled }
  | some (s1, p) => s1.modTask t.unit t.handle fun y => { y with st := .stalled, fault := p }

/-- First byte and number of bytes of each row of a pass in an operand's format. -/
def Task.passRange (t : Task) (f : FSlot) : Nat × Nat := (f.seqBytes t.k0, f.seqBytes (t.k0 + t.passLen) - f.seqBytes t.k0)

/-- Where byte `pos` of a pass's operands belongs, the 32 rows of A first: generator, row or column, offset (R164, R350). -/
def Task.mxPos (t : Task) (fa fb : FSlot) (pos : Nat) : Nat × Nat × Nat :=
  let (la, na) := t.passRange fa
  let (lb, nb) := t.passRange fb
  if pos < 32 * na then (3, pos / na, la + pos % na) else (4, (pos - 32 * na) / nb, lb + (pos - 32 * na) % nb)

/-- The byte of a pass's operands at a position. -/
def Task.mxItem (t : Task) (U : Unit) (fa fb : FSlot) (s : State) (pos : Nat) : MxByte :=
  let (g, i, off) := t.mxPos fa fb pos
  if g == 3 then s.mxByte U (t.srcA fa) (fa.seqSize t.rcd.kext) i off else s.mxByte U t.srcB (fb.seqSize t.rcd.kext) i off

/-- Bytes of a pass's operands. -/
def Task.mxBytes (t : Task) (fa fb : FSlot) : Nat := 32 * (t.passRange fa).2 + 256 * (t.passRange fb).2

/-- Heat of the requests for newly delivered bytes: one for each row or column by key (R475). -/
def Task.mxHeat (t : Task) (U : Unit) (fa fb : FSlot) (n : Nat) (s : State) : State :=
  (List.range n).foldl (fun s i =>
    let pos := t.got.length + i
    let (g, _, off) := t.mxPos fa fb pos
    if i != 0 && off != (t.passRange (if g == 3 then fa else fb)).1 then s
    else match t.mxItem U fa fb s pos with
      | .local _ => s
      | .va a => s.engReadHeat (dieOf U.core) U.ctx [a]) s

/-- The generators go on from what they have delivered: the whole of the operands goes to `k`, or the engine stalls at the element that
is withheld, or the launch ends (R350, R434). -/
def State.mxOperands (s : State) (t : Task) (U : Unit) (fa fb : FSlot) (k : Task → State → State) : State :=
  let die := dieOf U.core
  let (bs, time, stop, s1) := mxDeliver ⟨.last die, die, U.ctx, some t.unit⟩ (t.mxItem U fa fb) (t.mxBytes fa fb - t.got.length)
    t.got.length s
  let t1 := { t with got := t.got ++ bs, time := max t.time time, st := .running }
  let s2 := (t.mxHeat U fa fb bs.length s1).modTask t.unit t.handle fun _ => t1
  match stop with
  | .full => k t1 s2
  | .wait => s2
  | .uncorr pa => s2.consume U.launch pa
  | .fault va w =>
    let (g, i, off) := t1.mxPos fa fb t1.got.length
    s2.mxFault t1 U g i off (if g == 3 then fa.store else fb.store) va w

/-- Rows of `n` bytes as entry blocks. -/
def mxRows (f : FSlot) (n : Nat) (bs : List Byte) : List (List MxBlock) := (chunks n bs.length bs).map (entryBlocks f)

/-- Format slots of a task's launch. -/
def State.taskSlots (s : State) (U : Unit) (t : Task) : FSlot × FSlot :=
  let fs := match s.launchOf U with
    | some L => L.fs
    | none => []
  (FSlot.ofWord ((fs[t.rcd.fsa]?).getD 0), FSlot.ofWord ((fs[t.rcd.fsb]?).getD 0))

/-- Read the streams of a sparse task before its first segment (R349): the coordinate entries to S1, and the values. -/
def Unit.readStreams (U : Unit) (t : Task) (f : FSlot) : List Nat × List Byte :=
  let r := t.rcd
  let es := (List.range r.clen).map fun i => U.spadNat (r.cstr + 2 * i) 2
  let cs := es.takeWhile (· != 0xFFFF)
  (es.take (cs.length + 1), spGetList 0 U.spad r.asrc (f.store * (cs.filter (· < 0x4000)).length))

/-- The grants of other records on an engine are counted (R344). -/
def State.passOver (s : State) (e : Nat) (t : Task) (el : List Task) : State :=
  { s with tasks := s.tasks.map fun y =>
      if y.engine == e && y.seq != t.seq && (el.any fun z => z.seq == y.seq) && decide (y.cls < 4) then
        if y.passed + 1 ≥ 64 then { y with passed := 64, cls := 4 } else { y with passed := y.passed + 1 }
      else y }

/-- An engine grants a pass now: it is idle since an earlier cycle, and a record has been eligible on it since an earlier cycle (R344). DESIGN
CHOICE (log entry 133): a pass that is abandoned, or refused by BADSTREAM, leaves the engine idle at once. -/
def State.grantDue (s : State) (e : Nat) : Bool :=
  !s.engineBusy e && !s.disabledEngines.contains e && decide ((s.engineOf e).lastEnd < s.clock) &&
    s.tasks.any fun y => y.engine == e && s.eligible y && match y.eligAt with
      | some c => decide (c < s.clock)
      | none => false

/-- ENGINE_GRANT: an idle engine grants a pass to its best eligible record (R344); a sparse task's streams are checked first
(R177, R349), and the operands are fetched as far as they come (R350). -/
def execEngineGrant (e : Nat) (s0 : State) : Out :=
  let s := settle s0.tasks s0
  if !s.grantDue e then .next s
  else
    let el := s.tasks.filter fun t => t.engine == e && s.eligible t
    match bestTask el with
    | none => .next s
    | some t =>
      match s.units[t.unit]? with
      | none => .next s
      | some U =>
        let (fa, fb) := s.taskSlots U t
        let (cs, vs) := if t.rcd.opk == 1 && t.coords.isEmpty then U.readStreams t fa else (t.coords, t.vals)
        let t1 := { t with st := .running, pass := true, granted := true, got := [], coords := cs, vals := vs }
        let s1 := (s.passOver e t el).modEngine e fun x => { x with lastGrant := s.clock }
        if t.rcd.opk == 1 && (streamRows t.rcd.kext cs [] []).isNone then
          .next ((s1.endTask t .badstream).settleTasks t.unit)
        else
          .next ((s1.modTask t.unit t.handle fun _ => t1).mxOperands t1 U fa fb fun _ s2 => s2)

/-- The tile after a pass: 32 rows of 256 (R61, R340); ZERO clears it first (R167). -/
def passTile (U : Unit) (t : Task) (fa fb : FSlot) (a b : List (List MxBlock)) : List Word :=
  (List.range 8192).map fun i =>
    let c := if t.rcd.zero && t.k0 == 0 then 0 else (spGet 0 U.acc (8192 * t.dst + i)).toNat
    BitVec.ofNat 32 (passElem fa fb ((a[i / 256]?).getD []) ((b[i % 256]?).getD []) t.passLen c)

/-- What the end of a pass leaves: the tile's rows, then the next K0 or the end of the task (R167, R340). -/
def State.passDone (s : State) (t : Task) (tile : List Word) : State :=
  let s1 := s.modUnit t.unit fun V => { V with acc := spSetList 0 V.acc (8192 * t.dst) tile }
  let k1 := t.k0 + t.passLen
  let t1 := { t with k0 := k1, pass := false, st := .running, got := [] }
  if t.rcd.kext ≤ k1 then (s1.endTask t .done).settleTasks t.unit
  else s1.modTask t.unit t.handle fun _ => t1

/-- PASS_END: the pass under way adds its segments into the tile (R61, R340). -/
def execPassEnd (e : Nat) (s : State) : Out :=
  match s.tasks.find? fun t => t.engine == e && t.pass && t.fault.isNone && !s.retriedNow (.task t.unit t.handle) with
  | none => .next s
  | some t =>
    match s.units[t.unit]? with
    | none => .next s
    | some U =>
      let (fa, fb) := s.taskSlots U t
      .next (s.mxOperands t U fa fb fun t1 s1 =>
        let na := (t.passRange fa).2
        (s1.modEngine e fun x => { x with lastEnd := s.clock }).passDone t1
          (passTile U t fa fb (mxRows fa na (t1.got.take (32 * na))) (mxRows fb (t.passRange fb).2 (t1.got.drop (32 * na)))))

/-- A record may be moved to another engine: it has been eligible for 256 cycles without a grant (R346). -/
def State.movable (s : State) (t : Task) : Bool :=
  t.rcd.any && t.rcd.bsel != 0 && s.eligible t && !t.granted && t.engine == t.home && match t.eligAt with
    | some c => decide (c + 256 ≤ s.clock)
    | none => false

/-- What the engines observe of the records at the present cycle: since when each has been eligible, and that an engine had an eligible
one (R346). -/
def State.watchEngines (s : State) : State :=
  if s.tasks.isEmpty then s
  else
    let el := s.tasks.filter s.eligible
    let since (t : Task) : Option Nat :=
      if el.any fun y => y.unit == t.unit && y.handle == t.handle then some (t.eligAt.getD s.clock) else none
    el.foldl (fun r t => r.modEngine t.engine fun x => { x with busyAt := s.clock })
      { s with tasks := s.tasks.map fun (t : Task) => { t with eligAt := since t } }

/-- ANY_DISPATCH: the cluster dispatcher moves a record to an engine of the cluster that has had no eligible record for 64 cycles
(R346). DESIGN CHOICE (log entry 135): of records of equal class and age the earliest in the
list may move. -/
def execAnyDispatch (u : Nat) (handle : Word) (target : Nat) (s : State) : Out :=
  match s.task? u handle with
  | none => .next s
  | some t =>
    let x := s.engineOf target
    let free := !s.disabledEngines.contains target && !(s.tasks.any fun y => y.engine == target && s.eligible y) &&
      decide (x.busyAt + 64 ≤ s.clock ∧ x.lastMove + 256 ≤ s.clock)
    let rivals := s.tasks.filter fun y => y.home / 8 == t.home / 8 && s.movable y
    if s.movable t && target / 8 == t.home / 8 && target != t.home && free && bestTask rivals == some t then
      .next ((s.modTask u handle fun y => { y with engine := target }).modEngine target fun y =>
        { y with lastMove := s.clock })
    else .next s

end Sys2Proof.Machine
end

