-- ==== Sys2Proof/Machine/Shape.lean ====
section
/-! DEFINITION. Shapes (R179 to R182) and the tensor map (R183, R184, R303 to R306). -/

namespace Sys2Proof.Machine

open Sys2Proof

/-! ### SHPQ, SHPWAIT, SHPSET (R180 to R182) -/

/-- The word SHPQ reads (R181). -/
def Launch.shapeWord (L : Launch) (firm : Bool) (i : Nat) : Nat :=
  let fw := if firm then 1 else 0
  if L.shape == 0 then [L.nunits, L.nunits, L.nunits, L.nunits, 0, fw].getD i 0
  else
    [L.cast.toNat, L.pred, L.maxc.toNat, if L.bound then L.trueCount.getD 0 else 0xFFFFFFFF, if L.bound then 2 else 1, fw].getD
      i 0

/-- SHPQ (R181). -/
def execShpq (h : Hd) (x : Ops4) (s : State) : Out :=
  uniformStep h [(x.d, 1)] s fun u g U _ _ =>
    .next ((s.putD u g x.d (match s.launchOf U with
      | some L => L.shapeWord U.firm x.b.idx.toNat
      | none => 0)).finish u g h)

/-- SHPWAIT is over: no predicted shape, or the launch is bound off and the unit firm (R182). -/
def State.shapeSettled (s : State) (U : Unit) : Bool :=
  match s.launchOf U with
  | some L => L.shape == 0 || (L.bound && U.firm)
  | none => true

/-- SHPWAIT (R182). -/
def execShpwait (h : Hd) (_x : Ops4) (s : State) : Out :=
  issue [] s fun u g U _ =>
    if s.shapeSettled U then .next (s.finish u g h) else .next (s.waitAt u g .shpwait)

/-- Check one address that a group accesses as a whole: its traps are group-wide (R161, R198). -/
def State.groupAccess (s : State) (u g : Nat) (U : Unit) (G : Group) (align : Nat) (acc : Acc) (ea : Nat)
    (k : LaneOk → State → Out) : Out :=
  match s.checkLane U G align acc noExtra 0 ea with
  | .ok (o, s1) => k o s1
  | .error f =>
    let s1 := if f.cause == 13 then s.reserveFailed U.ctx f.pa else s
    .next (s1.takeTrap u g ⟨f.cause, BitVec.ofNat 64 ea, G.mask, G.pc, f.walk⟩)

/-- SHPSET (R180, R215): a release store of 2^63 + b; a tentative unit waits. -/
def execShpset (h : Hd) (_sys : Bool) (x : Ops4) (s : State) : Out :=
  uniformStep h [(x.b, 1)] s fun u g U G l =>
    let ea := groupEa G.regs x.a x.c
    let b := rd32 (s.env U G) G.regs x.b l
    if !U.firm || !s.quiet u g then .next (s.stall u g)
    else s.groupAccess u g U G 8 .write ea fun o s1 =>
      let x := (o, bytesAt ea 8 (2 ^ 63 + b))
      if s1.storesHeld u g U [x] then .next (s.stall u g)
      else .next ((s1.addStore u g U true (s1.writeFloor U G true) x).finish u g h)

/-! ### TMAPSET and TMAPCLR (R183, R184, R304, R305) -/

/-- Element sizes of R303. -/
def esizeOk (e : Nat) : Bool := [1, 2, 4, 8].contains e || (e % 4 == 0 && decide (8 ≤ e ∧ e ≤ 1024))

/-- Dimension `j` obeys R303: an unused one has extents 1 and stride 0, a used one extents of at least 1. -/
def Tensor.dimOk (t : Tensor) (j : Nat) : Bool :=
  let d := t.dim j
  if j < t.ndim then decide (1 ≤ d.1 ∧ 1 ≤ d.2.1) else d.1 == 1 && d.2.1 == 1 && (j == 0 || d.2.2 == 0)

/-- Stride `j` is a multiple of ESIZE and leaves no overlap (R304). -/
def Tensor.strideOk (t : Tensor) (j : Nat) : Bool :=
  !(decide (j < t.ndim)) || ((t.dim j).2.2 % t.esize == 0 && decide ((t.dim (j - 1)).1 * (t.dim (j - 1)).2.2 ≤ (t.dim j).2.2))

/-- [BASE, last element + ESIZE) lies in the canonical 57-bit space (R304). -/
def Tensor.spanOk (t : Tensor) : Bool :=
  canonical t.base && decide (t.base + t.span ≤ (if t.base < 2 ^ 56 then 2 ^ 56 else 2 ^ 64))

/-- The spans of two tensors overlap. -/
def Tensor.overlaps (t y : Tensor) : Bool := decide (t.base < y.base + y.span ∧ y.base < t.base + t.span)

/-- The checks of R303 and R304 on a descriptor. -/
def State.tensorOk (s : State) (t : Tensor) (d : Nat) : Bool :=
  esizeOk t.esize && decide (1 ≤ t.ndim ∧ t.ndim ≤ 4) && bitsAt d 88 40 == 0 && (List.range 4).all t.dimOk &&
    t.base % t.esize == 0 && [1, 2, 3].all t.strideOk && decide (t.tileBytes ≤ 262144) && decide (t.tiles ≤ 2 ^ 40) &&
    t.spanOk && !(s.tensors.any fun y => y.ctx == t.ctx && t.overlaps y)

/-- An anonymous line's page is one of the tensor's (R183). -/
def Tensor.coversKey (t : Tensor) (k : Key) : Bool :=
  k.ctx == t.ctx && k.tensor == 0 && decide (bitsAt t.base 12 45 ≤ k.tile ∧ k.tile ≤ bitsAt (t.base + t.span - 1) 12 45)

/-- Write back and drop the home lines that `f` names, with their proxy copies. -/
def State.flushLines (s : State) (f : Key → Bool) : State :=
  let ks := (s.lines.filter fun l => !l.proxy && f l.key).map (·.key)
  let s1 := ks.foldl (fun t k => (t.writeBack k).dropLine k) s
  { s1 with lines := s1.lines.filter fun l => !f l.key }

/-- A line that `f` names may not be given up now: a service group has locked it, or its write-back has no room in its flow (R213, R442). -/
def State.lockedKeys (s : State) (f : Key → Bool) : Bool :=
  s.lines.any fun l => f l.key && (l.lock.isSome || (!l.proxy && !s.wbRoom l))

/-- Tentative bytes, each with its unit, context and address, are written into tentative lines; none where a share of a slice or a set has
no room for one (R277, R299, R311). -/
def tentMoves : List (Nat × Nat × Nat × Byte) → State → Option State
  | [], s => some s
  | x :: r, s =>
    if s.tentFits x.1 x.2.1 [x.2.2.1] then tentMoves r (s.tentWrite x.1 x.2.1 [(x.2.2.1, x.2.2.2)]) else none

/-- Give the tentative bytes of the lines that `f` names the keys the tensor map now gives them (log entry 52). DESIGN CHOICE (log entry
108): none where a set or a share of a slice is full for their new lines, and nothing moves. -/
def State.rekey (s : State) (f : Key → Bool) : Option State :=
  tentMoves ((s.tent.filter fun t => f t.key).flatMap fun y => y.data.filterMap fun d =>
    (s.keyVa y.key d.1).map fun va => (y.unit, y.key.ctx, va, d.2)) { s with tent := s.tent.filter fun t => !f t.key }

/-- A trap of a group-wide access made through an engine's path (R198, R408, R481, R490). -/
def State.portTrap (s : State) (u g : Nat) (U : Unit) (G : Group) (va : Nat) (w : WalkInfo) : Out :=
  let tr (c : Nat) (x : Option WalkInfo) : Trap := ⟨c, BitVec.ofNat 64 va, G.mask, G.pc, x⟩
  .next (if w.kind == 7 then s.takeTrap u g (tr 6 none)
    else if w.kind == 6 then (s.reserveFailed U.ctx ((s.walkPa U.ctx va).getD 0)).takeTrap u g (tr 13 none)
    else s.takeTrap u g (tr (walkCause w.kind) (some w)))

/-- Write a group-wide structure in memory, relaxed at .dev, then go on. -/
def State.groupWrite (s : State) (u g : Nat) (U : Unit) (G : Group) (va : Nat) (bs : List Byte) (k : State → Out) : Out :=
  if s.ownPending u g va bs.length then .next (s.stall u g)
  else match engWrite ⟨.core U.core, dieOf U.core, U.ctx, none⟩ (s.tcOf U.core) G.relFloor
      (bs.zipIdx.map fun (b, i) => ((va + i) % 2 ^ 64, b)) s with
  | .ok w s1 => k (s1.tcRaise U.core w)
  | .fault a w => s.portTrap u g U G a w
  | .uncorr pa => .next (s.consume U.launch pa)
  | .wait s1 => .next (s1.stall u g)

/-- Read a group-wide structure in memory as a relaxed load at .dev: it follows the group's own earlier writes to it (R316), and the
core's read horizon takes its time (R329). -/
def State.groupRead (s : State) (u g : Nat) (U : Unit) (G : Group) (va n : Nat) (k : Nat → State → Out) : Out :=
  let vas := (List.range n).map fun i => some ((va + i) % 2 ^ 64)
  if s.ownPending u g va n then .next (s.stall u g)
  else match engRead ⟨.core U.core, dieOf U.core, U.ctx, some u⟩ vas s with
  | .ok bs s1 => k (ofBytesLE bs) (s1.rhRaise U.core (s1.readTimes (dieOf U.core) U.ctx vas))
  | .fault a w => s.portTrap u g U G a w
  | .uncorr pa => .next (s.consume U.launch pa)
  | .wait s1 => .next (s1.stall u g)

/-- The map entry of a registered descriptor: byte 0x0B holds 0x01 (R305). -/
def tmapEntry (d : Nat) : List Byte := toBytesLE 64 (d ||| 2 ^ 88)

/-- Register a tensor: the lines it covers are given up under their anonymous keys (R302, R305); none where its tentative lines have no
room. -/
def State.installTensor (s : State) (t : Tensor) : Option State :=
  let s1 := s.flushLines t.coversKey
  { s1 with tensors := s1.tensors ++ [t] }.rekey t.coversKey

/-- The rest of a TMAPSET whose descriptor `d` has passed its checks: the entry is written and installed. A group that has to wait for
it has begun, and keeps the descriptor (R183, R216, R305). DESIGN CHOICE (log entry 108): it waits, too, while a set or a share of a slice
has no room for the tentative lines under their new keys. -/
def State.tmapPut (s : State) (u g : Nat) (U : Unit) (G : Group) (h : Hd) (b d : Nat) : Out :=
  let t := tensorOf U.ctx b d
  let va := (s.tmapOf U.ctx + 64 * b) % 2 ^ 64
  let s0 := if G.mid then s.modGroup u g fun H => { H with mid := false, wcVals := [] } else s
  let hold (x : State) : Out := .next ((x.modGroup u g fun H => { H with mid := true, wcVals := [(0, d)] }).stall u g)
  if s.lockedKeys t.coversKey || s.ownPending u g va 64 then hold s0
  else match engWrite ⟨.core U.core, dieOf U.core, U.ctx, none⟩ (s.tcOf U.core) G.relFloor
      ((tmapEntry d).zipIdx.map fun (x, i) => ((va + i) % 2 ^ 64, x)) s0 with
  | .ok w s1 => match (s1.tcRaise U.core w).installTensor t with
    | some s2 => .next (s2.finish u g h)
    | none => hold s0
  | .fault a w => s0.portTrap u g U G a w
  | .uncorr pa => .next (s0.consume U.launch pa)
  | .wait s1 => hold s1

/-- TMAPSET (R183). -/
def execTmapset (h : Hd) (x : Ops4) (s : State) : Out :=
  uniformStep h [(x.b, 1)] s fun u g U G l =>
    let ea := groupEa G.regs x.a x.c
    let b := rd32 (s.env U G) G.regs x.b l
    if G.mid then s.tmapPut u g U G h b (match G.wcVals with
      | y :: _ => y.2
      | [] => 0)
    else if !U.firm then .next (s.stall u g)
    else if ea % 64 != 0 then s.trapGroup u g G 4 ea
    else if b = 0 ∨ 2 ^ 24 ≤ b ∨ (s.tensor? U.ctx b).isSome then s.trapGroup u g G 6 b
    else s.groupRead u g U G ea 64 fun d s1 =>
      if !s.tensorOk (tensorOf U.ctx b d) d then s.trapGroup u g G 6 ea else s1.tmapPut u g U G h b d

/-- TMAPCLR (R184). -/
def execTmapclr (h : Hd) (x : Ops4) (s : State) : Out :=
  uniformStep h [(x.b, 1)] s fun u g U G l =>
    let b := rd32 (s.env U G) G.regs x.b l
    let mine (k : Key) : Bool := k.ctx == U.ctx && k.tensor == b
    if !U.firm then .next (s.stall u g)
    else if b = 0 ∨ (s.tensor? U.ctx b).isNone then s.trapGroup u g G 6 b
    else if (s.tent.any fun t => mine t.key) || s.lockedKeys mine then .next (s.stall u g)
    else s.groupWrite u g U G ((s.tmapOf U.ctx + 64 * b) % 2 ^ 64) (List.replicate 64 0) fun s1 =>
      let s2 := s1.flushLines mine
      .next ({ s2 with tensors := s2.tensors.filter fun t => !(t.ctx == U.ctx && t.id == b) }.finish u g h)

/-! ### Entries that the dies read from memory (R305) -/

/-- Leaves of the tables below a table that cover virtual addresses of a range: address, size and page. -/
def State.leavesFrom (s : State) (lo hi : Nat) : Nat → Nat → Nat → List (Nat × Nat × Nat)
  | 0, _, _ => []
  | lvl + 1, base, tbl =>
    let size := 2 ^ (12 + 9 * lvl)
    (List.range 512).flatMap fun i =>
      let va := base + i * size
      if va + size ≤ lo || hi ≤ va then []
      else
        let e := s.physNat (s.canonPa tbl + 8 * i) 8
        if bitsAt e 0 1 == 0 then []
        else if bitsAt e 1 1 == 1 then [(va, size, s.canonPa (bitsAt e 12 40 * 4096))]
        else s.leavesFrom lo hi lvl va (bitsAt e 12 40 * 4096)

/-- Offsets in a page at which a byte is 1, in memory or in a line. -/
def State.onesIn (s : State) (pa size : Nat) : List Nat :=
  (s.mem.filterMap fun c => if c.2 == 1 && decide (s.memAt pa ≤ c.1 ∧ c.1 < s.memAt pa + size) then some (c.1 - s.memAt pa) else none) ++
    s.lines.flatMap fun (l : Line) => l.data.filterMap fun (x : Nat × Byte) => if x.2 != 1 || l.proxy then none
      else match segPa l.segs x.1 with
        | some p => if pa ≤ p ∧ p < pa + size then some (p - pa) else none
        | none => none

/-- Somewhere a byte is 1 where it could register an entry of a map at `tmap`. -/
def State.mayMap (s : State) (tmap : Nat) : Bool :=
  (s.mem.any fun c => c.2 == 1 && c.1 % 64 == (tmap + 11) % 64) ||
    s.lines.any fun (l : Line) => !l.proxy && l.data.any fun (x : Nat × Byte) => x.2 == 1

/-- IDs whose entries in a context's map are registered in memory, byte 0x0B being 1, and not installed (R305). -/
def State.mapIds (s : State) (ctx : Nat) : List Nat :=
  let lo := s.tmapOf ctx % 2 ^ 57
  if !s.mayMap lo then []
  else
    let vas := (s.leavesFrom lo (lo + 2 ^ 30) 5 0 (s.root ctx)).flatMap fun l => (s.onesIn l.2.2 l.2.1).map (l.1 + ·)
    ((vas.filter fun v => decide (lo + 64 ≤ v ∧ v < lo + 2 ^ 30) && (v - lo) % 64 == 11).map fun v => (v - lo) / 64).dedup.filter fun n =>
      !s.tensors.any fun t => t.ctx == ctx && t.id == n

/-- The dies take the entries of a context's map that they do not hold from memory (R304, R305); one whose tentative lines have no room stays
to be read from there. -/
def State.installMap (s : State) (ctx : Nat) : State :=
  (s.mapIds ctx).foldl (fun r n => match r.tmapRead ctx n with
    | some t => (r.installTensor t).getD r
    | none => r) s

end Sys2Proof.Machine
end

