-- ==== Sys2Proof/Machine/System.lean ====
section
/-! DEFINITION. The system instructions (R198 to R214), the hint region (R197), the first-touch pool (R417, R418), and the
completion of shootdowns and ICINVs (R412, R413, R456). -/

namespace Sys2Proof.Machine

open Sys2Proof

/-! ### Hints (R33, R197) -/

/-- HPREF's operands are those of PREF, within the unit's registers. -/
def hintMemOk (U : Unit) (x : Ops4) (r : HintRaw) : Bool :=
  fieldsOk [r.low.extractLsb' 48 16, r.low.extractLsb' 32 16, r.low.extractLsb' 16 16, r.low.extractLsb' 0 16] &&
    x.d.unused && x.memOk && U.usable (x.b, 1)

/-- The operand fields of a hint word. -/
def hintOps (r : HintRaw) : Ops4 :=
  ⟨.get (r.low.extractLsb' 48 16), .get (r.low.extractLsb' 32 16), .get (r.low.extractLsb' 16 16), .get (r.low.extractLsb' 0 16)⟩

/-- HPREF (R33, R197): as PREF where its fields are those listed, but that it writes no memory, NOP otherwise. -/
def execHpref (h : Hd) (r : HintRaw) (s : State) : Out :=
  issue [] s fun u g U _ =>
    if hintMemOk U (hintOps r) r then prefStep h true (r.mod == 32) (hintOps r) s else .next (s.finish u g h)

/-- HPRIO: the group's issue preference, and a NOP with other fields (R197). -/
def execHprio (h : Hd) (r : HintRaw) (s : State) : Out :=
  issue [] s fun u g U G =>
    let s1 := if (activeLanes (s.env U G) G.regs h).isEmpty || !hprioFields r then s
      else s.modGroup u g fun H => { H with hprio := r.low.extractLsb' 16 2 }
    .next (s1.finish u g h)

/-- HNOTE (R197): no architectural effect. -/
def execHnote (h : Hd) (_r : HintRaw) (s : State) : Out := issue [] s fun u g _ _ => .next (s.finish u g h)
/-- Every other word of the hint region is a NOP (R33). -/
def execHintRegionNop (h : Hd) (_op : BitVec 2) (_r : HintRaw) (s : State) : Out :=
  issue [] s fun u g _ _ => .next (s.finish u g h)

/-! ### Privilege (R201) and traps by instruction (R202) -/

/-- An instruction that only some states may execute (R20 step 5, R201). -/
def privStep (ok : Unit → Group → Bool) (uses : Uses) (s : State) (k : Nat → Nat → Unit → Group → Out) : Out :=
  issue uses s fun u g U G => if ok U G then k u g U G else s.trapGroup u g G 3 G.pc.toNat

/-- One that acts once per group as well; `k` gets the lowest active lane (R161). -/
def privUniform (ok : Unit → Group → Bool) (h : Hd) (uses : Uses) (s : State) (k : Nat → Nat → Unit → Group → Nat → Out) :
    Out :=
  privStep ok uses s fun u g U G =>
    match activeLanes (s.env U G) G.regs h with
    | [] => .next (s.finish u g h)
    | l :: _ => k u g U G l

/-- Supervisor state proper, in which RTE and PARK may execute (R201). -/
def supOnly (U : Unit) (G : Group) : Bool := G.sup && !U.svc
/-- Service state (R201). -/
def svcOnly (U : Unit) (_G : Group) : Bool := U.svc
/-- Any state (R201). -/
def anyState (_U : Unit) (_G : Group) : Bool := true

/-- TRAP and BKPT (R202): a group-wide trap with the value of B. -/
def trapStep (cause : Nat) (ret : DWord → DWord) (h : Hd) (x : Ops4) (s : State) : Out :=
  privUniform anyState h [(x.b, 1)] s fun u g U G l =>
    let b := rd32 (s.env U G) G.regs x.b l
    .next (s.takeTrap u g ⟨cause, BitVec.ofNat 64 b, G.mask, ret G.pc, none⟩)
/-- TRAP (R202): the return slot is the one after it. -/
def execTrap (h : Hd) (x : Ops4) (s : State) : Out := trapStep 11 (· + 12) h x s
/-- BKPT (R202): the return slot is its own. -/
def execBkpt (h : Hd) (x : Ops4) (s : State) : Out := trapStep 12 (fun pc => pc) h x s

/-- An OP the map leaves unassigned raises ILLOP (R32). -/
def execUnassignedOpcode (_w : Slot) (s : State) : Out := issue [] s fun u g _ G => s.trapGroup u g G 1 G.pc.toNat

/-! ### Special registers (R205 to R207) -/

/-- The value of a special register in a lane (R205). DESIGN CHOICE (log entry 109): in a service group, whose core has no number among 0
to 511 and which belongs to no launch, %coreid reads the number of its cluster and %nunits reads 0. -/
def State.sreg (s : State) (U : Unit) (g : Nat) (G : Group) (i l : Nat) : Nat :=
  match i with
  | 0 => l
  | 1 => g
  | 2 => U.idx
  | 3 => match s.launchOf U with
    | some L => if L.bound then L.trueCount.getD L.nunits else if L.shape == 0 then L.nunits else L.pred
    | none => 0
  | 4 => U.launch.toNat
  | 5 => U.core % 512
  | 6 => clusterOf U.core
  | 7 => s.clock
  | 8 => G.mask.toNat
  | 9 => if U.firm then 1 else 0
  | 10 => 0
  | 11 => G.trapcause.toNat
  | 12 => G.trapva.toNat
  | 13 => G.trapmask.toNat
  | 14 => G.faultrec.toNat
  | _ => 0

/-- The register is one of supervisor state (R201, R205). -/
def sregPriv (i : Nat) : Bool := decide (11 ≤ i)

/-- SREAD (R206): %laneid and %lanemask per lane, the rest the same in every lane. -/
def execSread (h : Hd) (x : Ops4) (s : State) : Out :=
  let i := x.a.idx.toNat
  let wide := sregWide x.a.idx == some true
  privStep (fun U G => !sregPriv i || privileged U G) [(x.d, regsOf wide)] s fun u g U G =>
    let e := s.env U G
    .next ((s.modGroup u g fun H =>
      H.putRegs (lanewise e G.regs h x.d wide fun l => s.sreg U g G i l % 2 ^ 64)).finish u g h)

/-- A written special register (R207). -/
def Group.putSreg (G : Group) (i v : Nat) : Group :=
  match i with
  | 11 => { G with trapcause := BitVec.ofNat 32 v }
  | 12 => { G with trapva := BitVec.ofNat 64 v }
  | 13 => { G with trapmask := BitVec.ofNat 32 v }
  | 14 => { G with faultrec := BitVec.ofNat 64 v }
  | _ => G

/-- SWRITE (R207). -/
def execSwrite (h : Hd) (x : Ops4) (s : State) : Out :=
  let wide := sregWide x.d.idx == some true
  privUniform privileged h [(x.a, regsOf wide)] s fun u g U G l =>
    let v := rd (s.env U G) G.regs wide x.a l
    .next ((s.modGroup u g fun H => H.putSreg x.d.idx.toNat v).finish u g h)

/-! ### Handlers (R203, R204, R211) -/

/-- RTE (R203, R255, R415). -/
def execRte (h : Hd) (_x : Ops4) (s : State) : Out :=
  privStep supOnly [] s fun u g _ _ => .next (s.modGroup u g fun H => (H.done h s.clock).rte)

/-- The field of the trap record that HREC names (R204). -/
def Group.hrec (G : Group) (i : Nat) : Nat :=
  match i with
  | 0 => G.retpc.toNat
  | 1 => G.retmask.toNat
  | _ => G.cause.toNat

/-- HREC (R204). -/
def execHrec (h : Hd) (x : Ops4) (s : State) : Out :=
  let wide := x.b.idx == 0
  privUniform privileged h [(x.d, regsOf wide)] s fun u g _ G _ =>
    .next ((s.modGroup u g fun H => H.putRegs (H.regs.putScal wide x.d.idx.toNat (G.hrec x.b.idx.toNat))).finish u g h)

/-- A written field of the trap record (R204). -/
def Group.putHrec (G : Group) (i v : Nat) : Group :=
  match i with
  | 0 => { G with retpc := BitVec.ofNat 64 v }
  | 1 => { G with retmask := BitVec.ofNat 32 v &&& G.entryMask }
  | _ => G

/-- HREC.w (R204). -/
def execHrecW (h : Hd) (x : Ops4) (s : State) : Out :=
  let wide := x.b.idx == 0
  privUniform privileged h [(x.a, regsOf wide)] s fun u g U G l =>
    let v := rd (s.env U G) G.regs wide x.a l
    .next ((s.modGroup u g fun H => H.putHrec x.b.idx.toNat v).finish u g h)

/-- The fields of a 64-byte record that a handler prepared (R211, R421). -/
def recOf (d : Nat) : FaultRec where
  va := BitVec.ofNat 64 d
  ctx := bitsAt d 64 12
  source := bitsAt d 80 8
  kind := bitsAt d 88 8
  access := bitsAt d 96 8
  state := 1
  level := bitsAt d 112 8
  launch := BitVec.ofNat 64 (bitsAt d 128 64)
  unit := bitsAt d 192 32
  loc := bitsAt d 224 32
  detail0 := BitVec.ofNat 64 (bitsAt d 256 64)
  detail1 := BitVec.ofNat 64 (bitsAt d 320 64)

/-- A group that PARK has parked: it has left its handler as RTE would, and waits for its record (R211, R255). -/
def Group.park (G : Group) (die seq : Nat) (r : FaultRec) : Group :=
  { ((G.count 0).rte).clearWaits with st := .parked, parkedOn := some (die, seq), record := some r, faultrec := 0 }

/-- Post the 64 bytes a handler prepared, with SEQ and STATE set (R211, R420). -/
def State.postPrepared (s : State) (u g die d : Nat) : State × Nat :=
  let seq := spGet 0 s.seqs die
  let bs := toBytesLE 13 d ++ [(1 : Byte)] ++ toBytesLE 34 (d / 2 ^ 112) ++ toBytesLE 8 (seq % 2 ^ 48) ++ toBytesLE 8 (d / 2 ^ 448)
  let s1 := s.postBytes die bs
  ({ s1 with posted := s1.posted ++ [(⟨die, seq, s.fqPidx die % 4096, recOf d, .group u g, s1.clock⟩ : Posted)] }, seq)

/-- PARK raises PROT (R211). DESIGN CHOICE (log entry 110): the address that it reports is %faultrec. -/
def State.parkFail (s : State) (u g : Nat) (G : Group) : Out := s.trapGroup u g G 6 G.faultrec.toNat

/-- PARK (R211): a record that the handler prepared is read after the handler's own stores to it (R316). -/
def execPark (_h : Hd) (_x : Ops4) (s : State) : Out :=
  privStep supOnly [] s fun u g U G =>
    let die := dieOf U.core
    let va := G.faultrec.toNat
    if G.faultrec == BitVec.allOnes 64 then
      match G.record with
      | none => s.parkFail u g G
      | some r => match s.post die r (.group u g) with
        | none => .next (s.stall u g)
        | some (s1, seq) => .next (s1.modGroup u g fun H => H.park die seq r)
    else if va = 0 ∨ va % 64 ≠ 0 then s.parkFail u g G
    else if s.ownPending u g va 64 then .next (s.stall u g)
    else match engRead ⟨.core U.core, die, U.ctx, some u⟩ ((List.range 64).map fun i => some (va + i)) s with
      | .fault _ _ => s.parkFail u g G
      | .uncorr pa => .next (s.consume U.launch pa)
      | .wait s1 => .next (s1.stall u g)
      | .ok bs s1 =>
        if s1.fqRoom die then
          let (s2, seq) := s1.postPrepared u g die (ofBytesLE bs)
          .next (s2.modGroup u g fun H => H.park die seq (recOf (ofBytesLE bs)))
        else .next (s.stall u g)

/-! ### PMAP (R208, R417, R418) -/

/-- Bytes of a PMAP size code. -/
def pmapSize (z : Nat) : Nat := if z = 0 then 4096 else if z = 1 then 65536 else 2097152

/-- The page lies wholly inside a first-touch region of the context (R406, R418). -/
def State.inFtreg (s : State) (ctx page size : Nat) : Bool :=
  (List.range 8).any fun i =>
    let a := s.ctxDesc ctx + 0x80 + 16 * i
    let base := s.physNat a 8
    let len := s.physNat (a + 8) 8
    len != 0 && decide (base ≤ page ∧ page + size ≤ base + len)

/-- Where a PMAP walk ends: an uncorrectable entry (R434), the table that holds the new leaf, missing tables below an entry, or an entry in the way, a malformed one
among them (log entry 97). -/
inductive PmapWalk where
  | uncorr (pa : Nat)
  | table (tbl : Nat)
  | missing (ptr n : Nat)
  | taken
  deriving DecidableEq, Repr

/-- Walk down `n` levels from a table of level `lvl + 1` towards the table of level `tgt` (R407, R418). -/
def State.pmapWalk (s : State) (va tgt : Nat) : Nat → Nat → PmapWalk
  | 0, tbl => .table tbl
  | lvl + 1, tbl =>
    if lvl + 1 = tgt then .table tbl
    else
      let ptr := s.canonPa tbl + 8 * bitsAt va (12 + 9 * lvl) 9
      let e := s.physNat ptr 8
      if s.uncorr.contains (ptr / 32) then .uncorr ptr
      else if bitsAt e 0 1 == 0 then .missing ptr (lvl + 1 - tgt)
      else if bitsAt e 1 1 == 1 || bitsAt e 2 1 != 0 || bitsAt e 9 3 != 0 || bitsAt e 52 12 != 0 then .taken
      else s.pmapWalk va tgt lvl (bitsAt e 12 40 * 4096)

/-- Entries that a new leaf takes in its table. -/
def leafPtrs (va z tbl : Nat) : List Nat :=
  if z = 2 then [tbl + 8 * bitsAt va 21 9]
  else (List.range (if z = 1 then 16 else 1)).map fun i => tbl + 8 * ((if z = 1 then bitsAt va 12 9 / 16 * 16 else bitsAt va 12 9) + i)

/-- An entry the new leaf would replace is valid (R418). -/
def State.leafTaken (s : State) (va z tbl : Nat) : Bool := (leafPtrs va z tbl).any fun p => bitsAt (s.physNat p 8) 0 1 == 1

/-- The uncorrectable entry that PMAP's walk of an address meets (R434). -/
def State.pmapBad (s : State) (ctx va z : Nat) : Option Nat :=
  if !canonical va then none
  else match s.walk ctx va with
    | .uncorr pa => some pa
    | .leaf _ _ _ _ => none
    | .fault _ _ => match s.pmapWalk va (if z = 2 then 2 else 1) 5 (s.root ctx) with
      | .uncorr pa => some pa
      | .table tbl => (leafPtrs va z tbl).find? fun p => s.uncorr.contains (p / 32)
      | .missing _ _ | .taken => none

/-- Fill a physical range with zeros at its home (R208). -/
def State.zeroRange (s : State) (pa n : Nat) : State :=
  let inside (x : Nat) : Bool := decide (pa ≤ x ∧ x < pa + n)
  let s0 := (s.ownTouch pa n).ownRounds pa n
  let s1 : State := { s0 with
    mem := s.mem.filter fun c => !decide (s.memAt pa ≤ c.1 ∧ c.1 < s.memAt pa + n)
    lines := s0.lines.map fun (l : Line) =>
      if l.within pa n then
        (List.range 256).foldl (fun m o => match segPa l.segs o with
          | some x => if inside x then (if l.proxy then { m with data := spSet 0 m.data o 0 } else m.put o 0) else m
          | none => m) l
      else l
    uncorr := s.uncorr.filter fun x => !inside (32 * x) }
  passLeases (s1.linesIn pa n) s1

/-- Link new tables below an entry, each zero-filled (R418): the address of the last. -/
def linkTables (va : Nat) : Nat → Nat → List Nat → State → Nat × State
  | _, ptr, [], s => (ptr, s)
  | _, ptr, [t], s => (t, (s.zeroRange t 4096).ownPut ptr 8 (t + 1))
  | lvl, ptr, t :: ts, s =>
    linkTables va (lvl - 1) (t + 8 * bitsAt va (12 + 9 * (lvl - 1)) 9) ts ((s.zeroRange t 4096).ownPut ptr 8 (t + 1))

/-- Write the leaf of a mapped page (R418): VALID, LEAF, WRITE, ACC and DIRTY; CONTIG for 64 KiB. -/
def State.putLeaf (s : State) (va z tbl pa : Nat) : State :=
  let bits := 1 + 2 + 8 + 32 + 64
  match z with
  | 0 => s.ownPut (tbl + 8 * bitsAt va 12 9) 8 (pa + bits)
  | 1 => (List.range 16).foldl (fun t i =>
      t.ownPut (tbl + 8 * (bitsAt va 12 9 / 16 * 16 + i)) 8 (pa + 4096 * i + bits + 128)) s
  | _ => s.ownPut (tbl + 8 * bitsAt va 21 9) 8 (pa + bits)

/-- Take the pages a mapping needs from the pools of a die: tables first, then the page (log entry 27). -/
def State.takePages (s : State) (die z n : Nat) : Option (List Nat × Nat × State) :=
  let ft := s.pa52 (bitsAt s.regs.ftbase.toNat 12 40 * 4096)
  match takeRing (ft + 64 * (3 * die)) n s with
  | none => none
  | some (ts, s1) => match takeRing (ft + 64 * (3 * die + z)) 1 s1 with
    | some ([p], s2) => some (ts, p, s2)
    | _ => none

/-- PMAP's status and effect (R208, R418). -/
def State.pmap (s : State) (die ctx va z : Nat) : Nat × State :=
  let size := pmapSize z
  let page := va / size * size
  let tgt := if z = 2 then 2 else 1
  if canonical va && (s.walkPa ctx va).isSome then (1, s)
  else if !canonical va || !s.inFtreg ctx page size then (3, s)
  else match s.pmapWalk va tgt 5 (s.root ctx) with
    | .taken | .uncorr _ => (4, s)
    | .table tbl =>
      if s.leafTaken va z tbl then (4, s)
      else match s.takePages die z 0 with
        | none => (2, s)
        | some (_, p, s1) => (0, (s1.zeroRange p size).putLeaf va z tbl p)
    | .missing ptr n =>
      match s.takePages die z n with
      | none => (2, s)
      | some (ts, p, s1) =>
        let (tbl, s2) := linkTables va (tgt + n - 1) ptr ts s1
        (0, (s2.zeroRange p size).putLeaf va z tbl p)

/-- PMAP (R208); an uncorrectable entry on its walk, or one behind a failed link, ends the launch (R434, R443). It waits for locked lines and
for room in the flows of its reads (R213, R442). -/
def execPmap (h : Hd) (x : Ops4) (s : State) : Out :=
  privUniform privileged h [(x.d, 1)] s fun u g U G _ =>
    let die := dieOf U.core
    let va := G.regs.addr x.a.idx.toNat
    let trail := s.walkTrail va 5 (s.root U.ctx)
    match (trail.find? (s.entryCut die)) <|> s.pmapBad U.ctx va x.b.idx.toNat with
    | some pa => .next (s.consume U.launch pa)
    | none =>
      if s.walkHeld die trail then .next (s.stall u g)
      else
        let (st, s1) := (s.walkReads die trail).pmap die U.ctx va x.b.idx.toNat
        .next ((s1.putD u g x.d st).finish u g h)

/-! ### TLBINV and shootdowns (R209, R412, R413) -/

/-- A shootdown covers an address of a context. -/
def Shootdown.covers (d : Shootdown) (ctx lo size : Nat) : Bool :=
  (match d.ctx with
    | none => true
    | some c => c == ctx) &&
  match d.len with
  | none => true
  | some n => decide (lo < d.va + n ∧ d.va < lo + size)

/-- Start a shootdown. -/
def State.startShoot (s : State) (host : Bool) (u g : Nat) (ctx : Option Nat) (va : Nat) (len : Option Nat) : State :=
  { s with shoots := s.shoots ++ [(⟨s.nextId, host, u, g, ctx, va, len⟩ : Shootdown)] }.fresh

/-- TLBINV (R209): after the group's writes are acknowledged; the group stalls until the shootdown completes. A save waits from its
first execution on (R216). DESIGN CHOICE (log entry 112): a context ID above 4,095 is taken modulo 4,096. -/
def execTlbinv (h : Hd) (f : TlbForm) (x : Ops4) (s : State) : Out :=
  privUniform privileged h (match f with
    | .all => []
    | .range | .ctx => [(x.b, 1)]) s fun u g U G l =>
    let b := rd32 (s.env U G) G.regs x.b l
    if s.shoots.any fun d => !d.host && d.unit == u && d.grp == g then .next (s.stall u g)
    else if s.unacked u g != 0 then .next ((s.modGroup u g fun H => { H with mid := true }).stall u g)
    else
      let s1 := match f with
        | .range => s.startShoot false u g (some U.ctx) (G.regs.addr x.a.idx.toNat) (some b)
        | .ctx => s.startShoot false u g (some (b % 4096)) 0 none
        | .all => s.startShoot false u g none 0 none
      .next ((s1.modGroup u g fun H => { H with mid := true }).stall u g)

/-- The instruction in progress of a group completes by another agent's step. -/
def State.finishMid (s : State) (u g : Nat) : State :=
  s.modGroup u g fun G => { (G.count 0).adv with st := .ready, mid := false }

/-- An access that a covered translation admitted has not been performed, a request that a service program holds among them (R412
point 3). -/
def State.shootBusy (s : State) (d : Shootdown) : Bool :=
  (s.loads.any fun p => match s.units[p.unit]? with
    | some U => !U.svc && d.covers U.ctx p.va 32
    | none => false) ||
  (s.stores.any fun p => p.wts.isNone && (match s.units[p.unit]? with
    | some U => !U.svc && d.covers p.ctx p.va 16
    | none => true)) ||
  s.reqs.any fun q => q.index.isSome && !q.performed && d.covers q.ctx q.va (2 ^ q.size)

/-! ### ICINV (R210, R456) -/

/-- ICINV (R210, R456): after the group's writes are acknowledged, and while each die's flow of class 2 has room, it sends its four
invalidations; the group stalls until all four dies have acknowledged. A save waits from its first execution on (R216). -/
def execIcinv (h : Hd) (all : Bool) (x : Ops4) (s : State) : Out :=
  privUniform anyState h (if all then [] else [(x.b, 1)]) s fun u g U G l =>
    if s.icinvs.any fun c => c.unit == u && c.grp == g then .next (s.stall u g)
    else if s.unacked u g != 0 || [0, 1, 2, 3].any fun d => s.flowFull (dieOf U.core) d 2 then
      .next ((s.modGroup u g fun H => { H with mid := true }).stall u g)
    else
      let b := rd32 (s.env U G) G.regs x.b l
      let (ps, s1) := sendIcinv (dieOf U.core) [0, 1, 2, 3] s
      let c : Icinv := ⟨s.nextId, u, g, U.ctx, if all then 0 else G.regs.addr x.a.idx.toNat, if all then none else some b,
        [0, 1, 2, 3], ps⟩
      .next ((({ s1 with icinvs := s.icinvs ++ [c] }.fresh).modGroup u g fun H => { H with mid := true }).stall u g)

/-- A die has acknowledged an ICINV. -/
def Icinv.acked (c : Icinv) (die : Nat) : Icinv :=
  { c with dies := c.dies.filter (· != die), pkts := c.pkts.filter (·.dst != die) }

/-- ICINV_INVALIDATION: a die removes the covered slots and acknowledges, in the order of its flow; with the last the group goes on
(R210, R442, R456). -/
def execIcinvInvalidation (die id : Nat) (s : State) : Out :=
  match s.icinvs.find? fun c => c.id == id && c.dies.contains die with
  | none => .next s
  | some c =>
    if s.behindIcinv c die then .next s
    else
      let s1 := (s.dropSlots c die).ackPkt (c.pkts.find? (·.dst == die))
      if (c.acked die).dies.isEmpty then
        .next ({ s1 with icinvs := s1.icinvs.filter fun y => y.id != id }.finishMid c.unit c.grp)
      else .next { s1 with icinvs := s1.icinvs.map fun (y : Icinv) => if y.id == id then y.acked die else y }

/-! ### PERF (R212) -/

/-- Counter `i` of a group (R212): counter 1 runs while the unit is resident. -/
def State.perfOf (s : State) (G : Group) (i : Nat) : Nat :=
  if 8 ≤ i then 0 else if i = 1 then (spGet 0 G.perf 1).toNat + (s.clock - G.startedAt) else (spGet 0 G.perf i).toNat

/-- PERF (R212). -/
def execPerf (h : Hd) (x : Ops4) (s : State) : Out :=
  issue [(x.d, 2)] s fun u g U G =>
    let e := s.env U G
    let i := patOf 32 (sext 12 x.b.idx.toNat)
    .next ((s.modGroup u g fun H => H.putRegs (lanewise e G.regs h x.d true fun _ => s.perfOf G i)).finish u g h)

/-! ### SVCRMW and SVCRET (R213, R214, R461, R462) -/

/-- Lanes of an SVCRMW with their physical addresses. DESIGN CHOICE (log entry 111): an address above 52 bits is taken modulo 2^52. -/
def State.svcLanes (s : State) (e : Env) (r : Regs) (h : Hd) (x : Ops4) (n : Nat) : List (Nat × Nat) :=
  (activeLanes e r h).map fun l => (l, s.pa52 (laneEa e r x.a x.b 0 n l))

/-- Another group holds the lock of a line that a lane names. -/
def State.svcLocked (s : State) (u g : Nat) (xs : List (Nat × Nat)) : Bool :=
  xs.any fun x => s.lockedBy u g x.2 1 || match s.svcKey x.2 with
    | none => false
    | some k => match s.line? k with
      | some l => match l.lock with
        | some o => o != (u, g)
        | none => false
      | none => false

/-- The first lane whose address is not a multiple of the access size traps its lanes (R30, R213). -/
def svcAlign (s : State) (u g : Nat) (U : Unit) (G : Group) (n : Nat) (xs : List (Nat × Nat)) (k : Out) : Out :=
  match xs.filter fun x => x.2 % n != 0 with
  | [] => k
  | f :: fs => s.trapLanes u g U.ctx G ((f :: fs).map fun x => ⟨x.1, 4, x.2, none, 0⟩)

/-- Lock a lane's line, bringing it into the tile cache; one whose key is not known, or that its set cannot keep, is locked by its
address (R213). -/
def State.svcLock (s : State) (u g pa : Nat) : State :=
  let byAddr (t : State) : State := if t.paLocked pa then t else { t with paLocks := (pa / 256, u, g) :: t.paLocks }
  match s.svcKey pa with
  | none => byAddr s
  | some k =>
    let (s1, l) := s.fill k none
    if (s1.line? k).isSome then s1.putLine { l with lock := some (u, g) } else byAddr s1

/-- A service group's lock reads a lane's location at the home, which is counted as an access to the tile cache (R212, R213, R475). -/
def State.svcLockRead (s : State) (u g : Nat) (U : Unit) (pa n : Nat) : State :=
  ((s.countTile u g pa (s.physHolds (dieOf U.core) pa n)).svcAtHome (dieOf U.core) 0 pa).svcLock u g pa

/-- SVCRMW.lock (R213). DESIGN CHOICE (log entry 123): a line that is not homed at the group's own slices is locked all the same. -/
def execSvcrmwLock (h : Hd) (b64 : Bool) (x : Ops4) (s : State) : Out :=
  let n := if b64 then 8 else 4
  privStep svcOnly [(x.d, n / 4), (x.b, 1)] s fun u g U G =>
    let xs := s.svcLanes (s.env U G) G.regs h x n
    svcAlign s u g U G n xs <|
      if s.svcLocked u g xs || xs.any fun y => s.svcFull (dieOf U.core) y.2 0 then .next (s.stall u g)
      else match xs.find? fun y => s.uncorrIn y.2 n || s.svcCutRead (dieOf U.core) y.2 with
        | some y => .next (s.consume (s.svcLaunch y.2) y.2)
        | none =>
          let s1 := xs.foldl (fun t y => t.svcLockRead u g U y.2 n) s
          .next ((s1.modGroup u g fun H => H.putRegs (xs.foldl (fun r y =>
            r.putVec x.d.idx.toNat y.1 (n / 4) (s1.physNat y.2 n)) H.regs)).finish u g h)

/-- A group's lock of a lane's line is gone (R213). -/
def State.svcFree (s : State) (u g pa : Nat) : State :=
  { s with
    paLocks := s.paLocks.filter fun x => x != (pa / 256, u, g)
    lines := s.lines.map fun l => if l.within pa 1 && l.lock == some (u, g) then { l with lock := none } else l }

/-- Write a lane's value at its home, and unlock the line (R212, R213). -/
def State.svcUnlock (s : State) (u g : Nat) (U : Unit) (n : Nat) (x : Nat × Nat) : State :=
  (((s.countTile u g x.1 (s.physHolds (dieOf U.core) x.1 n)).svcWrite (dieOf U.core) x.1 (toBytesLE n x.2))).svcFree u g x.1

/-- SVCRMW.unlock after its checks: its invalidations and chunks, then the writes (R213, R439, R481). A write that a failed link cuts off
is not performed, and the launch charged ends (R443). -/
def State.svcUnlocks (s : State) (u g : Nat) (U : Unit) (h : Hd) (n : Nat) (xs : List (Nat × Nat)) : State :=
  match xs.find? fun x => s.svcCutWrite (dieOf U.core) x.1 with
  | some x => ((xs.foldl (fun t y => t.svcFree u g y.1) s).consume (s.svcLaunch x.1) x.1).finish u g h
  | none => match svcInvals (dieOf U.core) (xs.map (·.1)) s with
    | (true, s1) => s1.stall u g
    | (false, s1) => match svcReserve (xs.map (·.1)) s1 with
      | .error pa => s1.noChunks u g U pa
      | .ok s2 => (xs.foldl (fun t x => t.svcUnlock u g U n x) s2).finish u g h

/-- SVCRMW.unlock (R213). -/
def execSvcrmwUnlock (h : Hd) (b64 : Bool) (x : Ops4) (s : State) : Out :=
  let n := if b64 then 8 else 4
  privStep svcOnly [(x.d, n / 4), (x.b, 1)] s fun u g U G =>
    let e := s.env U G
    let xs := s.svcLanes e G.regs h x n
    svcAlign s u g U G n xs <|
      if s.svcLocked u g xs || xs.any fun y => s.heldPage y.2 || s.svcFull (dieOf U.core) y.2 1 then .next (s.stall u g)
      else .next (s.svcUnlocks u g U h n (xs.map fun y => (y.2, rd e G.regs b64 x.d y.1)))

/-- A reply that a service program sends to a return slot; one that no slot awaits is discarded and counted, under the die of the core
that its word names (R214, R462, R483). -/
def State.svcReply (s : State) (v slot : Nat) : State :=
  let half := bitsAt slot 19 1
  match s.reqs.find? fun q => q.kind != .red && q.index.isSome && q.rslot == slot % 2 ^ 19 &&
      !(if q.size == 4 then bitsAt q.halves half 1 == 1 else q.reply.isSome) with
  | none => s.event ⟨11, slot / 128 % 4, 0, BitVec.ofNat 64 slot, 0, none⟩
  | some q =>
    let old := match q.reply with
      | some r => r.toNat
      | none => 0
    let val := if q.size == 4 then (if half == 1 then old % 2 ^ 64 + 2 ^ 64 * v else old / 2 ^ 64 * 2 ^ 64 + v) else v
    { s with reqs := s.reqs.map fun (p : Req) =>
        if p.id == q.id then { p with reply := some (BitVec.ofNat 128 val), halves := p.halves ||| 2 ^ half } else p }

/-- SVCRET (R214): a reply to a slot that awaits none is discarded (R462). -/
def execSvcret (h : Hd) (x : Ops4) (s : State) : Out :=
  let wide := x.a.cls == .pair
  privStep svcOnly [(x.a, regsOf wide), (x.b, 1)] s fun u g U G =>
    let e := s.env U G
    .next (((activeLanes e G.regs h).foldl (fun t l =>
      t.svcReply (rd e G.regs wide x.a l) (rd32 e G.regs x.b l)) s).finish u g h)

end Sys2Proof.Machine
end

