-- ==== Sys2Proof/Machine/Spatial.lean ====
section
/-! DEFINITION. Spatial mode: the mode switch (R185, R186, R225 to R234, R266, R267), staged tokens and SPATQ (R187, R188), the
operator instructions (R190 to R194), stream ports (R192, R193, R196, R264), firings (R190, R258) and the exit step (R195,
R265). -/

namespace Sys2Proof.Machine

open Sys2Proof

/-! ### TOKI and SPATQ (R187, R188) -/

/-- TOKI (R187): a ninth staged token raises ILLOPND. -/
def execToki (h : Hd) (x : Ops4) (s : State) : Out :=
  uniformStep h [(x.a, 1), (x.b, 1)] s fun u g U G l =>
    let e := s.env U G
    let b := rd32 e G.regs x.b l
    if 8 ≤ U.staged.length then s.trapGroup u g G 2 b
    else .next ((s.modUnit u fun V => { V with
      staged := V.staged ++ [(BitVec.ofNat 32 b, BitVec.ofNat 32 (rd32 e G.regs x.a l))] }).finish u g h)

/-- The word SPATQ reads (R188). -/
def Unit.spatWord (U : Unit) (i : Nat) : Nat :=
  match i with
  | 0 => U.exitVal.toNat
  | 1 => U.exitImage.toNat
  | 2 => U.firings.toNat % 2 ^ 32
  | 3 => U.firings.toNat / 2 ^ 32
  | _ => U.freezes.toNat

/-- SPATQ (R188). -/
def execSpatq (h : Hd) (x : Ops4) (s : State) : Out :=
  uniformStep h [(x.d, 1)] s fun u g U _ _ => .next ((s.putD u g x.d (U.spatWord x.b.idx.toNat)).finish u g h)

/-! ### SPATON: gather and park (R185, R186, R266) -/

/-- An empty configuration in its load step. -/
def Spat.start (image : Nat) : Spat :=
  { step := .load, image := image, sig := none, cluster := 0, row := 0, col := 0, rows := 0, cols := 0, need := 0, ops := [],
    queues := [], ports := [], ins := [], outs := [], exitVal := 0, exitAt := none, firings := 0,
    freezes := 0, frozen := false, drain := [] }

/-- Every live group has reached SPATON: the groups are held, or all trap (R186, R266). -/
def State.gathered (s : State) (u : Nat) (U : Unit) : State :=
  match (U.groups.filter fun G => G.st != .ended).map (·.spatB) with
  | some b :: bs =>
    if (bs.any fun y => y != some b) || decide (U.nimg ≤ b.toNat) then s.spatTrap u 2 b.toNat
    else s.modUnit u fun V => { V with
      spat := some (.start b.toNat)
      groups := V.groups.map fun G => if G.st == .ended then G else { G with st := .held } }
  | _ => s

/-- SPATON (R185): a group waits at its slot until every live group of the unit has arrived. The run reads and writes registers of
parked groups, so a group arrives when its loads and atomics in flight have returned (R19). -/
def execSpaton (h : Hd) (x : Ops4) (s : State) : Out :=
  issue [(x.b, 1)] s fun u g U G =>
    match activeLanes (s.env U G) G.regs h with
    | [] => .next (s.finish u g h)
    | l :: _ =>
      if !(s.pendingRegs u g).isEmpty then .next (s.stall u g)
      else
        let b : Word := BitVec.ofNat 32 (rd32 (s.env U G) G.regs x.b l)
        let s1 := s.modGroup u g fun H => { H with st := .stalled, spatB := some b }
        match s1.units[u]? with
        | none => .next s1
        | some V =>
          if V.groups.all fun H => H.st == .ended || H.spatB.isSome then .next (s1.gathered u V) else .next s1

/-! ### Images (R217, R219, R225 to R227, R233) -/

/-- Unsigned field of `n` bytes at an offset. -/
def fieldAt (bs : List Byte) (off n : Nat) : Nat := ofBytesLE ((bs.drop off).take n)

/-- A parsed image body (R226). -/
structure Image where
  rows : Nat
  cols : Nat
  need : Word
  ops : List SOper
  queues : List SQueue
  stages : List Nat
  ports : List SPort
  ins : List SLive
  outs : List SLive
  deriving DecidableEq, Repr

/-- The operator entry at an offset of bytes that lie at a virtual address (R14, R226). -/
def operAt (va : Nat) (bs : List Byte) (a : Nat) : SOper where
  core := fieldAt bs a 1
  lane := fieldAt bs (a + 1) 1
  reps := fieldAt bs (a + 4) 4
  pc := BitVec.ofNat 64 (va + a + 8)
  code := (List.range (fieldAt bs (a + 2) 1)).map fun k => BitVec.ofNat 96 (fieldAt bs (a + 8 + 12 * k) 12)
  t := []
  p := []
  stoch := 0
  fired := 0
  resume := 0
  toks := []
/-- Queue entry with its initial tokens (R226, R227). -/
def queueAt (bs : List Byte) (a : Nat) : SQueue where
  core := fieldAt bs a 1
  idx := fieldAt bs (a + 1) 1
  depth := fieldAt bs (a + 2) 1
  stage := fieldAt bs (a + 4) 1
  prodCore := fieldAt bs (a + 5) 1
  prodLane := fieldAt bs (a + 6) 1
  prod := fieldAt bs (a + 7) 1
  consCore := fieldAt bs (a + 8) 1
  consLane := fieldAt bs (a + 9) 1
  toks := (List.range (fieldAt bs (a + 3) 1)).map fun k => BitVec.ofNat 32 (fieldAt bs (fieldAt bs (a + 12) 4 + 4 * k) 4)
  resv := 0
/-- Port entry (R226); its base follows at load. -/
def portAt (bs : List Byte) (a : Nat) : SPort where
  core := fieldAt bs a 1
  port := fieldAt bs (a + 1) 1
  write := fieldAt bs (a + 2) 1 == 1
  esize := fieldAt bs (a + 3) 1
  base := 0
  baseGrp := fieldAt bs (a + 4) 1
  baseReg := fieldAt bs (a + 5) 1
  stride := sext 32 (fieldAt bs (a + 8) 4)
  count := fieldAt bs (a + 12) 4
  pos := 0
  reads := []
  writes := []
  tlb := none
  fault := none
/-- Live-in entry (R226). -/
def liveInAt (bs : List Byte) (a : Nat) : SLive :=
  ⟨fieldAt bs a 1, fieldAt bs (a + 1) 1, fieldAt bs (a + 2) 1, fieldAt bs (a + 3) 1, fieldAt bs (a + 4) 1, fieldAt bs (a + 5) 1⟩
/-- Live-out entry (R226). -/
def liveOutAt (bs : List Byte) (a : Nat) : SLive :=
  ⟨fieldAt bs (a + 3) 1, fieldAt bs (a + 4) 1, fieldAt bs (a + 5) 1, fieldAt bs a 1, fieldAt bs (a + 1) 1, fieldAt bs (a + 2) 1⟩

/-- `n` table entries of a size. -/
def tableOf {α : Type} (f : Nat → α) (off size n : Nat) : List α := (List.range n).map fun i => f (off + size * i)

/-- Parse an image body that lies at a virtual address (R226). -/
def Image.ofBytes (va : Nat) (bs : List Byte) : Image :=
  let qs := tableOf (queueAt bs) (fieldAt bs 0x14 4) 16 (fieldAt bs 0x0A 2)
  { rows := fieldAt bs 0 1
    cols := fieldAt bs 1 1
    need := BitVec.ofNat 32 (fieldAt bs 4 4)
    ops := tableOf (operAt va bs) (fieldAt bs 0x10 4) 104 (fieldAt bs 8 2)
    queues := qs
    stages := qs.map (·.stage)
    ports := tableOf (portAt bs) (fieldAt bs 0x18 4) 24 (fieldAt bs 0x0C 2)
    ins := tableOf (liveInAt bs) (fieldAt bs 0x1C 4) 8 (fieldAt bs 0x0E 1)
    outs := tableOf (liveOutAt bs) (fieldAt bs 0x20 4) 8 (fieldAt bs 0x0F 1) }

/-- Read `n` bytes of a context for a unit's cluster placer. -/
def State.placerRead (s : State) (U : Unit) (va n : Nat) : Piece (List Byte) :=
  engRead ⟨.last (dieOf U.core), dieOf U.core, U.ctx, none⟩ ((List.range n).map fun i => some ((va + i) % 2 ^ 64)) s

/-- Defect signature of a cluster (R232). -/
def State.signature (s : State) (cl : Nat) : DWord :=
  BitVec.ofNat 64 (((List.range 32).map fun i => if s.disabledCores.contains (32 * cl + i) then 2 ^ i else 0).sum +
    ((List.range 8).map fun q => if s.disabledEngines.contains (8 * cl + q) then 2 ^ (32 + q) else 0).sum)

/-- What reading an image gives: a body and the signature of its variant, no variant for any cluster, none for this one, or
a read that failed. -/
inductive ImageRead where
  | got (i : Image) (sig : Option DWord) (s : State)
  | noVariant (s : State)
  | notHere (s : State)
  | failed (s : State)

/-- The variants of a table: signature, offset and size (R233). -/
def variantsOf (bs : List Byte) (n : Nat) : List (DWord × Nat × Nat) :=
  (List.range n).map fun i => (BitVec.ofNat 64 (fieldAt bs (16 * i) 8), fieldAt bs (16 * i + 8) 4, fieldAt bs (16 * i + 12) 4)

/-- Uncorrectable data ends the launch; a read that faults or waits leaves the unit in its load step (log entry 29). -/
def State.imageFail {α : Type} (s : State) (U : Unit) : Piece α → State
  | .ok _ s1 => s1
  | .fault _ _ => s
  | .uncorr pa => s.consume U.launch pa
  | .wait s1 => s1

/-- Read image `b` of a unit's kernel for a cluster (R219, R225, R227, R233, R234). -/
def State.readImage (s : State) (U : Unit) (b cl : Nat) : ImageRead :=
  let k := U.khdr.toNat
  match s.placerRead U k 8 with
  | .ok hd s1 =>
    match s1.placerRead U (k + fieldAt hd 4 4 + 0x40 + 16 * b) 16 with
    | .ok e s2 =>
      let n := fieldAt e 12 1
      if n = 0 then
        let va := patOf 64 ((k : Int) + sext 32 (fieldAt e 0 4))
        match s2.placerRead U va (fieldAt e 4 4) with
        | .ok bs s3 => .got (.ofBytes va bs) none s3
        | r => .failed (s2.imageFail U r)
      else
        match s2.placerRead U (k + fieldAt e 8 4) (16 * n) with
        | .ok vt s3 =>
          let vs := variantsOf vt n
          match vs.find? fun v => v.1 == s3.signature cl with
          | some (sig, off, len) =>
            match s3.placerRead U (k + off) len with
            | .ok bs s4 => .got (.ofBytes (k + off) bs) (some sig) s4
            | r => .failed (s3.imageFail U r)
          | none =>
            if (List.range Config.clusters).any fun c => vs.any fun v => v.1 == s3.signature c then .notHere s3
            else .noVariant s3
        | r => .failed (s2.imageFail U r)
    | r => .failed (s1.imageFail U r)
  | r => .failed (s.imageFail U r)

/-! ### Regions (R257, R267, R290) -/

/-- Bytes of the queues an image declares on one of its cores (R257). -/
def Image.queueBytes (i : Image) (core : Nat) : Nat := ((i.queues.filter fun q => q.core == core).map fun q => 4 * q.depth).sum
/-- Register bytes the home core leaves free (R290). -/
def Unit.freeRegBytes (U : Unit) : Nat := 32768 * U.regGran - 128 * U.nv * U.slots
/-- Cores of the rectangle the image needs. -/
def neededCores (rows cols : Nat) (need : Word) : List Nat :=
  ((List.range rows).flatMap fun r => (List.range cols).map fun c => r * 8 + c).filter fun k => need.getLsbD k
/-- The physical core of a core of the rectangle. -/
def regionCore (cl row col k : Nat) : Nat := 32 * cl + (row + k / 8) * 8 + col + k % 8

/-- Cores that a configuration holds (R267). -/
def Unit.regionCores (U : Unit) : List Nat :=
  match U.spat with
  | some c =>
    if U.st == .resident && c.step != .load && !c.frozen then
      (neededCores c.rows c.cols c.need).map (regionCore c.cluster c.row c.col)
    else []
  | none => []

/-- No unit but `u` is on the core, and no configuration of another unit holds it. -/
def State.coreFreeFor (s : State) (u core : Nat) : Bool :=
  !(s.units.zipIdx.any fun (V, v) => v != u && ((V.st == .resident && !V.svc && V.core == core) || V.regionCores.contains core))

/-- A rectangle of the home cluster satisfies R267. -/
def State.regionOk (s : State) (u : Nat) (U : Unit) (i : Image) (row col : Nat) : Bool :=
  let cl := U.core / 32
  let need := neededCores i.rows i.cols i.need
  decide (row + i.rows ≤ 4 ∧ col + i.cols ≤ 8) &&
    (need.any fun k => regionCore cl row col k == U.core && decide (i.queueBytes k ≤ U.freeRegBytes)) &&
    need.all fun k => !s.disabledCores.contains (regionCore cl row col k) &&
      (regionCore cl row col k == U.core || s.coreFreeFor u (regionCore cl row col k))

/-- Every origin of a cluster's grid, row then column. -/
def origins : List (Nat × Nat) := (List.range 4).flatMap fun r => (List.range 8).map fun c => (r, c)

/-- The region the cluster placer takes: the smallest origin (R267). -/
def State.findRegion (s : State) (u : Nat) (U : Unit) (i : Image) : Option (Nat × Nat) :=
  origins.find? fun o => s.regionOk u U i o.1 o.2

/-- No rectangle of any cluster has every needed core enabled (R186). -/
def State.neverPlaced (s : State) (i : Image) : Bool :=
  !((List.range Config.clusters).any fun cl => origins.any fun o =>
    decide (o.1 + i.rows ≤ 4 ∧ o.2 + i.cols ≤ 8) &&
      (neededCores i.rows i.cols i.need).all fun k => !s.disabledCores.contains (regionCore cl o.1 o.2 k))

/-- SPATON raises SPATPLACE (R186, R266, R290). -/
def State.spatPlace (s : State) (U : Unit) (i : Image) (variant : Bool) : Bool :=
  !((neededCores i.rows i.cols i.need).any fun k => decide (i.queueBytes k ≤ U.freeRegBytes)) ||
    (!variant && s.neverPlaced i)

/-! ### Load and check (R187, R227, R228, R50) -/

/-- Append the staged tokens in order, or answer the queue word that names no declared queue (R187, R228). -/
def stageTokens : List (Word × Word) → List SQueue → Except Word (List SQueue)
  | [], qs => .ok qs
  | (b, v) :: r, qs =>
    let core := bitsAt b.toNat 8 5
    let idx := bitsAt b.toNat 0 8
    if bitsAt b.toNat 13 19 != 0 then .error b
    else match qs.find? fun q => q.core == core && q.idx == idx with
      | none => .error b
      | some q =>
        if q.stage = 0 then .error b
        else stageTokens r (qs.map fun y =>
          if y.core == core && y.idx == idx then { y with toks := y.toks ++ [v], stage := y.stage - 1 } else y)

/-- Seed of an operator lane (R49, R50). -/
def operSeed (U : Unit) (p : SOper) : Word :=
  let t := (U.idx * 1024 + 0x200 + 128 * p.core + p.lane) % 2 ^ 32
  let g : Word := BitVec.ofNat 32 (U.launch.toNat % 2 ^ 32) ^^^ BitVec.ofNat 32 (t * 0x9E3779B9)
  if g = 0 then 1 else g

/-- A live-in's value: a register lane of a parked group (R227). DESIGN CHOICE (log entry 130): 0 where the unit has no such group; one
that has ended is read as a parked one. -/
def Unit.liveVal (U : Unit) (y : SLive) : Word :=
  match U.groups[y.grp]? with
  | some G => BitVec.ofNat 32 (G.regs.vec y.reg y.lane)
  | none => 0

/-- An operator lane at load: its live-ins, zero elsewhere (R227). -/
def loadOper (U : Unit) (ins : List SLive) (p : SOper) : SOper :=
  { p with
    stoch := operSeed U p
    t := (ins.filter fun y => y.core == p.core && y.olane == p.lane).foldl (fun t y => spSet 0 t y.temp (U.liveVal y)) [] }

/-- A port at load takes its base from an address register of a parked group (R227). DESIGN CHOICE (log entry 130): base 0 where the
unit has no such group. -/
def loadPort (U : Unit) (p : SPort) : SPort :=
  match U.groups[p.baseGrp]? with
  | some G => { p with base := BitVec.ofNat 64 (G.regs.addr p.baseReg) }
  | none => p

/-- The configuration as the load and check steps leave it. -/
def loadSpat (U : Unit) (b row col : Nat) (i : Image) (sig : Option DWord) (qs : List SQueue) : Spat :=
  { Spat.start b with
    step := .run, sig := sig, cluster := U.core / 32, row := row, col := col, rows := i.rows, cols := i.cols, need := i.need
    ops := i.ops.map (loadOper U i.ins)
    queues := qs.zip i.stages |>.map fun (q, n) => { q with stage := n }
    ports := i.ports.map (loadPort U)
    ins := i.ins, outs := i.outs }

/-- An operator with the code of a delta's entry, whose slots lie in that entry; its state stays (R404). -/
def SOper.patch (p : SOper) (e : DeltaEnt) : SOper :=
  let q := operAt e.value.toNat e.data 0
  { p with code := q.code, reps := q.reps, pc := q.pc + BitVec.ofNat 64 (12 * (p.resume - 1)) }

/-- A port whose base a delta replaced; its position stays and its translation entry is emptied (R404). -/
def SPort.patch (p : SPort) (e : DeltaEnt) : SPort := { p with base := BitVec.ofNat 64 (ofBytesLE e.data), tlb := none }

/-- Operators as the entries of deltas leave them (R404). -/
def patchOpers (es : List DeltaEnt) (ops : List SOper) : List SOper :=
  es.foldl (fun ps e => if e.kind == 1 then ps.map fun p => if p.core == e.core && p.lane == e.sel then p.patch e else p else ps) ops

/-- Ports as the entries of deltas leave them (R404). -/
def patchPorts (es : List DeltaEnt) (ports : List SPort) : List SPort :=
  es.foldl (fun ps e => if e.kind == 2 then ps.map fun p => if p.core == e.core && p.port == e.sel then p.patch e else p else ps)
    ports

/-- The entries that deltas have applied to a stage's image, oldest first (R404). -/
def Launch.entsOf (L : Launch) (stage image : Nat) : List DeltaEnt :=
  (L.patches.filter fun p => p.stage == stage && p.image == image).map (·.ent)

/-- The entries applied to an image of a unit's launch (R404). -/
def State.patchesOf (s : State) (U : Unit) (image : Nat) : List DeltaEnt :=
  match s.launchOf U with
  | some L => L.entsOf U.stage image
  | none => []

/-- Operators of a configuration on the cores that entries name. -/
def Spat.drainFor (c : Spat) (es : List DeltaEnt) : List Nat :=
  (c.ops.zipIdx.filter fun (p, _) => es.any fun e => e.core == p.core).map (·.2)

/-- A delta concerns a unit's configuration of an image. -/
def Delta.aims (d : Delta) (U : Unit) (image : Nat) : Bool := U.launch == d.launch && U.stage == d.stage && image == d.image

/-- Operators that wait for the deltas that stand (R404). -/
def State.drainOf (s : State) (U : Unit) (c : Spat) : List Nat :=
  ((s.deltas.filter fun d => d.aims U c.image).flatMap fun d => c.drainFor d.entries).dedup

/-- The home cluster has no region for the image: the placer may move the unit to another cluster (R234, R267). -/
def State.seekCluster (s : State) (u image : Nat) : State := s.modUnit u fun V => { V with seek := some image }

/-- Some other cluster has a region for the image (R234, R267). -/
def State.regionElsewhere (s : State) (u : Nat) (U : Unit) (i : Image) : Bool :=
  (List.range Config.cores).any fun c => c / 32 != U.core / 32 && !s.disabledCores.contains c && s.coreFreeFor u c &&
    (s.findRegion u { U with core := c } i).isSome

/-- SPATIAL_LOAD: the cluster placer reads the image, finds a region, loads the configuration and checks the staged tokens
(R186, R225 to R234, R266, R267). While no region is free, the unit stays in its load step, and the placer may move it to a cluster
that has one (UNIT_EVICT). A unit that is to be saved loads nothing (R433). DESIGN CHOICE (log entry 117): the stage is empty from the
load step on, and a later trap of the run leaves it so. -/
def execSpatialLoad (u row col : Nat) (s : State) : Out :=
  match s.units[u]? with
  | none => .next s
  | some U =>
    match U.spat with
    | none => .next s
    | some c =>
      if U.st != .resident || c.step != .load || U.saveAt.isSome then .next s
      else match s.readImage U c.image (U.core / 32) with
        | .failed s1 => .next s1
        | .notHere s1 => .next (s1.seekCluster u c.image)
        | .noVariant s1 => .next (s1.cancelLaunch U.launch fun L => { L with faulted := L.faulted <|> some (5, c.image) })
        | .got i0 sig s1 =>
          let es := s1.patchesOf U c.image
          let i := { i0 with ops := patchOpers es i0.ops }
          if s1.spatPlace U i sig.isSome then .next (s1.spatTrap u 9 c.image)
          else match s1.findRegion u U i with
            | none => .next (if sig.isSome || s1.regionElsewhere u U i then s1.seekCluster u c.image else s1)
            | some o =>
              if o != (row, col) then .next s1
              else match stageTokens U.staged i.queues with
                | .error b => .next (s1.spatTrap u 2 b.toNat)
                | .ok qs =>
                  let d := loadSpat U c.image row col i sig qs
                  let d1 := { d with ports := patchPorts es d.ports }
                  .next (s1.modUnit u fun V => { V with spat := some { d1 with drain := s1.drainOf U d1 }, staged := [], seek := none })

/-! ### Stream ports (R192, R193, R196, R264) -/

/-- Change a port of a configuration by its place in the list. -/
def State.modPort (s : State) (u k : Nat) (f : SPort → SPort) : State :=
  s.modSpat u fun c => { c with ports := updAt c.ports k f }

/-- Translate an element's byte: the port's own entry, or a walk that fills it; a gather uses the edge TLB (R264, R411,
R490). -/
def State.portXlate (s : State) (die ctx : Nat) (gather : Bool) (acc : Acc) (e : Option (Nat × Nat × Nat)) (va : Nat) :
    Except WalkInfo (Nat × Option (Nat × Nat × Nat) × State) :=
  let fill : Except WalkInfo (Nat × Option (Nat × Nat × Nat) × State) :=
    match s.walkMake die va 5 (s.root ctx) acc false with
    | .error w => .error w
    | .ok (_, lvl, pa, _, s1) =>
      let size := levelSize lvl
      .ok (pa + va % size, some (va / size, pa / size, Nat.log2 size), s1)
  if !canonical va then .error ⟨7, acc.code, 0⟩
  else if gather then
    match s.translate (.edge die) die ctx va acc false with
    | .error w => .error w
    | .ok (pa, s1) => .ok (pa, e, s1)
  else match e with
    | some (v, p, k) => if va / 2 ^ k = v then .ok (p * 2 ^ k + va % 2 ^ k, e, s) else fill
    | none => fill

/-- Read the bytes of an element: the bytes and the port's translation entry. -/
def portRead (p : Port) (gather : Bool) : List Nat → Option (Nat × Nat × Nat) → State →
    Piece (List Byte × Option (Nat × Nat × Nat))
  | [], e, s => .ok ([], e) s
  | va :: r, e, s =>
    match s.portXlate p.die p.ctx gather .read e va with
    | .error w => .ofWalk s va w
    | .ok (pa, e1, s1) =>
      if s1.uncorrIn pa 1 || s1.cutRead p.die p.ctx va pa then .uncorr pa
      else if !s1.engReadable p va pa then .wait s1
      else
        let (b, s2) := (s1.sentRead p pa (lineEnds va (r.map some))).readPage p.die p.ctx p.unit va pa 1
        match portRead p gather r e1 s2 with
        | .ok (bs, e2) s3 => .ok (b ++ bs, e2) s3
        | x => x

/-- Check the bytes of an element to be written. -/
def portCheck (p : Port) : List (Nat × Byte) → Option (Nat × Nat × Nat) → State →
    Piece (List (Nat × Nat × Byte) × Option (Nat × Nat × Nat))
  | [], e, s => .ok ([], e) s
  | (va, b) :: r, e, s =>
    match s.portXlate p.die p.ctx false .write e va with
    | .error w => .ofWalk s va w
    | .ok (pa, e1, s1) => match engAdmit p va pa s1 with
      | .fault a w => .fault a w
      | .uncorr a => .uncorr a
      | .wait s2 => .wait s2
      | .ok _ s2 => match portCheck p r e1 s2 with
        | .ok (xs, e2) s3 => .ok ((va, pa, b) :: xs, e2) s3
        | x => x

/-- The record of a stream port's fault (R421). -/
def portRecord (U : Unit) (c : Spat) (p : SPort) (pos va : Nat) (w : WalkInfo) : FaultRec :=
  ⟨BitVec.ofNat 64 va, U.ctx, 6, w.kind, w.access, 1, w.level, U.launch, U.idx,
    whereOf (regionCore c.cluster c.row c.col p.core) p.port, BitVec.ofNat 64 pos, 0⟩

/-- A port withholds its element behind a record; the entry of the page before is gone (R196, R264, R414, R468). -/
def State.portFault (s : State) (u k : Nat) (U : Unit) (c : Spat) (p : SPort) (pos va : Nat) (w : WalkInfo) : State :=
  match s.engPost (dieOf (regionCore c.cluster c.row c.col p.core)) (portRecord U c p pos va w) (.port u p.core p.port) with
  | none => s
  | some (s1, f) => s1.modPort u k fun q => { q with fault := f, tlb := none }

/-- The access port of a stream port. -/
def Unit.streamPort (U : Unit) (u : Nat) (c : Spat) (p : SPort) : Port :=
  let die := dieOf (regionCore c.cluster c.row c.col p.core)
  ⟨.last die, die, U.ctx, some u⟩

/-- Perform the oldest posted write of a port (R193, R196): a tentative unit's becomes a tentative line. -/
def State.portWrite (s : State) (u k : Nat) : State :=
  match s.units[u]? with
  | none => s
  | some U => match U.spat with
    | none => s
    | some c => match c.ports[k]? with
      | none => s
      | some p =>
        if U.st != .resident || c.frozen || p.fault.isSome || s.retriedNow (.port u p.core p.port) then s
        else match p.writes with
          | [] => s
          | w :: _ =>
            let pt := U.streamPort u c p
            let bs := bytesAt w.va.toNat p.esize w.val.toNat
            match portCheck pt bs p.tlb s with
            | .fault a i => s.portFault u k U c p w.pos a i
            | .uncorr pa => s.consume U.launch pa
            | .wait s1 => s1
            | .ok (xs, e) s1 =>
              let pop (t : State) : State := t.modPort u k fun q => { q with writes := q.writes.tail, tlb := e }
              if !U.firm then
                if s1.tentFits u U.ctx (bs.map (·.1)) then pop (s1.tentWrite u U.ctx bs) else s1
              else match engStore pt (s1.tcOf U.core) 0 xs s1 with
                | .ok t s2 => pop ((s2.engHeat U.ctx [some w.va.toNat]).rhRaise U.core t)
                | .fault a i => s.portFault u k U c p w.pos a i
                | .uncorr pa => s1.consume U.launch pa
                | .wait s2 => s2

/-- Perform the posted writes of a port in order, as far as they go; `n` bounds their number. -/
def State.drainPort (s : State) (u k : Nat) : Nat → State
  | 0 => s
  | n + 1 => (s.portWrite u k).drainPort u k n

/-- The number of posted writes of a unit's port. -/
def Unit.posted (U : Unit) (k : Nat) : Nat :=
  match U.spat with
  | none => 0
  | some c => match c.ports[k]? with
    | none => 0
    | some p => p.writes.length

/-- Perform what a port has posted. -/
def State.drain (s : State) (u k : Nat) : State :=
  match s.units[u]? with
  | none => s
  | some U => s.drainPort u k (U.posted k)

/-- Place a read's element: as a token in reserved room, or in a temporary (R192, R268). -/
def State.placeRead (s : State) (u : Nat) (d : PortDst) (v : Word) : State :=
  match d with
  | .queue core q => s.modSpat u fun c => c.give core q v
  | .temp o t => s.modOper u o fun p => { p with t := spSet 0 p.t t v }

/-- A firing that still owes a store awaits this read in one of its temporaries (R193, R195). -/
def Spat.owed (c : Spat) (r : PortRead) : Bool := match r.dst with
  | .temp o _ => match c.ops[o]? with
    | some p => p.owes
    | none => false
  | .queue _ _ => false

/-- A read of a port faults: a record is posted. In the exit step the reads whose tokens no operator will take are abandoned without
one; a read that a firing needs for a store it owes stalls behind its record (R195, R196). -/
def State.readFault (s : State) (u k : Nat) (U : Unit) (c : Spat) (p : SPort) (r : PortRead) (a : Nat) (w : WalkInfo) : State :=
  if c.step == .exit && w.kind != 7 && !c.owed r then s.modPort u k fun q => { q with reads := q.reads.filter c.owed }
  else s.portFault u k U c p r.pos a w

/-- The oldest read of a port returns (R192, R196). -/
def State.portReturn (s : State) (u k : Nat) (U : Unit) (c : Spat) (p : SPort) (r : PortRead) : State :=
  let pop (t : State) (e : Option (Nat × Nat × Nat)) : State := t.modPort u k fun q => { q with reads := q.reads.tail, tlb := e }
  if r.skip then (pop s p.tlb).placeRead u r.dst 0
  else
    let vas := (List.range p.esize).map fun i => (r.va.toNat + i) % 2 ^ 64
    let pt := U.streamPort u c p
    let place : TlbPlace := if r.gather then .edge pt.die else .last pt.die
    match portRead { pt with place } r.gather vas p.tlb s with
    | .ok (bs, e) s1 => (pop (s1.engReadHeat pt.die U.ctx [some r.va.toNat]) e).placeRead u r.dst (BitVec.ofNat 32 (ofBytesLE bs))
    | .fault a w => s.readFault u k U c p r a w
    | .uncorr pa => s.consume U.launch pa
    | .wait s1 => s1

/-- STREAM_READ_RETURN: a stream port's oldest read returns and places its element; a write port performs what it has posted
(R192, R193, R196). -/
def execStreamReadReturn (u port : Nat) (s : State) : Out :=
  match s.units[u]? with
  | none => .next s
  | some U => match U.spat with
    | none => .next s
    | some c => match c.ports[port]? with
      | none => .next s
      | some p =>
        if U.st != .resident || c.frozen || p.fault.isSome || c.step == .load || s.retriedNow (.port u p.core p.port) then .next s
        else match p.reads with
          | [] => .next (s.drain u port)
          | r :: _ => .next (s.portReturn u port U c p r)

/-! ### Operator instructions (R190 to R195) -/

/-- An operator instruction: in a group it raises ILLOP (R34). -/
def spatialOp (uses : Uses) (s : State) (k : Nat → Nat → Unit → Spat → SOper → Out) : Out :=
  match s.cur with
  | .oper u o => operStep (fun _ _ => uses) u o s (k u o)
  | .front | .group _ _ | .queue _ => issue [] s fun u g _ G => s.trapGroup u g G 1 G.pc.toNat

/-- The value of a 32-bit source of an operator. -/
def State.operVal (s : State) (U : Unit) (p : SOper) (x : Opnd) : Nat := rd32 (s.operEnv U p) p.regs x 0

/-- Give a token, in order with reads of ports on their way to the same queue. -/
def State.operGive (s : State) (u o : Nat) (c : Spat) (core q v : Nat) : Out :=
  if c.queueBusy core q none then .next s
  else .next ((s.modSpat u fun c => c.give core q (BitVec.ofNat 32 v)).operDone u o)

/-- SEND (R191): the route names a core relative to the configuration's origin. -/
def execSend (_h : Hd) (x : Ops4) (s : State) : Out :=
  spatialOp [(x.a, 1)] s fun u o U c p => s.operGive u o c (bitsAt x.b.idx.toNat 0 5) x.d.idx.toNat (s.operVal U p x.a)

/-- GTOK (R194). -/
def execGtok (_h : Hd) (x : Ops4) (s : State) : Out :=
  spatialOp [] s fun u o _ c p => s.operGive u o c p.core x.d.idx.toNat (if p.regs.pred x.a.idx.toNat 0 then 1 else 0)

/-- DROPT (R194): the firing has taken the token. -/
def execDropt (_h : Hd) (_x : Ops4) (s : State) : Out := spatialOp [] s fun u o _ _ _ => .next (s.operDone u o)

/-- The place of an operator's port in the list. -/
def Spat.portNo (c : Spat) (core port : Nat) (write : Bool) : Option (Nat × SPort) :=
  (c.ports.zipIdx.find? fun (p, _) => p.core == core && p.port == port && p.write == write).map fun (p, k) => (k, p)

/-- The address of a port's next element (R192). -/
def SPort.nextVa (p : SPort) : Nat := patOf 64 ((p.base.toNat : Int) + p.pos * p.stride)

/-- STRLD (R192): a read past the declared count raises SPATRATE; a port holds at most eight reads not placed (R432). -/
def execStrld (_h : Hd) (gather : Bool) (x : Ops4) (s : State) : Out :=
  spatialOp [(x.d, 1), (x.a, 1)] s fun u o U c p =>
    match c.portNo p.core x.b.idx.toNat false with
    | none => .next (s.rateTrap u o p)
    | some (k, q) =>
      let dst : PortDst := if x.d.cls == .queue then .queue p.core x.d.idx.toNat else .temp o x.d.idx.toNat
      if q.count ≤ q.pos then .next (s.rateTrap u o p)
      else if 8 ≤ q.reads.length ||
          (x.d.cls == .queue && c.queueBusy p.core x.d.idx.toNat (some (p.core, q.port))) then .next s
      else
        let skip := x.c.cls == .queue && s.operVal U p x.c == 0
        let va := if gather then patOf 64 ((q.base.toNat : Int) + sext 32 (s.operVal U p x.a) * q.esize) else q.nextVa
        let r : PortRead := ⟨q.pos, BitVec.ofNat 64 va, gather, skip, dst⟩
        .next ((s.modPort u k fun y => { y with pos := y.pos + 1, reads := y.reads ++ [r] }).operDone u o)

/-- STRST (R193): a zero guard token advances the port without writing. -/
def execStrst (_h : Hd) (x : Ops4) (s : State) : Out :=
  spatialOp [(x.a, 1)] s fun u o U c p =>
    match c.portNo p.core x.b.idx.toNat true with
    | none => .next (s.rateTrap u o p)
    | some (k, q) =>
      if q.count ≤ q.pos then .next (s.rateTrap u o p)
      else if s.operVal U p x.c = 0 then
        .next ((s.modPort u k fun y => { y with pos := y.pos + 1 }).operDone u o)
      else
        let w : PortWrite := ⟨q.pos, BitVec.ofNat 64 q.nextVa, BitVec.ofNat 32 (s.operVal U p x.a)⟩
        .next (((s.modPort u k fun y => { y with pos := y.pos + 1, writes := y.writes ++ [w] }).operDone u o).drain u k)

/-- This SPEXIT supplies the exit value: none has fired, or one of this cycle at a higher lane number (R195). -/
def Spat.exitsAt (c : Spat) (lane clock : Nat) : Bool := match c.exitAt with
  | none => true
  | some (t, l) => t == clock && decide (lane < l)

/-- SPEXIT (R195): the exit step begins and firing stops; of exit operators that fire in one cycle the lowest lane number supplies
the exit value. -/
def execSpexit (_h : Hd) (x : Ops4) (s : State) : Out :=
  spatialOp [(x.a, 1)] s fun u o U c p =>
    let v : Word := BitVec.ofNat 32 (s.operVal U p x.a)
    let s1 := if c.exitsAt p.relLane s.clock then
        s.modSpat u fun d => { d with step := .exit, exitVal := v, exitAt := some (s.clock, p.relLane) }
      else s
    .next (s1.operDone u o)

/-! ### Firings (R189, R190, R258) -/

/-- The instructions an operator shares with a group (R189). -/
def aluOf : Instr → Option Alu
  | .add h m x => some (addOp h m x) | .sub h m x => some (subOp h m x) | .mul h m x => some (mulOp h m x)
  | .mulh h m x => some (mulhOp h m x) | .mad h m x => some (madOp h m x) | .madw h m x => some (madwOp h m x)
  | .div h m x => some (divOp h m x) | .rem h m x => some (remOp h m x) | .abs h m x => some (absOp h m x)
  | .neg h m x => some (negOp h m x) | .min h m x => some (minOp h m x) | .max h m x => some (maxOp h m x)
  | .and h m x => some (andOp h m x) | .or h m x => some (orOp h m x) | .xor h m x => some (xorOp h m x)
  | .not h m x => some (notOp h m x) | .shl h m x => some (shlOp h m x) | .shr h m x => some (shrOp h m x)
  | .sar h m x => some (sarOp h m x) | .rot h m x => some (rotOp h m x) | .bfx h m x => some (bfxOp h m x)
  | .bfi h m x => some (bfiOp h m x) | .popc h m x => some (popcOp h m x) | .clz h m x => some (clzOp h m x)
  | .brev h m x => some (brevOp h m x) | .blut h m x => some (blutOp h m x) | .sel h m x => some (selOp h m x)
  | .mov h m x => some (movOp h m x) | .movi h m x => some (moviOp h m x) | .bperm h m x => some (bpermOp h m x)
  | .addc h m x => some (addcOp h m x) | .subb h m x => some (subbOp h m x) | .aadd h m x => some (aaddOp h m x)
  | .amad h m x => some (amadOp h m x) | .amov h m x => some (amovOp h m x) | .aget h m x => some (agetOp h m x)
  | .lea h m x => some (leaOp h m x) | .dp4 h m x => some (dp4Op h m x) | .dp2 h m x => some (dp2Op h m x)
  | .sad h m x => some (sadOp h m x) | .fadd h m x => some (faddOp h m x) | .fmul h m x => some (fmulOp h m x)
  | .ffma h m x => some (ffmaOp h m x) | .fmin h m x => some (fminOp h m x) | .fmax h m x => some (fmaxOp h m x)
  | .cvt h m d a => some (cvtOp h m d a) | .itest h t n c x => some (itestOp h t n c x)
  | .ftest h w n c x => some (ftestOp h w n c x) | .plut h l x => some (plutOp h l x)
  | _ => none

/-- One instruction of a firing under way; one that is not admitted raises ILLOP (log entry 28). -/
def operInstr (u o : Nat) (i : Instr) (s : State) : Out :=
  let s1 := { s with cur := .oper u o }
  match i with
  | .send h x => execSend h x s1
  | .strld h g x => execStrld h g x s1
  | .strst h x => execStrst h x s1
  | .gtok h x => execGtok h x s1
  | .dropt h x => execDropt h x s1
  | .spexit h x => execSpexit h x s1
  | i => match aluOf i with
    | some x => operAlu x u o s1
    | none => .next (match s1.oper? u o with
      | some (_, _, p) => s1.operTrap u o 1 p.pc.toNat
      | none => s1)

/-- The firing's next instruction, as far as it can go (R258, R268). -/
def State.operNext (s : State) (u o : Nat) : State :=
  match s.oper? u o with
  | none => s
  | some (U, c, p) =>
    if !U.goesOn c p s.clock then s
    else match p.code[p.resume - 1]? with
      | none => s.operDone u o
      | some w => match decode96 w with
        | .error .illop => s.operTrap u o 1 p.pc.toNat
        | .error .illopnd => s.operTrap u o 2 p.pc.toNat
        | .ok i => match operInstr u o i s with
          | .next s1 => { s1 with cur := s.cur }
          | .fault _ => s
          | .refused _ => s

/-- Run the instructions of a firing. -/
def operRun (u o : Nat) : Nat → State → State
  | 0, s => s
  | n + 1, s => operRun u o n (s.operNext u o)

/-- B and C of a slot are an immediate word: MOD[7] of the arithmetic families, or a conversion's formats (R29). -/
def slotImm (r : Raw) : Bool :=
  (decide (1 ≤ r.op.toNat ∧ r.op.toNat ≤ 0x51) && r.mod.getLsbD 7) || decide (0x58 ≤ r.op.toNat ∧ r.op.toNat ≤ 0x5F)

/-- Queue indices a slot's source fields name; an immediate word names none (R190). DESIGN CHOICE (log entry 115): the prior D of a BLUT
is no source, so that a D which names a queue takes no token and reads one only where a source names the queue too. -/
def slotReads (w : Slot) : List Nat :=
  let r := Raw.ofSlot w
  ((if slotImm r then [r.a] else [r.a, r.b, r.c]).map Opnd.get).filterMap fun o => if o.cls == .queue then some o.idx.toNat else none

/-- The queue a slot gives a token to: core and index (R190, R191). -/
def slotGives (core : Nat) (w : Slot) : Option (Nat × Nat) :=
  let r := Raw.ofSlot w
  let d := Opnd.get r.d
  if d.cls != .queue then none
  else if r.op.toNat = 0xE2 then some (bitsAt (Opnd.get r.b).idx.toNat 0 5, d.idx.toNat)
  else some (core, d.idx.toNat)

/-- Queues of its core that an operator reads. -/
def SOper.reads (p : SOper) : List Nat := (p.code.flatMap slotReads).dedup
/-- Queues an operator gives tokens to, once for each token. -/
def SOper.gives (p : SOper) : List (Nat × Nat) := p.code.filterMap (slotGives p.core)

/-- The operator takes and gives what its image declares (R190). -/
def Spat.rateOk (c : Spat) (p : SOper) : Bool :=
  (c.queues.all fun q =>
    (if q.prodCore == p.core && q.prodLane == p.lane then q.prod else 0) == p.gives.count (q.core, q.idx) &&
      (q.consCore == p.core && q.consLane == p.lane) == (q.core == p.core && p.reads.contains q.idx)) &&
    (p.reads.all fun q => (c.queue? p.core q).isSome) && p.gives.all fun q => (c.queue? q.1 q.2).isSome

/-- Read ports that an operator's code names (R192). -/
def SOper.loads (p : SOper) : List Nat :=
  p.code.filterMap fun w => let r := Raw.ofSlot w; if r.op.toNat = 0xE4 then some (Opnd.get r.b).idx.toNat else none

/-- DEDUCED (log entry 77): an operator begins no firing for which a read port of its code has no element left, as R468 to R470 have
it. -/
def Spat.portsLeft (c : Spat) (p : SOper) : Bool :=
  p.loads.all fun b => match c.portNo p.core b false with
    | some (_, q) => decide (q.pos < q.count)
    | none => true

/-- The firing condition of R190: a token on every queue read, room on every queue written, and an element on every read port. -/
def Spat.fires (c : Spat) (p : SOper) : Bool :=
  c.portsLeft p &&
  (p.reads.all fun q => match c.queue? p.core q with
    | some x => !x.toks.isEmpty
    | none => true) &&
  p.gives.all fun q => match c.queue? q.1 q.2 with
    | some x => decide (x.toks.length + x.resv + p.gives.count q ≤ x.depth)
    | none => true

/-- A firing starts: head tokens are taken, room is reserved (R258). -/
def Spat.begin (c : Spat) (o : Nat) (p : SOper) : Spat :=
  let toks := p.reads.filterMap fun q => match c.queue? p.core q with
    | some x => x.toks.head?.map fun v => (q, v)
    | none => none
  let c1 := p.reads.foldl (fun c q => c.modQueue p.core q fun x => { x with toks := x.toks.tail }) c
  let c2 := p.gives.foldl (fun c q => c.modQueue q.1 q.2 fun x => { x with resv := x.resv + 1 }) c1
  { c2 with
    firings := c2.firings + 1
    ops := updAt c2.ops o fun y => { y with fired := y.fired + 1, resume := 1, toks := toks } }

/-- OPERATOR_FIRING: an operator whose firing condition holds fires once, or a firing that waited for a read goes on (R190,
R258, R268). -/
def execOperatorFiring (u op : Nat) (s : State) : Out :=
  match s.oper? u op with
  | none => .next s
  | some (U, c, p) =>
    if p.resume != 0 then .next (operRun u op 8 s)
    else if !U.running c s.clock || c.drain.contains op || U.saveAt.isSome then .next s
    else if !c.rateOk p then (if c.fires p then .next (s.rateTrap u op p) else .next s)
    else if !c.fires p then .next s
    else .next (operRun u op 8 (s.modSpat u fun d => d.begin op p))

/-! ### SPATIAL_EXIT (R195, R227, R265) -/

/-- The value of a live-out's temporary. -/
def Spat.outVal (c : Spat) (y : SLive) : Word :=
  match c.ops.find? fun p => p.core == y.core && p.lane == y.olane with
  | some p => spGet 0 p.t y.temp
  | none => 0

/-- Write the live-outs in table order (R227). DESIGN CHOICE (log entry 130): one that names a group the unit does not have is dropped. -/
def writeOuts (c : Spat) (gs : List Group) : List SLive → List Group
  | [] => gs
  | y :: ys => writeOuts c (updAt gs y.grp fun G => { G with v := spSet 0 G.v (32 * y.reg + y.lane) (c.outVal y) }) ys

/-- A held group resumes at the slot after SPATON (R185). -/
def Group.unhold (G : Group) : Group :=
  if G.st == .held then { (G.count 0).adv with st := .ready, spatB := none } else G

/-- Reads on their way that no fault holds back. -/
def Spat.readsOut (c : Spat) : Bool := c.ports.any fun p => p.fault.isNone && !p.reads.isEmpty

/-- The exit step ends (R195, R265): abandoned reads' records are withdrawn, live-outs are written, the region is released. DESIGN
CHOICE (log entry 129): this run is now the most recent one of SPATQ (R188); a run that a trap ended is not. -/
def State.spatEnd (s : State) (u : Nat) (c : Spat) : State :=
  (withdraw (portOf u) s.posted s).modUnit u fun V => { V with
    groups := (writeOuts c V.groups c.outs).map Group.unhold
    spat := none
    exitVal := c.exitVal
    exitImage := BitVec.ofNat 32 c.image
    firings := BitVec.ofNat 64 c.firings
    freezes := BitVec.ofNat 32 c.freezes }

/-- SPATIAL_EXIT: the stores whose guard tokens were taken are performed; once they are, the exit step ends (R195, R265). A
read that no fault holds back returns first. The cycle in which SPEXIT fired comes to its end before. -/
def execSpatialExit (u : Nat) (s : State) : Out :=
  match s.units[u]? with
  | none => .next s
  | some U => match U.spat with
    | none => .next s
    | some c =>
      if c.step != .exit || U.st != .resident || c.readsOut || c.exitAt.map (·.1) == some s.clock || c.ops.any SOper.owes then .next s
      else
        let s1 := (List.range c.ports.length).foldl (fun t k => t.drain u k) s
        match s1.units[u]? with
        | none => .next s1
        | some V => match V.spat with
          | none => .next s1
          | some d => if d.ports.any fun p => !p.writes.isEmpty then .next s1 else .next (s1.spatEnd u d)

end Sys2Proof.Machine
end

