-- ==== Sys2Proof/Machine/Area.lean ====
section
/-! DEFINITION. Save areas: the layout in which a saved unit lies in memory (R428, R429, R432), reading it back (R427, R430), and the
translation entries of frozen configurations (R404, R412, R432). -/

namespace Sys2Proof.Machine

open Sys2Proof

/-! ### Sizes (R427, R428) -/

/-- The next multiple of 4 KiB. -/
def page4 (n : Nat) : Nat := (n + 4095) / 4096 * 4096

/-- Bytes of a unit's accumulator tiles. -/
def Unit.accBytes (U : Unit) : Nat := 32768 * U.accs
/-- Bytes of the slabs section: a header and the granules of each slab (R428); one that has ended and that posted tasks still read
follows the live ones (R175; log entry 100). -/
def Unit.slabBytes (U : Unit) : Nat := (U.slabs.map fun b => 16 + 65536 * b.granules).sum

/-- The largest spatial section of a configuration (R427, R432). -/
def Spat.maxBytes (c : Spat) : Nat :=
  64 + (c.queues.map fun q => 4 + 4 * q.depth).sum + 52 * c.ops.length + 48 * c.ports.length

/-- The configuration a save keeps: one that has been loaded (R432, R433). -/
def Unit.loaded (U : Unit) : Option Spat := match U.spat with
  | some c => if c.step == .run || c.step == .check then some c else none
  | none => none

/-- Offsets of the seven sections for a number of tasks and commands (R428). -/
def Unit.sections (U : Unit) (ntask ncmd : Nat) : List Nat :=
  let v := page4 (256 + 1024 * U.groups.length)
  let p := page4 (v + 128 * U.nv * U.slots)
  let a := page4 (p + U.spadSize)
  let b := page4 (a + U.accBytes)
  let t := page4 (b + U.slabBytes)
  let c := page4 (t + 128 * ntask)
  [v, p, a, b, t, c, page4 (c + 192 * ncmd)]

/-- The largest area a unit can need (R427). -/
def State.saveSize (s : State) (u : Nat) (U : Unit) : Nat :=
  (U.sections (s.tasks.filter (·.unit == u)).length 64).getD 6 0 + (match U.loaded with
    | some c => c.maxBytes
    | none => 0)

/-! ### The layout of a save area (R428, R429, R432) -/

/-- Bytes followed by zeros up to a length. -/
def padTo (n : Nat) (bs : List Byte) : List Byte := (bs ++ List.replicate (n - bs.length) 0).take n
/-- Words as bytes. -/
def wordBytes (ws : List Word) : List Byte := ws.flatMap fun w => toBytesLE 4 w.toNat
/-- The sum of the bits of a list, bit i for its element i. -/
def bitsOf (bs : List Bool) : Nat := (bs.zipIdx.map fun x => if x.1 then 2 ^ x.2 else 0).sum

/-- GUARDS code of a slot (R428). -/
def guardCode : Option Bool → Nat
  | none => 0
  | some false => 2
  | some true => 3
/-- The slot of a GUARDS code. -/
def guardOfCode (n : Nat) : Option Bool := if n = 2 then some false else if n = 3 then some true else none

/-- STEP of a unit (R428). -/
def Unit.stepCode (U : Unit) : Nat := match U.loaded with
  | some c => if c.step == .check then 1 else 2
  | none => 0

/-- The 256-byte header (R428). -/
def Unit.saveHeader (U : Unit) (chunks ntask tc : Nat) (offs : List Nat) : List Byte :=
  toBytesLE 4 0x53565341 ++ toBytesLE 4 chunks ++ toBytesLE 8 U.launch.toNat ++ toBytesLE 4 U.idx ++
    toBytesLE 4 U.part.toNat ++ toBytesLE 8 U.khdr.toNat ++ toBytesLE 4 (bitsOf (U.groups.map fun G => G.st != .ended)) ++
    toBytesLE 1 U.stepCode ++ toBytesLE 1 (U.slabs.filter (·.live)).length ++ toBytesLE 1 ntask ++ toBytesLE 1 U.copyq.length ++
    toBytesLE 4 U.nextHandle.toNat ++ toBytesLE 4 ((U.guards.zipIdx.map fun x => guardCode x.1 * 4 ^ x.2).sum) ++
    toBytesLE 4 ((U.barArr.map (2 ^ ·)).sum) ++ toBytesLE 1 U.staged.length ++ toBytesLE 11 0 ++
    padTo 64 (U.staged.flatMap fun x => wordBytes [x.1, x.2]) ++ (offs.take 6).flatMap (toBytesLE 4) ++
    toBytesLE 4 (if U.stepCode = 0 then 0 else offs.getD 6 0) ++ toBytesLE 4 0 ++ toBytesLE 8 tc ++ toBytesLE 88 0

/-- An entry of a split table (R254). -/
def SplitEntry.bytes (e : SplitEntry) : List Byte :=
  toBytesLE 4 e.mask.toNat ++ toBytesLE 2 e.target.toNat ++ toBytesLE 2 e.join.toNat

/-- A group's block of 1 KiB (R429). -/
def Group.saveBlock (G : Group) : List Byte :=
  toBytesLE 8 G.pc.toNat ++ toBytesLE 4 G.mask.toNat ++
    toBytesLE 4 (G.split.length % 64 + (if G.sup then 256 else 0) + (if G.st == .held then 512 else 0) +
      1024 * G.hprio.toNat) ++
    padTo 256 (G.split.reverse.flatMap SplitEntry.bytes) ++ wordBytes (spGetList 0 G.s 0 64) ++
    (spGetList 0 G.a 0 16).flatMap (fun x => toBytesLE 8 x.toNat) ++
    toBytesLE 4 (bitsOf ((spGetList 0 G.p 0 15).map (· != 0))) ++ toBytesLE 4 G.trapmask.toNat ++ toBytesLE 8 G.retpc.toNat ++
    toBytesLE 4 G.retmask.toNat ++ toBytesLE 1 G.trapcause.toNat ++ toBytesLE 1 G.tdepth ++ toBytesLE 2 0 ++
    toBytesLE 8 G.trapva.toNat ++ toBytesLE 8 G.faultrec.toNat ++ toBytesLE 4 G.supset.s0.toNat ++
    toBytesLE 4 ((if G.supset.p13 != 0 then 2 ^ 13 else 0) + (if G.supset.p14 != 0 then 2 ^ 14 else 0)) ++
    toBytesLE 8 G.supset.a14.toNat ++ toBytesLE 8 G.supset.a15.toNat ++ toBytesLE 4 G.openB.toNat ++
    toBytesLE 4 G.sealed.length ++ padTo 32 (wordBytes G.sealed) ++ toBytesLE 8 0 ++
    (spGetList 0 G.perf 0 8).flatMap (fun x => toBytesLE 8 x.toNat) ++ wordBytes (spGetList 0 G.stoch 0 32) ++
    padTo 64 (match G.record with
      | some r => r.bytes (G.parkedOn.map (·.2) |>.getD 0)
      | none => [])

/-- The vector registers of a group slot, of two half-groups in CM16 (R241, R428). -/
def Unit.vecSlot (U : Unit) (k : Nat) : List Byte :=
  wordBytes ((List.range U.nv).flatMap fun r => (List.range 32).map fun l =>
    let g := if U.cm16 then 2 * k + l / 16 else k
    match U.groups[g]? with
    | some G => spGet 0 G.v (32 * r + if U.cm16 then l % 16 else l)
    | none => 0)

/-- A slab's section: header and granules (R428). -/
def Slab.saveBytes (b : Slab) : List Byte :=
  toBytesLE 2 b.handle.toNat ++ toBytesLE 2 b.granules ++ toBytesLE 4 b.len ++ toBytesLE 8 0 ++
    spGetList 0 b.data 0 (65536 * b.granules)

/-- A task's 128 bytes, with its age rank (R428). -/
def Task.saveBytes (t : Task) (rank : Nat) : List Byte :=
  padTo 128 (toBytesLE 64 t.desc.toNat ++ toBytesLE 4 t.handle.toNat ++ toBytesLE 1 t.st.code ++ toBytesLE 1 t.cls ++
    toBytesLE 1 t.passed ++ toBytesLE 1 0 ++ toBytesLE 4 rank ++ toBytesLE 4 t.k0)

/-- OP and SUB of a command (R31, R137). -/
def CmdKind.op : CmdKind → Nat × Nat
  | .cpy => (0xC0, 0)
  | .cpyt => (0xC1, 0)
  | .cpyg size => (0xC2, Nat.log2 size)
  | .cpys => (0xC3, 0)
  | .cpysx => (0xC3, 1)
  | .tchalo => (0xCD, 0)
  | .tcinv wb => (0xCE, if wb then 1 else 0)
  | .tcwb => (0xCF, 0)
  | .slabld => (0xD5, 0)

/-- A command's 192 bytes (R428). -/
def Cmd.saveBytes (c : Cmd) : List Byte :=
  let md := 32 * c.kind.op.2 + (match c.guard with
    | some n => 16 + n
    | none => 0)
  toBytesLE 1 c.kind.op.1 ++ toBytesLE 1 md ++ toBytesLE 2 0 ++ toBytesLE 4 c.len ++ toBytesLE 8 c.dst.toNat ++
    toBytesLE 8 c.src.toNat ++ toBytesLE 4 c.opb.toNat ++ toBytesLE 4 (match c.bar with
      | some b => b
      | none => 0xFFFFFFFF) ++ toBytesLE 32 0 ++
    wordBytes ((List.range 32).map fun l => match c.lanes.find? fun y => y.1 == l with
      | some y => y.2
      | none => 0)

/-- A queue with its tokens (R432). -/
def SQueue.saveBytes (q : SQueue) : List Byte :=
  toBytesLE 1 q.idx ++ toBytesLE 1 q.toks.length ++ toBytesLE 2 0 ++ wordBytes q.toks
/-- An operator lane (R432). -/
def SOper.saveBytes (p : SOper) : List Byte :=
  wordBytes (spGetList 0 p.t 0 8) ++ toBytesLE 4 (bitsOf (spGetList false p.p 0 8)) ++ toBytesLE 4 p.stoch.toNat ++
    toBytesLE 8 p.fired ++ toBytesLE 1 p.resume ++ toBytesLE 3 0
/-- Index of a read's destination with its flags (R432). -/
def PortDst.code : PortDst → Nat
  | .queue _ q => 32768 + q
  | .temp _ t => 32768 + 256 + t
/-- Position of the first element of a port that is not placed (R432). -/
def SPort.first (p : SPort) : Nat := (p.reads.map (·.pos) ++ p.writes.map (·.pos)).foldl Nat.min p.pos
/-- A port (R432). -/
def SPort.saveBytes (p : SPort) : List Byte :=
  toBytesLE 4 p.first ++ toBytesLE 4 (if p.fault.isSome then 1 else 0) ++ (match p.tlb with
    | some (v, q, k) => toBytesLE 8 (v * 2 ^ k / 4096) ++ toBytesLE 8 (q * 2 ^ k + (k - 12) / 9)
    | none => toBytesLE 16 0) ++ toBytesLE 8 (match p.fault with
      | some f => f.2
      | none => 0) ++ padTo 16 (p.reads.flatMap fun r => toBytesLE 2 r.dst.code)

/-- The spatial section (R432). -/
def Spat.saveBytes (c : Spat) : List Byte :=
  padTo 64 (toBytesLE 4 c.image ++ toBytesLE 8 (match c.sig with
    | some g => g.toNat
    | none => 0) ++ toBytesLE 1 c.rows ++ toBytesLE 1 c.cols ++ toBytesLE 4 c.need.toNat ++ toBytesLE 2 c.ports.length) ++
  (neededCores c.rows c.cols c.need).flatMap fun k =>
    ((c.queues.filter (·.core == k)).flatMap SQueue.saveBytes) ++ ((c.ops.filter (·.core == k)).flatMap SOper.saveBytes) ++
      (c.ports.filter (·.core == k)).flatMap SPort.saveBytes

/-- Age rank of a task among those of its unit. -/
def ageRank (ts : List Task) (t : Task) : Nat :=
  (ts.filter fun y => decide (y.age < t.age) || (y.age == t.age && decide (y.seq < t.seq))).length

/-- The pieces of a save area: offset and bytes. -/
def Unit.area (U : Unit) (ts : List Task) (chunks tc : Nat) : List (Nat × List Byte) :=
  let offs := U.sections ts.length U.copyq.length
  let at_ (i : Nat) : Nat := offs.getD i 0
  [(0, U.saveHeader chunks ts.length tc offs), (256, U.groups.flatMap Group.saveBlock),
    (at_ 0, (List.range U.slots).flatMap U.vecSlot), (at_ 1, spGetList 0 U.spad 0 U.spadSize),
    (at_ 2, wordBytes (spGetList 0 U.acc 0 (8192 * U.accs))), (at_ 3, U.slabs.flatMap Slab.saveBytes),
    (at_ 4, ts.flatMap fun t => t.saveBytes (ageRank ts t)), (at_ 5, U.copyq.flatMap Cmd.saveBytes),
    (at_ 6, match U.loaded with
      | some c => c.saveBytes
      | none => [])]

/-! ### Reading a save area back (R427 to R432) -/

/-- `n` words from an offset. -/
def wordsAt (bs : List Byte) (o n : Nat) : List Word := (List.range n).map fun i => BitVec.ofNat 32 (fieldAt bs (o + 4 * i) 4)

/-- A split table read back. -/
def splitOf (bs : List Byte) (o n : Nat) : List SplitEntry :=
  ((List.range n).map fun i => (⟨BitVec.ofNat 16 (fieldAt bs (o + 8 * i + 6) 2), BitVec.ofNat 16 (fieldAt bs (o + 8 * i + 4) 2),
    BitVec.ofNat 32 (fieldAt bs (o + 8 * i) 4)⟩ : SplitEntry)).reverse

/-- The state of a group as LIVE and CTL give it (R428, R429). -/
def GroupSt.load (st : GroupSt) (live held : Bool) : GroupSt :=
  if !live then .ended else if held then .held else if st == .ended || st == .held then .ready else st

/-- A lane mask of which the area holds one bit (log entry 33). -/
def maskLoad (m : Word) (b : Bool) : Word := if b then (if m == 0 then BitVec.allOnes 32 else m) else 0

/-- A group's block read back (R429). Predicates have one bit in the area and keep the masks the device holds (log entry
33). -/
def Group.load (G : Group) (live : Bool) (bs : List Byte) (o : Nat) : Group :=
  let f (x n : Nat) : Nat := fieldAt bs (o + x) n
  let w (x : Nat) : Word := BitVec.ofNat 32 (f x 4)
  let d (x : Nat) : DWord := BitVec.ofNat 64 (f x 8)
  let ctl := f 0x0C 4
  { G with
    st := G.st.load live (bitsAt ctl 9 1 == 1)
    p := spSetList 0 [] 0 ((List.range 15).map fun i => maskLoad (spGet 0 G.p i) (bitsAt (f 0x290 4) i 1 == 1))
    pc := d 0, mask := w 8, split := splitOf bs (o + 0x10) (bitsAt ctl 0 6), sup := bitsAt ctl 8 1 == 1
    hprio := BitVec.ofNat 2 (bitsAt ctl 10 2), s := spSetList 0 [] 0 (wordsAt bs (o + 0x110) 64)
    a := spSetList 0 [] 0 ((List.range 16).map fun i => d (0x210 + 8 * i)), trapmask := w 0x294, retpc := d 0x298
    retmask := w 0x2A0, trapcause := BitVec.ofNat 32 (f 0x2A4 1), tdepth := f 0x2A5 1, trapva := d 0x2A8
    faultrec := d 0x2B0, openB := w 0x2D0
    supset := ⟨w 0x2B8, d 0x2C0, d 0x2C8, maskLoad G.supset.p13 (bitsAt (f 0x2BC 4) 13 1 == 1),
      maskLoad G.supset.p14 (bitsAt (f 0x2BC 4) 14 1 == 1)⟩
    sealed := wordsAt bs (o + 0x2D8) (min 8 (f 0x2D4 4))
    perf := spSetList 0 [] 0 ((List.range 8).map fun i => d (0x300 + 8 * i))
    stoch := spSetList 0 [] 0 (wordsAt bs (o + 0x340) 32)
    record := G.record.map fun _ => recOf (fieldAt bs (o + 0x3C0) 64) }

/-- The vector registers of a group read back (R428). -/
def Unit.loadVec (U : Unit) (bs : List Byte) (o g : Nat) (G : Group) : Group :=
  let k := if U.cm16 then g / 2 else g
  let first := if U.cm16 then 16 * (g % 2) else 0
  { G with v := spSetList 0 [] 0 ((List.range U.nv).flatMap fun r => (List.range 32).map fun l =>
      if l < U.lanes then BitVec.ofNat 32 (fieldAt bs (o + 128 * U.nv * k + 128 * r + 4 * (first + l)) 4) else 0) }

/-- As many entries as an area has, each over what the device holds for its place, or over a plain one (log entry 33). -/
def held {α : Type} (n : Nat) (plain : Nat → α) (xs : List α) : List α := (List.range n).map fun i => (xs[i]?).getD (plain i)

/-- Slabs read back, from an offset. -/
def loadSlabs (bs : List Byte) : Nat → List Slab → List Slab
  | _, [] => []
  | o, b :: r =>
    let n := fieldAt bs (o + 2) 2
    { b with
      handle := BitVec.ofNat 16 (fieldAt bs o 2), granules := n, len := fieldAt bs (o + 4) 4
      data := spSetList 0 [] 0 ((bs.drop (o + 16)).take (65536 * n)) } :: loadSlabs bs (o + 16 + 65536 * n) r

/-- A slab of which the device holds nothing. -/
def plainSlab : Slab := ⟨0, 0, 0, [], true, true⟩
/-- A command of which the device holds nothing. -/
def plainCmd (id u : Nat) : Cmd :=
  ⟨id, .cpy, 0, 0, none, some true, 0, 0, 0, 0, none, u, (List.range 32).map fun l => (l, 0), none, 0, false, false, [], none, 0⟩
/-- A task of which the device holds nothing. -/
def plainTask (u seq : Nat) : Task :=
  ⟨u, 0, 0, 0, 0, .queued, 0, seq, 0, some true, 0, 0, Config.quads, Config.quads, false, false, [], [], [], none, none, 0⟩

/-- The kind of a command by its OP and SUB (R31, R137). -/
def CmdKind.ofOp : Nat → Nat → Option CmdKind
  | 0xC0, _ => some .cpy
  | 0xC1, _ => some .cpyt
  | 0xC2, sub => some (.cpyg (2 ^ sub))
  | 0xC3, sub => some (if sub == 0 then .cpys else .cpysx)
  | 0xCD, _ => some .tchalo
  | 0xCE, sub => some (.tcinv (sub == 1))
  | 0xCF, _ => some .tcwb
  | 0xD5, _ => some .slabld
  | _, _ => none

/-- Commands read back. -/
def loadCmds (bs : List Byte) : Nat → List Cmd → List Cmd
  | _, [] => []
  | o, c :: r => { c with
      kind := (CmdKind.ofOp (fieldAt bs o 1) (fieldAt bs (o + 1) 1 / 32)).getD c.kind
      guard := let md := fieldAt bs (o + 1) 1; if bitsAt md 4 1 == 1 then some (md % 16) else none
      len := fieldAt bs (o + 4) 4, dst := BitVec.ofNat 64 (fieldAt bs (o + 8) 8), src := BitVec.ofNat 64 (fieldAt bs (o + 16) 8)
      opb := BitVec.ofNat 32 (fieldAt bs (o + 24) 4)
      bar := let b := fieldAt bs (o + 28) 4; if b = 0xFFFFFFFF then none else some b
      lanes := c.lanes.map fun y => (y.1, BitVec.ofNat 32 (fieldAt bs (o + 64 + 4 * y.1) 4)) } :: loadCmds bs (o + 192) r

/-- A task read back; `ages` are the ages the device holds for the unit's tasks, which the rank puts in order. -/
def Task.load (t : Task) (bs : List Byte) (o : Nat) (ages : List (Nat × Nat)) : Task :=
  let age := (ages[fieldAt bs (o + 72) 4]?).getD (t.age, t.seq)
  { t with desc := BitVec.ofNat 512 (fieldAt bs o 64), handle := BitVec.ofNat 32 (fieldAt bs (o + 64) 4),
           st := if fieldAt bs (o + 68) 1 = 1 then .running else .queued, cls := fieldAt bs (o + 69) 1, passed := fieldAt bs (o + 70) 1,
           age := age.1, seq := age.2, k0 := fieldAt bs (o + 76) 4 }

/-- The ages of tasks, in the order of their ranks. -/
def agesOf (ts : List Task) : List (Nat × Nat) :=
  (List.range ts.length).filterMap fun i => (ts.find? fun t => ageRank ts t == i).map fun t => (t.age, t.seq)

/-- Queues of a core read back: the queues and the offset behind them. -/
def loadQueues (bs : List Byte) (k : Nat) : Nat → List SQueue → List SQueue × Nat
  | o, [] => ([], o)
  | o, q :: r =>
    if q.core == k then
      let n := fieldAt bs (o + 1) 1
      let (rest, e) := loadQueues bs k (o + 4 + 4 * n) r
      ({ q with idx := fieldAt bs o 1, toks := wordsAt bs (o + 4) n } :: rest, e)
    else
      let (rest, e) := loadQueues bs k o r
      (q :: rest, e)

/-- Operator lanes of a core read back. -/
def loadOpers (bs : List Byte) (k : Nat) : Nat → List SOper → List SOper × Nat
  | o, [] => ([], o)
  | o, p :: r =>
    if p.core == k then
      let (rest, e) := loadOpers bs k (o + 52) r
      ({ p with
        t := spSetList 0 [] 0 (wordsAt bs o 8)
        p := spSetList false [] 0 ((List.range 8).map fun i => bitsAt (fieldAt bs (o + 32) 4) i 1 == 1)
        stoch := BitVec.ofNat 32 (fieldAt bs (o + 36) 4), fired := fieldAt bs (o + 40) 8, resume := fieldAt bs (o + 48) 1
        pc := p.over.pc + BitVec.ofNat 64 (12 * (fieldAt bs (o + 48) 1 - 1)) } :: rest, e)
    else
      let (rest, e) := loadOpers bs k o r
      (p :: rest, e)

/-- A read's destination as its two bytes give it (R432). -/
def PortDst.load (d : PortDst) (n : Nat) : PortDst :=
  match d with
  | .queue core q => if bitsAt n 15 1 == 0 then .queue core q else .queue core (n % 256)
  | .temp o t => if bitsAt n 15 1 == 0 then .temp o t else .temp o (n % 256)

/-- The translation entry of a port at an offset; zeros are an empty one (R432). -/
def portTlb (bs : List Byte) (o : Nat) : Option (Nat × Nat × Nat) :=
  let v := fieldAt bs o 8
  let x := fieldAt bs (o + 8) 8
  let k := 12 + 9 * (x % 8)
  if v = 0 ∧ x = 0 then none else some (v * 4096 / 2 ^ k, (x - x % 8) / 2 ^ k, k)

/-- A port read back (R432): elements are issued again from the recorded position; a record that is no longer pending leaves no
fault. -/
def SPort.load (p : SPort) (bs : List Byte) (o : Nat) : SPort :=
  let q : SPort := { p with pos := p.pos - p.first + fieldAt bs o 4 }
  let at_ (n : Nat) : Nat := n - p.first + fieldAt bs o 4
  { q with
    reads := p.reads.zipIdx.map fun x => { x.1 with
      pos := at_ x.1.pos
      va := if x.1.gather then x.1.va else BitVec.ofNat 64 ({ q with pos := at_ x.1.pos }).nextVa
      dst := x.1.dst.load (fieldAt bs (o + 32 + 2 * x.2) 2) }
    writes := p.writes.map fun w => { w with pos := at_ w.pos, va := BitVec.ofNat 64 ({ q with pos := at_ w.pos }).nextVa }
    tlb := portTlb bs (o + 8)
    fault := if bitsAt (fieldAt bs (o + 4) 4) 0 1 == 1 then p.fault.map fun f => (f.1, fieldAt bs (o + 24) 8) else none }

/-- Ports of a core read back. -/
def loadPorts (bs : List Byte) (k : Nat) : Nat → List SPort → List SPort × Nat
  | o, [] => ([], o)
  | o, p :: r =>
    if p.core == k then
      let (rest, e) := loadPorts bs k (o + 48) r
      (p.load bs o :: rest, e)
    else
      let (rest, e) := loadPorts bs k o r
      (p :: rest, e)

/-- A configuration's section read back, core by core (R432). -/
def Spat.loadCores (bs : List Byte) : List Nat → Nat → Spat → Spat
  | [], _, c => c
  | k :: ks, o, c =>
    let (qs, o1) := loadQueues bs k o c.queues
    let (ps, o2) := loadOpers bs k o1 c.ops
    let (ts, o3) := loadPorts bs k o2 c.ports
    Spat.loadCores bs ks o3 { c with queues := qs, ops := ps, ports := ts }

/-- A frozen configuration with what its section holds: STEP 0 keeps none (R428, R432). -/
def Spat.load (c : Spat) (bs : List Byte) (o step : Nat) : Option Spat :=
  let rows := fieldAt bs (o + 12) 1
  let cols := fieldAt bs (o + 13) 1
  let need : Word := BitVec.ofNat 32 (fieldAt bs (o + 14) 4)
  let sig := fieldAt bs (o + 4) 8
  if step = 0 then none
  else some (Spat.loadCores bs (neededCores rows cols need) (o + 64) { c with
    step := if step = 1 then .check else .run, image := fieldAt bs o 4, sig := if sig = 0 then none else some (BitVec.ofNat 64 sig)
    rows := rows, cols := cols, need := need, ports := c.ports.take (fieldAt bs (o + 18) 2) })

/-- The offset of a section in an area (R428). -/
def areaOff (bs : List Byte) (i : Nat) : Nat := fieldAt bs (0x80 + 4 * i) 4

/-- A unit with what its save area holds (R427 to R432). -/
def Unit.load (U : Unit) (bs : List Byte) (u : Nat) : Unit :=
  let at_ (i : Nat) : Nat := areaOff bs i
  let next := maxOf (U.copyq.map (·.id)) + 1
  let g2 := U.groups.zipIdx.map fun x => U.loadVec bs (at_ 0) x.2
    (x.1.load (bitsAt (fieldAt bs 0x20 4) x.2 1 == 1) bs (256 + 1024 * x.2))
  { U with
    groups := g2
    khdr := BitVec.ofNat 64 (fieldAt bs 0x18 8)
    nextHandle := BitVec.ofNat 32 (fieldAt bs 0x28 4)
    guards := (List.range 16).map fun i => guardOfCode (bitsAt (fieldAt bs 0x2C 4) (2 * i) 2)
    barArr := (List.range U.groups.length).filter fun i => bitsAt (fieldAt bs 0x30 4) i 1 == 1
    staged := (List.range (min 8 (fieldAt bs 0x34 1))).map fun i =>
      (BitVec.ofNat 32 (fieldAt bs (0x40 + 8 * i) 4), BitVec.ofNat 32 (fieldAt bs (0x44 + 8 * i) 4))
    spad := spSetList 0 [] 0 ((bs.drop (at_ 1)).take U.spadSize)
    acc := spSetList 0 [] 0 (wordsAt bs (at_ 2) (8192 * U.accs))
    slabs := loadSlabs bs (at_ 3) (held (fieldAt bs 0x25 1) (fun _ => plainSlab) (U.slabs.filter (·.live)) ++
      U.slabs.filter (!·.live))
    copyq := loadCmds bs (at_ 5) (held (fieldAt bs 0x27 1) (fun i => plainCmd (next + i) u) U.copyq)
    spat := U.spat.bind fun c => c.load bs (at_ 6) (fieldAt bs 0x24 1)
    saveTC := fieldAt bs 0xA0 8 }

/-- The header names the unit (R427). -/
def Unit.areaOk (U : Unit) (bs : List Byte) : Bool :=
  fieldAt bs 0 4 == 0x53565341 && fieldAt bs 8 8 == U.launch.toNat && fieldAt bs 0x10 4 == U.idx &&
    fieldAt bs 0x14 4 == U.part.toNat

/-! ### Translation entries of frozen configurations (R404, R412) -/

/-- Bytes of a core's queues and operator lanes in the spatial section (R432). -/
def Spat.coreBytes (c : Spat) (k : Nat) : Nat :=
  ((c.queues.filter (·.core == k)).map fun q => 4 + 4 * q.toks.length).sum + 52 * (c.ops.filter (·.core == k)).length

/-- The ports of a spatial section with their offsets in it (R432). -/
def Spat.portOffs (c : Spat) : List Nat → Nat → List (SPort × Nat)
  | [], _ => []
  | k :: ks, o =>
    let ps := c.ports.filter (·.core == k)
    let o1 := o + c.coreBytes k
    (ps.zipIdx.map fun x => (x.1, o1 + 48 * x.2)) ++ c.portOffs ks (o1 + 48 * ps.length)

/-- The device writes bytes of its own into a context's memory at an address. -/
def State.putAt (s : State) (ctx va : Nat) (bs : List Byte) : State :=
  bs.zipIdx.foldl (fun t x => match t.walkPa ctx ((va + x.2) % 2 ^ 64) with
    | some pa => t.ownWrite pa [x.1]
    | none => t) s

/-- A saved unit's core time is at least `t`, in its save area as well (R282, R327, R428). -/
def State.raiseSaved (s : State) (u t : Nat) : State :=
  match s.units[u]? with
  | none => s
  | some U =>
    let tc := max U.saveTC t
    let s1 := s.modUnit u fun V => { V with saveTC := tc }
    match U.saveAt with
    | some (a, _) => s1.putAt U.ctx (a.toNat + 0xA0) (toBytesLE 8 tc)
    | none => s1

/-- Empty the translation entries of the ports `sel` names in the save area of a frozen unit (R404, R412). -/
def State.emptySaved (s : State) (u : Nat) (sel : SPort → Bool) : State :=
  match s.units[u]? with
  | none => s
  | some U => match U.saveAt, U.spat with
    | some (a, _), some c =>
      if U.st != .saved then s
      else
        let off := (U.sections (s.tasks.filter (·.unit == u)).length U.copyq.length).getD 6 0
        (c.portOffs (neededCores c.rows c.cols c.need) (off + 64)).foldl (fun t x =>
          if sel x.1 then t.putAt U.ctx (a.toNat + x.2 + 8) (List.replicate 16 0) else t) s
    | _, _ => s

/-- Empty the translation entries of the ports that `sel` names, by unit, in running and frozen configurations (R404, R412). -/
def State.emptyPorts (s : State) (sel : Unit → SPort → Bool) : State :=
  let s1 := (s.units.zipIdx).foldl (fun t x => t.emptySaved x.2 (sel x.1)) s
  { s1 with units := s1.units.map fun (U : Unit) => { U with spat := U.spat.map fun c => { c with
      ports := c.ports.map fun p => if sel U p then { p with tlb := none } else p } } }

end Sys2Proof.Machine
end

