-- ==== Sys2Proof/Machine/Front.lean ====
section
/-! DEFINITION. The front end: its reads of memory and the records it posts (R414, R420, R490), queues entering ERROR (R390,
R391), fetching packets (R379, R380, R383, R384, R392), and queue commands, slots and waits (R377, R378, R381, R388). -/

namespace Sys2Proof.Machine

open Sys2Proof

/-! ### Reads and records -/

/-- A read of a front end waits: for a locked line (R213), for the fill of its line from outside the device (R437), or for its turn and
room in its flow, of class 3 (R442). -/
def State.frontHeld (s : State) (ord : Bool) (die ctx va pa n : Nat) : Bool :=
  let dst := s.routeOf ctx va pa
  (s.cached pa && s.lockedRange ctx va n) || s.fillHeld ctx va pa n || !s.flowRoom die dst 3 1 ||
    (ord && s.class3Before (s.nextPkt die dst 3))

/-- The link that a read of a front end travels over has failed (R443). -/
def State.cutFront (s : State) (die ctx va pa : Nat) : Bool :=
  !s.failedDies.isEmpty && s.cached pa && s.cutDies die (s.homeDie ctx va)

/-- Read bytes of a context for a front end, line by line: translated through its die's last-level TLB and read at home. `ord` says
whether the reads wait for their turn in their flows. -/
def frontBytes (ord : Bool) (die ctx : Nat) : Nat → Nat → Nat → State → Piece (List Byte)
  | 0, _, _, s => .ok [] s
  | fuel + 1, va, n, s =>
    if n = 0 then .ok [] s
    else if !canonical va then .fault va ⟨7, 0, 0⟩
    else
      let m := min n (256 - va % 256)
      match s.translate (.last die) die ctx va .read false with
      | .error w => .ofWalk s va w
      | .ok (pa, s1) =>
        if s1.uncorrIn pa m || s1.cutFront die ctx va pa then .uncorr pa
        else if s1.frontHeld ord die ctx va pa m then .wait s1
        else
          let (bs, s2) := ((s1.passPkts die 3 [s1.routeOf ctx va pa]).backPkts die 3 [s1.routeOf ctx va pa]).readPage 4 ctx none va pa m
          match frontBytes ord die ctx fuel ((va + m) % 2 ^ 64) (n - m) s2 with
          | .ok r s3 => .ok (bs ++ r) s3
          | e => e

/-- A queue reads `n` bytes of its context. -/
def State.qRead (s : State) (Q : Queue) (va n : Nat) : Piece (List Byte) :=
  frontBytes true (Q.die.getD 0) Q.ctx (n / 256 + 2) va n s

/-- A queue's fault record: SOURCE 9 or 10, charged to a launch, or to the queue where it is 0 (R421). -/
def queueRecord (Q : Queue) (src : Nat) (launch : DWord) (va : Nat) (w : WalkInfo) : FaultRec :=
  ⟨BitVec.ofNat 64 va, Q.ctx, src, w.kind, w.access, 1, w.level, launch, if launch == 0 then Q.n else 0, 0, 0, 0⟩

/-! ### Signals and words a queue writes (R379, R385, R389) -/

/-- A packet's tag for writes that belong to none. -/
def noPacket : Nat := 18446744073709551616
/-- The tag of the decrement that completes a packet. -/
def doneTag (index : Nat) : Nat := noPacket + 1 + index

/-- Write eight bytes for a queue. -/
def State.qStore (s : State) (Q : Queue) (rel : Bool) (va : Nat) (v : DWord) (tag : Nat) : State :=
  s.sendFront .store 3 rel Q.n Q.ctx va v 0 tag
/-- Add to a signal as an RMW at its home (R389). -/
def State.qAdd (s : State) (Q : Queue) (rel : Bool) (va : Nat) (v : DWord) (tag : Nat) : State :=
  s.sendFront .red 3 rel Q.n Q.ctx va v 0 tag

/-! ### ERROR (R390, R391, R446) -/

/-- Ring slot of a packet index (R380). -/
def Queue.slotVa (Q : Queue) (i : Nat) : Nat := (Q.ring.toNat + 64 * (i % 2 ^ Q.logn)) % 2 ^ 64

/-- Store the abort value into the completion signals of packets from `i` up to `stop` (R390); a slot that cannot be read is
skipped. DESIGN CHOICE (log entry 107): these reads wait for no turn in their flows. -/
def abortStores (Q : Queue) (ab : DWord) (stop : Nat) : Nat → Nat → State → State
  | 0, _, s => s
  | fuel + 1, i, s =>
    if stop ≤ i then s
    else match frontBytes false (Q.die.getD 0) Q.ctx 2 (Q.slotVa i) 64 s with
      | .ok bs s1 =>
        let sig := fieldAt bs 0x38 8
        let n := bitsAt (fieldAt bs 0 8) 14 2
        abortStores Q ab stop fuel (i + n + 1)
          (if sig == 0 || sig % 8 != 0 then s1 else s1.qStore Q true sig ab noPacket)
      | _ => abortStores Q ab stop fuel (i + 1) s

/-- A queue's monitors are released (R337, R388). -/
def State.unwatch (s : State) (q : Nat) : State := { s with monitors := s.monitors.filter fun m => m.who != .queue q }

/-- The error word (R391). -/
def errorWord (index cause : Nat) : DWord := BitVec.ofNat 64 (index % 2 ^ 48 * 65536 + cause % 256)

/-- A queue enters ERROR at a packet (R390): packets from it on will not complete. -/
def State.queueError (s : State) (n cause : Nat) (value : DWord) (index : Nat) : State :=
  match s.queue? n with
  | none => s
  | some Q =>
    if Q.error.isSome then s
    else
      let s1 := s.modQueue n fun (x : Queue) => { x with
        error := some (cause % 256), busy := false, held := false, wait := none, woken := false, wakeBy := 0, fault := none
        refetch := 0, lrec := none, joined := false, lfail := none
        started := x.started.filter fun p => decide (p.index < index) }
      let s0 := s1.unwatch n
      let s2 := if Q.notify.toNat % 4096 = 0 then s0.qStore Q false (Q.notify.toNat + 0x80) (errorWord index cause) noPacket
        else s0
      let ab : DWord := if value.msb then value else BitVec.allOnes 64
      let s3 := abortStores Q ab (min Q.widx (index + 2 ^ Q.logn)) (2 ^ Q.logn) index s2
      { s3 with regs := { s3.regs with qerrCount := s3.regs.qerrCount + 1, qerrQueue := BitVec.ofNat 15 n } }.raiseInt 5

/-- The packet a queue is at: the one it interprets, or the next. -/
def Queue.current (Q : Queue) : Nat := if Q.busy then Q.pktIdx else Q.ridx

/-- A cause that the manual does not number (log entry 1). -/
def State.freeError (s : State) (n index : Nat) : State :=
  let (v, s1) := s.freeVal
  s1.queueError n v.toNat 0 index

/-- A front end's or queue program's access faults, for a launch it starts or for the queue itself: the queue stalls in place behind
its record (R401, R414). A non-canonical address puts the queue into ERROR, or is left to the launch it serves (R490). -/
def State.qFault (s : State) (Q : Queue) (src : Nat) (launch : Option DWord) (va : Nat) (w : WalkInfo) : State :=
  let agent : FaultAgent := if launch.isNone then .queue Q.n else .launchRec Q.n
  match s.engPost (Q.die.getD 0) (queueRecord Q src (launch.getD 0) va w) agent with
  | none => s
  | some (s1, p) =>
    if w.kind == 7 then
      if launch.isSome then s1 else if src == 9 then s1.queueError Q.n 0x0B 0 Q.pktIdx
      else s1.freeError Q.n Q.current
    else s1.modQueue Q.n fun (x : Queue) => { x with fault := p }

/-- Go on with the bytes a queue read, or stall: uncorrectable data puts the queue into ERROR. -/
def State.qWith (s : State) (Q : Queue) (va n : Nat) (k : List Byte → State → State) : State :=
  match s.qRead Q va n with
  | .ok bs s1 => k bs s1
  | .fault a w => s.qFault Q 10 none a w
  | .uncorr pa => (s.detect 0 pa).freeError Q.n Q.current
  | .wait s1 => s1

/-! ### Packets (R383 to R385, R392) -/

/-- Sum of the 16-bit halfwords of a packet (R392). -/
def halfSum : List Byte → Nat
  | a :: b :: r => a.toNat + 256 * b.toNat + halfSum r
  | [a] => a.toNat
  | [] => 0

/-- STAMP and CKSUM of a packet hold (R392). -/
def checkPacket (bs : List Byte) (idx : Nat) : Bool :=
  bitsAt (fieldAt bs 0 8) 16 16 == idx % 65536 && halfSum bs % 65536 == 0xFFFF

/-- A packet starts (R384, R394): its slots are in window 0, the registers take their initial values, RIDX moves past it. -/
def State.startPacket (s : State) (Q : Queue) (bs : List Byte) : State :=
  let h := fieldAt bs 0 8
  let next := Q.ridx + bitsAt h 14 2 + 1
  let s1 := s.modQueue Q.n fun (x : Queue) => { x with
    pkt := bs, pktIdx := Q.ridx, ridx := next, busy := true, held := true, steps := 0, launches := 0, lrec := none, joined := false, lfail := none, pc := 0
    loops := []
    w := spSet 0 [] 1 (BitVec.ofNat 64 Q.ridx), refetch := 0, idleSince := s.clock
    started := x.started ++ [⟨Q.ridx, false, bitsAt h 11 2, 0, []⟩] }
  s1.qStore Q true (Q.notify.toNat + 0x40) (BitVec.ofNat 64 next) noPacket

/-- What a queue does next: nothing or a change of state, or an instruction to execute. -/
inductive QFetched where
  | stop (s : State)
  | got (i : Instr) (s : State)

/-- The first slot of a packet. -/
def packetWord (bs : List Byte) : BitVec 512 := BitVec.ofNat 512 (ofBytesLE (bs.take 64))

/-- A header breaks the rules for every packet: reserved bits, or a scope 3 (R383). -/
def headerBad (bs : List Byte) : Bool :=
  let h := fieldAt bs 0 8
  bitsAt h 48 16 != 0 || bitsAt h 11 2 == 3 || bitsAt h 9 2 == 3

/-- A packet whose TYPE is assigned nowhere: a driver program may accept it, the standard program does not (R383, R386). -/
def State.oddPacket (s : State) (Q : Queue) (bs : List Byte) : State :=
  if headerBad bs then s.queueError Q.n 3 0 Q.ridx
  else if Q.prog != 0 then s
  else s.queueError Q.n 2 0 Q.ridx

/-- The packet a queue has started is interpreted. -/
def State.gotPacket (s : State) (Q : Queue) (bs : List Byte) : QFetched :=
  match decodePacket (packetWord bs) with
  | some i => .got i (s.startPacket Q bs)
  | none => .stop ((s.startPacket Q bs).oddPacket Q bs)

/-- Read all the slots of the packet at RIDX, in beats (R383, R392). -/
def Queue.slotsVa (Q : Queue) (n : Nat) : List Nat := (List.range n).map fun k => Q.slotVa (Q.ridx + k)

/-- Read slots one by one. -/
def readSlots (Q : Queue) : List Nat → State → Piece (List Byte)
  | [], s => .ok [] s
  | va :: r, s => match s.qRead Q va 64 with
    | .ok bs s1 => match readSlots Q r s1 with
      | .ok rest s2 => .ok (bs ++ rest) s2
      | e => e
    | e => e

/-- The packet at RIDX with all its slots, or the state while it cannot start: it is not covered by WIDX or its barrier bit
holds it (R382 to R384). -/
def State.readPacket (s : State) (Q : Queue) : Except State (List Byte × State) :=
  match s.qRead Q (Q.slotVa Q.ridx) 8 with
  | .fault a w => .error (s.qFault Q 10 none a w)
  | .uncorr pa => .error ((s.detect 0 pa).freeError Q.n Q.ridx)
  | .wait s1 => .error s1
  | .ok hd s1 =>
    let n := bitsAt (fieldAt hd 0 8) 14 2 + 1
    if Q.widx < Q.ridx + n then .error s1
    else match readSlots Q (Q.slotsVa n) s1 with
      | .fault a w => .error (s1.qFault Q 10 none a w)
      | .uncorr pa => .error ((s1.detect 0 pa).freeError Q.n Q.ridx)
      | .wait s2 => .error s2
      | .ok bs s2 => if bitsAt (fieldAt bs 0 8) 8 1 == 1 && !Q.started.isEmpty then .error s2 else .ok (bs, s2)

/-- The queue looks for its next packet: WIDX is read with acquire and checked (R379, R380), then the packet is read and, with
CKE, checked: after a failure the whole packet is read again, 1,024 cycles later, and the fifth failure is an error (R392). -/
def State.nextPacket (s : State) (Q0 : Queue) : QFetched :=
  match s.qRead Q0 Q0.notify.toNat 8 with
  | .fault a w => .stop (s.qFault Q0 10 none a w)
  | .uncorr pa => .stop ((s.detect 0 pa).freeError Q0.n Q0.ridx)
  | .wait s1 => .stop s1
  | .ok bs s1 =>
    let Q := { Q0 with widx := fieldAt bs 0 8 }
    let s2 := s1.modQueue Q.n fun (x : Queue) => { x with widx := Q.widx }
    if Q.widx < Q.ridx ∨ Q.ridx + 2 ^ Q.logn < Q.widx then .stop (s2.queueError Q.n 7 0 Q.ridx)
    else if Q.widx ≤ Q.ridx ∨ 64 ≤ Q.started.length then .stop s2
    else match s2.readPacket Q with
      | .error s3 => .stop s3
      | .ok (pkt, s3) =>
        if bitsAt (fieldAt pkt 0 8) 13 1 == 1 && !checkPacket pkt Q.ridx then
          .stop (if 4 ≤ Q.refetch then s3.queueError Q.n 4 0 Q.ridx
            else s3.modQueue Q.n fun (x : Queue) => { x with refetch := x.refetch + 1, refetchAt := s3.clock + 1024 })
        else s3.gotPacket Q pkt

/-- The queue has the instruction it is to execute: a program's next word, or the standard packet it has not finished (R394,
R401). -/
def State.nextWord (s : State) (Q : Queue) : QFetched :=
  if Q.prog == 0 then
    match decodePacket (packetWord Q.pkt) with
    | some i => .got i s
    | none => .stop s
  else if 256 ≤ Q.steps then .stop (s.queueError Q.n 5 0 Q.pktIdx)
  else match Q.code[Q.pc]? with
    | none => .stop (s.queueError Q.n 6 0 Q.pktIdx)
    | some w => match decodeQ w with
      | none => .stop (s.queueError Q.n 6 0 Q.pktIdx)
      | some i => .got i s

/-! ### Interpreters (R382) -/

/-- The queue has a packet covered by WIDX whose barrier bit allows it to start, or what stands there puts it into ERROR (R380, R382,
R384); where a page is not mapped, the read that follows finds out. -/
def State.packetReady (s : State) (Q : Queue) : Bool :=
  match s.walkPa Q.ctx Q.notify.toNat with
  | none => true
  | some pa =>
    let w := s.physNat pa 8
    if w < Q.ridx ∨ Q.ridx + 2 ^ Q.logn < w then true
    else if w ≤ Q.ridx then false
    else match s.walkPa Q.ctx (Q.slotVa Q.ridx) with
      | none => true
      | some a =>
        let h := s.physNat a 8
        decide (Q.ridx + bitsAt h 14 2 < w) && (bitsAt h 8 1 == 0 || Q.started.isEmpty)

/-- A mapped queue may run: it is enabled, not in ERROR, behind no record and in no wait. -/
def Queue.open (Q : Queue) : Bool := Q.enabled && Q.error.isNone && Q.die.isSome && Q.fault.isNone && Q.wait.isNone

/-- The queue waits for the time at which it reads a packet again that failed its check (R392). -/
def Queue.refetches (Q : Queue) (clock : Nat) : Bool := Q.refetch != 0 && decide (clock < Q.refetchAt)

/-- The queue is ready to run and no interpreter holds it: it has a packet that may start, or a program resumed from a wait, and fewer
than 64 packets started and incomplete (R382). -/
def State.queueReady (s : State) (Q : Queue) : Bool :=
  Q.open && !Q.held && decide (Q.started.length < 64) &&
    (Q.busy || (!Q.stopping && !Q.taken && !Q.refetches s.clock && s.packetReady Q))

/-- Queues of a die that are ready. -/
def State.readyOn (s : State) (die : Option Nat) : List Queue := s.queues.filter fun x => x.die == die && s.queueReady x
/-- Interpreters of a die in use. -/
def State.heldOn (s : State) (die : Option Nat) : Nat := (s.queues.filter fun x => x.die == die && x.held).length
/-- Key of a class of a die in the record of turns. -/
def Queue.turnKey (Q : Queue) : Nat := 4 * Q.die.getD 0 + Q.cls
/-- How far a queue's slot lies behind the slot its class selected last. -/
def State.slotDist (s : State) (Q : Queue) : Nat := (Q.slot + 512 - spGet 0 s.queueTurn Q.turnKey % 512) % 512
/-- Passed over by 256 selections: promoted to class 4 (R382). -/
def Queue.promoted (Q : Queue) : Bool := decide (256 ≤ Q.passed)

/-- An interpreter that is free selects this queue: of the promoted ones the one ready longest, else the highest CLASS, round-robin by
slot (R382). -/
def State.selects (s : State) (Q : Queue) : Bool :=
  let rs := s.readyOn Q.die
  s.queueReady Q && decide (s.heldOn Q.die < 16) &&
    (if rs.any Queue.promoted then
      Q.promoted && rs.all fun x => !x.promoted || decide (Q.readyFrom.getD s.clock ≤ x.readyFrom.getD s.clock)
    else rs.all fun x => decide (x.cls < Q.cls) || (x.cls == Q.cls && decide (s.slotDist Q ≤ s.slotDist x)))

/-- A selection: the other ready queues of the die are passed over (R382). -/
def State.selectQueue (s : State) (Q : Queue) : State :=
  { s with
    queueTurn := spSet 0 s.queueTurn Q.turnKey (Q.slot + 1)
    queues := s.queues.map fun (x : Queue) =>
      if x.n == Q.n then { x with passed := 0, readyFrom := none }
      else if x.die == Q.die && s.queueReady x then { x with passed := x.passed + 1 }
      else x }

/-- What a queue does on its turn (R382, R384): one that an interpreter holds goes on, one that an interpreter selects begins. -/
def State.fetchQueue (s : State) (q : Nat) : QFetched :=
  match s.queue? q with
  | none => .stop s
  | some Q =>
    if Q.held then (if Q.open && Q.busy then s.nextWord Q else .stop s)
    else if !s.selects Q then .stop s
    else
      let s1 := s.selectQueue Q
      if Q.busy then (s1.modQueue q fun (x : Queue) => { x with held := true }).nextWord Q
      else s1.nextPacket Q

/-- CHECKSUM_REFETCH: 1,024 cycles after a failure a free interpreter that selects the queue reads the packet again (R382, R392). -/
def execChecksumRefetch (q : Nat) (s : State) : Out :=
  match s.queue? q with
  | none => .next s
  | some Q =>
    if Q.refetch == 0 || Q.held || Q.busy then .next s
    else match s.fetchQueue q with
      | .stop s1 => .next s1
      | .got _ s1 => .next s1

/-! ### Completion (R384, R385) -/

/-- An action that has ended. -/
def State.actDone (s : State) : Action → Bool
  | .launch id => (s.launch? id).isNone
  | .copy id => !(s.copies.any fun c => c.id == id)
  | .cancel lvl id =>
    if lvl == 0 then (s.launch? id).isNone
    else !(s.levels.any fun l => l.lvl == lvl && BitVec.ofNat 64 (l.ctx * 2 ^ 32 + l.id.toNat) == id)
  | .delta id => !(s.deltas.any fun d => d.id == id)

/-- Writes of a packet that have not been performed. -/
def State.packetWrites (s : State) (q index : Nat) : Bool :=
  s.reqs.any fun r => r.unit == frontUnit && r.grp == q && r.launch == 0 && r.reg == index

/-- A packet's program ends with a completion signal (R384, R399). -/
def State.finPacket (s : State) (Q : Queue) (sig : DWord) : State :=
  s.modQueue Q.n fun (x : Queue) => { x with
    busy := false, held := false, idleSince := s.clock
    started := x.started.map fun p => if p.index == Q.pktIdx then { p with fin := true, csig := sig } else p }

/-- A packet issues an action it waits for. -/
def State.addAct (s : State) (Q : Queue) (a : Action) : State :=
  s.modQueue Q.n fun (x : Queue) => { x with
    started := x.started.map fun p => if p.index == Q.pktIdx then { p with acts := p.acts ++ [a] } else p }

/-! ### Waits (R388, R389) -/

/-- What an evaluation of signals gives. -/
inductive SigEval where
  | abort (v : DWord)
  | satisfied
  | wait

/-- Read signals in order, with acquire. -/
def readSignals (Q : Queue) : List DWord → State → Piece (List DWord)
  | [], s => .ok [] s
  | a :: r, s => match s.qRead Q a.toNat 8 with
    | .ok bs s1 => match readSignals Q r s1 with
      | .ok vs s2 => .ok (BitVec.ofNat 64 (ofBytesLE bs) :: vs) s2
      | .fault va w => .fault va w
      | .uncorr pa => .uncorr pa
      | .wait s2 => .wait s2
    | .fault va w => .fault va w
    | .uncorr pa => .uncorr pa
    | .wait s1 => .wait s1

/-- The result of an evaluation (R388): the lowest-offset negative value aborts. -/
def evalSignals (any : Bool) (vs : List DWord) : SigEval :=
  match vs.find? fun v => v.msb with
  | some v => .abort v
  | none => if vs.isEmpty || (if any then vs.any (· == 0) else vs.all (· == 0)) then .satisfied else .wait

/-- Arm a monitor on each signal; false where one found none free (R388). -/
def State.watchSignals (s : State) (Q : Queue) : List DWord → Bool × State
  | [] => (true, s)
  | a :: r => match s.walkPa Q.ctx a.toNat with
    | none => (false, (s.watchSignals Q r).2)
    | some pa =>
      let (ok, s1) := s.armWord (.queue Q.n) Q.ctx a.toNat pa
      let (rest, s2) := s1.watchSignals Q r
      (ok && rest, s2)

/-- A queue waits: its monitors are armed, and it evaluates again after a write, or every 1,024 cycles where a signal has no monitor
(R388). The interpreter is free. -/
def State.waitSignals (s : State) (Q : Queue) (w : QWait) : State :=
  let (ok, s1) := s.watchSignals Q w.sigs
  s1.modQueue Q.n fun (x : Queue) => { x with
    wait := some w, held := false, woken := false, wakeBy := if ok then 0 else s.clock + 1024 }

/-- A wait has ended. -/
def State.endWait (s : State) (q : Nat) : State :=
  (s.unwatch q).modQueue q fun (x : Queue) => { x with wait := none, woken := false, wakeBy := 0 }

/-- Evaluate a wait's signals and go on; while it is not settled the queue waits. -/
def State.evalWait (s : State) (Q : Queue) (w : QWait) (k : SigEval → State → State) : State :=
  match readSignals Q w.sigs s with
  | .ok vs s1 => match evalSignals w.any vs with
    | .wait => s1.waitSignals Q w
    | r => k r (s1.endWait Q.n)
  | .fault a wi => s.qFault Q 10 none a wi
  | .uncorr pa => (s.detect 0 pa).freeError Q.n Q.pktIdx
  | .wait s1 => s1

/-- A barrier packet is settled: it ends, or aborts (R388). -/
def State.settleBarrier (s : State) (Q : Queue) (sig : DWord) : SigEval → State
  | .abort v => s.queueError Q.n 1 v Q.pktIdx
  | _ => s.finPacket Q sig

/-- Write a program's register; w0 discards writes (R394). -/
def Queue.putW (Q : Queue) (d : Nat) (v : DWord) : Queue := if d = 0 then Q else { Q with w := spSet 0 Q.w d v }
/-- Read a program's register (R394). -/
def Queue.getW (Q : Queue) (d : Nat) : DWord := if d = 0 then 0 else spGet 0 Q.w d

/-- WALL or WANY is settled: wD takes 0 or the abort value and the program goes on (R399). -/
def State.settleWait (s : State) (Q : Queue) (d : Nat) (r : SigEval) : State :=
  let v : DWord := match r with
    | .abort v => v
    | _ => 0
  s.modQueue Q.n fun (x : Queue) => { x.putW d v with wait := none, pc := x.pc + 1, steps := x.steps + 1 }

/-- A waiting queue evaluates its signals again: a write has woken it, or its poll is due (R388). -/
def Queue.evaluates (Q : Queue) (clock : Nat) : Bool := Q.woken || (Q.wakeBy != 0 && decide (Q.wakeBy ≤ clock))

/-- An evaluation that cannot be made now is made in the next cycle. -/
def State.waitLater (s : State) (q : Nat) : State := s.modQueue q fun (x : Queue) => { x with wakeBy := s.clock + 1 }

/-- BARRIER_REEVALUATE: a waiting queue reads its signals again (R388, R399); a queue without a slot asks for one. -/
def execBarrierReevaluate (q : Nat) (s : State) : Out :=
  match s.queue? q with
  | none => .next s
  | some Q => match Q.wait with
    | none => .next s
    | some w =>
      if Q.fault.isSome || !Q.evaluates s.clock then .next s
      else .next ((s.waitLater q).evalWait Q w fun r s1 =>
        let s2 := s1.modQueue q fun (x : Queue) => { x with wake := x.die.isNone }
        if Q.prog == 0 then s2.settleBarrier Q (BitVec.ofNat 64 (fieldAt Q.pkt 0x38 8)) r else s2.settleWait Q w.d r)

end Sys2Proof.Machine
end

