-- ==== Sys2Proof/Machine/Start.lean ====
section
/-! DEFINITION. Starting a launch: graphs, phases and jobs (R373, R374), the reads and checks of a launch record (R362 to R364,
R272, R275, R288, R368), banks and parameters (R220), the predicted count (R369, R370), and cancels (R375, R376). -/

namespace Sys2Proof.Machine

open Sys2Proof

/-! ### Graphs, phases and jobs (R373, R374) -/

/-- A live level of a context. -/
def State.level? (s : State) (ctx lvl : Nat) (id : Word) : Option Level :=
  s.levels.find? fun l => l.ctx == ctx && l.lvl == lvl && l.id == id
/-- Change a level. -/
def State.modLevel (s : State) (ctx lvl : Nat) (id : Word) (f : Level → Level) : State :=
  { s with levels := s.levels.map fun l => if l.ctx == ctx && l.lvl == lvl && l.id == id then f l else l }

/-- The IDs a launch names, lowest level first. -/
def chainOf (graph phase job : Word) : List (Nat × Word) := [(1, graph), (2, phase), (3, job)].filter fun x => x.2 != 0

/-- A launch may not name the chain: a level is closed, or has another parent (R373). -/
def State.chainBad (s : State) (ctx : Nat) (graph phase job : Word) : Bool :=
  (chainOf graph phase job).any fun x => match s.level? ctx x.1 x.2 with
    | none => false
    | some l => l.closed || (decide (x.1 ≤ 2) && l.job != job) || (x.1 == 1 && l.phase != phase)

/-- A level the chain needs has no room for another live ID (R374). -/
def State.chainFull (s : State) (ctx : Nat) (chain : List (Nat × Word)) : Bool :=
  chain.any fun x => (s.level? ctx x.1 x.2).isNone && decide (16384 ≤ (s.levels.filter fun l => l.lvl == x.1).length)

/-- Count a member of the lowest level of a chain; a level that was not there is counted by the next one (R374). -/
def joinChain (ctx : Nat) (phase job : Word) : List (Nat × Word) → State → State
  | [], s => s
  | x :: xs, s => match s.level? ctx x.1 x.2 with
    | some _ => s.modLevel ctx x.1 x.2 fun l => { l with members := l.members + 1 }
    | none => joinChain ctx phase job xs { s with levels := s.levels ++
        [{ ctx := ctx, lvl := x.1, id := x.2, phase := phase, job := job, members := 1, closed := false, cancelled := false,
           sig := 0, sigQueue := 0 }] }

/-- Close the levels that the close bits name; the level signal goes to the highest (R387). -/
def State.closeChain (s : State) (ctx q close : Nat) (sig : DWord) (chain : List (Nat × Word)) : State :=
  let named := chain.filter fun x => bitsAt close (x.1 - 1) 1 == 1
  named.foldl (fun t x => t.modLevel ctx x.1 x.2 fun l =>
    if named.getLast? == some x then { l with closed := true, sig := sig, sigQueue := q } else { l with closed := true }) s

/-- The level that counts a level: the next one it was named with. -/
def Level.above (l : Level) : Option (Nat × Word) :=
  if l.lvl == 1 && l.phase != 0 then some (2, l.phase)
  else if decide (l.lvl ≤ 2) && l.job != 0 then some (3, l.job)
  else none

/-- A member of a level is complete; a level whose counter reaches zero completes, decrements its signal with release, and is
a complete member of the next (R374, R387). -/
def leaveLevel (ctx : Nat) : Nat → Nat × Word → State → State
  | 0, _, s => s
  | fuel + 1, x, s => match s.level? ctx x.1 x.2 with
    | none => s
    | some l =>
      let s1 := s.modLevel ctx x.1 x.2 fun l => { l with members := l.members - 1 }
      if 1 < l.members || !l.closed then s1
      else
        let s2 := { s1 with levels := s1.levels.filter fun y => !(y.ctx == ctx && y.lvl == x.1 && y.id == x.2) }
        let s3 := if l.sig == 0 then s2
          else s2.sendFront .red 3 true l.sigQueue ctx l.sig.toNat (BitVec.allOnes 64) 0 noPacket
        match l.above with
        | some y => leaveLevel ctx fuel y s3
        | none => s3

/-! ### Cancel (R375, R376) -/

/-- Cancel a launch by CANCEL (R375): one that is complete or unknown is left alone. -/
def State.cancelById (s : State) (id : DWord) : State :=
  match s.launch? id with
  | some L => if L.live && !L.aborted then s.cancelLaunch id fun l => { l with cancelled := true } else s
  | none => s

/-- Cancel a graph, phase or job: it is marked for launches that start later, and its launches are cancelled (R375). -/
def State.cancelLevel (s : State) (ctx lvl : Nat) (id : Word) : State :=
  match s.level? ctx lvl id with
  | none => s
  | some _ =>
    let s1 := s.modLevel ctx lvl id fun l => { l with cancelled := true }
    (s1.launches.filter fun L => L.ctx == ctx && !L.done &&
      (if lvl == 1 then L.graph else if lvl == 2 then L.phase else L.job) == id).foldl (fun t L => t.cancelById L.id) s1

/-- The wait for the end of a level (R375). -/
def levelAct (ctx lvl : Nat) (id : Word) : Action := .cancel lvl (BitVec.ofNat 64 (ctx * 2 ^ 32 + id.toNat))

/-- What a CANCEL packet waits for, where its target is live (R375, R376). -/
def State.cancelAct (s : State) (ctx lvl : Nat) (id : DWord) : Option Action :=
  if lvl = 0 then (s.launch? id).map fun _ => .cancel 0 id
  else (s.level? ctx lvl (id.setWidth 32)).map fun _ => levelAct ctx lvl (id.setWidth 32)

/-- A queue cancels a target (R375, R386, R399). -/
def State.queueCancel (s : State) (Q : Queue) (lvl : Nat) (id : DWord) : State :=
  match s.cancelAct Q.ctx lvl id with
  | none => s
  | some a =>
    let s1 := if lvl = 0 then s.cancelById id else s.cancelLevel Q.ctx lvl (id.setWidth 32)
    s1.addAct Q a

/-! ### Partition words (R287, R288) -/

/-- The partition word is valid for a kernel header; no quarter holds more slots than it has (R250, R288). -/
def partOk (part hdr : Nat) : Bool :=
  let reg := bitsAt part 0 6
  let spad := bitsAt part 6 6
  let acc := bitsAt part 12 6
  let g := bitsAt part 18 6
  let slots := if bitsAt hdr 15 1 == 1 then (g + 1) / 2 else g
  bitsAt part 27 5 == 0 && reg + spad + acc == 48 && decide (8 ≤ reg ∧ acc ≤ 16 ∧ 1 ≤ g ∧ g ≤ 32 ∧ bitsAt part 24 3 ≤ 5) &&
    decide (slots ≤ min (4 * Config.quarterSlots) (256 * reg / bitsAt hdr 0 9))

/-- Some cluster has enabled cores enough for the cohort (R288). -/
def State.cohortFits (s : State) (part : Nat) : Bool :=
  (List.range Config.clusters).any fun cl =>
    decide (2 ^ bitsAt part 24 3 ≤ ((List.range 32).filter fun i => !s.disabledCores.contains (32 * cl + i)).length)

/-! ### Records (R362 to R364) -/

/-- The first failing field of a launch record by offset, in step 1 of R364; with a predicted shape GRIDX is not read (R275; log entry
78). -/
def recordBad (bs : List Byte) (ctx : Nat) (tmap : Option DWord) : Option Nat :=
  let f (o n : Nat) : Nat := fieldAt bs o n
  let noShape := f 0x20 8 == 0
  let pipe := f 0xA0 8 != 0
  let fails : List (Nat × Bool) := [
    (0x00, !pipe && f 0 8 % 4 != 0), (0x0C, f 0x0C 4 != 0),
    (0x10, noShape && (f 0x10 4 == 0 || decide (2 ^ 32 ≤ f 0x10 4 * f 0x14 4 * f 0x18 4))), (0x14, f 0x14 4 == 0), (0x18, f 0x18 4 == 0),
    (0x1C, f 0x1C 4 != 0), (0x20, f 0x20 8 % 8 != 0), (0x28, noShape && f 0x28 4 != 0), (0x2C, noShape && f 0x2C 4 != 0),
    (0x30, noShape && f 0x30 4 != 0),
    (0x34, bitsAt (f 0x34 4) 4 28 != 0 || bitsAt (f 0x34 4) 0 2 == 3 || (noShape && f 0x34 4 != 0)),
    (0x38, bitsAt (f 0x38 8) 0 57 % 16 != 0 || (noShape && f 0x38 8 != 0)), (0x60, f 0x60 8 % 4 != 0),
    (0x68, decide (1024 < f 0x68 4) || f 0x68 4 % 4 != 0), (0x6C, f 0x6C 4 != 0),
    (0x70, f 0x70 8 % 4096 != 0 || (match tmap with
      | some t => decide (t.toNat ≠ f 0x70 8)
      | none => false)),
    (0x78, decide (f 0x78 4 ≠ ctx)), (0x7C, f 0x7C 4 != 0), (0x8C, f 0x8C 4 != 0), (0x90, f 0x90 8 % 8 != 0),
    (0x98, decide (7 < f 0x98 1)), (0x99, f 0x99 3 != 0), (0xA0, f 0xA0 8 % 32 != 0), (0xA8, !((bs.drop 0xA8).all (· == 0)))]
  (fails.find? (·.2)).map (·.1)

/-- The launch of a record (R363), before its checks. -/
def launchOfRecord (id : DWord) (Q : Queue) (rec : Nat) (bs : List Byte) (clock : Nat) (acq : Bool) : Launch :=
  let f (o n : Nat) : Nat := fieldAt bs o n
  let d (o : Nat) : DWord := BitVec.ofNat 64 (f o 8)
  let w (o : Nat) : Word := BitVec.ofNat 32 (f o 4)
  { id := id, queue := Q.n, packet := Q.pktIdx, recAddr := BitVec.ofNat 64 rec, ctx := Q.ctx, khdr := d 0, part := w 8,
    gx := w 0x10, gy := w 0x14, gz := w 0x18, shape := d 0x20, cast := w 0x28, hint := w 0x2C, maxc := w 0x30,
    pmode := w 0x34, retracts := [], fs := (List.range 8).map fun i => w (0x40 + 4 * i), banks := [], tmap := d 0x70,
    graph := w 0x80, phase := w 0x84, job := w 0x88, csig := if f 0x90 8 % 8 = 0 then d 0x90 else 0, prio := f 0x98 1 % 8,
    deadlineAt := if f 0x9C 4 = 0 then none else some (clock + 4096 * f 0x9C 4), stages := [], needPolicy := false,
    startedAt := clock, evalAt := clock, nunits := 0, pred := 0, trueCount := none, bound := false, boundAtStart := false,
    cancelled := false, aborted := false, sigAbort := false, uncorr := false, faulted := none, failing := none, done := false,
    leaves := false, status := 0, patches := [], home := none, acq := acq, base := 0 }

/-- The launch of a record that could not be read. -/
def blankLaunch (id : DWord) (Q : Queue) (rec clock : Nat) : Launch := launchOfRecord id Q rec (List.replicate 256 0) clock false

/-! ### Reads of a launch's start -/

/-- What starting a launch comes to: it has started, its packet breaks a rule, or the queue stalls. -/
inductive LaunchRes where
  | started (s : State)
  | bad (s : State)
  | stall (s : State)

/-- The device watches CSIG of a running launch with a condition monitor (R376). -/
def State.watchSignal (s : State) (L : Launch) : State :=
  if L.csig == 0 then s
  else match s.walkPa L.ctx L.csig.toNat with
    | none => s
    | some pa => (s.armWord (.launch L.id) L.ctx L.csig.toNat pa).2

/-- Change a launch, a completed one too. -/
def State.modDone (s : State) (id : DWord) (f : Launch → Launch) : State :=
  { s with launches := s.launches.map fun L => if L.id == id then f L else L }

/-- The launch stands: its packet waits for it (R384). -/
def State.addLaunch (s : State) (Q : Queue) (L : Launch) : State :=
  let s1 := s.modQueue Q.n fun (x : Queue) => { x with launches := x.launches + 1, lrec := none, joined := false, lfail := none }
  ({ s1 with launches := s1.launches ++ [{ L with base := s.units.length }] }.addAct Q (.launch L.id)).watchSignal L

/-- The record of this start that the driver has failed covers the range: its SEQ. -/
def Queue.failedRead (Q : Queue) (id : DWord) (va n : Nat) : Option Nat :=
  match Q.lfail with
  | some (l, a, seq) => if l == id && decide (va ≤ a.toNat ∧ a.toNat < va + n) then some seq else none
  | none => none

/-- Read for the start of a launch: a fault stalls the queue until it is replayed; a record that fails ends the launch with
the detail given, or as R425 says (R364, R414); uncorrectable data ends it UNCORR (R434). -/
def lWith (Q : Queue) (L : Launch) (va n : Nat) (detail : Option Nat) (s : State)
    (k : List Byte → State → LaunchRes) : LaunchRes :=
  match Q.failedRead L.id va n with
  | some seq => .started (s.addLaunch Q { L with faulted := some (match detail with
      | some d => (d, 0)
      | none => (6, seq % 65536)) })
  | none => match s.qRead Q va n with
    | .ok bs s1 => k bs s1
    | .fault a w => .stall (s.qFault Q 10 (some L.id) a w)
    | .uncorr pa => .started ((s.consume L.id pa).addLaunch Q { L with uncorr := true })
    | .wait s1 => .stall s1

/-- The constant banks of a kernel: the parameter block in c0, the banks of CBMASK in order (R219, R220). -/
def banksFrom (mask : Nat) : List Nat → List Byte → Sparse Byte → Sparse Byte
  | [], _, m => m
  | b :: r, bs, m =>
    if bitsAt mask b 1 == 1 then banksFrom mask r (bs.drop 1024) (spSetList 0 m (1024 * b) (bs.take 1024))
    else banksFrom mask r bs m

/-- Number of banks a mask names. -/
def bankCount (mask : Nat) : Nat := ((List.range 16).filter fun b => decide (1 ≤ b) && bitsAt mask b 1 == 1).length

/-- Read the banks of a kernel whose header word is `hdr` (R219, R220). -/
def lBanks (Q : Queue) (L : Launch) (khdr hdr : Nat) (param : List Byte) (s : State) (k : Sparse Byte → State → LaunchRes) :
    LaunchRes :=
  let md := (khdr + hdr / 2 ^ 32) % 2 ^ 64
  lWith Q L ((md + 0x3C) % 2 ^ 64) 4 none s fun mb s1 =>
    let mask := ofBytesLE mb
    lWith Q L ((md + 0x40 + 16 * bitsAt hdr 20 4) % 2 ^ 64) (1024 * bankCount mask) none s1 fun bs s2 =>
      k (banksFrom mask ((List.range 15).map (· + 1)) bs (spSetList 0 [] 0 param)) s2

/-! ### Stages (R271, R272, R368) -/

/-- A stage entry with its kernel's header word. -/
def stageOf (bs : List Byte) (hdr : Nat) : Stage × Nat :=
  let f (o n : Nat) : Nat := fieldAt bs o n
  ({ khdr := BitVec.ofNat 64 (f 0 8), part := BitVec.ofNat 32 (f 8 4), cons := f 0x0C 2, prod := f 0x0E 2, outOff := f 0x10 4,
     minR := f 0x14 1, maxR := f 0x15 1, tokSize := f 0x16 2, depth := f 0x18 4, units := 0, nextStart := 0, nextOut := 0,
     replicas := f 0x14 1, resv := 0, toks := [], out := [], banks := [] }, hdr)

/-- Read the stage entries and their header words (R364 step 2). -/
def lStages (Q : Queue) (L : Launch) (tbl : Nat) : List Nat → List (Stage × Nat × List Byte) → State →
    (List (Stage × Nat × List Byte) → State → LaunchRes) → LaunchRes
  | [], acc, s, k => k acc s
  | i :: r, acc, s, k =>
    lWith Q L ((tbl + 32 * (i + 1)) % 2 ^ 64) 32 (some 9) s fun bs s1 =>
      lWith Q L (fieldAt bs 0 8) 8 (some 9) s1 fun hb s2 =>
        let x := stageOf bs (ofBytesLE hb)
        lStages Q L tbl r (acc ++ [(x.1, x.2, bs)]) s2 k

/-- Unit counts of the stages, none where a count is not integral (R272). -/
def stageUnits : Nat → List (Stage × Nat × List Byte) → Option (List Nat)
  | _, [] => some []
  | n, [_] => some [n]
  | n, a :: b :: r =>
    let m := n * a.1.prod
    if b.1.cons = 0 ∨ m % b.1.cons ≠ 0 then none
    else (stageUnits (m / b.1.cons) (b :: r)).map (n :: ·)

/-- An entry obeys R368 and R271 in its place of `n` stages. -/
def stageOk (n : Nat) (x : (Stage × Nat × List Byte) × Nat) : Bool :=
  let st := x.1.1
  let last := x.2 + 1 == n
  st.khdr.toNat % 4 == 0 &&
    (if x.2 == 0 then st.cons == 0 else decide (1 ≤ st.cons ∧ st.cons ≤ 1024)) &&
    (if last then st.prod == 0 && st.tokSize == 0 && st.depth == 0
      else decide (1 ≤ st.prod ∧ st.prod ≤ 1024 ∧ 4 ≤ st.tokSize ∧ st.tokSize ≤ 256 ∧ st.prod ≤ st.depth) && st.tokSize % 4 == 0) &&
    st.outOff % 16 == 0 && decide (1 ≤ st.minR ∧ st.minR ≤ st.maxR ∧ st.maxR ≤ 32) && fieldAt x.1.2.2 0x1C 4 == 0

/-- The stage table is valid (R272, R368). -/
def stagesOk (hd : List Byte) (grid : Nat) (xs : List (Stage × Nat × List Byte)) : Bool :=
  decide (2 ≤ xs.length ∧ xs.length ≤ 8) && (hd.drop 1).all (· == 0) && xs.zipIdx.all (stageOk xs.length) &&
    decide ((xs.map (·.1.minR)).sum ≤ 32) && decide ((xs.map fun x => x.1.depth * x.1.tokSize).sum ≤ 1048576) &&
    (stageUnits grid xs).isSome

/-- Give the stages their banks, one kernel after another (R220). -/
def lStageBanks (Q : Queue) (L : Launch) (param : List Byte) : List (Stage × Nat) → List Stage → State →
    (List Stage → State → LaunchRes) → LaunchRes
  | [], acc, s, k => k acc s
  | x :: r, acc, s, k =>
    lBanks Q L x.1.khdr.toNat x.2 param s fun b s1 => lStageBanks Q L param r (acc ++ [{ x.1 with banks := b }]) s1 k

/-! ### Predicted counts (R275, R369, R370) -/

/-- The history of a kernel signature, newest first (R369). -/
def State.history (s : State) (ctx : Nat) (khdr : DWord) : List Nat :=
  match s.swatches.find? fun w => w.ctx == ctx && w.khdr == khdr with
  | some w => w.counts.map (·.toNat)
  | none => []

/-- Record a true count (R369): the newest of four, the least recently recorded entry of 1,024 replaced. -/
def State.recordCount (s : State) (ctx : Nat) (khdr : DWord) (t : Nat) : State :=
  let old := (s.swatches.find? fun w => w.ctx == ctx && w.khdr == khdr).map (·.counts)
  let e : Swatch := ⟨ctx, khdr, (BitVec.ofNat 32 t :: old.getD []).take 4⟩
  { s with swatches := (e :: s.swatches.filter fun w => !(w.ctx == ctx && w.khdr == khdr)).take 1024 }

/-- Clamp a predicted count (R370). -/
def Launch.clampP (L : Launch) (p : Nat) : Nat := min (max p (max L.cast.toNat 1)) L.maxc.toNat

/-- The count of modes 0 and 2 before the clamp (R370). -/
def Launch.rawP (L : Launch) (hist : List Nat) : Nat :=
  if bitsAt L.pmode.toNat 0 2 == 2 && !hist.isEmpty then maxOf hist else L.hint.toNat

/-- Shape parameters are valid (R275, R364 step 4). -/
def Launch.shapeOk (L : Launch) (hdr : Nat) (pipe : Bool) : Bool :=
  L.shape == 0 || (!pipe && decide (L.cast.toNat ≤ L.maxc.toNat ∧ 1 ≤ L.maxc.toNat) && L.gy == 1 && L.gz == 1 &&
    bitsAt hdr 25 1 == 1)

/-- A launch with a predicted shape as its start leaves it, by the shape word then current (R280, R370). -/
def State.shapeStart (s : State) (L : Launch) (w : Nat) : Launch × State :=
  let mode1 := bitsAt L.pmode.toNat 0 2 == 1
  let p := if mode1 then 0 else L.clampP (L.rawP (s.history L.ctx L.khdr))
  let L1 := { L with pred := p, nunits := p, needPolicy := mode1 }
  if bitsAt w 63 1 == 1 then
    let t := bitsAt w 0 32
    ({ L1 with trueCount := some t, bound := true, boundAtStart := true, nunits := min t L.maxc.toNat },
      s.recordCount L.ctx L.khdr t)
  else (L1, s)

/-- The retractable allocations of a list (R372). -/
def retractsOf (bs : List Byte) (n : Nat) : List Retract :=
  (List.range n).map fun i =>
    ⟨fieldAt bs (16 * i) 4, BitVec.ofNat 32 (fieldAt bs (16 * i + 4) 4), BitVec.ofNat 64 (fieldAt bs (16 * i + 8) 8)⟩

/-! ### Start (R362 to R364, R375) -/

/-- The launch has passed its checks: it latches its shape and allocations, and stands (R57, R220, R280, R370, R372). -/
def lFinish (Q : Queue) (L : Launch) (retr : Nat) (s : State) : LaunchRes :=
  let n := bitsAt retr 57 7
  lWith Q L (if n = 0 then 0 else canonVa retr) (16 * n) none s fun rb s1 =>
    let L1 := { L with retracts := retractsOf rb n }
    let s2 (t : State) : State :=
      if t.ctxTmaps.any fun x => x.1 == L.ctx then t.installMap L.ctx
      else { t with ctxTmaps := t.ctxTmaps ++ [(L.ctx, L.tmap)] }.installMap L.ctx
    if L.shape == 0 then .started ((s2 s1).addLaunch Q { L1 with nunits := L.gx.toNat * L.gy.toNat * L.gz.toNat })
    else lWith Q L L.shape.toNat 8 none s1 fun wb s3 =>
      let (L2, s4) := s3.shapeStart L1 (ofBytesLE wb)
      .started ((s2 s4).addLaunch Q L2)

/-- Steps 2 to 5 of R364 for a launch that is not pipelined. -/
def lSimple (Q : Queue) (L : Launch) (bs : List Byte) (s : State) : LaunchRes :=
  lWith Q L L.khdr.toNat 8 (some 9) s fun hb s1 =>
    let hdr := ofBytesLE hb
    let part := L.part.toNat
    let fail (d : Nat) : LaunchRes := .started (s1.addLaunch Q { L with faulted := some (d, 0) })
    if !partOk part hdr || !s1.cohortFits part || (bitsAt part 24 3 != 0 && L.shape != 0) then fail 2
    else if !L.shapeOk hdr false then fail 3
    else lWith Q L (fieldAt bs 0x60 8) (fieldAt bs 0x68 4) none s1 fun pb s2 =>
      lBanks Q L L.khdr.toNat hdr pb s2 fun banks s3 => lFinish Q { L with banks := banks } (fieldAt bs 0x38 8) s3

/-- Steps 2 to 5 of R364 for a pipelined launch. -/
def lPiped (Q : Queue) (L : Launch) (bs : List Byte) (s : State) : LaunchRes :=
  let tbl := fieldAt bs 0xA0 8
  lWith Q L tbl 32 (some 9) s fun hd s1 =>
    let n := fieldAt hd 0 1
    lStages Q L tbl (if 2 ≤ n ∧ n ≤ 8 then List.range n else []) [] s1 fun xs s2 =>
      let grid := L.gx.toNat * L.gy.toNat * L.gz.toNat
      let fail (d : Nat) : LaunchRes := .started (s2.addLaunch Q { L with faulted := some (d, 0) })
      if xs.any fun x => !partOk x.1.part.toNat x.2.1 || bitsAt x.1.part.toNat 24 3 != 0 then fail 2
      else if !L.shapeOk 0 true then fail 3
      else if !stagesOk hd grid xs then fail 4
      else lWith Q L (fieldAt bs 0x60 8) (fieldAt bs 0x68 4) none s2 fun pb s3 =>
        let us := (stageUnits grid xs).getD []
        let sts := (xs.zip us).map fun x => ({ x.1.1 with units := x.2 }, x.1.2.1)
        lStageBanks Q L pb sts [] s3 fun stages s4 => lFinish Q { L with stages := stages } (fieldAt bs 0x38 8) s4

/-- %launchid (R375). -/
def launchId (Q : Queue) : DWord :=
  BitVec.ofNat 64 (Q.ctx % 4096 * 2 ^ 52 + Q.n % 32768 * 2 ^ 37 + Q.pktIdx % 2 ^ 34 * 8 + Q.launches % 8)

/-- Acquire scope of the current packet (R383). -/
def Queue.acqs (Q : Queue) : Nat := bitsAt (fieldAt Q.pkt 0 8) 9 2

/-- The launch record that the current LAUNCH or LNCH has read (R362). -/
def State.latch (s : State) (Q : Queue) (bs : List Byte) : State :=
  s.modQueue Q.n fun (x : Queue) => { x with lrec := some bs }

/-- The launch record of the current LAUNCH or LNCH: it is read once, whole, and a start that stalls later goes on with it (R362). -/
def lRecord (Q : Queue) (L : Launch) (rec : Nat) (s : State) (k : List Byte → State → LaunchRes) : LaunchRes :=
  match Q.lrec with
  | some bs => k bs s
  | none => lWith Q L rec 256 (some 1) s fun bs s1 => k bs (s1.latch Q bs)

/-- A level of the chain has been cancelled (R375). -/
def State.chainCancelled (s : State) (ctx : Nat) (chain : List (Nat × Word)) : Bool :=
  chain.any fun x => match s.level? ctx x.1 x.2 with
    | some l => l.cancelled
    | none => false

/-- The launch has joined its graph, phase and job: it makes the checks of R364. -/
def lChecks (Q : Queue) (L : Launch) (bs : List Byte) (s : State) : LaunchRes :=
  if s.chainCancelled L.ctx (chainOf L.graph L.phase L.job) then .started (s.addLaunch Q { L with cancelled := true })
  else match recordBad bs Q.ctx ((s.ctxTmaps.find? fun x => x.1 == Q.ctx).map (·.2)) with
    | some off => .started (s.addLaunch Q { L with faulted := some (1, off) })
    | none => if fieldAt bs 0xA0 8 = 0 then lSimple Q L bs s else lPiped Q L bs s

/-- Start the launch of a record (R362 to R364, R373 to R375, R387): reads the record, joins its graph, phase and job, and
makes the checks. A start that stalls after that stays counted in its levels (R374). -/
def State.startLaunch (s : State) (Q : Queue) (rec close : Nat) (sig : DWord) : LaunchRes :=
  if rec % 256 ≠ 0 ∨ sig.toNat % 8 ≠ 0 ∨ (sig ≠ 0 ∧ close = 0) ∨ 8 ≤ Q.launches then .bad s
  else
    let id := launchId Q
    lRecord Q (blankLaunch id Q rec s.clock) rec s fun bs s1 =>
      let L := launchOfRecord id Q rec bs s1.clock (Q.acqs != 0)
      let chain := chainOf L.graph L.phase L.job
      let ids := [L.graph, L.phase, L.job]
      let close_ (r : LaunchRes) : LaunchRes := match r with
        | .started t => .started (t.closeChain L.ctx Q.n close sig chain)
        | .bad t => .bad t
        | .stall t => .stall t
      if Q.joined then close_ (lChecks Q L bs s1)
      else if (ids.zipIdx.any fun x => bitsAt close x.2 1 == 1 && x.1 == 0) || s1.chainBad L.ctx L.graph L.phase L.job then .bad s1
      else if s1.chainFull L.ctx chain then .stall s1
      else close_ (lChecks Q L bs ((joinChain L.ctx L.phase L.job chain s1).modQueue Q.n fun (x : Queue) => { x with joined := true }))

end Sys2Proof.Machine
end

