-- ==== Sys2Proof/Machine/Delta.lean ====
section
/-! DEFINITION. Configuration deltas (R403, R404) and the loader's checks of a spatial image that firmware makes on their
result (R189, R190, R226, R228 to R231). -/

namespace Sys2Proof.Machine

open Sys2Proof

/-! ### Checks of an image (R226, R228 to R231) -/

/-- What a kernel gives an image's live-ins and live-outs: groups per unit and vector registers. -/
structure ImageEnv where
  groups : Nat
  nv : Nat
  deriving DecidableEq, Repr

/-- A core of the rectangle that the image needs. -/
def Image.needs (i : Image) (core : Nat) : Bool := (neededCores i.rows i.cols i.need).contains core

/-- A list names nothing twice. -/
def noRepeats {α : Type} [DecidableEq α] (l : List α) : Bool := decide (l.dedup.length = l.length)

/-- The table ranges of R226 and R228. DESIGN CHOICE (log entry 118): a live-in or live-out fails too where it names a core whose NEED bit
is clear, or an operator lane above 127. -/
def Image.formatOk (i : Image) (e : ImageEnv) : Bool :=
  let live (y : SLive) : Bool := decide (y.grp < e.groups ∧ y.reg < e.nv ∧ y.lane < 32 ∧ y.temp < 8 ∧ y.olane < 128) && i.needs y.core
  decide (1 ≤ i.rows ∧ i.rows ≤ 4 ∧ 1 ≤ i.cols ∧ i.cols ≤ 8) &&
    (i.ops.all fun p => i.needs p.core &&
      decide (p.lane < 128 ∧ 1 ≤ p.code.length ∧ p.code.length ≤ 8 ∧ 1 ≤ p.reps ∧ p.reps ≤ 65535)) &&
    noRepeats (i.ops.map fun p => (p.core, p.lane)) &&
    (i.queues.all fun q => i.needs q.core &&
      decide (8 ≤ q.depth ∧ q.depth ≤ 64 ∧ q.toks.length ≤ q.depth ∧ q.stage ≤ 8 ∧ 1 ≤ q.prod ∧ q.prod ≤ 8)) &&
    noRepeats (i.queues.map fun q => (q.core, q.idx)) &&
    (i.ports.all fun p => i.needs p.core && decide (p.port < 16 ∧ p.baseReg < 16) && (p.esize == 2 || p.esize == 4)) &&
    noRepeats (i.ports.map fun p => (p.core, p.port)) &&
    i.ins.all live && i.outs.all live && noRepeats (i.outs.map fun y => (y.grp, y.reg, y.lane))

/-- A table of an image body lies inside it. -/
def tableIn (bs : List Byte) (off size n : Nat) : Bool := n == 0 || decide (off + size * n ≤ bs.length)
/-- Every entry of a table obeys `f`, given its offset. -/
def tableAll (off size n : Nat) (f : Nat → Bool) : Bool := (List.range n).all fun i => f (off + size * i)
/-- Bytes of an image body are zero. -/
def zeroIn (bs : List Byte) (off n : Nat) : Bool := ((bs.drop off).take n).all (· == 0)

/-- An operator entry keeps R226's zero bytes and leaves unused slots zero. -/
def operEntryOk (bs : List Byte) (a : Nat) : Bool :=
  zeroIn bs (a + 3) 1 && zeroIn bs (a + 8 + 12 * fieldAt bs (a + 2) 1) (96 - 12 * fieldAt bs (a + 2) 1)

/-- The bytes of an image body keep what R226 says of them beside the values: tables inside the body, zero fields, directions 0 or
1. -/
def bodyOk (bs : List Byte) : Bool :=
  let f (o n : Nat) : Nat := fieldAt bs o n
  decide (48 ≤ bs.length) && zeroIn bs 2 2 && zeroIn bs 0x24 12 &&
    tableIn bs (f 0x10 4) 104 (f 8 2) && tableAll (f 0x10 4) 104 (f 8 2) (operEntryOk bs) &&
    tableIn bs (f 0x14 4) 16 (f 0x0A 2) &&
    (tableAll (f 0x14 4) 16 (f 0x0A 2) fun a => zeroIn bs (a + 10) 2 && tableIn bs (f (a + 12) 4) 4 (f (a + 3) 1)) &&
    tableIn bs (f 0x18 4) 24 (f 0x0C 2) &&
    (tableAll (f 0x18 4) 24 (f 0x0C 2) fun a => decide (f (a + 2) 1 ≤ 1) && zeroIn bs (a + 6) 2 && zeroIn bs (a + 16) 8) &&
    tableIn bs (f 0x1C 4) 8 (f 0x0E 1) && (tableAll (f 0x1C 4) 8 (f 0x0E 1) fun a => zeroIn bs (a + 6) 2) &&
    tableIn bs (f 0x20 4) 8 (f 0x0F 1) && (tableAll (f 0x20 4) 8 (f 0x0F 1) fun a => zeroIn bs (a + 6) 2)

/-- An operand names operator state (R190, R229). -/
def operState (o : Opnd) : Bool :=
  match o.cls with
  | .vec => decide (o.idx.toNat < 8)
  | .pair => decide (o.idx.toNat < 8)
  | .pred => decide (o.idx.toNat < 8) || o.idx.toNat == 15
  | .queue | .const | .simm | .zero => true
  | .quad | .scal | .addr | .acc | .sreg | .fslot => false

/-- The operand fields of a slot; those of an immediate word name none. -/
def slotOpnds (w : Slot) : List Opnd :=
  let r := Raw.ofSlot w
  (if slotImm r then [r.d, r.a] else [r.d, r.a, r.b, r.c]).map Opnd.get

/-- The slot holds an operator instruction of R34. -/
def isSpatial : Instr → Bool
  | .send _ _ | .strld _ _ _ | .strst _ _ | .gtok _ _ | .dropt _ _ | .spexit _ _ => true
  | _ => false
/-- The slot holds SPEXIT. -/
def slotExits (w : Slot) : Bool := (Raw.ofSlot w).op.toNat == 0xEA
/-- The port a slot uses (R192, R193). -/
def slotPort (w : Slot) : Option Nat :=
  let r := Raw.ofSlot w
  if r.op.toNat = 0xE4 ∨ r.op.toNat = 0xE5 then some (Opnd.get r.b).idx.toNat else none

/-- An instruction an operator may hold (R189, R190, R229): admitted, guarded by PT, on operator state, naming declared
queues. -/
def Image.slotOk (i : Image) (core : Nat) (w : Slot) : Bool :=
  let r := Raw.ofSlot w
  let declared (q : Nat × Nat) : Bool := i.queues.any fun x => x.core == q.1 && x.idx == q.2
  (match decode96 w with
    | .ok x => isSpatial x || (aluOf x).isSome
    | .error _ => false) &&
    bitsAt r.hd.toNat 11 5 == 30 && (slotOpnds w).all operState && ((slotReads w).all fun q => declared (core, q)) &&
    (match slotGives core w with
      | some q => declared q && i.needs q.1
      | none => true)

/-- The balance of R230. -/
def Image.rateOk (i : Image) : Bool :=
  let named (core lane : Nat) : List SOper := i.ops.filter fun p => p.core == core && p.lane == lane
  (i.queues.all fun q =>
    let prods := i.ops.filter fun p => p.gives.contains (q.core, q.idx)
    let cons := i.ops.filter fun p => p.core == q.core && p.reads.contains q.idx
    match named q.prodCore q.prodLane, named q.consCore q.consLane with
    | [a], [b] => prods == [a] && cons == [b] && a.gives.count (q.core, q.idx) == q.prod && a.reps * q.prod == b.reps
    | _, _ => false) &&
  (let quot (x : SPort) : Option Nat :=
      match i.ops.filter fun p => p.core == x.core && (p.code.filterMap slotPort).contains x.port with
      | [p] =>
        let k := p.reps * (p.code.filterMap slotPort).count x.port
        if x.count ≠ 0 ∧ x.count % k = 0 then some (x.count / k) else none
      | _ => none
    (i.ports.all fun x => (quot x).isSome) && decide (((i.ports.map quot).dedup).length ≤ 1)) &&
  (i.ops.filter fun p => p.code.any slotExits).length == 1

/-- Counts of the queues in a period and firings of the operators. -/
structure Period where
  cnt : List Nat
  fired : List Nat
  deriving DecidableEq, Repr

/-- Operator `o` may fire in a simulated period (R231). -/
def Image.mayFire (i : Image) (m : Period) (o : Nat) (p : SOper) : Bool :=
  decide (m.fired.getD o 0 < p.reps) && (i.queues.zipIdx.all fun (q, k) =>
    (!(q.consCore == p.core && q.consLane == p.lane) || decide (0 < m.cnt.getD k 0)) &&
      (!(q.prodCore == p.core && q.prodLane == p.lane) || decide (m.cnt.getD k 0 + q.prod ≤ q.depth)))

/-- Operator `o` fires in a simulated period. -/
def Image.firePeriod (i : Image) (m : Period) (o : Nat) (p : SOper) : Period where
  cnt := i.queues.zipIdx.map fun (q, k) =>
    let x := m.cnt.getD k 0
    let y := if q.consCore == p.core && q.consLane == p.lane then x - 1 else x
    if q.prodCore == p.core && q.prodLane == p.lane then y + q.prod else y
  fired := updAt m.fired o (· + 1)

/-- Fire enabled operators until none is enabled; `fuel` bounds the rounds. -/
def Image.runPeriod (i : Image) : Nat → Period → Period
  | 0, m => m
  | fuel + 1, m =>
    let m1 := i.ops.zipIdx.foldl (fun m (p, o) => if i.mayFire m o p then i.firePeriod m o p else m) m
    if m1 == m then m else i.runPeriod fuel m1

/-- Depths and deadlock freedom (R231). -/
def Image.depthOk (i : Image) : Bool :=
  let run (start : List Nat) : Bool :=
    let m := i.runPeriod ((i.ops.map (·.reps)).sum + 1) ⟨start, i.ops.map fun _ => 0⟩
    (i.ops.zipIdx.all fun (p, o) => m.fired.getD o 0 == p.reps) && m.cnt == start
  (i.queues.all fun q => decide (q.toks.length + q.stage ≤ q.depth)) && run (i.queues.map (·.toks.length)) &&
    run (i.queues.map fun q => q.toks.length + q.stage)

/-- The checks of R228 to R231. -/
def Image.ok (i : Image) (e : ImageEnv) : Bool :=
  i.formatOk e && (i.ops.all fun p => p.code.all (i.slotOk p.core)) && i.rateOk && i.depthOk

/-! ### Deltas (R403) -/

/-- Read the operator entries that KIND 1 entries name. -/
def readOpers (Q : Queue) : List DeltaEnt → List DeltaEnt → State → (List DeltaEnt → State → State) → State
  | [], acc, s, k => k acc s
  | e :: r, acc, s, k =>
    if e.kind == 1 then s.qWith Q e.value.toNat 104 fun ob s1 => readOpers Q r (acc ++ [{ e with data := ob }]) s1 k
    else readOpers Q r (acc ++ [e]) s k

/-- The entries of a delta's bytes. -/
def deltaEnts (bs : List Byte) (n : Nat) : List DeltaEnt :=
  (List.range n).map fun i =>
    ⟨fieldAt bs (16 * i) 1, fieldAt bs (16 * i + 1) 1, fieldAt bs (16 * i + 2) 1, BitVec.ofNat 64 (fieldAt bs (16 * i + 8) 8),
      (bs.drop (16 * i + 8)).take 8⟩

/-- An entry fits the image (R403). -/
def Image.entOk (i : Image) (e : DeltaEnt) : Bool :=
  if e.kind == 1 then (i.ops.any fun p => p.core == e.core && p.lane == e.sel) && fieldAt e.data 0 1 == e.core &&
    fieldAt e.data 1 1 == e.sel && operEntryOk e.data 0
  else e.kind == 2 && i.ports.any fun p => p.core == e.core && p.port == e.sel

/-- The kernels of a launch whose images a delta may patch, by stage. -/
def Launch.deltaKernels (L : Launch) : List (Nat × DWord) :=
  if L.stages.isEmpty then [(0, L.khdr)] else L.stages.zipIdx.map fun x => (x.2, x.1.khdr)

/-- Set the drains of a launch's configurations from the deltas that stand (R404). -/
def State.setDrains (s : State) (launch : DWord) : State :=
  { s with units := s.units.map fun (U : Unit) =>
    if U.launch == launch then { U with spat := U.spat.map fun c => { c with drain := s.drainOf U c } } else U }

/-- A delta that has passed its checks stands: its configurations drain (R404). -/
def State.acceptDelta (s : State) (Q : Queue) (launch : DWord) (stage img : Nat) (es : List DeltaEnt) : State :=
  let s1 := { s with deltas := s.deltas ++ [(⟨s.nextId, launch, stage, img, es⟩ : Delta)] }.fresh
  (s1.setDrains launch).addAct Q (.delta s.nextId)

/-- Check a delta's result against the image of the first kernel that has one of its index; the kernel is read in the context of the
launch (R219, R228, R403; log entry 31). -/
def State.checkDelta (s : State) (Q : Queue) (L : Launch) (img : Nat) (zero : Bool) (es : List DeltaEnt)
    (ok : Nat → State → State) : List (Nat × DWord) → State
  | [] => s.queueError Q.n 8 0 Q.pktIdx
  | (stage, kh) :: r =>
    let khdr := kh.toNat
    let P : Queue := { Q with ctx := L.ctx }
    s.qWith P khdr 8 fun hb s1 =>
      let hdr := ofBytesLE hb
      let md := khdr + hdr / 2 ^ 32
      if bitsAt hdr 20 4 ≤ img then s1.checkDelta Q L img zero es ok r
      else s1.qWith P ((md + 8) % 2 ^ 64) 4 fun pb s2 =>
        s2.qWith P ((md + 0x40 + 16 * img) % 2 ^ 64) 16 fun eb s3 =>
          if fieldAt eb 12 1 != 0 then s3.queueError Q.n 8 0 Q.pktIdx
          else
            let va := patOf 64 ((khdr : Int) + sext 32 (fieldAt eb 0 4))
            s3.qWith P va (fieldAt eb 4 4) fun body s4 =>
              let i := Image.ofBytes va body
              let j := { i with ops := patchOpers (L.entsOf stage img ++ es) i.ops }
              let env : ImageEnv := ⟨bitsAt (ofBytesLE pb) 18 6, bitsAt hdr 0 9⟩
              if zero && es.all i.entOk && bodyOk body && j.ok env then ok stage s4 else s4.queueError Q.n 8 0 Q.pktIdx

/-- Check a delta (R403): it is read, its target found, and the patched copy of the image checked; then `k` goes on. -/
def State.delta (s : State) (Q : Queue) (va : Nat) (k : State → State) : State :=
  s.qWith Q va 16 fun hd s1 =>
    let id : DWord := BitVec.ofNat 64 (fieldAt hd 0 8)
    let img := fieldAt hd 8 1
    let n := fieldAt hd 9 1
    if n = 0 ∨ 64 < n ∨ fieldAt hd 0x0A 6 ≠ 0 then s1.queueError Q.n 8 0 Q.pktIdx
    else match s1.launch? id with
      | none => s1.queueError Q.n 9 0 Q.pktIdx
      | some L =>
        if !L.live then s1.queueError Q.n 9 0 Q.pktIdx
        else s1.qWith Q ((va + 16) % 2 ^ 64) (16 * n) fun eb s2 =>
          readOpers Q (deltaEnts eb n) [] s2 fun es s3 =>
            let zero := (List.range n).all fun i => fieldAt eb (16 * i + 3) 5 == 0
            s3.checkDelta Q L img zero es (fun stage t => k (t.acceptDelta Q id stage img es)) L.deltaKernels

/-! ### DELTA_APPLY (R404) -/

/-- A running configuration is drained: no firing under way and no access of a port on the named cores. -/
def Spat.drained (c : Spat) (es : List DeltaEnt) : Bool :=
  ((c.drainFor es).all fun o => match c.ops[o]? with
    | some p => p.resume == 0
    | none => true) &&
  (c.ports.all fun p => !(es.any fun e => e.core == p.core) || (p.reads.isEmpty && p.writes.isEmpty))

/-- A configuration patched (R404). -/
def Spat.patch (c : Spat) (es : List DeltaEnt) : Spat := { c with ops := patchOpers es c.ops, ports := patchPorts es c.ports }

/-- Configurations a delta patches: those of its image that have been loaded and do not exit. -/
def Delta.patches (d : Delta) (U : Unit) : Bool :=
  match U.spat with
  | some c => d.aims U c.image && (c.step == .run || c.step == .check)
  | none => false

/-- A port whose base a delta replaces: its translation entry is emptied, in a save area too (R404). -/
def Delta.rebases (d : Delta) (U : Unit) (p : SPort) : Bool :=
  d.patches U && d.entries.any fun e => e.kind == 2 && e.core == p.core && e.sel == p.port

/-- The delta still waits for a unit: operators on the named cores are not drained, or a run of the image that is to exit has not
(R404). -/
def Delta.waits (d : Delta) (U : Unit) : Bool :=
  U.st == .resident && match U.spat with
    | some c => (d.aims U c.image && c.step == .exit) || (d.patches U && !c.frozen && !c.drained d.entries)
    | none => false

/-- DELTA_APPLY: once the operators on the named cores are drained, and runs that exit have exited, running and frozen configurations
are patched, and later loads take the patched image (R404). -/
def execDeltaApply (delta : Nat) (s : State) : Out :=
  match s.deltas.find? fun d => d.id == delta with
  | none => .next s
  | some d =>
    if s.units.any d.waits then .next s
    else
      let s0 := s.emptyPorts d.rebases
      let s1 := { s0 with
        deltas := s.deltas.filter fun x => x.id != delta
        units := s0.units.map fun (U : Unit) =>
          if d.patches U then { U with spat := U.spat.map fun (c : Spat) => c.patch d.entries } else U }
      .next ((s1.modLaunch d.launch fun l => { l with
        patches := l.patches ++ d.entries.map fun e => ⟨d.stage, d.image, e⟩ }).setDrains d.launch)

end Sys2Proof.Machine
end

