-- ==== Sys2Proof/Machine/QProg.lean ====
section
/-! DEFINITION. Packets (R383 to R388, R402) and the instructions of queue programs (R394 to R401). -/

namespace Sys2Proof.Machine

open Sys2Proof

/-! ### Packets (R386) -/

/-- The frame of a packet: the header's checks (R383); under a driver program it starts at instruction 0 (R394, R402); the
standard program's checks of LEN and the completion signal (R383, R386). -/
def packetStep (p : Packet) (s : State) (std : Queue → State) : Out :=
  match s.cur with
  | .queue q => match s.queue? q with
    | none => .fault .noIssuer
    | some Q =>
      if p.rsv != 0 || p.rels == 3 || p.acqs == 3 then .next (s.queueError q 3 0 Q.pktIdx)
      else if Q.prog != 0 then .next s
      else if p.len != 0 || p.q38.toNat % 8 != 0 then .next (s.queueError q 3 0 Q.pktIdx)
      else .next (std Q)
  | .front | .group _ _ | .oper _ _ => .fault .noIssuer

/-- A packet breaks a rule (R386). -/
def State.badPacket (s : State) (Q : Queue) : State := s.queueError Q.n 3 0 Q.pktIdx

/-- LAUNCH (R386, R387). -/
def execLaunch (p : Packet) (s : State) : Out :=
  packetStep p s fun Q =>
    if p.q20 != 0 || p.q28 != 0 || p.q30 != 0 || decide (8 ≤ p.q10.toNat) then s.badPacket Q
    else match s.startLaunch Q p.q08.toNat p.q10.toNat p.q18 with
      | .started s1 => s1.finPacket Q p.q38
      | .bad s1 => s1.badPacket Q
      | .stall s1 => s1

/-- The signals a barrier packet names; address 0 is absent (R388). -/
def packetSignals (p : Packet) : List DWord := [p.q08, p.q10, p.q18, p.q20, p.q28].filter (· != 0)

/-- BARRIER_AND and BARRIER_OR (R386, R388). -/
def barrierStep (any : Bool) (p : Packet) (s : State) : Out :=
  packetStep p s fun Q =>
    if p.q30 != 0 || (packetSignals p).any fun a => a.toNat % 8 != 0 then s.badPacket Q
    else s.evalWait Q ⟨(packetSignals p), any, 0⟩ fun r s1 => s1.settleBarrier Q p.q38 r
/-- BARRIER_AND (R388). -/
def execBarrierAnd (p : Packet) (s : State) : Out := barrierStep false p s
/-- BARRIER_OR (R388). -/
def execBarrierOr (p : Packet) (s : State) : Out := barrierStep true p s

/-- A signal's address is canonical; another puts the queue into ERROR behind a record (R490). -/
def State.signalAt (s : State) (Q : Queue) (acc : Acc) (va : DWord) (k : State → State) : State :=
  if canonical va.toNat then k s else s.qFault Q 10 none va.toNat ⟨7, acc.code, 0⟩

/-- SIGNAL (R386): adds to a signal or stores it, at RELS. -/
def execSignal (p : Packet) (s : State) : Out :=
  packetStep p s fun Q =>
    if p.q20 != 0 || p.q28 != 0 || p.q30 != 0 || decide (2 ≤ p.q10.toNat) || p.q08.toNat % 8 != 0 then s.badPacket Q
    else s.signalAt Q (if p.q10 == 0 then .rmw else .write) p.q08 fun s1 =>
      let rel := p.rels != 0
      (if p.q10 == 0 then s1.qAdd Q rel p.q08.toNat p.q18 Q.pktIdx else s1.qStore Q rel p.q08.toNat p.q18 Q.pktIdx).finPacket Q
        p.q38

/-- A copy's operands break a rule (R386). -/
def copyBad (dst src len : DWord) : Bool :=
  dst.toNat % 16 != 0 || src.toNat % 16 != 0 || len.toNat % 16 != 0 || decide (2 ^ 32 ≤ len.toNat)

/-- A queue starts a copy, unless it has no bytes (R386, R399). -/
def State.queueCopy (s : State) (Q : Queue) (dst src len : DWord) : State :=
  if len == 0 then s
  else { s with copies := s.copies ++ [(⟨s.nextId, Q.n, Q.pktIdx, Q.ctx, dst, src, len.toNat, 0, none⟩ : FrontCopy)] }.fresh.addAct Q
    (.copy s.nextId)

/-- COPY (R386). -/
def execCopy (p : Packet) (s : State) : Out :=
  packetStep p s fun Q =>
    if p.q20 != 0 || p.q28 != 0 || p.q30 != 0 || copyBad p.q08 p.q10 p.q18 then s.badPacket Q
    else (s.queueCopy Q p.q08 p.q10 p.q18).finPacket Q p.q38

/-- CONFIG_DELTA (R386, R403). -/
def execConfigDelta (p : Packet) (s : State) : Out :=
  packetStep p s fun Q =>
    if p.q10 != 0 || p.q18 != 0 || p.q20 != 0 || p.q28 != 0 || p.q30 != 0 || p.q08.toNat % 16 != 0 then s.badPacket Q
    else s.delta Q p.q08.toNat fun s1 => s1.finPacket Q p.q38

/-- CANCEL (R375, R386). -/
def execCancel (p : Packet) (s : State) : Out :=
  packetStep p s fun Q =>
    if p.q18 != 0 || p.q20 != 0 || p.q28 != 0 || p.q30 != 0 || decide (4 ≤ p.q08.toNat) ||
        (p.q08 != 0 && decide (2 ^ 32 ≤ p.q10.toNat)) then s.badPacket Q
    else (s.queueCancel Q p.q08.toNat p.q10).finPacket Q p.q38

/-- NOP (R386). -/
def execNopPacket (p : Packet) (s : State) : Out :=
  packetStep p s fun Q =>
    if p.q08 != 0 || p.q10 != 0 || p.q18 != 0 || p.q20 != 0 || p.q28 != 0 || p.q30 != 0 then s.badPacket Q
    else s.finPacket Q p.q38

/-- A packet of a custom type: a driver program interprets it, the standard program does not accept it (R383, R386, R402). -/
def execCustomPacket (ty : BitVec 8) (p : Packet) (s : State) : Out :=
  match s.cur with
  | .queue q => match s.queue? q with
    | none => .fault .noIssuer
    | some Q => .next (s.oddPacket { Q with ridx := Q.pktIdx } (toBytesLE 64 (p.toBits ty).toNat))
  | .front | .group _ _ | .oper _ _ => .fault .noIssuer

/-! ### The frame of a program's instruction (R394, R401) -/

/-- The queue whose program executes. -/
def progStep (s : State) (k : Queue → State) : Out :=
  match s.cur with
  | .queue q => match s.queue? q with
    | none => .fault .noIssuer
    | some Q => .next (k Q)
  | .front | .group _ _ | .oper _ _ => .fault .noIssuer

/-- The program goes on at an instruction; the step counts (R401). -/
def State.progAt (s : State) (Q : Queue) (pc : Nat) (f : Queue → Queue) : State :=
  s.modQueue Q.n fun (x : Queue) => { f x with pc := pc, steps := x.steps + 1 }
/-- The program goes on with the next instruction. -/
def State.progNext (s : State) (Q : Queue) (f : Queue → Queue) : State := s.progAt Q (Q.pc + 1) f

/-! ### Arithmetic (R396) -/

/-- Write a result to wD (R396). -/
def qAlu (d : BitVec 4) (f : Queue → DWord) (s : State) : Out :=
  progStep s fun Q => s.progNext Q fun x => x.putW d.toNat (f Q)
/-- Form I: wA and an immediate. -/
def qImm (d a : BitVec 4) (f : DWord → DWord) (s : State) : Out := qAlu d (fun Q => f (Q.getW a.toNat)) s
/-- Form R: wA and wB. -/
def qReg (d a b : BitVec 4) (f : DWord → DWord → DWord) (s : State) : Out :=
  qAlu d (fun Q => f (Q.getW a.toNat) (Q.getW b.toNat)) s
/-- 1 for true, 0 for false. -/
def boolQ (b : Bool) : DWord := if b then 1 else 0

/-- MOVQ (R396). -/
def execMovq (d : BitVec 4) (i : BitVec 18) (s : State) : Out := qAlu d (fun _ => i.signExtend 64) s
/-- ADDQ (R396). -/
def execAddq (d a : BitVec 4) (i : BitVec 18) (s : State) : Out := qImm d a (· + i.signExtend 64) s
/-- ANDQ (R396). -/
def execAndq (d a : BitVec 4) (i : BitVec 18) (s : State) : Out := qImm d a (· &&& i.setWidth 64) s
/-- ORQ (R396). -/
def execOrq (d a : BitVec 4) (i : BitVec 18) (s : State) : Out := qImm d a (· ||| i.setWidth 64) s
/-- SHLQ (R396). -/
def execShlq (d a : BitVec 4) (i : BitVec 18) (s : State) : Out := qImm d a (· <<< i.toNat) s
/-- SHRQ (R396). -/
def execShrq (d a : BitVec 4) (i : BitVec 18) (s : State) : Out := qImm d a (· >>> i.toNat) s
/-- ADDR (R396). -/
def execAddr (d a b : BitVec 4) (s : State) : Out := qReg d a b (· + ·) s
/-- SUBR (R396). -/
def execSubr (d a b : BitVec 4) (s : State) : Out := qReg d a b (· - ·) s
/-- ANDR (R396). -/
def execAndr (d a b : BitVec 4) (s : State) : Out := qReg d a b (· &&& ·) s
/-- ORR (R396). -/
def execOrr (d a b : BitVec 4) (s : State) : Out := qReg d a b (· ||| ·) s
/-- XORR (R396). -/
def execXorr (d a b : BitVec 4) (s : State) : Out := qReg d a b (· ^^^ ·) s
/-- SEQR (R396). -/
def execSeqr (d a b : BitVec 4) (s : State) : Out := qReg d a b (fun x y => boolQ (x == y)) s
/-- SLTR (R396). -/
def execSltr (d a b : BitVec 4) (s : State) : Out := qReg d a b (fun x y => boolQ (x.slt y)) s
/-- SLTUR (R396). -/
def execSltur (d a b : BitVec 4) (s : State) : Out := qReg d a b (fun x y => boolQ (x.ult y)) s

/-! ### Windows (R393, R394, R397) -/

/-- Bytes of a window. -/
def Queue.winSize (Q : Queue) (w : Nat) : Nat :=
  if w < 2 then 256 else match Q.wins[w - 2]? with
    | some x => x.size
    | none => 0
/-- Byte address in a window: OFF, or wX + OFF kept in the window and aligned (R397). -/
def Queue.winAddr (Q : Queue) (x : BitVec 4) (ix : Bool) (w : BitVec 3) (o : BitVec 14) (n : Nat) : Nat :=
  if ix then
    let a := ((Q.getW x.toNat).toNat + o.toNat) % Q.winSize w.toNat
    a - a % n
  else o.toNat

/-- Bytes of window 0; those beyond the packet's slots read zero (R394). -/
def Queue.win0 (Q : Queue) (a n : Nat) : Nat := fieldAt Q.pkt a n

/-- A queue's port for its program's windows: relaxed accesses at .sys in its context (R394). -/
def Queue.port (Q : Queue) : Port := ⟨.last (Q.die.getD 0), Q.die.getD 0, Q.ctx, none⟩

/-- LDB to LDD (R397): a faulting access stalls the queue and executes again (R401). -/
def qLoad (n : Nat) (d x : BitVec 4) (ix : Bool) (w : BitVec 3) (o : BitVec 14) (s : State) : Out :=
  progStep s fun Q =>
    let a := Q.winAddr x ix w o n
    if w == 0 then s.progNext Q fun y => y.putW d.toNat (BitVec.ofNat 64 (Q.win0 a n))
    else if w == 1 then s.progNext Q fun y => y.putW d.toNat (BitVec.ofNat 64 (ofBytesLE (spGetList 0 Q.win1 a n)))
    else match Q.wins[w.toNat - 2]? with
      | none => s.queueError Q.n 6 0 Q.pktIdx
      | some win => match engRead Q.port ((List.range n).map fun i => some ((win.base.toNat + a + i) % 2 ^ 64)) s with
        | .ok bs s1 => s1.progNext Q fun y => y.putW d.toNat (BitVec.ofNat 64 (ofBytesLE bs))
        | .fault va wi => s.qFault Q 9 none va wi
        | .uncorr pa => (s.detect 0 pa).freeError Q.n Q.pktIdx
        | .wait s1 => s1
/-- LDB (R397). -/
def execLdb (d x : BitVec 4) (ix : Bool) (w : BitVec 3) (o : BitVec 14) (s : State) : Out := qLoad 1 d x ix w o s
/-- LDH (R397). -/
def execLdh (d x : BitVec 4) (ix : Bool) (w : BitVec 3) (o : BitVec 14) (s : State) : Out := qLoad 2 d x ix w o s
/-- LDW (R397). -/
def execLdw (d x : BitVec 4) (ix : Bool) (w : BitVec 3) (o : BitVec 14) (s : State) : Out := qLoad 4 d x ix w o s
/-- LDD (R397). -/
def execLdd (d x : BitVec 4) (ix : Bool) (w : BitVec 3) (o : BitVec 14) (s : State) : Out := qLoad 8 d x ix w o s

/-- STB to STD (R397): the low bytes of wD; window 0 and a read-only window are refused at the program's check (R400). -/
def qStoreWin (n : Nat) (d x : BitVec 4) (ix : Bool) (w : BitVec 3) (o : BitVec 14) (s : State) : Out :=
  progStep s fun Q =>
    let a := Q.winAddr x ix w o n
    let bs := toBytesLE n (Q.getW d.toNat).toNat
    if w == 0 then s.queueError Q.n 6 0 Q.pktIdx
    else if w == 1 then s.progNext Q fun y => { y with win1 := spSetList 0 y.win1 a bs }
    else match Q.wins[w.toNat - 2]? with
      | none => s.queueError Q.n 6 0 Q.pktIdx
      | some win =>
        match engWrite Q.port 0 0 (bs.zipIdx.map fun (b, i) => ((win.base.toNat + a + i) % 2 ^ 64, b)) s with
        | .ok _ s1 => s1.progNext Q id
        | .fault va wi => s.qFault Q 9 none va wi
        | .uncorr pa => (s.detect 0 pa).freeError Q.n Q.pktIdx
        | .wait s1 => s1
/-- STB (R397). -/
def execStb (d x : BitVec 4) (ix : Bool) (w : BitVec 3) (o : BitVec 14) (s : State) : Out := qStoreWin 1 d x ix w o s
/-- STH (R397). -/
def execSth (d x : BitVec 4) (ix : Bool) (w : BitVec 3) (o : BitVec 14) (s : State) : Out := qStoreWin 2 d x ix w o s
/-- STW (R397). -/
def execStw (d x : BitVec 4) (ix : Bool) (w : BitVec 3) (o : BitVec 14) (s : State) : Out := qStoreWin 4 d x ix w o s
/-- STD (R397). -/
def execStd (d x : BitVec 4) (ix : Bool) (w : BitVec 3) (o : BitVec 14) (s : State) : Out := qStoreWin 8 d x ix w o s

/-! ### Branches (R398) -/

/-- Instruction `k` + off. -/
def qTarget (k : Nat) (off : BitVec 18) : Nat := ((k : Int) + off.toInt).toNat

/-- BZ (R398). -/
def execBz (a : BitVec 4) (i : BitVec 18) (s : State) : Out :=
  progStep s fun Q => s.progAt Q (if Q.getW a.toNat == 0 then qTarget Q.pc i else Q.pc + 1) id
/-- BNZ (R398). -/
def execBnz (a : BitVec 4) (i : BitVec 18) (s : State) : Out :=
  progStep s fun Q => s.progAt Q (if Q.getW a.toNat == 0 then Q.pc + 1 else qTarget Q.pc i) id
/-- JMP (R398). -/
def execJmp (i : BitVec 18) (s : State) : Out := progStep s fun Q => s.progAt Q (qTarget Q.pc i) id
/-- LOOP (R398). -/
def execQprogLoop (c : BitVec 6) (i : BitVec 18) (s : State) : Out :=
  progStep s fun Q =>
    let n := spGet 0 Q.loops Q.pc
    if n < c.toNat then s.progAt Q (qTarget Q.pc i) fun x => { x with loops := spSet 0 x.loops Q.pc (n + 1) }
    else s.progNext Q fun x => { x with loops := spSet 0 x.loops Q.pc 0 }

/-! ### Actions (R399) -/

/-- LNCH (R387, R399): the ninth of a packet is BADPKT (R375). -/
def execLnch (d a : BitVec 4) (i : BitVec 3) (s : State) : Out :=
  progStep s fun Q => match s.startLaunch Q (Q.getW a.toNat).toNat i.toNat (Q.getW d.toNat) with
    | .started s1 => s1.progNext Q id
    | .bad s1 => s1.badPacket Q
    | .stall s1 => s1

/-- XFER (R399): copies wB bytes from wA to wD. -/
def execXfer (d a b : BitVec 4) (s : State) : Out :=
  progStep s fun Q =>
    let (dst, src, len) := (Q.getW d.toNat, Q.getW a.toNat, Q.getW b.toNat)
    if copyBad dst src len then s.badPacket Q else (s.queueCopy Q dst src len).progNext Q id

/-- A signal write of a program, with release at .sys (R399). -/
def qSignal (store : Bool) (a b : BitVec 4) (s : State) : Out :=
  progStep s fun Q =>
    let va := Q.getW a.toNat
    let v := Q.getW b.toNat
    if va.toNat % 8 != 0 then s.badPacket Q
    else s.signalAt Q (if store then .write else .rmw) va fun s1 =>
      (if store then s1.qStore Q true va.toNat v Q.pktIdx else s1.qAdd Q true va.toNat v Q.pktIdx).progNext Q id
/-- SIGA (R399). -/
def execSiga (a b : BitVec 4) (s : State) : Out := qSignal false a b s
/-- SIGW (R399). -/
def execSigw (a b : BitVec 4) (s : State) : Out := qSignal true a b s

/-- The signals a mask names: registers w1 to w15 that hold an address (R399). -/
def Queue.maskSignals (Q : Queue) (m : BitVec 15) : List DWord :=
  (((List.range 15).filter fun k => m.getLsbD k).map fun k => Q.getW (k + 1)).filter (· != 0)

/-- WALL and WANY (R399). -/
def qWait (any : Bool) (d : BitVec 4) (m : BitVec 15) (s : State) : Out :=
  progStep s fun Q =>
    let sigs := Q.maskSignals m
    if sigs.any fun a => a.toNat % 8 != 0 then s.badPacket Q
    else s.evalWait Q ⟨sigs, any, d.toNat⟩ fun r s1 => s1.settleWait Q d.toNat r
/-- WALL (R399). -/
def execWall (d : BitVec 4) (m : BitVec 15) (s : State) : Out := qWait false d m s
/-- WANY (R399). -/
def execWany (d : BitVec 4) (m : BitVec 15) (s : State) : Out := qWait true d m s

/-- CANX (R375, R399): the ID of a level is a 32-bit ID zero-extended, as in CANCEL. -/
def execCanx (a : BitVec 4) (l : BitVec 2) (s : State) : Out :=
  progStep s fun Q =>
    let id := Q.getW a.toNat
    if l != 0 && decide (2 ^ 32 ≤ id.toNat) then s.badPacket Q else (s.queueCancel Q l.toNat id).progNext Q fun x => x

/-- CFGD (R399, R403). -/
def execCfgd (a : BitVec 4) (s : State) : Out :=
  progStep s fun Q =>
    let va := Q.getW a.toNat
    if va.toNat % 16 != 0 then s.badPacket Q else s.delta Q va.toNat fun s1 => s1.progNext Q id

/-- FIN (R399): the completion signal is a multiple of 8, or 0 for none. -/
def execFin (a : BitVec 4) (s : State) : Out :=
  progStep s fun Q =>
    let sig := Q.getW a.toNat
    if sig.toNat % 8 != 0 then s.badPacket Q else s.finPacket Q sig

/-- QERR (R390, R399). -/
def execQerr (a : BitVec 4) (c : BitVec 8) (s : State) : Out :=
  progStep s fun Q => s.queueError Q.n c.toNat (Q.getW a.toNat) Q.pktIdx

end Sys2Proof.Machine
end

