-- ==== Sys2Proof/Machine/Queues.lean ====
section
/-! DEFINITION. Queues and their slots: QCMD (R377, R378, R406), the check of a queue program (R393, R394, R400), mapping into
slots and leaving them (R381). -/

namespace Sys2Proof.Machine

open Sys2Proof

/-! ### QCMD (R377) -/

/-- Physical address of a queue's descriptor (R377, R378). -/
def State.queueDesc (s : State) (q : Nat) : Nat := s.pa52 (bitsAt s.regs.qtbase.toNat 24 28 * 2 ^ 24 + 512 * q)

/-- A context descriptor obeys R406 and is enabled. -/
def State.ctxOk (s : State) (ctx : Nat) : Bool :=
  let bs := s.physBytes (s.ctxDesc ctx) 0x100
  let f (o n : Nat) : Nat := fieldAt bs o n
  bitsAt (f 8 4) 0 1 == 1 && bitsAt (f 8 4) 2 30 == 0 && f 0 8 % 4096 == 0 && bitsAt (f 0x0C 4) 16 16 == 0 &&
    f 0x10 8 % 4 == 0 && f 0x18 8 % 65536 == 0 && f 0x20 8 % 65536 == 0 && ((bs.drop 0x28).take 88).all (· == 0) &&
    (List.range 16).all fun i => f (0x80 + 8 * i) 8 % 4096 == 0

/-- The queue of a descriptor (R378), not yet enabled. -/
def queueOf (q : Nat) (bs : List Byte) : Queue :=
  { n := q, enabled := false, stopping := false, ring := BitVec.ofNat 64 (fieldAt bs 0 8),
    logn := bitsAt (fieldAt bs 8 4) 0 5, cls := bitsAt (fieldAt bs 8 4) 8 2, ctx := fieldAt bs 0x0C 4,
    notify := BitVec.ofNat 64 (fieldAt bs 0x10 8), prog := BitVec.ofNat 64 (fieldAt bs 0x18 8), ridx := 0, widx := 0,
    error := none, die := none, slot := 0, held := false, passed := 0, readyFrom := none, mappedAt := 0, idleSince := 0,
    wake := false, wakePkt := none, taken := false, code := [], wins := [], w := [],
    pc := 0, loops := [], win1 := [], pkt := [], pktIdx := 0, busy := false, steps := 0, launches := 0, lrec := none, lfail := none,
    joined := false, wait := none, woken := false, wakeBy := 0, fault := none, refetch := 0, refetchAt := 0, started := [] }

/-- A descriptor obeys R378 and its context R406. -/
def State.descOk (s : State) (bs : List Byte) : Bool :=
  let f (o n : Nat) : Nat := fieldAt bs o n
  f 0 8 % 4096 == 0 && decide (4 ≤ bitsAt (f 8 4) 0 5 ∧ bitsAt (f 8 4) 0 5 ≤ 20) && bitsAt (f 8 4) 5 3 == 0 &&
    bitsAt (f 8 4) 10 22 == 0 && decide (f 0x0C 4 < 4096) && s.ctxOk (f 0x0C 4) && f 0x10 8 % 4096 == 0 &&
    f 0x18 8 % 128 == 0 && ((bs.drop 0x20).take 32).all (· == 0)

/-- Put a queue in the place of one with its number. -/
def State.setQueue (s : State) (Q : Queue) : State := { s with queues := s.queues.filter (·.n != Q.n) ++ [Q] }

/-- The command that QCMD executes, and its queue; none while BUSY is 0. -/
def State.setQcmd (s : State) (v : Option (Nat × Nat)) : State := { s with regs := { s.regs with qcmd := v } }
/-- Another command is executing: the write is ignored (R377). -/
def State.qcmdBusy (s : State) (cmd q : Nat) : Bool := s.regs.qcmd.isSome && s.regs.qcmd != some (cmd, q)

/-- The command waits behind a record of its queue: BUSY stays 1 until the record is answered (log entry 29). -/
def State.qcmdWaits (s : State) (q : Nat) : Bool := match s.queue? q with
  | some Q => Q.fault.isSome
  | none => false

/-- A command's read of WIDX with acquire at .sys; behind a fault the command stays busy. -/
def State.qcmdWidx (s : State) (cmd : Nat) (Q : Queue) (k : Nat → State → State) : State :=
  let busy := some (cmd, Q.n)
  match s.qRead Q Q.notify.toNat 8 with
  | .ok bs s1 => (k (ofBytesLE bs) s1).setQcmd none
  | .fault a w => if w.kind == 7 then (s.qFault Q 10 none a w).setQcmd none else (s.qFault Q 10 none a w).setQcmd busy
  | .uncorr pa => ((s.detect 0 pa).freeError Q.n Q.ridx).setQcmd none
  | .wait s1 => s1.setQcmd busy

/-- The queue of a number is enabled. -/
def State.queueOn (s : State) (n : Nat) : Bool := match s.queue? n with
  | some Q => Q.enabled
  | none => false

/-- QCMD_ENABLE (R377, R378): ignored with no image running (R457) and for a queue that is enabled. -/
def execQcmdEnable (q : BitVec 15) (s : State) : Out :=
  let n := q.toNat
  if s.qcmdBusy 1 n || s.regs.fwstat != 2 || s.queueOn n then .next s
  else if s.qcmdWaits n then .next (s.setQcmd (some (1, n)))
  else
    let bs := s.physBytes (s.queueDesc n) 64
    let s1 := s.setQueue (queueOf n bs)
    if !s.descOk bs then .next ((s1.queueError n 0x0A 0 0).setQcmd none)
    else .next (s1.qcmdWidx 1 (queueOf n bs) fun widx s2 =>
      let s3 := s2.zeroRange (s2.queueDesc n + 0x40) 0x1C0
      let Q : Queue := { queueOf n bs with enabled := true, ridx := widx, widx := widx, idleSince := s3.clock }
      ((s3.setQueue Q).qStore Q true (Q.notify.toNat + 0x40) (BitVec.ofNat 64 widx) noPacket).qStore Q false
        (Q.notify.toNat + 0x80) 0 noPacket)

/-- A queue is disabled: it leaves its slot, and an ERROR stands until a Reset or an Enable clears it (R377); the history of a context that has been destroyed is cleared (R369; log entry 32). -/
def State.finishDisable (s : State) (Q : Queue) : State :=
  ((s.unwatch Q.n).modQueue Q.n fun (x : Queue) => { x with
    enabled := false, stopping := false, taken := false, die := none, wake := false }).contextWatch

/-- Nothing a queue has started is incomplete. -/
def Queue.idle (Q : Queue) : Bool := Q.started.isEmpty && !Q.busy

/-- QCMD_DISABLE (R377): packet starts stop; a queue with nothing started is disabled at once. -/
def execQcmdDisable (q : BitVec 15) (s : State) : Out :=
  if s.regs.qcmd.isSome then .next s
  else match s.queue? q.toNat with
    | none => .next s
    | some Q =>
      if !Q.enabled then .next s
      else if Q.idle && Q.die.isNone then .next (s.finishDisable Q)
      else .next (s.modQueue Q.n fun (x : Queue) => { x with stopping := true })

/-- The error word is zeroed. -/
def State.clearErr (s : State) (Q : Queue) : State := s.qStore Q false (Q.notify.toNat + 0x80) 0 noPacket

/-- Window 1 of a queue without a slot is zeroed where it was saved (R381, R394). -/
def State.clearWin1 (s : State) (Q : Queue) : State :=
  if Q.die.isNone then s.zeroRange (s.queueDesc Q.n + 0x100) 256 else s

/-- QCMD_RESET (R377, R394): ERROR is cleared, unstarted packets are dropped, window 1 and the error word are zeroed. A queue that
failed its enable has no packets. -/
def execQcmdReset (q : BitVec 15) (s : State) : Out :=
  let n := q.toNat
  if s.qcmdBusy 3 n then .next s
  else match s.queue? n with
    | none => .next s
    | some Q =>
      if !Q.enabled then
        let s1 := (s.modQueue n fun (x : Queue) => { x with error := none }).setQcmd none
        .next (if Q.error.isSome && Q.notify.toNat % 4096 == 0 then s1.clearErr Q else s1)
      else if s.qcmdWaits n then .next (s.setQcmd (some (3, n)))
      else .next (s.qcmdWidx 3 Q fun widx s1 =>
        let s2 := (s1.modQueue n fun (x : Queue) => { x with
          error := none, ridx := widx, widx := widx, win1 := [], refetch := 0, wake := false }).clearWin1 Q
        (s2.qStore Q true (Q.notify.toNat + 0x40) (BitVec.ofNat 64 widx) noPacket).clearErr Q)

/-! ### The check of a program (R400) -/

/-- Size and access of a window: 0 absent, 1 read-only, 2 read-write (R393, R394). -/
def winOf (wins : List QWin) (w : Nat) : Nat × Nat :=
  if w = 0 then (256, 1) else if w = 1 then (256, 2) else match wins[w - 2]? with
    | some x => (x.size, x.acc)
    | none => (0, 0)

/-- A memory instruction's window rules (R400). -/
def memOk (wins : List QWin) (store : Bool) (n : Nat) (ix : Bool) (w : BitVec 3) (o : BitVec 14) : Bool :=
  let (size, acc) := winOf wins w.toNat
  acc != 0 && (!store || acc == 2) && o.toNat % n == 0 && (ix || decide (o.toNat + n ≤ size))

/-- A forward branch from `k` stays in a program of `n` instructions (R400). -/
def jumpOk (n k : Nat) (i : BitVec 18) : Bool := decide (1 ≤ i.toInt) && decide (qTarget k i < n)

/-- The rules of R400 that concern one instruction. -/
def wordOk (wins : List QWin) (n k : Nat) : Instr → Bool
  | .shlq _ _ i => decide (i.toNat ≤ 63)
  | .shrq _ _ i => decide (i.toNat ≤ 63)
  | .bz _ i => jumpOk n k i
  | .bnz _ i => jumpOk n k i
  | .jmp i => jumpOk n k i
  | .qprogLoop _ i => decide (i.toInt ≤ -1) && decide (0 ≤ (k : Int) + i.toInt)
  | .ldb _ _ ix w o => memOk wins false 1 ix w o
  | .ldh _ _ ix w o => memOk wins false 2 ix w o
  | .ldw _ _ ix w o => memOk wins false 4 ix w o
  | .ldd _ _ ix w o => memOk wins false 8 ix w o
  | .stb _ _ ix w o => memOk wins true 1 ix w o
  | .sth _ _ ix w o => memOk wins true 2 ix w o
  | .stw _ _ ix w o => memOk wins true 4 ix w o
  | .std _ _ ix w o => memOk wins true 8 ix w o
  | _ => true

/-- The loop body a LOOP closes: target and its own index. -/
def bodyOf : Option Instr × Nat → Option (Nat × Nat)
  | (some (.qprogLoop _ i), k) => some (qTarget k i, k)
  | _ => none
/-- A branch: its index and target. -/
def jumpOf : Option Instr × Nat → Option (Nat × Nat)
  | (some (.bz _ i), k) => some (k, qTarget k i)
  | (some (.bnz _ i), k) => some (k, qTarget k i)
  | (some (.jmp i), k) => some (k, qTarget k i)
  | _ => none
/-- FIN or QERR. -/
def endsProg : Option Instr → Bool
  | some (.fin _) => true
  | some (.qerr _ _) => true
  | _ => false

/-- Loop bodies nest, and a branch leaves one only to the instruction after its LOOP (R400). -/
def bodiesOk (bodies jumps : List (Nat × Nat)) : Bool :=
  (bodies.all fun a => bodies.all fun b => !(decide (a.1 < b.1 ∧ b.1 ≤ a.2 ∧ a.2 < b.2))) &&
    jumps.all fun j => bodies.all fun b => !(decide (b.1 ≤ j.1 ∧ j.1 ≤ b.2)) || decide (j.2 ≤ b.2 + 1)

/-- The code passes R400. -/
def codeOk (code : List Word) (wins : List QWin) : Bool :=
  let is := (code.map decodeQ).zipIdx
  (is.all fun x => match x.1 with
    | some i => wordOk wins code.length x.2 i
    | none => false) &&
    bodiesOk (is.filterMap bodyOf) (is.filterMap jumpOf) && endsProg ((code.map decodeQ).getLast?.getD none)

/-- Window entry `i` of an image's header (R393). -/
def winAt (bs : List Byte) (i : Nat) : QWin :=
  let acc := fieldAt bs (0x19 + 16 * i) 1
  ⟨BitVec.ofNat 64 (fieldAt bs (0x10 + 16 * i) 8), if acc = 0 then 0 else 2 ^ (fieldAt bs (0x18 + 16 * i) 1 % 32), acc⟩

/-- Window entry `i` obeys R393, R394 and R400. -/
def winOk (bs : List Byte) (i : Nat) : Bool :=
  let base := fieldAt bs (0x10 + 16 * i) 8
  let lg := fieldAt bs (0x18 + 16 * i) 1
  let acc := fieldAt bs (0x19 + 16 * i) 1
  fieldAt bs (0x1A + 16 * i) 6 == 0 &&
    (if acc = 0 then base == 0 && lg == 0 else decide (acc ≤ 2 ∧ 6 ≤ lg ∧ lg ≤ 20) && base % 2 ^ lg == 0)

/-- The header of an image obeys R393. -/
def progHeaderOk (bs : List Byte) : Bool :=
  fieldAt bs 0 4 == 0x51424331 && decide (1 ≤ fieldAt bs 4 2 ∧ fieldAt bs 4 2 ≤ 256) && fieldAt bs 6 10 == 0 &&
    fieldAt bs 0x70 16 == 0 && (List.range 6).all (winOk bs)

/-! ### Slots (R381) -/

/-- Slots of a die in use. -/
def State.slotsUsedOn (s : State) (die : Nat) : Nat := (s.queues.filter fun x => x.die == some die).length

/-- The lowest slot of a die that no queue has. -/
def State.freeSlot (s : State) (die : Nat) : Nat :=
  ((List.range 512).find? fun k => !s.queues.any fun x => x.die == some die && x.slot == k).getD 0

/-- A queue enters a slot with a checked program. -/
def State.enterSlot (s : State) (Q : Queue) (die : Nat) (code : List Word) (wins : List QWin) : State :=
  s.modQueue Q.n fun (x : Queue) => { x with
    die := some die, slot := s.freeSlot die, held := false, passed := 0, readyFrom := none, wake := false, taken := false, mappedAt := s.clock, idleSince := s.clock, code := code, wins := wins
    win1 := spSetList 0 [] 0 (s.physBytes (s.queueDesc Q.n + 0x100) 256) }

/-- Read and check a driver program for a queue that enters a slot: a failure is BADPROG (R393, R400). -/
def State.mapProgram (s : State) (Q : Queue) (die : Nat) : State :=
  let Qd := { Q with die := some die }
  s.qWith Qd Q.prog.toNat 0x80 fun hd s1 =>
    if !progHeaderOk hd then (s1.enterSlot Q die [] []).queueError Q.n 6 0 Q.ridx
    else s1.qWith Qd ((Q.prog.toNat + 0x80) % 2 ^ 64) (4 * fieldAt hd 4 2) fun body s2 =>
      let code := (List.range (fieldAt hd 4 2)).map fun k => (BitVec.ofNat 32 (fieldAt body (4 * k) 4) : Word)
      let wins := (List.range 6).map (winAt hd)
      if codeOk code wins then s2.enterSlot Q die code wins else (s2.enterSlot Q die [] []).queueError Q.n 6 0 Q.ridx

/-- QUEUE_MAP: the scheduler maps a waiting queue into a free slot of a die (R381, R400). -/
def execQueueMap (q die : Nat) (s : State) : Out :=
  match s.queue? q with
  | none => .next s
  | some Q =>
    if !Q.enabled || Q.die.isSome || Q.error.isSome || Q.fault.isSome || !Q.wake || 4 ≤ die || 512 ≤ s.slotsUsedOn die then .next s
    else if Q.prog == 0 then .next (s.enterSlot Q die [] [])
    else .next (s.mapProgram Q die)

/-- A queue's wake waits for its turn in its flow, or, where it is still to be sent, for room in it too (R442). -/
def State.wakeHeld (s : State) (Q : Queue) : Bool :=
  let dst := Config.schedulerDie % 4
  if Q.wakePkt.isSome then s.behindWake Q.wakePkt
  else s.flowFull (s.wakeDie Q) dst 3 || s.behindWake (s.nextPkt (s.wakeDie Q) dst 3)

/-- WIDX_WAKE: a write has been performed at the WIDX of an enabled queue without a slot (R381); wakes of a flow arrive in order
(R442). -/
def execWidxWake (q : Nat) (s : State) : Out :=
  match s.queue? q with
  | none => .next s
  | some Q =>
    if !Q.enabled || Q.die.isSome || Q.error.isSome || s.wakeHeld Q then .next s
    else match s.walkPa Q.ctx Q.notify.toNat with
      | none => .next s
      | some pa =>
        let s1 := s.modQueue q fun (x : Queue) => { x with wakePkt := none }
        if s.physNat pa 8 == Q.ridx then .next s1 else .next (s1.modQueue q fun (x : Queue) => { x with wake := true })

/-- A mapped queue has had no packet ready to start for 2^20 cycles (R381). -/
def Queue.dormant (Q : Queue) (clock : Nat) : Bool := Q.readyFrom.isNone && !Q.held && decide (Q.idleSince + 2 ^ 20 ≤ clock)
/-- A mapped queue may lose its slot to a waiter of a class (R381). -/
def Queue.yields (Q : Queue) (cls clock : Nat) : Bool := decide (Q.cls ≤ cls ∧ Q.mappedAt + 2 ^ 22 ≤ clock)

/-- QUEUE_SLOT_RECLAIM: with no free slot on a die, a dormant queue is taken, or else the longest holder of the lowest class
that may be (R381). -/
def execQueueSlotReclaim (waiter holder : Nat) (s : State) : Out :=
  match s.queue? waiter, s.queue? holder with
  | some W, some H =>
    let on := s.queues.filter fun x => x.die == H.die && !x.taken
    let ys := on.filter fun x => x.yields W.cls s.clock
    let best := ys.all fun x => decide (H.cls < x.cls) || (H.cls == x.cls && decide (H.mappedAt ≤ x.mappedAt))
    let fits := if on.any fun x => x.dormant s.clock then H.dormant s.clock else H.yields W.cls s.clock && best
    if W.enabled && W.die.isNone && W.wake && H.die.isSome && !H.taken &&
        decide (512 ≤ s.slotsUsedOn (H.die.getD 0)) && fits then
      .next (s.modQueue holder fun (x : Queue) => { x with taken := true })
    else .next s
  | _, _ => .next s

/-- Save a queue's program state in its descriptor (R378, R381); the layout of its first 192 bytes is not stated: free
values. -/
def State.saveQueue (s : State) (Q : Queue) : State :=
  let bytes : List Byte := (List.range 24).flatMap fun k => toBytesLE 8 (Config.freeDWord (s.freeCtr + k)).toNat
  let s1 := { s with freeCtr := s.freeCtr + 24 }.ownWrite (s.queueDesc Q.n + 0x40) bytes
  s1.ownWrite (s.queueDesc Q.n + 0x100) (spGetList 0 Q.win1 0 256)

/-- QUEUE_UNMAP: at a packet boundary or a wait a taken queue leaves its slot; a disabled one leaves once nothing it started is
incomplete (R377, R381). -/
def execQueueUnmap (q : Nat) (s : State) : Out :=
  match s.queue? q with
  | none => .next s
  | some Q =>
    if Q.stopping && Q.idle then .next (s.finishDisable Q)
    else if Q.die.isSome && Q.taken && !Q.held && (!Q.busy || Q.wait.isSome) then
      .next ((s.saveQueue Q).modQueue q fun (x : Queue) => { x with
        die := none, taken := false, readyFrom := none, passed := 0, wake := decide (x.ridx < x.widx), refetch := 0 })
    else .next s

end Sys2Proof.Machine
end

