-- ==== Sys2Proof/Machine/Launch.lean ====
section
/-! DEFINITION. The course of a launch: how many units it runs (R280 to R284), its completion and status (R246, R285, R365, R366),
the firmware policy's answer (R371), deadlines (R367), aborts through its signal (R376), bind-off and promotion (R281 to
R284). -/

namespace Sys2Proof.Machine

open Sys2Proof

/-! ### Counts of units -/

/-- Units of a grid. -/
def Launch.grid (L : Launch) : Nat := L.gx.toNat * L.gy.toNat * L.gz.toNat
/-- T, once bind-off has taken place (R280). -/
def Launch.count (L : Launch) : Nat := L.trueCount.getD 0
/-- Tail policy 1 (R284). -/
def Launch.noTail (L : Launch) : Bool := bitsAt L.pmode.toNat 3 1 == 1
/-- Squash policy 1 (R279). -/
def Launch.squash (L : Launch) : Bool := bitsAt L.pmode.toNat 2 1 == 1

/-- How many units of a launch that is not pipelined start, as far as it stands (R276, R280, R281, R284). -/
def Launch.limit (L : Launch) : Nat :=
  if L.shape == 0 then L.grid
  else if !L.bound then L.pred
  else if L.boundAtStart then min L.count L.maxc.toNat
  else if L.pred < L.count then (if L.noTail then L.pred else min L.count L.maxc.toNat)
  else max L.cast.toNat L.count

/-- Units of a stage that have started. -/
def Launch.stageStarted (L : Launch) (k : Nat) : Nat := match L.stages[k]? with
  | some st => st.nextStart
  | none => 0

/-- Every unit that is to start has started. -/
def State.allStarted (s : State) (L : Launch) : Bool :=
  if L.stages.isEmpty then decide (L.limit ≤ s.startedOf L) else L.stages.all fun st => decide (st.units ≤ st.nextStart)

/-- A unit of a launch. -/
def Unit.ofLaunch (U : Unit) (L : Launch) : Bool := U.launch == L.id && !U.svc
/-- A unit that has left the completion counter (R246). -/
def Unit.final (U : Unit) : Bool := U.st == .retired || U.st == .frogged

/-! ### Completion (R246, R285, R365, R366) -/

/-- Reductions of a launch, and its retractable allocations on their way back, that have not been performed (R126, R372). -/
def State.launchReds (s : State) (L : Launch) : Bool :=
  s.reqs.any fun q => q.launch == L.id && (q.kind == .red || q.kind == .store) && !q.performed && !q.ext

/-- Stores of a launch's units that have not been performed: STATUS and the decrement of CSIG follow them (R354, R366). -/
def State.launchStores (s : State) (L : Launch) : Bool :=
  s.stores.any fun p => p.wts.isNone && match s.units[p.unit]? with
    | some U => U.ofLaunch L
    | none => false

/-- The launch is complete (R246): no unit counts, no reduction or store is pending, and a launch with a predicted shape is bound off,
unless it was stopped. -/
def State.launchOver (s : State) (L : Launch) : Bool :=
  (s.units.all fun U => !U.ofLaunch L || U.final) && !s.launchReds L && !s.launchStores L &&
    (L.stopped || (!L.needPolicy && s.allStarted L && (L.shape == 0 || L.bound)))

/-- A status word from CODE, DETAIL and INFO (R365). -/
def statusWord (code detail info : Nat) : Word := BitVec.ofNat 32 (code + 256 * detail + 65536 * (info % 65536))

/-- The status of a launch that ends (R285). -/
def Launch.endStatus (L : Launch) : Word :=
  let shaped := L.shape != 0 && L.bound
  if L.aborted then statusWord 5 0 0
  else if L.cancelled then statusWord 2 0 0
  else if L.uncorr then statusWord 6 0 0
  else match L.faulted with
    | some (d, i) => statusWord 3 d i
    | none =>
      if shaped && decide (L.maxc.toNat < L.count) then statusWord 3 7 0
      else if shaped && !L.boundAtStart && L.noTail && decide (L.pred < L.count) then statusWord 3 8 0
      else if shaped && !L.boundAtStart && decide (L.count < L.cast.toNat) then statusWord 4 0 0
      else statusWord 1 0 0

/-- The completion's writes: STATUS, then the decrement of CSIG with release, but for ABORTED_SIGNAL (R366). -/
def State.endWrites (s : State) (L : Launch) : State :=
  let s1 := s.sendFront .store 2 false L.queue L.ctx ((L.recAddr.toNat + 0x8C) % 2 ^ 64) (L.endStatus.setWidth 64) L.id noPacket
  if L.csig == 0 || L.aborted then s1
  else s1.sendFront .red 3 true L.queue L.ctx L.csig.toNat (BitVec.allOnes 64) L.id noPacket

/-- The watched signal of a launch holds an abort: its monitor saw it, or, where no monitor was free, its word shows it (R376). -/
def State.signalled (s : State) (L : Launch) : Bool :=
  L.csig != 0 && (L.sigAbort || (!(s.monitors.any fun m => m.who == .launch L.id) && match s.walkPa L.ctx L.csig.toNat with
    | some pa => bitsAt (s.physNat pa 8) 63 1 == 1
    | none => false))

/-- A launch whose signal holds an abort is cancelled (R376). -/
def State.abortLaunch (s : State) (L : Launch) : State := s.cancelLaunch L.id fun x => { x with aborted := true }

/-- Step 4 of a completion: the launch leaves its lowest level (R366, R374). -/
def State.leaveChain (s : State) (L : Launch) : State :=
  let s1 := s.modDone L.id fun x => { x with leaves := false }
  match (chainOf L.graph L.phase L.job).head? with
  | some x => leaveLevel L.ctx 4 x s1
  | none => s1

/-- Step 3 of a completion is over: the packet that started the launch has completed, its signal's decrement performed, or an error
has dropped it (R366, R384, R390). A packet that itself waits for a level of the launch to end does not hold the launch there (log
entry 121). -/
def State.packetOver (s : State) (L : Launch) : Bool :=
  let waits (a : Action) : Bool := (chainOf L.graph L.phase L.job).any fun x => a == levelAct L.ctx x.1 x.2
  !(s.reqs.any fun r => r.unit == frontUnit && r.grp == L.queue && r.reg == doneTag L.packet) && match s.queue? L.queue with
    | none => true
    | some Q => Q.started.all fun p => p.index != L.packet ||
        (p.fin && (p.acts.all fun a => s.actDone a || waits a) && p.acts.any waits && !s.packetWrites L.queue L.packet)

/-- A group of the launch, on its core, may still go on to an end of its own: it neither has ended nor parks nor waits (R247). -/
def State.goesOn (s : State) (L : Launch) : Bool :=
  s.units.any fun U => U.ofLaunch L && U.st == .resident && U.groups.any fun G => match G.st with
    | .ready | .stalled | .held => true
    | .waiting _ | .parked | .ended => false

/-- A launch of which a group stopped is to be cancelled now: each other group has taken its course (R359, R425), or has gone on for
the time that R252 leaves a unit on its core (log entry 101). -/
def State.failDue (s : State) (L : Launch) : Bool := match L.failing with
  | some t => !s.goesOn L || decide (t + 2 ^ 22 ≤ s.clock)
  | none => false

/-- LAUNCH_COMPLETION: a launch of which a group stopped is cancelled once its other groups have taken their course (R359, R425). One
that is over writes STATUS and decrements CSIG; once both are performed it is done and its packet's wait ends; once its packet has
completed it leaves its lowest level (R366, R374). An abort in its signal cancels it first (R376). -/
def execLaunchCompletion (l : Nat) (s : State) : Out :=
  match s.launches[l]? with
  | none => .next s
  | some L =>
    if L.done then .next (if L.leaves && s.packetOver L then s.leaveChain L else s)
    else if L.failing.isSome then .next (if s.failDue L then s.cancelLaunch L.id fun x => x else s)
    else if !s.launchOver L then .next s
    else if L.status == 0 && !L.cancelled && !L.aborted && s.signalled L then .next (s.abortLaunch L)
    else if L.status == 0 then .next ((s.modLaunch L.id fun x => { x with status := L.endStatus }).endWrites L)
    else .next { s.modLaunch L.id fun x => { x with done := true, leaves := true } with
      monitors := s.monitors.filter fun m => m.who != .launch L.id }

/-- PACKET_COMPLETION: a packet whose program has ended and whose actions have ended completes: the release at RELS, then the
decrement of its signal (R384, R385). -/
def execPacketCompletion (q index : Nat) (s : State) : Out :=
  match s.queue? q with
  | none => .next s
  | some Q => match Q.started.find? fun p => p.index == index && p.fin with
    | none => .next s
    | some p =>
      if !(p.acts.all s.actDone) || s.packetWrites q index then .next s
      else
        let s1 := s.modQueue q fun (x : Queue) => { x with started := x.started.filter fun y => y.index != index }
        .next (if p.csig == 0 then s1 else s1.qAdd Q (p.rels != 0) p.csig.toNat (BitVec.allOnes 64) (doneTag index))

/-! ### Predicted count (R370, R371) -/

/-- The predicted count takes effect (R275, R370). -/
def Launch.takeCount (p : Nat) (L : Launch) : Launch :=
  let p1 := L.clampP p
  { L with needPolicy := false, pred := p1, nunits := if L.boundAtStart then L.nunits else p1 }

/-- PREDICTOR_ANSWER: the policy's count, within 4,096 cycles of the start (R371). -/
def execPredictorAnswer (l : Nat) (count : Word) (s : State) : Out :=
  match s.launches[l]? with
  | none => .next s
  | some L =>
    if L.live && L.needPolicy && decide (s.clock < L.startedAt + 4096) then
      .next (s.modLaunch L.id (Launch.takeCount count.toNat))
    else .next s

/-- PREDICTOR_TIMEOUT: no answer came, and H is used (R371). -/
def execPredictorTimeout (l : Nat) (s : State) : Out :=
  match s.launches[l]? with
  | none => .next s
  | some L =>
    if L.live && L.needPolicy && decide (L.startedAt + 4096 ≤ s.clock) then
      .next (s.modLaunch L.id (Launch.takeCount L.hint.toNat))
    else .next s

/-! ### Deadline and signal (R367, R376) -/

/-- DEADLINE_EXPIRY: one class higher from then on (R367). -/
def execDeadlineExpiry (l : Nat) (s : State) : Out :=
  match s.launches[l]? with
  | none => .next s
  | some L => match L.deadlineAt with
    | none => .next s
    | some t =>
      if L.live && decide (t ≤ s.clock) then
        .next (s.modLaunch L.id fun x => { x with deadlineAt := none, prio := min 7 (x.prio + 1) })
      else .next s

/-- CSIG_ABORT: a negative value in the completion signal of a running launch cancels it (R376). -/
def execCsigAbort (l : Nat) (s : State) : Out :=
  match s.launches[l]? with
  | none => .next s
  | some L =>
    if !L.live || L.cancelled || L.aborted || !s.signalled L then .next s else .next (s.abortLaunch L)

/-! ### Bind-off (R280 to R284) -/

/-- Classify the units of a launch at bind-off with the count `t` (R281): a confirmed unit awaits promotion, a frogged one is
discarded and its allocations return (R283). -/
def bindUnits (L : Launch) (t : Nat) : List Nat → State → State
  | [], s => s
  | u :: us, s =>
    match s.units[u]? with
    | some U =>
      if !U.ofLaunch L || U.firm || U.final then bindUnits L t us s
      else if U.idx < t then bindUnits L t us (s.modUnit u fun V => { V with promoting := true })
      else bindUnits L t us (issueRetracts L U.idx L.retracts (s.discardUnit u .frogged))
    | none => bindUnits L t us s

/-- A saved firm unit that waits for bind-off is eligible for restore (R248). -/
def wakeShape (L : Launch) (U : Unit) : Unit :=
  if U.ofLaunch L && U.firm && U.st == .saved && U.groups.any fun G => G.st == .waiting .shpwait then { U with eligible := true }
  else U

/-- BIND_OFF: the first write that sets VALID in the shape word has been performed; T is recorded and the units are classified
(R280, R281). Units that never started and are frogged return their allocations (R372). -/
def execBindOff (l : Nat) (s : State) : Out :=
  match s.launches[l]? with
  | none => .next s
  | some L => match L.trueCount with
    | none => .next s
    | some t =>
      if L.shape == 0 || L.bound || L.stopped || !L.live || L.needPolicy then .next s
      else
        let s1 := (s.recordCount L.ctx L.khdr t).modLaunch L.id fun x => { x with bound := true, nunits := t }
        let s2 := bindUnits L t (List.range s1.units.length) s1
        let lo := max (s.startedOf L) (max L.cast.toNat t)
        let s3 := returnRange L lo (L.pred - lo) s2
        .next { s3 with units := s3.units.map (wakeShape L) }

/-! ### Promotion (R282) -/

/-- The bytes of a unit's tentative lines by virtual address; a line of an address no longer known has none. -/
def State.tentBytes (s : State) (u : Nat) : List (Nat × Byte) :=
  (s.tent.filter fun t => t.unit == u).flatMap fun t => t.data.filterMap fun d => (s.keyVa t.key d.1).map fun va => (va, d.2)

/-- Every store of a unit has written its tentative line, but for posted stores of its ports that found no room for one: these go on
as ordinary ones (R277, R282). Its loads have returned: promotion is a release (R318, R321). -/
def State.storesLanded (s : State) (u : Nat) (U : Unit) : Bool :=
  !(s.stores.any fun p => p.unit == u && p.wts.isNone) && !(s.loads.any fun p => p.unit == u) && match U.spat with
    | some c => c.ports.all fun p => match p.writes with
      | [] => true
      | w :: _ => !s.tentFits u U.ctx ((List.range p.esize).map fun i => w.va.toNat + i)
    | none => true

/-- The checked bytes of a promotion, each at the page its leaf gives; none while a byte may not be written yet. DESIGN CHOICE (log
entry 131): a page without a leaf, or one for which the reservation fails, makes the promotion wait. -/
def promoCheck (p : Port) : List (Nat × Byte) → State → Piece (List (Nat × Nat × Byte))
  | [], s => .ok [] s
  | (va, b) :: r, s =>
    match s.walkPa p.ctx va with
    | none => .wait s
    | some pa => match engAdmit p va pa s with
      | .fault a w => .fault a w
      | .uncorr a => .uncorr a
      | .wait s1 => .wait s1
      | .ok _ s1 => match promoCheck p r s1 with
        | .ok xs s2 => .ok ((va, pa, b) :: xs) s2
        | e => e

/-- The one stamp of a promotion's lines at least: past the leases on each of them, so that who acquires one value meets no older
lease on another (R282, R329). A line of another die takes a stamp past all leases there, and its own die's copy one of that die. -/
def State.promoFloor (s : State) (core ctx : Nat) (vas : List Nat) : Nat :=
  let die := dieOf core
  maxOf ([s.tcOf core, s.rhOf core] ++ ((vas.map fun va => (s.keyOf ctx va).1).dedup).map fun k =>
    if sliceDie (s.homeOf k) != die then s.dieTime die
    else match s.line? k with
      | some l => stampRead (s.epochOf die) l.rts + 1
      | none => s.fillStamp die false + 1)

/-- A promoted unit is firm; one that had ended retires, one that waits for it in SHPWAIT becomes eligible (R182, R248, R282). -/
def Unit.promoted (U : Unit) : Unit :=
  { U with
    firm := true
    promoting := false
    st := if U.st == .ended then .retired else U.st
    eligible := U.eligible || (U.st == .saved && U.groups.any fun G => G.st == .waiting .shpwait) }

/-- The write of a promotion is one the unit has seen: on its core, or wherever it is restored (R282, R327). -/
def State.sawPromotion (s : State) (u : Nat) (U : Unit) (t : Nat) (xs : List (Nat × Byte)) : State :=
  match U.st with
  | .resident => (s.tcRaise U.core t).l1Update U.core U.ctx t xs
  | .saved => s.raiseSaved u t
  | .pending | .ended | .retired | .frogged => s

/-- PROMOTION: the tentative lines of a confirmed unit become ordinary in one release step, in increasing unit index (R282). -/
def execPromotion (u : Nat) (s : State) : Out :=
  match s.units[u]? with
  | none => .next s
  | some U =>
    let earlier := s.units.any fun V => V.launch == U.launch && V.promoting && decide (V.idx < U.idx)
    if !U.promoting || earlier || !s.storesLanded u U then .next s
    else
      let p : Port := ⟨.last (dieOf U.core), dieOf U.core, U.ctx, none⟩
      match promoCheck p (s.tentBytes u) s with
      | .wait s1 => .next s1
      | .fault _ _ => .next s
      | .uncorr pa => .next (s.consume U.launch pa)
      | .ok xs s1 => match engStore p (s1.tcOf U.core) (s1.promoFloor U.core U.ctx (xs.map (·.1))) xs s1 with
        | .ok w s2 =>
          let s3 := { s2 with tent := s2.tent.filter fun t => t.unit != u }.sawPromotion u U w
            (xs.map fun (x : Nat × Nat × Byte) => (x.1, x.2.2))
          .next (s3.modUnit u Unit.promoted)
        | .uncorr pa => .next (s1.consume U.launch pa)
        | .fault _ _ => .next s1
        | .wait s2 => .next s2

end Sys2Proof.Machine
end

