-- ==== Sys2Proof/Machine/Unit.lean ====
section
/-! DEFINITION. The placer: who waits for a core (R252, R279), starting units and cohorts (R243, R251, R273, R294), retiring them
(R245, R273, R294), the stages of a pipelined launch (R274), and the end of a sleep (R105). -/

namespace Sys2Proof.Machine

open Sys2Proof

/-! ### Cores -/

/-- A core holds no unit, is part of no running configuration, and is enabled (R232, R242, R267). -/
def State.coreFree (s : State) (c : Nat) : Bool :=
  decide (c < Config.cores) && !s.disabledCores.contains c &&
    !(s.units.any fun U => (U.st == .resident && !U.svc && U.core == c) || U.regionCores.contains c)

/-- Units resident in a stage of a launch. -/
def State.stageResident (s : State) (L : Launch) (k : Nat) : Nat :=
  (s.units.filter fun U => U.ofLaunch L && U.st == .resident && U.stage == k).length

/-- Tokens in the input queue of a stage. -/
def Launch.inTokens (L : Launch) (k : Nat) : Nat := if k = 0 then 0 else match L.stages[k - 1]? with
  | some st => st.toks.length
  | none => 0

/-- A stage's next unit may start but for a free core: its tokens are there, its output has room, and a core assigned to the stage
is free (R273). -/
def State.stageReady (s : State) (L : Launch) (k : Nat) (st : Stage) : Bool :=
  decide (st.nextStart < st.units) && decide (st.cons ≤ L.inTokens k) &&
    (st.prod == 0 || decide (st.toks.length + st.resv + st.prod ≤ st.depth)) &&
    decide (s.stageResident L k < st.replicas) &&
    decide ((s.units.filter fun U => U.ofLaunch L && U.st == .resident).length < (L.stages.map (·.replicas)).sum)

/-! ### Waiters (R251, R252, R279) -/

/-- Cohort size of a launch that is not pipelined (R287). -/
def Launch.cohort (L : Launch) : Nat := 2 ^ bitsAt L.part.toNat 24 3

/-- The unit is a member of another unit's cohort (R293). -/
def Unit.mate (U V : Unit) : Bool := V.launch == U.launch && !V.svc && V.stage == U.stage && V.idx / U.cohort == U.idx / U.cohort

/-- The launch of a waiter. -/
def State.waiterLaunch (s : State) : Waiter → Option Launch
  | .saved u => (s.units[u]?).bind fun U => s.launch? U.launch
  | .pending l _ => s.launches[l]?

/-- A waiter waits for a core: an eligible saved unit, or the next pending unit or cohort of a launch or stage. -/
def State.waiting (s : State) (w : Waiter) : Bool :=
  match w with
  | .saved u => match s.units[u]? with
    | some U => U.st == .saved && U.eligible
    | none => false
  | .pending l k => match s.launches[l]? with
    | none => false
    | some L => L.live && !L.stopped && !L.needPolicy && match L.stages[k]? with
      | some st => s.stageReady L k st
      | none => k == 0 && L.stages.isEmpty && decide (s.startedOf L < L.limit)

/-- The unit a waiter stands for is firm (R276). -/
def State.waiterFirm (s : State) (w : Waiter) : Bool :=
  match w with
  | .saved u => match s.units[u]? with
    | some U => U.firm || U.promoting
    | none => false
  | .pending l _ => match s.launches[l]? with
    | some L => L.shape == 0 || L.bound || decide (s.startedOf L < L.cast.toNat)
    | none => false

/-- Priority of a waiter (R367). -/
def State.waiterPrio (s : State) (w : Waiter) : Nat := match s.waiterLaunch w with
  | some L => L.prio
  | none => 0
/-- Priority of a unit. -/
def State.unitPrio (s : State) (U : Unit) : Nat := match s.launch? U.launch with
  | some L => L.prio
  | none => 0

/-- Since when a waiter waits. -/
def State.waiterSince (s : State) (w : Waiter) : Nat :=
  match w with
  | .saved u => match s.units[u]? with
    | some U => U.waitSince
    | none => 0
  | .pending l _ => match s.launches[l]? with
    | some L => L.startedAt
    | none => 0

/-- Cores a waiter needs at once: those of its cohort (R294). -/
def State.waiterNeed (s : State) (w : Waiter) : Nat :=
  match w with
  | .saved u => match s.units[u]? with
    | some U => (s.units.filter fun V => V.st == .saved && U.mate V).length
    | none => 0
  | .pending l _ => match s.launches[l]? with
    | some L => if L.stages.isEmpty then min L.cohort (L.limit - s.startedOf L) else 1
    | none => 0

/-- All waiters. -/
def State.waiters (s : State) : List Waiter :=
  (((List.range s.units.length).map Waiter.saved) ++
    ((List.range s.launches.length).flatMap fun l => (List.range 8).map fun k => Waiter.pending l k)).filter s.waiting

/-- A saved waiter. -/
def isSaved : Waiter → Bool
  | .saved _ => true
  | .pending _ _ => false

/-- The order in which R252 serves waiters: priority, saved before pending, the longest wait. -/
def State.ahead (s : State) (a b : Waiter) : Bool :=
  let pa := s.waiterPrio a
  let pb := s.waiterPrio b
  if pa != pb then decide (pb < pa)
  else if isSaved a != isSaved b then isSaved a
  else decide (s.waiterSince a ≤ s.waiterSince b)

/-- The core's quad can take a saved unit's slabs and tasks (R347, R431). -/
def State.quadFits (s : State) (u : Nat) (U : Unit) (c : Nat) : Bool :=
  decide (s.slabUsed (quadOf c) + (U.slabs.map (·.granules)).sum ≤ 64) &&
    decide ((s.table (quadOf c)).length + (s.tasks.filter (·.unit == u)).length ≤ 32)

/-- The image of a loaded configuration. -/
def Spat.image? (c : Spat) : Image :=
  { rows := c.rows, cols := c.cols, need := c.need, ops := c.ops, queues := c.queues, stages := [], ports := c.ports, ins := [],
    outs := [] }

/-- A frozen configuration finds a region with the unit on a core, of the same variant where it has one (R269). -/
def State.frozenRegion (s : State) (u : Nat) (U : Unit) (c : Nat) : Option (Nat × Nat) :=
  match U.spat with
  | none => some (0, 0)
  | some d =>
    if d.sig.any fun g => g != s.signature (c / 32) then none
    else s.findRegion u { U with core := c, st := .resident } d.image?

/-- A core lies in the cluster of the unit's pipelined launch (R271). -/
def State.pipeHome (s : State) (U : Unit) (c : Nat) : Bool :=
  match (s.launch? U.launch).bind (·.home) with
  | some cl => clusterOf c == cl
  | none => true

/-- A unit that was pre-empted because its cluster had no region for the image it loads is restored where there is one (R234,
R267); what the image's read meets there, the load step meets again. Where no cluster has a variant any more, the load step on any
core refuses the launch. -/
def State.seekHome (s : State) (u : Nat) (U : Unit) (c : Nat) : Bool :=
  match U.seek with
  | none => true
  | some n => match s.readImage U n (c / 32) with
    | .got i _ s1 => (s1.findRegion u { U with core := c, st := .resident } i).isSome
    | .failed _ | .noVariant _ => true
    | .notHere _ => false

/-- A core suits a waiter (R249, R271, R431). -/
def State.suits (s : State) (w : Waiter) (c : Nat) : Bool :=
  match w with
  | .saved u => match s.units[u]? with
    | some U => s.quadFits u U c && s.pipeHome U c && s.seekHome u U c && (s.frozenRegion u U c).isSome
    | none => false
  | .pending l _ => match s.launches[l]? with
    | some L => match L.home with
      | some cl => clusterOf c == cl
      | none => true
    | none => false

/-- The core is promised to no other waiter that still waits (R252). -/
def State.unpromised (s : State) (w : Waiter) (c : Nat) : Bool :=
  s.promised.all fun x => x.1 != c || x.2 == w || !s.waiting x.2

/-- A waiter may take a core. -/
def State.coreFor (s : State) (w : Waiter) (c : Nat) : Bool := s.coreFree c && s.unpromised w c && s.suits w c

/-- Suitable cores are free for a waiter (R252). -/
def State.placeable (s : State) (w : Waiter) : Bool :=
  (List.range Config.clusters).any fun cl =>
    decide (s.waiterNeed w ≤ ((List.range 32).filter fun i => s.coreFor w (32 * cl + i)).length)

/-- Cores a waiter takes: as many as it needs, different, in one cluster (R294). -/
def State.coresOk (s : State) (w : Waiter) (cs : List Nat) : Bool :=
  decide (cs.length = s.waiterNeed w) && noRepeats cs && cs.all (s.coreFor w) &&
    cs.all fun c => some (clusterOf c) == cs.head?.map clusterOf

/-- An eligible saved unit of the same priority could take one of the cores: it goes before a pending one (R252). -/
def State.savedFirst (s : State) (w : Waiter) (cs : List Nat) : Bool :=
  s.waiters.any fun v => isSaved v && s.waiterPrio v == s.waiterPrio w && s.placeable v &&
    cs.any fun c => s.coreFor v c && !(s.promised.any fun x => x == (c, w))

/-- Squash policy 1 holds a tentative unit back: a firm unit of equal or higher priority waits (R279). -/
def State.squashed (s : State) (w : Waiter) : Bool :=
  !s.waiterFirm w && match s.waiterLaunch w with
    | some L => L.squash && s.waiters.any fun v => s.waiterFirm v && decide (L.prio ≤ s.waiterPrio v)
    | none => false

/-- Cores taken by a waiter are no longer promised. -/
def State.takeCores (s : State) (cs : List Nat) : State :=
  { s with promised := s.promised.filter fun x => !cs.contains x.1 }

/-! ### Starting (R243, R251, R273) -/

/-- The seeds of a group's lanes (R49). -/
def seedsOf (idx : Nat) (launch : DWord) (cm16 : Bool) (g : Nat) : Sparse Word :=
  let base := if cm16 then idx * 1024 + g / 2 * 32 + 16 * (g % 2) else idx * 1024 + g * 32
  spSetList 0 [] 0 ((List.range (if cm16 then 16 else 32)).map fun l => randSeed ((base + l) % 2 ^ 32) launch)

/-- A group at the start of its unit (R243). -/
def newGroup (pc : DWord) (cm16 : Bool) (stoch : Sparse Word) (clock : Nat) : Group :=
  { st := .ready, pc := pc, mask := if cm16 then 0xFFFF else 0xFFFFFFFF, split := [], v := [], s := [], a := [], p := [],
    stoch := stoch, sup := false, supset := ⟨0, 0, 0, 0, 0⟩, retpc := 0, retmask := 0, entryMask := 0, cause := 0, tdepth := 0,
    trapcause := 0, trapva := 0, trapmask := 0, faultrec := 0, record := none, supSince := 0, hprio := 0, openB := 1,
    sealed := [], perf := [], startedAt := clock, readyAt := 0, sleepUntil := 0, relFloor := 0, wcVals := [], wcPoll := false,
    mid := false, spatB := none, parkedOn := none, fbuf := [], readyFrom := none, passAt := 0, claim := none, tileFrom := none,
    mxCode := none, wakeBy := 0 }

/-- What a unit is started from: launch, stage, index, firmness, context, header address, partition word, header word. -/
structure UnitSpec where
  launch : DWord
  stage : Nat
  idx : Nat
  firm : Bool
  ctx : Nat
  khdr : DWord
  part : Word
  hdr : Nat
  deriving DecidableEq, Repr

/-- A unit at its start (R218, R243). -/
def newUnit (x : UnitSpec) (core clock : Nat) : Unit :=
  let cm16 := bitsAt x.hdr 15 1 == 1
  let ns := bitsAt x.hdr 9 6
  { launch := x.launch, stage := x.stage, idx := x.idx, st := .resident, svc := false, core := core, firm := x.firm, ctx := x.ctx,
    khdr := x.khdr, part := x.part, nv := bitsAt x.hdr 0 9, ns := if ns = 0 then 64 else ns, cm16 := cm16,
    nimg := bitsAt x.hdr 20 4
    groups := (List.range (bitsAt x.part.toNat 18 6)).map fun g =>
      newGroup (x.khdr + 12) cm16 (seedsOf x.idx x.launch cm16 g) clock
    spad := [], acc := [], guards := List.replicate 16 none, barArr := [], nextHandle := 1, finals := [], slabs := [],
    staged := [], copyq := [], spat := none, exitVal := 0, exitImage := 0xFFFFFFFF, firings := 0, freezes := 0, barTime := [],
    spadTime := 0, engTime := 0, lastSet := [], since := clock, waitSince := clock, eligible := false, promoting := false,
    saveAt := none, saveTC := 0, seek := none }

/-- A record of the front end's reads for a launch stands pending. -/
def State.launchStalled (s : State) (id : DWord) : Bool :=
  s.posted.any fun p => p.frec.launch == id && p.frec.source == 10 && p.frec.state == 1

/-- Read a kernel's header word at the start of a unit (R218); behind a fault nothing starts (R414). -/
def State.readHeader (s : State) (L : Launch) (khdr : DWord) : Except State (Nat × State) :=
  match s.queue? L.queue with
  | none => .error s
  | some Q => match s.qRead Q khdr.toNat 8 with
    | .ok bs s1 => .ok (ofBytesLE bs, s1)
    | .fault a w => .error (if s.launchStalled L.id then s else match s.engPost (Q.die.getD 0)
        (queueRecord Q 10 L.id a w) (.launchRec Q.n) with
      | none => s
      | some (s1, _) => s1)
    | .uncorr pa => .error (s.consume L.id pa)
    | .wait s1 => .error s1

/-- A unit comes to a core, whose time passes the acquire of its packet (R385). -/
def State.addUnit (s : State) (L : Launch) (U : Unit) : State :=
  { s with units := s.units ++ [U] }.tcRaise U.core (if L.acq then s.dieTime (dieOf U.core) else 0)

/-- Start the units of a cohort on its cores, in index order. -/
def startUnits (L : Launch) (hdr : Nat) : Nat → List Nat → State → State
  | _, [], s => s
  | i, c :: cs, s =>
    let firm := L.shape == 0 || L.bound || decide (i < L.cast.toNat)
    startUnits L hdr (i + 1) cs (s.addUnit L (newUnit ⟨L.id, 0, i, firm, L.ctx, L.khdr, L.part, hdr⟩ c s.clock))

/-- Change a stage of a launch. -/
def Launch.modStage (L : Launch) (k : Nat) (f : Stage → Stage) : Launch := { L with stages := updAt L.stages k f }

/-- The tokens a stage's next unit takes, as the bytes of its scratchpad (R273). -/
def Launch.headTokens (L : Launch) (k c : Nat) : List Byte := if k = 0 then [] else match L.stages[k - 1]? with
  | some st => (st.toks.take c).flatten
  | none => []

/-- Start the next unit of a stage: its tokens leave the input queue, room in the output queue is reserved, and the first start
fixes the launch's cluster (R271, R273). -/
def State.startStage (s : State) (L : Launch) (k : Nat) (st : Stage) (hdr c : Nat) : State :=
  let U := newUnit ⟨L.id, k, st.nextStart, true, L.ctx, st.khdr, st.part, hdr⟩ c s.clock
  let s1 := s.addUnit L (U.spadPut 0 (L.headTokens k st.cons))
  s1.modLaunch L.id fun x =>
    let y := x.modStage k fun t => { t with nextStart := t.nextStart + 1, resv := t.resv + t.prod }
    let z := if k = 0 then y else y.modStage (k - 1) fun t => { t with toks := t.toks.drop st.cons }
    { z with home := z.home <|> some (clusterOf c) }

/-- UNIT_START: the next pending unit of a launch or stage starts on a free core, or the next cohort on cores of one cluster
(R243, R251, R252, R273, R294). -/
def execUnitStart (launch stage : Nat) (cs : List Nat) (s : State) : Out :=
  let w := Waiter.pending launch stage
  match s.launches[launch]? with
  | none => .next s
  | some L =>
    if !s.waiting w || !s.coresOk w cs || s.savedFirst w cs || s.squashed w then .next s
    else match L.stages[stage]? with
      | some st => match s.readHeader L st.khdr with
        | .error s1 => .next s1
        | .ok (hdr, s1) => .next ((s1.startStage L stage st hdr (cs.headD 0)).takeCores cs)
      | none => match s.readHeader L L.khdr with
        | .error s1 => .next s1
        | .ok (hdr, s1) => .next ((startUnits L hdr (s.startedOf L) cs s1).takeCores cs)

/-! ### Retiring (R245, R273, R294) -/

/-- Every group has ended, every command has arrived and every task is final (R245). -/
def State.unitDone (s : State) (u : Nat) (U : Unit) : Bool :=
  (U.groups.all fun G => G.st == .ended) && U.copyq.isEmpty && !(s.tasks.any fun t => t.unit == u)

/-- The unit and the members of its cohort that are on cores. -/
def State.cohortOf (s : State) (u : Nat) (U : Unit) : List Nat :=
  if U.cohort = 1 then [u]
  else (List.range s.units.length).filter fun v => match s.units[v]? with
    | some V => U.mate V && V.st == .resident
    | none => false

/-- The tokens of a retired unit (R273). -/
def Unit.tokens (U : Unit) (st : Stage) : List (List Byte) :=
  (List.range st.prod).map fun i => spGetList 0 U.spad (st.outOff + st.tokSize * i) st.tokSize

/-- Append the tokens of retired units in index order, as far as they follow one another (R273). -/
def flushTokens : Nat → Stage → Stage
  | 0, st => st
  | fuel + 1, st => match st.out.find? fun x => x.1 == st.nextOut with
    | none => st
    | some x => flushTokens fuel { st with
        toks := st.toks ++ x.2, resv := st.resv - st.prod, nextOut := st.nextOut + 1
        out := st.out.filter fun y => y.1 != st.nextOut }

/-- A stage's unit has retired. -/
def Stage.retire (st : Stage) (U : Unit) : Stage :=
  flushTokens (st.out.length + 1) { st with out := st.out ++ [(U.idx, U.tokens st)] }

/-- A unit leaves its core: a firm one is RETIRED, a tentative one ENDED (R174, R245). -/
def State.retireUnit (s : State) (u : Nat) : State :=
  match s.units[u]? with
  | none => s
  | some U =>
    let s1 := s.modLaunch U.launch fun L => L.modStage U.stage fun st => st.retire U
    { s1 with monitors := s1.monitors.filter (fun m => !m.who.ofUnit u), loads := s1.loads.filter (·.unit != u) }.modUnit u fun V =>
      { V with st := if U.firm then .retired else .ended, slabs := [], staged := [], barArr := [] }

/-- UNIT_RETIRE: a unit that is done leaves its core, the members of a cohort together (R245, R294). -/
def execUnitRetire (u : Nat) (s : State) : Out :=
  match s.units[u]? with
  | none => .next s
  | some U =>
    let us := s.cohortOf u U
    if U.st != .resident || U.svc || !(us.all fun v => match s.units[v]? with
      | some V => s.unitDone v V && V.saveAt.isNone
      | none => false) then .next s
    else .next (us.foldl State.retireUnit s)

/-! ### Stages (R274) -/

/-- A part of a queue's depth: tokens in quarters. -/
def Stage.quarters (st : Stage) : Nat := 4 * st.toks.length

/-- The input queue of a stage. -/
def Launch.inQueue (L : Launch) (k : Nat) : Option Stage := if k = 0 then none else L.stages[k - 1]?

/-- A stage is starved (R274). -/
def Launch.starved (L : Launch) (k : Nat) (st : Stage) : Bool := match L.inQueue k with
  | some q => decide (q.quarters < q.depth)
  | none => decide (st.units ≤ st.nextStart)

/-- A stage is pressed (R274). -/
def Launch.pressed (L : Launch) (k : Nat) (st : Stage) : Bool := match L.inQueue k with
  | some q => decide (3 * q.depth ≤ q.quarters) && (st.prod == 0 || decide (st.quarters < 3 * st.depth))
  | none => false

/-- A stage has fewer replicas than its maximum (R274). -/
def Launch.below (L : Launch) (k : Nat) : Bool := match L.stages[k]? with
  | some st => decide (st.replicas < st.maxR)
  | none => false

/-- One input queue is fuller than another, each as a part of its depth. -/
def Launch.fuller (L : Launch) (a b : Nat) : Bool := match L.inQueue a, L.inQueue b with
  | some x, some y => decide (y.toks.length * x.depth < x.toks.length * y.depth)
  | _, _ => false

/-- The best index of a list, the lowest on ties. -/
def bestOf (gt : Nat → Nat → Bool) : List Nat → Option Nat
  | [] => none
  | k :: ks => match bestOf gt ks with
    | none => some k
    | some j => if gt j k then some j else some k

/-- Replicas of a stage above its minimum. -/
def Launch.spare (L : Launch) (k : Nat) : Nat := match L.stages[k]? with
  | some st => st.replicas - st.minR
  | none => 0

/-- A core of the cluster is free and assigned to no stage. -/
def State.spareCore (s : State) (L : Launch) (cl : Nat) : Bool :=
  let free := ((List.range 32).filter fun i => s.coreFree (32 * cl + i)).length
  let used := (s.units.filter fun U => U.ofLaunch L && U.st == .resident).length
  decide ((L.stages.map (·.replicas)).sum - used < free)

/-- STAGE_EVALUATION: every 4,096 cycles at most one core is reassigned, to the pressed stage with the fullest input queue, unless that
stage is at its maximum (R274). -/
def execStageEvaluation (l : Nat) (s : State) : Out :=
  match s.launches[l]? with
  | none => .next s
  | some L =>
    if L.stages.isEmpty || !L.live || L.stopped || decide (s.clock < L.evalAt + 4096) then .next s
    else
      let s1 := s.modLaunch L.id fun x => { x with evalAt := s.clock }
      let ks := L.stages.zipIdx
      match L.home, bestOf L.fuller ((ks.filter fun x => L.pressed x.2 x.1).map (·.2)) with
      | some cl, some k =>
        if !L.below k then .next s1
        else if s.spareCore L cl then .next (s1.modLaunch L.id fun x => x.modStage k fun st => { st with replicas := st.replicas + 1 })
        else
          match bestOf (fun a b => decide (L.spare b < L.spare a))
              ((ks.filter fun x => L.starved x.2 x.1 && decide (0 < L.spare x.2)).map (·.2)) with
          | some j => .next (s1.modLaunch L.id fun x =>
              (x.modStage k fun st => { st with replicas := st.replicas + 1 }).modStage j fun st =>
                { st with replicas := st.replicas - 1 })
          | none => .next s1
      | _, _ => .next s1

/-! ### Sleep (R105) -/

/-- SLEEP_EXPIRY: the group is ready again; a saved unit becomes eligible for restore (R105, R248). -/
def execSleepExpiry (u g : Nat) (s : State) : Out :=
  match s.group? u g with
  | none => .next s
  | some (U, G) =>
    if G.st != .waiting .sleep || decide (s.clock < G.sleepUntil) then .next s
    else if U.st == .saved then .next (s.modUnit u fun V => { V with eligible := true })
    else .next (s.modGroup u g fun H => { H with st := .ready, sleepUntil := 0 })

end Sys2Proof.Machine
end

