-- ==== Sys2Proof/Machine/Save.lean ====
section
/-! DEFINITION. Saving and restoring units: the save pool (R427), the layout of a save area (R428, R429, R432), eviction and
pre-emption (R248, R252, R279), the save (R268, R327, R347, R430) and the restore (R249, R269, R294, R431). -/

namespace Sys2Proof.Machine

open Sys2Proof

/-! ### The save pool (R406, R427) -/

/-- Areas in use in a context's pool: address and chunks. -/
def State.areas (s : State) (ctx : Nat) : List (Nat × Nat) :=
  s.units.filterMap fun U => if U.ctx == ctx then U.saveAt.map fun x => (x.1.toNat, x.2) else none

/-- First fit in a context's save pool (R427): the area's address. -/
def State.saveFit (s : State) (ctx chunks : Nat) : Option Nat :=
  let base := s.physNat (s.ctxDesc ctx + 0x18) 8
  let total := s.physNat (s.ctxDesc ctx + 0x20) 8 / 65536
  ((List.range (total + 1 - chunks)).map fun i => base + 65536 * i).find? fun a =>
    (s.areas ctx).all fun x => decide (a + 65536 * chunks ≤ x.1 ∨ x.1 + 65536 * x.2 ≤ a)

/-- The device's own bytes of a context descriptor hold values that are not stated (R406; log entry 1). -/
def State.poolState (s : State) (ctx : Nat) : State :=
  let bytes : List Byte := (List.range 32).flatMap fun k => toBytesLE 8 (Config.freeDWord (s.freeCtr + k)).toNat
  { s with freeCtr := s.freeCtr + 32 }.ownWrite (s.ctxDesc ctx + 0x100) bytes

/-- Allocate areas for units that are to be saved, and stop their issue (R427, R430); none where the pool cannot hold them. -/
def markSave (rot : Bool) : List Nat → State → Option State
  | [], s => some s
  | u :: us, s => match s.units[u]? with
    | none => none
    | some U =>
      let n := (s.saveSize u U + 65535) / 65536
      match s.saveFit U.ctx n with
      | none => none
      | some a => markSave rot us ((s.poolState U.ctx).modUnit u fun V =>
          { V with saveAt := some (BitVec.ofNat 64 a, n), eligible := rot })

/-! ### Eviction and pre-emption (R248, R252, R279) -/

/-- A group in whose state its unit may be evicted (R248). -/
def GroupSt.evictable : GroupSt → Bool
  | .ended | .parked => true
  | .waiting k => k == .waitc || k == .bwait || k == .shpwait || k == .sleep
  | .ready | .stalled | .held => false

/-- The unit has groups, and all of them are parked or waiting (R248). -/
def Unit.evictable (U : Unit) : Bool :=
  (U.groups.all fun G => G.st.evictable) && U.groups.any fun G => G.st != .ended

/-- A resident unit that is not being saved. -/
def Unit.holds (U : Unit) : Bool := U.st == .resident && !U.svc && U.saveAt.isNone

/-- Every unit of a list satisfies a test. -/
def State.allUnits (s : State) (us : List Nat) (f : Unit → Bool) : Bool :=
  us.all fun v => match s.units[v]? with
    | some V => f V
    | none => false

/-- A unit in load finds no region in its cluster for the image, and is to be taken to another cluster (R234, R267). -/
def Unit.seeks (U : Unit) : Bool := U.seek.isSome && match U.spat with
  | some c => c.step == .load
  | none => false

/-- UNIT_EVICT: a unit whose live groups are all parked or waiting is evicted while another waits for a core (R248); a unit in load
that finds no region is pre-empted to be restored in another cluster (R267). A cohort goes together (R294). -/
def execUnitEvict (u : Nat) (waiter : Waiter) (s : State) : Out :=
  match s.units[u]? with
  | none => .next s
  | some U =>
    let us := s.cohortOf u U
    if !s.allUnits us Unit.holds then .next s
    else if U.seeks then .next ((markSave true us s).getD s)
    else if !s.allUnits us Unit.evictable || !s.waiting waiter || s.placeable waiter then .next s
    else .next ((markSave false us s).getD s)

/-- What the placer sees of the cores once units have left theirs. -/
def State.without (s : State) (us : List Nat) : State :=
  { s with
    units := s.units.zipIdx.map fun x => if us.contains x.2 then { x.1 with st := .saved } else x.1
    tasks := s.tasks.map fun (t : Task) => if us.contains t.unit then { t with home := Config.quads } else t }

/-- A unit may leave its core for a waiter: its cohort can, the save pool holds it, and its core lies with those already promised
(R252, R294, R427). -/
def State.removable (s : State) (w : Waiter) (v : Nat) (V : Unit) : Bool :=
  V.holds && s.allUnits (s.cohortOf v V) Unit.holds && (markSave true (s.cohortOf v V) s).isSome &&
    s.promised.all fun x => x.2 != w || clusterOf x.1 == clusterOf V.core

/-- A unit may be pre-empted for a waiter: its core, once the unit and its cohort are gone, suits the waiter (R252). -/
def State.victimFor (s : State) (w : Waiter) (v : Nat) (V : Unit) : Bool :=
  s.removable w v V && (s.without (s.cohortOf v V)).suits w V.core

/-- Units on cores of a cluster that leave them, or that a rule lets leave for a waiter. -/
def State.leavers (s : State) (may : Unit → Bool) (w : Waiter) (cl : Nat) : List Nat :=
  (s.units.zipIdx.filter fun x => x.1.st == .resident && !x.1.svc && clusterOf x.1.core == cl &&
    (x.1.saveAt.isSome || (may x.1 && s.removable w x.2 x.1))).map (·.2)

/-- A waiter whose region, slabs or tasks need more than one unit gone: once all that may leave a unit's cluster are gone, a core there
suits it (R252, R269, R431). -/
def State.clearedFor (s : State) (may : Unit → Bool) (w : Waiter) (V : Unit) : Bool :=
  let t := s.without (s.leavers may w (clusterOf V.core))
  (List.range 32).any fun i => t.coreFree (32 * clusterOf V.core + i) && t.suits w (32 * clusterOf V.core + i)

/-- A rule (`may`) lets a unit be pre-empted for a waiter: it alone makes room, or no unit alone does and the units of its cluster
together do (R252; log entry 124). -/
def State.makesRoom (s : State) (may : Unit → Bool) (w : Waiter) (v : Nat) (V : Unit) : Bool :=
  may V && (s.victimFor w v V ||
    (!(s.units.zipIdx.any fun x => may x.1 && s.victimFor w x.2 x.1) && s.removable w v V && s.clearedFor may w V))

/-- R252 lets a unit be pre-empted for a waiter: its priority is no higher, and it has been on its core for 2^22 cycles. -/
def State.mayRotate (s : State) (w : Waiter) (V : Unit) : Bool :=
  decide (s.unitPrio V ≤ s.waiterPrio w) && decide (V.since + 2 ^ 22 ≤ s.clock)

/-- The rule of R252 allows pre-empting a unit for a waiter. -/
def State.rotates (s : State) (w : Waiter) (v : Nat) (V : Unit) : Bool := s.makesRoom (s.mayRotate w) w v V

/-- Cores promised to a waiter that are free or still being left. -/
def State.promisedTo (s : State) (w : Waiter) : Nat :=
  (s.promised.filter fun x => x.2 == w && (s.coreFree x.1 ||
    s.units.any fun U => U.st == .resident && !U.svc && U.core == x.1 && U.saveAt.isSome)).length

/-- A waiter that cannot be placed needs another core: it has fewer than it needs, or those it has are free and do not do. -/
def State.wants (s : State) (w : Waiter) : Bool :=
  decide (s.promisedTo w < s.waiterNeed w) || s.promised.all fun x => x.2 != w || s.coreFree x.1

/-- Pre-empt a unit with its cohort; the cores go to the waiter, as many as it still needs (R252). -/
def State.preempt (s : State) (w : Waiter) (v : Nat) (V : Unit) : State :=
  match markSave true (s.cohortOf v V) s with
  | none => s
  | some s1 =>
    let cores := (v :: (s.cohortOf v V).filter (· != v)).filterMap fun m => (s.units[m]?).map (·.core)
    { s1 with promised := (s1.promised.filter fun x => s1.waiting x.2 && !cores.contains x.1) ++
        (cores.take (max 1 (s.waiterNeed w - s.promisedTo w))).map fun c => (c, w) }

/-- R279 lets a unit make room for a firm waiter at once: a tentative one under squash policy 1, of equal or lower priority. A unit that
bind-off has confirmed is tentative no more. -/
def State.maySquash (s : State) (w : Waiter) (V : Unit) : Bool :=
  !V.firm && !V.promoting && (match s.launchOf V with
    | some L => L.squash
    | none => false) && decide (s.unitPrio V ≤ s.waiterPrio w)

/-- The unit is a resident tentative one that makes room for a firm waiter at once (R279). -/
def State.squashes (s : State) (w : Waiter) (v : Nat) (V : Unit) : Bool :=
  s.waiting w && !s.placeable w && s.waiterFirm w && s.wants w && s.makesRoom (s.maySquash w) w v V

/-- Some pre-emption of R279 is to come first. -/
def State.squashDue (s : State) : Bool := s.waiters.any fun w => s.units.zipIdx.any fun x => s.squashes w x.2 x.1

/-- ROTATION_PREEMPT: for the first of the waiters that may start, where no suitable core is free, the unit resident longest of those
that R252 allows is pre-empted, unless a pre-emption of R279 comes first. -/
def execRotationPreempt (victim : Nat) (waiter : Waiter) (s : State) : Out :=
  match s.units[victim]? with
  | none => .next s
  | some V =>
    let first := s.waiters.all fun v => s.squashed v || s.ahead waiter v
    let longest := s.units.zipIdx.all fun x => !s.rotates waiter x.2 x.1 || decide (V.since ≤ x.1.since)
    if s.waiting waiter && !s.placeable waiter && !s.squashed waiter && !s.squashDue && first && s.rotates waiter victim V && longest &&
        s.wants waiter then .next (s.preempt waiter victim V)
    else .next s

/-- SQUASH_PREEMPT: under squash policy 1 a resident tentative unit makes room for a firm one of equal or higher priority at once
(R279). -/
def execSquashPreempt (victim : Nat) (waiter : Waiter) (s : State) : Out :=
  match s.units[victim]? with
  | none => .next s
  | some V => .next (if s.squashes waiter victim V then s.preempt waiter victim V else s)

/-! ### UNIT_SAVE (R266, R268, R327, R347, R430) -/

/-- A firing that can go no further, or none. -/
def State.firingStuck (s : State) (u o : Nat) (p : SOper) : Bool := p.resume == 0 || (s.operNext u o).units[u]? == s.units[u]?

/-- The mode switch lets the unit be saved: nothing moves in a configuration but what a fault stops, and none drains for a delta that is
still to patch it (R266, R268, R404). -/
def State.spatQuiet (s : State) (u : Nat) (U : Unit) : Bool :=
  match U.spat with
  | none => true
  | some c => match c.step with
    | .load => true
    | .exit => false
    | .check | .run =>
      !(s.deltas.any fun d => d.patches U) && (c.ops.zipIdx.all fun x => s.firingStuck u x.2 x.1) &&
        c.ports.all fun p => p.fault.isSome || (p.reads.isEmpty && p.writes.isEmpty)

/-- The waits of R430 are over for a unit that is to be saved. -/
def State.saveReady (s : State) (u : Nat) (U : Unit) : Bool :=
  U.st == .resident && U.saveAt.isSome && s.spatQuiet u U && (U.groups.all fun G => !G.mid) &&
    !(s.loads.any fun p => p.unit == u) && !(s.stores.any fun p => p.unit == u) &&
    !(s.reqs.any fun q => q.unit == u && q.kind != .red) && (U.copyq.all fun c => !c.started || c.fault.isSome || s.retriedNow (.cmd u c.id)) &&
    !(s.tasks.any fun t => t.unit == u && t.pass && t.fault.isNone && t.st != .stalled && !s.retriedNow (.task u t.handle))

/-- The accesses a save abandons: those of commands and tasks of the unit (R423, R430). -/
def abandons (u : Nat) (p : Posted) : Bool :=
  match p.agent with
  | .cmd v _ => v == u
  | .task v _ => v == u
  | _ => false

/-- A group as the save leaves it: no fetch buffer, no gathering, its residence counted (R212, R433, R456). -/
def Group.saved (G : Group) (load : Bool) (clock : Nat) : Group :=
  { G with
    st := if load && G.st == .held then .ready else G.st
    spatB := if G.st == .held && !load then G.spatB else none
    fbuf := []
    claim := none
    perf := spSet 0 G.perf 1 (spGet 0 G.perf 1 + BitVec.ofNat 64 (clock - G.startedAt)) }

/-- A unit as it is saved: a command that a fault stopped runs again from its start, a configuration in load is rolled back, one
that runs is frozen (R266, R430). Slabs that have ended follow the live ones (log entry 100). -/
def Unit.saved (U : Unit) (clock : Nat) : Unit :=
  { U with
    groups := U.groups.map fun G => G.saved U.loaded.isNone clock
    slabs := (U.slabs.filter (·.live)) ++ U.slabs.filter (!·.live)
    copyq := U.copyq.map fun c => { c with started := false, todo := [], fault := none }
    spat := U.loaded.map fun (c : Spat) => { c with frozen := true } }

/-- A task as it is saved: a pass that a fault stopped is abandoned (R347). -/
def Task.saved (t : Task) : Task :=
  { t with pass := false, fault := none, got := [], st := if t.st == .stalled then .running else t.st }

/-- The BWAIT at which a group stands can go on (R143, R144): its phase has completed, or its object or token is bad. A slot no
longer at hand counts as one that can (log entry 62). -/
def State.bwaitOver (s : State) (U : Unit) (G : Group) : Bool :=
  match decode96 (spGet (0, false) G.fbuf G.pc.toNat).1 with
  | .ok (.bwait h x) =>
    let off := groupEa G.regs x.a x.c
    match activeLanes (s.env U G) G.regs h with
    | [] => true
    | l :: _ => (U.barFail off false).isSome || tokenDist (U.barObj off).phase (rd32 (s.env U G) G.regs x.b l) != 0
  | _ => true

/-- Commands or tasks of the unit's own are left, which go on only on a core (log entry 62). -/
def State.ownWork (s : State) (u : Nat) (U : Unit) : Bool := !U.copyq.isEmpty || s.tasks.any fun t => t.unit == u

/-- A condition of an evicted unit's waits already holds, or a group no longer waits (R248). -/
def State.stirs (s : State) (u : Nat) (U : Unit) (G : Group) : Bool :=
  match G.st with
  | .ended | .parked => false
  | .waiting .waitc => G.wcPoll
  | .waiting .sleep => decide (G.sleepUntil ≤ s.clock)
  | .waiting .shpwait => s.shapeSettled U
  | .waiting .bwait => s.ownWork u U || s.bwaitOver U G
  | .waiting _ => true
  | .ready | .stalled | .held => true

/-- Write pieces of a save area. -/
def writeArea (p : Port) (base : Nat) : List (Nat × List Byte) → State → Option State
  | [], s => some s
  | (o, bs) :: r, s => match engWrite p 0 0 (bs.zipIdx.map fun x => ((base + o + x.2) % 2 ^ 64, x.1)) s with
    | .ok _ s1 => writeArea p base r s1
    | _ => none

/-- The sealed batches of a unit's groups are those that are not complete (R147, R429). -/
def State.pruneSealed (s : State) (u : Nat) : State := s.modUnit u fun U => { U with
  groups := U.groups.zipIdx.map fun x => { x.1 with sealed := x.1.sealed.filter fun b => (s.openOps u x.2 U).contains b } }

/-- Save one unit whose waits are over: the fence of R327, the area, then the core is free. -/
def State.saveOne (s : State) (u : Nat) : Option State :=
  match s.units[u]? with
  | none => none
  | some U => match U.saveAt with
    | none => none
    | some (a, n) =>
      let s1 := withdraw (abandons u) s.posted s
      let s2 := (List.range U.groups.length).foldl (fun t g => t.scFence u g U.core 3) s1
      let s3 := { s2 with tasks := s2.tasks.map fun (t : Task) => if t.unit == u then t.saved else t }.pruneSealed u
      let tc := max (s3.tcOf U.core) (s3.rhOf U.core)
      match s3.units[u]? with
      | none => none
      | some V =>
        let W := V.saved s3.clock
        let ts := s3.tasks.filter (·.unit == u)
        match writeArea ⟨.last (dieOf U.core), dieOf U.core, U.ctx, none⟩ a.toNat (W.area ts n tc) s3 with
        | none => none
        | some s4 =>
          let s5 : State := { s4 with tasks := s4.tasks.map fun (t : Task) =>
            if t.unit == u then { t with home := Config.quads, engine := Config.quads } else t }
          let s6 := ts.foldl (fun r t => r.entryFreed t.home) s5
          some (s6.modUnit u fun _ => { W with
            st := .saved, saveTC := tc, waitSince := s6.clock, eligible := W.eligible || V.groups.any (s6.stirs u V) })

/-- Save units one after another, all or none. -/
def saveAll : List Nat → State → Option State
  | [], s => some s
  | u :: us, s => match s.saveOne u with
    | some s1 => saveAll us s1
    | none => none

/-- UNIT_SAVE: a unit that is to leave its core is saved once the waits of R430 are over, with its cohort (R294). An area that
cannot be written leaves it on its core. -/
def execUnitSave (u : Nat) (s : State) : Out :=
  match s.units[u]? with
  | none => .next s
  | some U =>
    let us := s.cohortOf u U
    if U.svc || !(us.all fun v => match s.units[v]? with
      | some V => s.saveReady v V
      | none => false) then .next s
    else .next ((saveAll us s).getD s)

/-! ### UNIT_RESTORE (R249, R269, R327, R431) -/

/-- A group as it resumes: a wait that executes again or a sleep makes it ready (R248). -/
def Group.resumed (G : Group) (clock : Nat) : Group :=
  let st : GroupSt := match G.st with
    | .waiting .barSync => .waiting .barSync
    | .waiting _ => .ready
    | x => x
  { G with st := st, startedAt := clock, sleepUntil := 0, wcVals := [], wcPoll := false, wakeBy := 0, readyAt := clock,
           readyFrom := none, passAt := 0 }

/-- A unit that changes its die drops the times of the die it left: its new core's time passes every lease there (R327). -/
def Unit.moved (U : Unit) : Unit :=
  { U with barTime := [], spadTime := 0, engTime := 0, groups := U.groups.map fun G => { G with relFloor := 0 } }

/-- A unit on its new core (R249, R269). -/
def Unit.resumed (U : Unit) (c clock : Nat) (o : Nat × Nat) : Unit :=
  { U with
    st := .resident, core := c, since := clock, saveAt := none, eligible := false, seek := none
    groups := U.groups.map fun G => G.resumed clock
    spat := U.spat.map fun (d : Spat) =>
      { d with frozen := false, cluster := c / 32, row := o.1, col := o.2, freezes := d.freezes + 1 } }

/-- Tasks of a unit with what their section holds, on their new quad (R347, R428). -/
def loadTasks (u q : Nat) (bs : List Byte) (ts : List Task) : List Task :=
  let next := maxOf (ts.map (·.seq)) + 1
  (held (fieldAt bs 0x26 1) (fun i => plainTask u (next + i)) ts).zipIdx.map fun x =>
    { x.1.load bs (areaOff bs 4 + 128 * x.2) (agesOf ts) with home := q, engine := q }

/-- The area does not name the unit: a record of SOURCE 10 and KIND 2, and the launch ends FAULTED (R427). -/
def State.areaBad (s : State) (U : Unit) (c : Nat) (a : DWord) : Option State :=
  match s.post (dieOf c) ⟨a, U.ctx, 10, 2, 0, 3, 0, U.launch, U.idx, 0, 0, 0⟩ (.launchRec Config.queues) with
  | none => none
  | some (s1, seq) => some (s1.failLaunch U.launch seq)

/-- Restore one unit onto a core: its area is read and checked, its core's time passes SAVETC and acquires (R327, R427). -/
def State.restoreOne (s : State) (u c : Nat) (o : Nat × Nat) : Option State :=
  match s.units[u]? with
  | none => none
  | some U => match U.saveAt with
    | none => none
    | some (a, n) =>
      let die := dieOf c
      let ts := s.tasks.filter (·.unit == u)
      let len := min (65536 * n) (s.saveSize u U)
      if !s.quadFits u U c || !s.coreFree c then none
      else match engRead ⟨.last die, die, U.ctx, none⟩ ((List.range len).map fun i => some ((a.toNat + i) % 2 ^ 64)) s with
        | .fault _ _ => none
        | .wait _ => none
        | .uncorr pa => some (s.consume U.launch pa)
        | .ok bs s1 =>
          if !U.areaOk bs then s1.areaBad U c a
          else
            let W0 := (U.load bs u).resumed c s1.clock o
            let W := if dieOf U.core == die then W0 else W0.moved
            let s2 : State := { s1 with tasks := (s1.tasks.filter (·.unit != u)) ++ loadTasks u (quadOf c) bs ts }
            let t := if dieOf U.core == die then max W.saveTC U.engTime else max W.saveTC (s2.dieTime die)
            some (((s2.modUnit u fun _ => W).tcRaise c t).acqFence c)

/-- Units on the cores they are to be restored to, each with its frozen configuration still outside a region. -/
def State.seated (s : State) (xs : List (Nat × Nat)) : State :=
  xs.foldl (fun t x => t.modUnit x.1 fun V => { V with st := .resident, core := x.2 }) s

/-- A region for the frozen configuration of each unit, beside those found before and the cores of all (R269). -/
def regionsFor : List (Nat × Nat) → State → Option (List (Nat × Nat))
  | [], _ => some []
  | (u, c) :: r, s => match s.units[u]? with
    | none => none
    | some U => match s.frozenRegion u U c with
      | none => none
      | some o => (regionsFor r (s.modUnit u fun V => { V with spat := V.spat.map fun (d : Spat) =>
          { d with frozen := false, cluster := c / 32, row := o.1, col := o.2 } })).map (o :: ·)

/-- Restore units, each onto its core and region, all or none. -/
def restoreAll : List ((Nat × Nat) × Nat × Nat) → State → Option State
  | [], s => some s
  | x :: r, s => match s.restoreOne x.1.1 x.1.2 x.2 with
    | some s1 => restoreAll r s1
    | none => none

/-- UNIT_RESTORE: an eligible saved unit, or its cohort, is restored onto free cores that suit it; a frozen configuration of the first
comes to the region at the row and column given, those of the others to regions beside it (R249, R252, R269, R294, R431). -/
def execUnitRestore (us cs : List Nat) (row col : Nat) (s : State) : Out :=
  match us.head?, us.head?.bind fun u => s.units[u]? with
  | some u, some U =>
    let w := Waiter.saved u
    let mates := (List.range s.units.length).filter fun v => match s.units[v]? with
      | some V => U.mate V && V.st == .saved
      | none => false
    if !s.waiting w || (us != mates && us != [u]) || us.length != s.waiterNeed w || !s.coresOk w cs || s.squashed w then .next s
    else match regionsFor (us.zip cs) (s.seated (us.zip cs)) with
      | none => .next s
      | some os =>
        if U.spat.isSome && os.head? != some (row, col) then .next s
        else .next (match restoreAll ((us.zip cs).zip os) s with
          | some s1 => s1.takeCores cs
          | none => s)
  | _, _ => .next s

end Sys2Proof.Machine
end

