-- ==== Sys2Proof/Machine/Fault.lean ====
section
/-! DEFINITION. What waits behind fault records and what answers them: the front end's copies and the requests to service groups,
which may end their queue (R386, R399, R332, R422, R490), TLBCMD (R405), REPLAY (R422 to R424) and the watchdog (R426). -/

namespace Sys2Proof.Machine

open Sys2Proof

/-! ### Copies of the front end (R386, R399) -/

/-- A copy whose record fails: what it wrote stands, and its queue enters ERROR (R422). -/
def State.copyFails (s : State) (c : FrontCopy) : State :=
  { s with copies := s.copies.filter (·.id != c.id) }.queueError c.queue 0x0C 0 c.packet

/-- A copy that consumes uncorrectable data goes no further, and its queue enters ERROR; the manual does not say with which cause
(R434). -/
def State.copyUncorr (s : State) (c : FrontCopy) (pa : Nat) : State :=
  ({ s with copies := s.copies.filter (·.id != c.id) }.detect 0 pa).freeError c.queue c.packet

/-- A copy of the front end stalls in place behind a record (R414, R421); a non-canonical address fails at once (R490). -/
def State.copyFault (s : State) (c : FrontCopy) (va : Nat) (w : WalkInfo) : State :=
  match s.engPost (s.queueDie c.queue) ⟨BitVec.ofNat 64 va, c.ctx, 2, w.kind, w.access, 1, w.level, 0, c.queue, 0,
      BitVec.ofNat 64 (2 ^ 32 * c.pos), 0⟩ (.front c.id) with
  | none => s
  | some (s1, p) => if w.kind == 7 then s1.copyFails c else s1.modCopy c.id fun d => { d with fault := p }

/-- One line-sized request of a COPY packet or XFER action: read, then written; the copy ends with its last (R386, R399). -/
def State.frontCopyStep (s : State) (c : FrontCopy) : State :=
  let die := s.queueDie c.queue
  let n := min (256 - (c.src.toNat + c.pos) % 256) (c.len - c.pos)
  let vas := (List.range n).map fun i => some ((c.src.toNat + c.pos + i) % 2 ^ 64)
  let pt : Port := ⟨.last die, die, c.ctx, none⟩
  match engRead pt vas s with
  | .fault va w => s.copyFault c va w
  | .uncorr pa => s.copyUncorr c pa
  | .wait s1 => s1
  | .ok bs s1 =>
    match engWrite pt 0 0 (bs.zipIdx.map fun (b, i) => ((c.dst.toNat + c.pos + i) % 2 ^ 64, b)) s1 with
    | .fault va w => s.copyFault c va w
    | .uncorr pa => s1.copyUncorr c pa
    | .wait s2 => s2
    | .ok _ s2 =>
      let s3 := (s2.engReadHeat die c.ctx vas).engHeat c.ctx [some ((c.dst.toNat + c.pos) % 2 ^ 64)]
      if c.len ≤ c.pos + n then { s3 with copies := s3.copies.filter (·.id != c.id) }
      else s3.modCopy c.id fun d => { d with pos := d.pos + n }

/-- COPY_REQUEST_PERFORMED: a started command performs its next request (R309); `frontUnit` names the front end's copies. -/
def execCopyRequestPerformed (u : Nat) (cmd : Nat) (s : State) : Out :=
  match s.units[u]? with
  | none =>
    match s.copies.find? fun c => c.id == cmd && c.fault.isNone with
    | some c => if u == frontUnit && !s.retriedNow (.front c.id) then .next (s.frontCopyStep c) else .next s
    | none => .next s
  | some U =>
    match U.copyq.find? fun c => c.id == cmd && c.started && c.fault.isNone && !s.retriedNow (.cmd u c.id) with
    | none => .next s
    | some c =>
      match c.todo with
      | [] => .next s
      | q :: _ =>
        match c.kind with
        | .tcinv wb =>
          if s.tensorLocked U.ctx c.src.toNat then .next s
          else .next ((s.visitTensor U.ctx c.src.toNat wb true).modCmd u c.id Cmd.pop)
        | .tcwb =>
          if s.tensorLocked U.ctx c.src.toNat then .next s
          else .next ((s.visitTensor U.ctx c.src.toNat true false).modCmd u c.id Cmd.pop)
        | .cpys => .next (s.cmdWrite u U c q)
        | .cpysx => .next (s.cmdWindow u U c q)
        | .cpy | .cpyt | .cpyg _ | .tchalo | .slabld => .next (s.cmdRead u U c q)

/-! ### Requests at a service group (R332, R333, R422) -/

/-- A request of the front end for no launch that cannot be performed is dropped, and its queue enters ERROR; the manual
does not number the cause (R422, R490). -/
def State.frontReqFails (s : State) (q : Req) : State :=
  let s1 := { s with reqs := s.reqs.filter (·.id != q.id) }
  if q.ofQueue then
    match s1.queue? q.grp with
    | none => s1
    | some Q => s1.freeError Q.n (if noPacket ≤ q.reg then Q.current else q.reg)
  else s1

/-- A request to a non-canonical address: its record is posted failed and the launch or queue charged ends (R490). -/
def State.reqRefuse (s : State) (q : Req) (w : WalkInfo) : State :=
  if s.fqRoom (s.reqDie q) then (s.reqFault q w).frontReqFails q else s

/-- A request whose walk meets an uncorrectable entry is not performed: the launch or queue charged ends (R434). -/
def State.reqUncorr (s : State) (q : Req) (pa : Nat) : State := (s.reqConsumes q pa).frontReqFails q

/-- Hand a translated request on; a queue whose request meets uncorrectable data, or a host without AtomicOps, enters ERROR (R434,
R449). -/
def State.reqGoes (s : State) (q : Req) (pa : Nat) : State :=
  let t := s.deliverReq q pa
  let bad := s.uncorrIn pa (2 ^ q.size) || s.hostRefuses q pa || s.cutWrite (s.reqFrom q) q.ctx q.va pa
  if q.ofQueue && bad && !(t.reqs.any fun p => p.id == q.id) then t.frontReqFails q else t

/-- Chunks for the page that a request writes: a ring that cannot supply them is a fault of KIND 6, posted with the KIND 4 event (R481). -/
def State.reqReserve (s : State) (q : Req) (pa : Nat) : State :=
  match s.reserve pa with
  | some s1 => s1.reqGoes q pa
  | none => (s.reqFault q ⟨6, if q.kind == .store then 1 else 2, 0⟩).reserveFailed q.ctx pa

/-- A request by its physical address: chunks for the page it writes, and then the service group (R454, R481; log entries 22, 119). -/
def State.physReserve (s : State) (q : Req) (pa : Nat) : State :=
  if s.faultsHeld q then s
  else match s.reserve pa with
    | some s1 => s1.deliverPhys q pa
    | none =>
      if q.ext then s.extNoChunks (pa / 4096 * 4096)
      else (s.reqFault q ⟨6, 2, 0⟩).reserveFailed q.ctx pa

/-- A request has arrived at its service group, where it waits behind a fault (R332, R414). -/
def State.reqArrives (s : State) (id : Nat) : State :=
  { s with reqs := s.reqs.map fun (q : Req) => if q.id == id then { q with arrived := true } else q }

/-- A request of the front end that is still to be sent takes its packet once its flow has room, after those made before it (R442). -/
def State.sendUnsent (s : State) (q : Req) : State :=
  let src := s.queueDie q.grp
  let dst := s.homeDie q.ctx q.va
  if s.unsentBefore q.id src dst || s.flowFull src dst 3 then s
  else
    let (p, s1) := s.sendPkt src dst 3
    { s1 with reqs := s1.reqs.map fun (x : Req) => if x.id == q.id then { x with pkt := p } else x }

/-- SERVICE_REQUEST_DELIVERY: a request reaches the service group of its home in the order of its flow, is translated, and is
performed or handed to the service program (R332, R333, R442, R461). -/
def execServiceRequestDelivery (id : Nat) (s : State) : Out :=
  match s.reqs.find? fun q => q.id == id && q.index.isNone && !q.performed && q.fault.isNone && !s.retriedNow (.req id) with
  | none => .next s
  | some p =>
    let q := { p with cluster := sliceCluster (if s.reqPhys p then s.paSlice (s.pa52 p.va) else s.homeOf (s.keyOf p.ctx p.va).1) }
    let acc : Acc := if q.kind == .store then .write else .rmw
    if s.unsent q then .next (s.sendUnsent q)
    else if s.reqBlocked q || s.behindWrite q.pkt q.ctx q.va then .next s
    else if s.reqPhys q then .next (s.physReserve q (s.pa52 q.va))
    else if s.behindFault q then .next (if s.faultsHeld q then s else s.reqArrives id)
    else if !canonical q.va then .next (s.reqRefuse q ⟨7, acc.code, 0⟩)
    else match s.translate (.last (q.cluster / 4 % 4)) (q.cluster / 4 % 4) q.ctx q.va acc false with
      | .error w => .next (if w.kind == kindWait then s else if w.kind == kindUncorr then s.reqUncorr q w.level else s.reqFault q w)
      | .ok (pa, s1) => .next (s1.reqReserve q pa)

/-! ### Shootdowns (R405, R412) -/

/-- The translation entry of a port covers a page of a shootdown. -/
def Shootdown.aims (d : Shootdown) (U : Unit) (p : SPort) : Bool := match p.tlb with
  | some (v, _, k) => d.covers U.ctx (v * 2 ^ k) (2 ^ k)
  | none => false

/-- Remove the translations a shootdown covers, in the port entries of running configurations and of the save areas of frozen ones too
(R412). -/
def State.shootEntries (s : State) (d : Shootdown) : State :=
  { s with tlb := s.tlb.filter fun e => !d.covers e.ctx (e.va * e.size) e.size }.emptyPorts d.aims

/-- A migration moves a page that a host's shootdown covers, or its event waits to be posted (R479). -/
def State.shootMoves (s : State) (d : Shootdown) : Bool :=
  d.host && ((s.migrations.any fun m => d.covers m.ctx m.va (if m.large then 2097152 else 65536)) ||
    s.events.any fun e => match e.page with
      | some (ctx, va, n) => d.covers ctx va n
      | none => false)

/-- SHOOTDOWN_COMPLETE: no cache holds a covered translation and every access admitted by one has been performed (R412); the
issuing group goes on, or BUSY of TLBCMD clears (R405, R446). -/
def execShootdownComplete (id : Nat) (s : State) : Out :=
  match s.shoots.find? fun d => d.id == id with
  | none => .next s
  | some d =>
    if s.shootBusy d || s.shootMoves d then .next s
    else
      let s1 := { s.shootEntries d with shoots := s.shoots.filter fun y => y.id != id }
      .next (if d.host then ({ s1 with regs := { s1.regs with tlbcmd := 0 } }).raiseInt 6 else s1.finishMid d.unit d.grp)

/-- BUSY of TLBCMD. -/
def State.tlbBusy (s : State) : Bool := s.regs.tlbcmd.getLsbD 63

/-- The host starts a shootdown; a write while BUSY is ignored (R405). -/
def State.tlbcmdStart (s : State) (ctx : Option Nat) (va : Nat) (len : Option Nat) : State :=
  if s.tlbBusy then s
  else { s with regs := { s.regs with tlbcmd := 0x8000000000000000 } }.startShoot true 0 0 ctx va len

/-- TLBCMD_RANGE: the pages that TLBADDR and TLBLEN name (R405). -/
def execTlbcmdRange (ctx : BitVec 12) (s : State) : Out :=
  .next (s.tlbcmdStart (some ctx.toNat) s.regs.tlbaddr.toNat (some s.regs.tlblen.toNat))

/-- TLBCMD_CONTEXT (R405). -/
def execTlbcmdContext (ctx : BitVec 12) (s : State) : Out := .next (s.tlbcmdStart (some ctx.toNat) 0 none)

/-- TLBCMD_ALL (R405). -/
def execTlbcmdAll (s : State) : Out := .next (s.tlbcmdStart none 0 none)

/-! ### REPLAY (R405, R422 to R424) -/

/-- A pending record of a die's ring by SEQ. -/
def State.pendingRec (s : State) (die seq : Nat) : Option Posted :=
  s.posted.find? fun p => p.die == die && p.seq % 2 ^ 48 == seq && p.frec.state == 1 && p.shown

/-- A group parked on a record is ready from the next cycle on: PARK has already put it where RTE would (R211, R422, R435). -/
def Group.unpark (G : Group) (die seq clock : Nat) : Group :=
  if G.st == .parked && G.parkedOn == some (die, seq) then
    { G with st := .ready, parkedOn := none, faultrec := 0, readyAt := max G.readyAt (clock + 1) }
  else G

/-- The acquire at .sys that a REPLAY brings for a retry: the time of the group's core passes every lease it holds, that of a saved unit
when it is restored (R318, R327, R422, R448; log entry 126). -/
def State.replayAcq (s : State) (u : Nat) (U : Unit) : State :=
  if U.st == .saved then s.modUnit u fun V => { V with engTime := max V.engTime (s.dieTime (dieOf U.core)) }
  else (s.acqFence U.core).tcRaise U.core (s.dieTime (dieOf U.core))

/-- A group parked on the record resumes behind the acquire of its REPLAY; a unit with a group that resumes may be restored (R248,
R422). -/
def State.unparkGroup (s : State) (u g die seq : Nat) : State :=
  match s.group? u g with
  | none => s
  | some (U, G) =>
    if G.parkedOn != some (die, seq) then s
    else ((s.replayAcq u U).modGroup u g fun G => G.unpark die seq s.clock).modUnit u fun V =>
      if V.st == .saved then { V with eligible := true } else V

/-- Position of the port that an operator core's index names. -/
def Spat.portAt (c : Spat) (core port : Nat) : Nat := c.ports.findIdx fun p => p.core == core && p.port == port

/-- A stream port goes on from the next cycle, unless its configuration is frozen (R196, R432). -/
def State.retryPort (s : State) (u core port : Nat) : State :=
  match s.units[u]? with
  | none => s
  | some U => match U.spat with
    | none => s
    | some c => s.modPort u (c.portAt core port) fun p => { p with fault := none }

/-- A queue no longer waits behind a record. -/
def State.retryQueue (s : State) (q : Nat) : State := s.modQueue q fun (Q : Queue) => { Q with fault := none }

/-- The source of a record goes on: it translates the access again (R422). -/
def State.retryAgent (s : State) (die seq : Nat) : FaultAgent → State
  | .group u g => s.unparkGroup u g die seq
  | .cmd u id => s.modCmd u id fun c => { c with fault := none }
  | .task u h => s.modTask u h fun t => { t with fault := none, st := if t.st == .stalled then .running else t.st }
  | .port u core port => s.retryPort u core port
  | .req id => { s with reqs := s.reqs.map fun (q : Req) => if q.id == id then { q with fault := none } else q }
  | .queue q => s.retryQueue q
  | .front id => s.modCopy id fun c => { c with fault := none }
  | .launchRec q => s.retryQueue q

/-- ACTION 1 on a record (R422). -/
def State.retryRec (s : State) (p : Posted) : State := (s.setRecState p 2).retryAgent p.die p.seq p.agent

/-- A queue's own access is failed: a program's gives PROGFAULT, a front end's a cause the manual does not number (R390, R422); a
command of QCMD that waits for it ends. -/
def State.failQueue (s : State) (q src : Nat) : State :=
  let s1 := s.retryQueue q
  match s1.queue? q with
  | none => s1
  | some Q =>
    let s2 := if src == 9 then s1.queueError q 0x0B 0 Q.current else s1.freeError q Q.current
    if (s2.regs.qcmd.map (·.2)) == some q then s2.setQcmd none else s2

/-- A launch whose kernel header cannot be read when a unit starts ends with DETAIL 0x09 (R414); a launch not yet started ends
when its start meets the failed record. -/
def State.failRecord (s : State) (q : Nat) (p : Posted) : State :=
  match s.launch? p.frec.launch with
  | some _ => s.cancelLaunch p.frec.launch fun l => { l with faulted := l.faulted <|> some (9, 0) }
  | none => s.modQueue q fun (Q : Queue) => { Q with fault := none, lfail := some (p.frec.launch, p.frec.va, p.seq) }

/-- What failing a record does to its source and to the launch or queue charged (R422, R424, R425). -/
def State.failAgent (s : State) (p : Posted) : State :=
  match p.agent with
  | .queue q => s.failQueue q p.frec.source
  | .front id =>
    match s.copies.find? fun c => c.id == id with
    | some c => s.copyFails c
    | none => s
  | .launchRec q => s.failRecord q p
  | .req id =>
    match s.reqs.find? fun q => q.id == id with
    | some q => if q.ofQueue then s.frontReqFails q else (s.frontReqFails q).failLaunch p.frec.launch p.seq
    | none => s
  | .group _ _ | .cmd _ _ | .task _ _ | .port _ _ _ => s.failLaunch p.frec.launch p.seq

/-- ACTION 2 on a record (R422). -/
def State.failRec (s : State) (p : Posted) : State := (s.setRecState p 3).failAgent p

/-- REPLAY_RETRY: CTXID must be zero, and a record that is not pending is left alone (R405, R422). -/
def execReplayRetry (die : BitVec 2) (ctx : BitVec 12) (seq : BitVec 48) (s : State) : Out :=
  if ctx != 0 then .next s
  else match s.pendingRec die.toNat seq.toNat with
    | none => .next s
    | some p => .next (s.retryRec p)

/-- REPLAY_FAIL (R405, R422). -/
def execReplayFail (die : BitVec 2) (ctx : BitVec 12) (seq : BitVec 48) (s : State) : Out :=
  if ctx != 0 then .next s
  else match s.pendingRec die.toNat seq.toNat with
    | none => .next s
    | some p => .next (s.failRec p)

/-- Retry the records of a list that are still pending, in order. -/
def retryAll : List Posted → State → State
  | [], s => s
  | p :: ps, s =>
    retryAll ps (match s.pendingRec p.die (p.seq % 2 ^ 48) with
      | some q => s.retryRec q
      | none => s)

/-- REPLAY_RETRY_ALL: every pending record of a context on a die, in SEQ order (R422); records are kept in that order. -/
def execReplayRetryAll (die : BitVec 2) (ctx : BitVec 12) (s : State) : Out :=
  .next (retryAll (s.posted.filter fun p => p.die == die.toNat && p.frec.ctx == ctx.toNat && p.frec.state == 1) s)

/-! ### Watchdog (R426) -/

/-- The watchdog's record: VA, ACCESS and LEVEL are not stated for it: free values. -/
def watchRecord (v w : DWord) (ctx : Nat) (launch : DWord) (unit loc : Nat) : FaultRec :=
  ⟨v, ctx, 11, 5, bitsAt w.toNat 0 8, 3, bitsAt w.toNat 8 8, launch, unit, loc, 0, 0⟩

/-- A record pending for longer than WDLIM is failed, and the watchdog's record is posted. -/
def State.watchRec (s : State) (p : Posted) : State :=
  let (v, s) := s.freeVal
  let (w, s0) := s.freeVal
  match s0.post p.die (watchRecord v w p.frec.ctx p.frec.launch p.frec.unit p.frec.loc) p.agent with
  | none => s
  | some (s1, seq) => (s1.failRec p).failLaunch p.frec.launch seq

/-- A group in supervisor state for longer than WDLIM is stopped, and its launch ends FAULTED. -/
def State.watchGroup (s : State) (u g : Nat) (U : Unit) : State :=
  let (v, s) := s.freeVal
  let (w, s0) := s.freeVal
  match s0.post (dieOf U.core) (watchRecord v w U.ctx U.launch U.idx (whereOf U.core g)) (.group u g) with
  | none => s
  | some (s1, seq) => (s1.modGroup u g fun G => { G with st := .ended }).failLaunch U.launch seq

/-- A duration exceeds a context's limit, where it has one. -/
def State.wdOver (s : State) (ctx since : Nat) : Bool := s.wdLim ctx != 0 && decide (since + s.wdLim ctx < s.clock)

/-- WATCHDOG_EXPIRY (R426); a group's unit may have been saved meanwhile. -/
def execWatchdogExpiry (t : WdTarget) (s : State) : Out :=
  match t with
  | .record die seq =>
    match s.pendingRec die (seq % 2 ^ 48) with
    | none => .next s
    | some p => if s.wdOver p.frec.ctx p.since then .next (s.watchRec p) else .next s
  | .group u g =>
    match s.group? u g with
    | none => .next s
    | some (U, G) =>
      if G.sup && !U.svc && (U.st == .resident || U.st == .saved) && G.st != .ended && s.wdOver U.ctx G.supSince then .next (s.watchGroup u g U)
      else .next s

end Sys2Proof.Machine
end

