-- ==== Sys2Proof/Machine/Coherence.lean ====
section
/-! DEFINITION. Coherence between dies, host and peers: logical time and its epochs (R330, R436 to R438), proxy copies and the
region directory (R439 to R441, R455), the host (R447, R448), peers and their directory (R452 to R454) and failed links (R443). -/

namespace Sys2Proof.Machine

open Sys2Proof

/-! ### Logical time (R330, R436, R437) -/

/-- TC_TICK: the ticks that are due, one for every 32 cycles, no further than the hold (R330, R437). -/
def execTcTick (core : Nat) (s : State) : Out := if core < 528 then .next (s.tcCatchUp core) else .next s

/-- The scrub pass of a die's epoch has ended: no awake line carries the generation before (R437). -/
def State.scrubbed (s : State) (die : Nat) : Bool :=
  let n := s.epochOf die
  s.lines.all fun l => !s.lineAwake l die || !(genBefore n l.rts || genBefore n l.wts)

/-- The advance is due: a TC or PT has come within 2^12 of the next epoch (R437). -/
def State.advanceDue (s : State) (die : Nat) : Bool :=
  decide ((s.epochOf die + 1) * 2 ^ 24 - 2 ^ 12 ≤ max (s.tcMax die) (s.ptOf die))

/-- EPOCH_ADVANCE: after the scrub pass a die whose advance is due moves to the next epoch (R437). -/
def execEpochAdvance (die : Nat) (s : State) : Out :=
  if 4 ≤ die || !s.advanceDue die || !s.scrubbed die then .next s else .next (s.nextEpoch die)

/-- STAMP_SCRUB: an awake slice rewrites the stamps of a line of the generation before to the epoch's base (R437). -/
def execStampScrub (die ctx tensor tile line : Nat) (s : State) : Out :=
  .next { s with lines := s.lines.map fun (l : Line) =>
    if l.key == (⟨ctx, tensor, tile, line⟩ : Key) && s.lineAwake l die then l.scrub (s.epochOf die) else l }

/-! ### Retention sleep (R438) -/

/-- A service group of the slice's cluster has locked a line by its address (R213). -/
def State.addrLocked (s : State) (sl : Nat) : Bool :=
  s.paLocks.any fun x => match s.units[x.2.1]? with
    | some U => clusterOf U.core == sliceCluster sl
    | none => false

/-- An operation of the directory of the slice's die is in progress, or one on a line that the slice holds (R438, R440). -/
def State.dirBusy (s : State) (sl : Nat) : Bool :=
  s.invals.any fun v => (match v.pkt with
      | some p => p.src == sliceDie sl
      | none => true) ||
    s.lines.any fun l => s.sliceOf l.name == sl && l.within v.base v.size

/-- A slice holds a tentative line, an armed monitor or a locked line, or a directory operation is in progress. -/
def State.sliceHeld (s : State) (sl : Nat) : Bool :=
  (s.tent.any fun t => s.homeOf t.key == sl) || (s.monitors.any fun m => s.homeOf (s.keyOf m.ctx m.va).1 == sl) ||
    (s.lines.any fun l => s.sliceOf l.name == sl && l.lock.isSome) || s.addrLocked sl || s.dirBusy sl

/-- SLICE_SLEEP: a slice without a request for 2^20 cycles sleeps and records its epoch (R438). -/
def execSliceSleep (slice : Nat) (s : State) : Out :=
  if 2048 ≤ slice || (s.asleep.any fun x => x.1 == slice) || decide (s.clock < spGet 0 s.lastReq slice + 2 ^ 20) ||
      s.sliceHeld slice then .next s
  else .next { s with asleep := s.asleep ++ [(slice, s.epochOf (sliceDie slice))] }

/-- SLICE_WAKE: a request wakes a slice, which rewrites its stamps when the epoch has moved on (R438). -/
def execSliceWake (slice : Nat) (s : State) : Out :=
  if s.asleep.any fun x => x.1 == slice then .next (s.touchSlice slice) else .next s

/-! ### Proxy copies (R439, R441) -/

/-- PROXY_FILL: a slice of a die takes a proxy copy of a line homed on another die (R439 to R441, R455). -/
def execProxyFill (die ctx tensor tile line : Nat) (s : State) : Out := .next (s.proxyFill die ⟨ctx, tensor, tile, line⟩)

/-- PROXY_INVALIDATION: a die removes its proxy lines of a region, moves PT past their leases and acknowledges (R440, R441);
it comes in the order of its flow (R442), and waits while PT would pass the hold (R437). -/
def execProxyInvalidation (id : Nat) (s : State) : Out :=
  match s.invals.find? fun v => v.id == id with
  | none => .next s
  | some v => match v.target with
    | .peer _ | .host => .next s
    | .die d =>
      let gone (l : Line) : Bool := l.proxy && l.die == d && l.within v.base v.size
      let pt := s.ptAfter d (s.lines.filter gone).length
      if !s.ptFits d pt || s.behindInval v then .next s
      else .next ({ s with
        lines := s.lines.filter fun l => !gone l
        invals := s.invals.filter fun x => x.id != id }.setPt d pt |>.ackPkt v.pkt)

/-- REGION_MERGE: two sibling halves quiet for 2^20 cycles merge, with the union of their bits (R440). -/
def execRegionMerge (die base k : Nat) (s : State) : Out :=
  let half := 256 * 2 ^ (k - 1)
  let sib (b : Nat) : Option Region := s.regions.find? fun r => r.die == die && r.base == b && r.k + 1 == k
  match sib base, sib (base + half) with
  | some a, some b =>
    if k = 0 || 8 < k || base % (2 * half) != 0 || s.clock < max a.lastInv b.lastInv + 2 ^ 20 then .next s
    else
      let u : Region := ⟨die, base, k, a.present ++ b.present.filter fun d => !a.present.contains d, max a.lastInv b.lastInv⟩
      .next { s with regions := u :: s.regions.filter fun (x : Region) => !(a.same x || b.same x) }
  | _, _ => .next s

/-! ### Accesses from outside the device (R447, R454) -/

/-- The top 64 KiB of HBM are the mailbox (R453). -/
def mailBase : Nat := 0xBFFFFF0000

/-- Invalidation rounds of the lines of a range. -/
def extInvals (writer : Option Nat) (byHost : Bool) : List Nat → State → Bool × State
  | [], s => (true, s)
  | pa :: ps, s =>
    let (a, s1) := s.extInval pa writer byHost
    let (b, s2) := extInvals writer byHost ps s1
    (a && b, s2)

/-- The range waits behind a lock or an invalidation (R213, R439). -/
def State.extBusy (s : State) (pa n : Nat) : Bool := s.lockedPa pa n || s.invals.any fun v => meets v.base v.size pa n

/-- A write waits behind a held page too, while reads proceed (R478). -/
def State.extHeld (s : State) (pa n : Nat) : Bool := s.extBusy pa n || s.heldPage pa || s.heldPage (pa + n - 1)

/-- A request from outside reaches a slice, which wakes; page heat counts those of the host (R438, R475). -/
def State.extTouch (s : State) (byHost : Bool) (pa : Nat) : State :=
  let sl := s.paSlice pa
  let s1 := s.touchSlice sl
  if byHost then s1.heat sl pa else s1

/-- Write one byte from outside, unless it merges into an uncorrectable sector (R434). -/
def extPut (rep : List Nat) : Nat → List Byte → State → State
  | _, [], s => s
  | pa, b :: bs, s =>
    extPut rep (pa + 1) bs (if s.uncorr.contains (pa / 32) && !rep.contains (pa / 32) then s else s.physPut pa b)

/-- Lines of the range that no slice holds will be filled with stamps past every lease that a core has been granted (R329, R339; log
entry 84). -/
def notePast : List Nat → State → State
  | [], s => s
  | d :: ds, s => let p := s.dieTime d; notePast ds ((s.noteGone d p).ptRaise d p)

/-- A byte of the range lies in no line that is held. -/
def State.absentIn (s : State) (pa n : Nat) : Bool := (List.range n).any fun i => (homeLineAt s.lines (pa + i)).isNone

/-- A write from outside is performed at its lines' homes: they move past the leases of their dies, and what watches them wakes
(R329, R339). -/
def State.extPerform (s : State) (pa : Nat) (bs : List Byte) : State :=
  let n := bs.length
  let rep := s.uncorr.filter fun x => decide (pa ≤ 32 * x ∧ 32 * x + 32 ≤ pa + n)
  let s1 := extPut rep pa bs s
  let s2 := passLeases (s1.linesIn pa n) s1
  let s3 := if s2.absentIn pa n then notePast (List.range 4) s2 else s2
  { s3 with uncorr := s3.uncorr.filter fun x => !rep.contains x }.wrote pa n

/-- Reserve the chunks of pages, or name the page whose ring cannot supply them (R481). -/
def reservePages : List Nat → State → Except Nat State
  | [], s => .ok s
  | p :: ps, s => match s.reserve p with
    | none => .error p
    | some s1 => reservePages ps s1

/-- The 4 KiB pages of a range. -/
def pagesOf (pa n : Nat) : List Nat := (List.range ((pa % 4096 + n + 4095) / 4096)).map fun i => pa / 4096 * 4096 + 4096 * i

/-- A write from outside: it waits for what it must, reserves its pages' chunks, and is then performed. -/
def State.extWrite (s : State) (pa : Nat) (bs : List Byte) (writer : Option Nat) (byHost : Bool) : State :=
  if bs.isEmpty || s.extHeld pa bs.length then s
  else match extInvals writer byHost (piecesOf pa bs.length) s with
    | (false, s1) => s1
    | (true, s1) => match reservePages (pagesOf pa bs.length) s1 with
      | .error p => s1.extNoChunks p
      | .ok s2 => (s2.extTouch byHost pa).extPerform pa bs

/-- An RMW from outside: naturally aligned, on data that is not uncorrectable (R445, R447, R434). -/
def State.extRmw (s : State) (pa n : Nat) (f : Nat → Option Nat) (writer : Option Nat) (byHost : Bool) : State :=
  if pa % n != 0 then s
  else if s.uncorrIn pa n then s.detect 0 pa
  else match f (s.physNat pa n) with
    | some x => s.extWrite pa (toBytesLE n x) writer byHost
    | none => if s.extBusy pa n then s else s.extTouch byHost pa

/-- Number of sharers an entry stands for. -/
def PeerEnt.weight (p : PeerEnt) : Nat := (if p.coarse then 1024 else p.sharers.length) + (if p.host then 1 else 0)

/-- The entry with the fewest sharers, and the oldest among those (R454). -/
def leastPeer : List PeerEnt → Option PeerEnt
  | [] => none
  | p :: ps => match leastPeer ps with
    | none => some p
    | some q => some (if p.weight < q.weight || (p.weight == q.weight && decide (p.since ≤ q.since)) then p else q)

/-- Entries of a die's peer directory. -/
def State.peersOf (s : State) (die : Nat) : List PeerEnt := s.peers.filter (·.die == die)

/-- Change the entry of an address in the peer directory of its home die: false where an entry must first be invalidated and removed, or
a flow that this needs is full (R442, R454). -/
def State.peerTrack (s : State) (pa : Nat) (f : PeerEnt → PeerEnt) : Bool × State :=
  let base := pa / 2048 * 2048
  let die := sliceDie (s.paSlice pa)
  if s.peers.any fun p => p.base == base then
    (true, { s with peers := s.peers.map fun (p : PeerEnt) => if p.base == base then f p else p })
  else if (s.peersOf die).length < 131072 then (true, { s with peers := s.peers ++ [f ⟨die, base, [], false, false, s.clock⟩] })
  else match leastPeer (s.peersOf die) with
    | none => (false, s)
    | some p =>
      let sh := s.sharersOf p.base none false
      (false, if s.invRoom die sh then s.peerInval die p.base sh else s)

/-- A sharer joins an entry; a ninth makes it coarse (R454). -/
def PeerEnt.join (id : Nat) (p : PeerEnt) : PeerEnt :=
  if p.coarse || p.sharers.contains id then p
  else if p.sharers.length < 8 then { p with sharers := p.sharers ++ [id] } else { p with coarse := true }

/-- A host port is in CXL mode. -/
def State.cxlMode (s : State) : Bool := s.cxl.1 || s.cxl.2

/-- The range of an access of the host lies in device memory, or in its own memory with no copy left on the device (R447,
R448). -/
def State.hostMay (s : State) (pa n : Nat) : Bool :=
  if pa + n ≤ hbmEnd then true
  else decide (0x1000000000000 ≤ pa ∧ pa + n ≤ 0x2000000000000) && s.lines.all fun l => !l.within pa n

/-- The host reads: in CXL mode it becomes a sharer of what it reads from the device (R447). -/
def State.hostRead (s : State) (pa n : Nat) : State :=
  if s.extBusy pa n then s
  else
    let s1 := s.extTouch true pa
    if s.cxlMode && decide (pa < hbmEnd) then
      (piecesOf pa n).foldl (fun t p => (t.peerTrack p fun e => { e with host := true }).2) s1
    else s1

/-- Bytes of an access of the host: address and length. -/
def hostRange : HostOp → Nat × Nat
  | .read pa n => (pa, n)
  | .write pa bs => (pa, bs.length)
  | .add pa w _ => (pa, if w then 8 else 4)
  | .swap pa w _ => (pa, if w then 8 else 4)
  | .cas pa n _ _ => (pa, n)

/-- What an access of the host does. -/
def State.hostDo (s : State) : HostOp → State
  | .read pa n => s.hostRead pa n
  | .write pa bs => s.extWrite pa bs none true
  | .add pa w x => let n := if w then 8 else 4; s.extRmw pa n (fun v => some ((v + x.toNat) % 2 ^ (8 * n))) none true
  | .swap pa w x => let n := if w then 8 else 4; s.extRmw pa n (fun _ => some (x.toNat % 2 ^ (8 * n))) none true
  | .cas pa n a b =>
    if n = 4 ∨ n = 8 ∨ n = 16 then
      s.extRmw pa n (fun v => if v = a.toNat % 2 ^ (8 * n) then some (b.toNat % 2 ^ (8 * n)) else none) none true
    else s

/-- HOST_ACCESS: an access of the host is performed at the line's home (R447); waiting events of the fleet log are posted when
room has been made (R483). -/
def execHostAccess (op : HostOp) (s : State) : Out :=
  let (pa, n) := hostRange op
  if n = 0 || !s.hostMay pa n then .next s
  else
    let s1 := s.hostDo op
    .next (evDrain s1.events s1)

/-- Dirty bytes of lines reach memory. -/
def State.dirtyHome (s : State) : List Line → List Host.Cell → List Host.Cell
  | [], m => m
  | l :: ls, m => s.dirtyHome ls (if l.proxy then m else s.writeDirty l l.dirty m)

/-- Raise the PT of the dies that lose lines (R441). -/
def ptDies (gone : List Line) : List Nat → State → State
  | [], s => s
  | d :: ds, s => ptDies gone ds (s.setPt d (s.ptAfter d (gone.filter fun l => l.die == d).length))

/-- The device gives up its lines of a range outside it; none while a PT would pass the hold (R437, R448, R453). -/
def State.giveUp (s : State) (lo n : Nat) : Option State :=
  let gone := s.lines.filter fun l => l.within lo n
  if (List.range 4).all fun d => s.ptFits d (s.ptAfter d (gone.filter fun l => l.die == d).length) then
    some (ptDies gone (List.range 4) { s with
      mem := s.dirtyHome gone s.mem
      lines := s.lines.filter fun l => !l.within lo n })
  else none

/-- HOST_SNOOP: in CXL mode a snoop of the host invalidates the device's copies of a host line (R448). -/
def execHostSnoop (pa : Nat) (s : State) : Out :=
  if s.paKind pa == .host && s.cxlMode then .next ((s.giveUp (pa / 64 * 64) 64).getD s) else .next s

/-- BACK_INVALIDATION_SNOOP_RESPONSE: the host has given up its copies of a region (R447, R454). -/
def execBackInvalidationSnoopResponse (id : Nat) (s : State) : Out :=
  match s.invals.find? fun v => v.id == id && v.target == .host with
  | none => .next s
  | some v => .next ({ s with invals := s.invals.filter fun x => x.id != v.id }.ackPkt v.pkt)

/-! ### Peers (R452 to R454) -/

/-- Another device of the pod. -/
def State.isPeer (s : State) (id : Nat) : Bool := let (en, n, self) := s.peerCfg; en && decide (id < n) && id != self

/-- The kind of an RMW that a peer sends, by its number in R461. -/
def peerKind : Nat → Option ReqKind
  | 1 => some .atom
  | 2 => some .red
  | 3 => some .cas
  | 4 => some .atomx
  | _ => none

/-- The number under which the requests of a peer stand, as no unit has it. -/
def peerUnit : Nat := 4294967297

/-- The request of a peer (R454). DESIGN CHOICE (log entry 120): its RSLOT, LAUNCH, ORD and SCOPE, which no rule gives, are free values. -/
def peerReq (s : State) (k : ReqKind) (id pa code size : Nat) (op0 op1 : BitVec 128) : Req :=
  let v := s.freeVal.1.toNat
  { id := s.nextId, kind := k, code := code, size := size, ord := bitsAt v 19 2, scope := bitsAt v 21 3, unit := peerUnit, grp := id,
    launch := s.freeVal.2.freeVal.1, core := frontCore + 1, ctx := 0, va := pa, op0 := op0, op1 := op1, lane := 0, reg := 0,
    slot := bitsAt v 0 19, cluster := sliceCluster (s.paSlice pa), index := none, performed := false, reply := none, halves := 0, wts := 0,
    batch := 0, ext := true, fault := none, arrived := false, replied := false, pkt := none }

/-- An RMW of a peer to the device's memory goes to the service group of the home, which performs it (R122, R454). -/
def State.peerRmw (s : State) (id pa kind code size : Nat) (op0 op1 : BitVec 128) : State :=
  match peerKind kind with
  | some k =>
    if size ≤ 4 ∧ pa % 2 ^ size = 0 ∧ pa + 2 ^ size ≤ mailBase then
      { s.freeVal.2.freeVal.2 with reqs := s.reqs ++ [peerReq s k id (s.pa52 pa) code size op0 op1] }.fresh
    else s
  | none => s

/-- PEER_REQUEST: a peer's fill makes it a sharer; its write or RMW invalidates every other sharer first. A write that reaches the mailbox
is not stored (R453, R454). A write of a peer to its own memory finds no copy left on the device. -/
def execPeerRequest (op : PeerOp) (s : State) : Out :=
  match op with
  | .fill id pa =>
    if !s.isPeer id || hbmEnd ≤ pa || s.extBusy pa 1 then .next s
    else .next ((s.extTouch false pa).peerTrack pa (PeerEnt.join id)).2
  | .rmw id pa kind code size op0 op1 => if s.isPeer id then .next (s.peerRmw id pa kind code size op0 op1) else .next s
  | .write id pa bs =>
    let own := 0x8000000000000 + id * 2 ^ 40
    if !s.isPeer id then .next s
    else if pa + bs.length ≤ mailBase then .next (s.extWrite pa bs (some id) false)
    else if own ≤ pa ∧ pa + bs.length ≤ own + hbmEnd ∧ (s.lines.all fun l => !l.within pa bs.length) then
      .next (s.physWrite pa bs)
    else .next s

/-- The form of a mailbox message (R453). -/
def State.mailOk (s : State) (m : MailMsg) (kind : Nat) : Bool :=
  m.kind.toNat == kind && s.isPeer m.home.toNat && decide (8 ≤ m.logsz.toNat ∧ m.logsz.toNat ≤ 11) && m.rsv0 == 0 && m.rsv1 == 0 &&
    m.pa.toNat % 2 ^ m.logsz.toNat == 0 && decide (m.pa.toNat < hbmEnd)

/-- A malformed message is dropped and counted (R453, R483). -/
def State.mailBad (s : State) (m : MailMsg) : State := s.event ⟨11, 4, 0, m.home.setWidth 64, 0, none⟩

/-- Return KIND 2 for a message, from this device, to the mailbox of its sender (R453). -/
def State.acknowledge (s : State) (m : MailMsg) : State :=
  { s with mailOut := s.mailOut ++ [(m.home.toNat, { m with home := BitVec.ofNat 16 s.peerCfg.2.2, kind := 2 })] }

/-- PEER_INVALIDATE_MESSAGE: the device gives up every proxy line of a region of its sender and returns the acknowledgement; it waits
while a PT would pass the hold (R437, R453). -/
def execPeerInvalidateMessage (m : MailMsg) (s : State) : Out :=
  if !s.mailOk m 1 then .next (s.mailBad m)
  else match s.giveUp (0x8000000000000 + m.home.toNat * 2 ^ 40 + m.pa.toNat) (2 ^ m.logsz.toNat) with
    | some t => .next (t.acknowledge m)
    | none => .next s

/-- PEER_ACKNOWLEDGE_MESSAGE: a sharer has acknowledged an invalidation, named by its region and number (R453, R454). -/
def execPeerAcknowledgeMessage (m : MailMsg) (s : State) : Out :=
  if !s.mailOk m 2 then .next (s.mailBad m)
  else match s.invals.find? fun (v : Inval) =>
      v.target == .peer m.home.toNat && v.base == m.pa.toNat && v.size == 2 ^ m.logsz.toNat && v.id == m.seq.toNat with
    | none => .next s
    | some v => .next ({ s with invals := s.invals.filter fun x => x.id != v.id }.ackPkt v.pkt)

/-! ### Failed links (R443) -/

/-- LINK_FAILURE: a flow of a port, or the link between two dies, has failed; it is reported, and accesses that travel over it end
as uncorrectable from then on (R443, R483). -/
def execLinkFailure (port flow dieA dieB : Nat) (s : State) : Out :=
  let s1 := s.event ⟨9, if dieA == dieB then 4 else dieA, 0, BitVec.ofNat 64 port, BitVec.ofNat 64 flow, none⟩
  .next (if dieA == dieB then { s1 with failedFlows := s1.failedFlows ++ [(port, flow)] }
    else { s1 with failedDies := s1.failedDies ++ [(dieA, dieB)] })

end Sys2Proof.Machine
end

