-- ==== Sys2Proof/Machine/Fetch.lean ====
section
/-! DEFINITION. Which groups may issue (R244, R247, R250), and fetching and decoding a group's instruction (R13 to R15, R20,
R456). -/

namespace Sys2Proof.Machine

open Sys2Proof

/-- Waits that the group's own slot tests again; the others end by another agent's step. -/
def WaitKind.retests : WaitKind → Bool
  | .barSync | .sleep => false
  | .bwait | .waitb | .waitc | .mxwait | .shpwait | .gsync | .tile => true

/-- A group may issue: its unit is resident, not being promoted and, but for an instruction in progress, not being saved; its
stall count has run out, and it is not parked, held or ended (R19, R247, R282, R430). -/
def mayIssue (U : Unit) (G : Group) (clock : Nat) : Bool :=
  U.st == .resident && !U.promoting && (U.saveAt.isNone || G.mid) && decide (G.readyAt ≤ clock) &&
    match G.st with
    | .ready | .stalled => true
    | .waiting k => k.retests
    | .parked | .held | .ended => false

/-- What a fetch gives: a new state without an instruction, a wait for the slot, or the instruction and the state in which it
executes. -/
inductive Fetched where
  | stop (s : State)
  | wait (s : State)
  | got (i : Instr) (s : State)

/-- Bytes of a slot word (R13). -/
def wordOfBytes (bs : List Byte) : Slot := BitVec.ofNat 96 (ofBytesLE bs)

/-- Keep a fetched slot in the group's fetch buffer and the core's instruction cache (R456); `sup` marks one from a page for
supervisor state alone (R407). -/
def State.keepSlot (s : State) (u g core ctx va : Nat) (w : Slot) (sup : Bool) : State :=
  let s1 : State := { s with
    icache := ⟨core, ctx, va, w, sup⟩ :: s.icache.filter fun x => !(x.core == core && x.ctx == ctx && x.va == va) }
  s1.modGroup u g fun G => { G with fbuf := spSet (0, false) [] va (w, sup) }

/-- A slot that was fetched before serves the group: one from a page for supervisor state serves no other state (R407, R408). -/
def slotServes (U : Unit) (G : Group) (sup : Bool) : Bool := !sup || G.sup || U.svc

/-- The slot at the PC as the fetch buffer or the core's instruction cache hold it for the group (R456). -/
def State.slotHeld (s : State) (U : Unit) (G : Group) : Option (Slot × Bool) :=
  let pc := G.pc.toNat
  let b := spGet (0, false) G.fbuf pc
  if b.1 != 0 && slotServes U G b.2 then some b
  else match s.icache.find? fun x => x.core == U.core && x.ctx == U.ctx && x.va == pc && slotServes U G x.sup with
    | some x => some (x.word, x.sup)
    | none => none

/-- The page that a core's fetch has just translated is for supervisor state alone (R407). -/
def State.supPage (s : State) (core ctx va : Nat) : Bool := match tlbFind (.core core) ctx va s.tlb with
  | some e => e.sup
  | none => false

/-- Read bytes of a slot, line by line as its die may read them (R439, R456), and whether a page of them is for supervisor state alone;
`fuel` bounds the lines. -/
def fetchBytes (core ctx : Nat) (sup : Bool) : Nat → Nat → Nat → State → Piece (List Byte × Bool)
  | 0, _, _, s => .ok ([], false) s
  | fuel + 1, va, n, s =>
    if n = 0 then .ok ([], false) s
    else
      let m := min n (256 - va % 256)
      match s.translate (.core core) (dieOf core) ctx va .fetch sup with
      | .error w => if w.kind == kindWait then .wait s else .fault va w
      | .ok (pa, s1) =>
        if s1.uncorrIn pa m || s1.cutRead (dieOf core) ctx va pa then .uncorr pa
        else if !s1.readReady (dieOf core) ctx va pa m then .wait s1
        else
          let (bs, s2) := ((s1.passPkts (dieOf core) 0 (s1.outPort pa).toList).backPkts (dieOf core) 0 (s1.outPort pa).toList).readPage (dieOf core) ctx none va pa m
          match fetchBytes core ctx sup fuel (va + m) (n - m) s2 with
          | .ok (r, b) s3 => .ok (bs ++ r, s1.supPage core ctx va || b) s3
          | x => x

/-- A slot of a service group's text, by its physical address: it meets locks, copies, flows and failed links as a load of the group does
(R213, R434, R438, R439, R442, R443; log entry 22). -/
def State.fetchSvc (s : State) (u g pc : Nat) (U : Unit) : Except Fetched (Slot × State) :=
  let die := dieOf U.core
  let pa := s.pa52 pc
  if s.svcCutRead die pa || s.uncorrIn pa 12 then .error (.stop (s.consume (s.svcLaunch pa) pa))
  else if !s.svcReadable die pa 12 || s.lockedBy u g pa 12 || s.svcFull die pa 0 then .error (.wait s)
  else
    let w := wordOfBytes ((List.range 12).map fun i => s.svcByte die (pa + i))
    .ok (w, (s.svcReads die pa).keepSlot u g U.core U.ctx pc w false)

/-- The slot word at the PC: from the fetch buffer, the instruction cache, or memory; a fetch that fails traps for the
slot (R15), and one of uncorrectable data ends the launch (R434). A service group's text is physical (log entry 22). -/
def State.fetchWord (s : State) (u g : Nat) (U : Unit) (G : Group) : Except Fetched (Slot × State) :=
  let pc := G.pc.toNat
  let tr (cause : Nat) (walk : Option WalkInfo) : Fetched := .stop (s.takeTrap u g ⟨cause, G.pc, G.mask, G.pc, walk⟩)
  if pc % 4 != 0 then .error (tr 4 none)
  else match s.slotHeld U G with
    | some (w, sup) => .ok (w, s.keepSlot u g U.core U.ctx pc w sup)
    | none =>
      if U.svc then s.fetchSvc u g pc U
      else if !canonical pc || !canonical ((pc + 11) % 2 ^ 64) then .error (tr 6 none)
      else match fetchBytes U.core U.ctx G.sup 3 pc 12 s with
        | .fault _ w => .error (tr (walkCause w.kind) (some w))
        | .uncorr pa => .error (.stop (s.consume U.launch pa))
        | .wait s1 => .error (.wait s1)
        | .ok (bs, sup) s1 => .ok (wordOfBytes bs, s1.keepSlot u g U.core U.ctx pc (wordOfBytes bs) sup)

/-- Fetch and decode the next instruction of a group (R20): a group that may not issue does nothing. -/
def State.fetchGroup (s : State) (u g : Nat) : Fetched :=
  match s.group? u g with
  | none => .stop s
  | some (U, G) =>
    if !mayIssue U G s.clock then .stop s
    else match s.fetchWord u g U G with
      | .error f => f
      | .ok (w, s1) =>
        if spatialOnlyOp (Raw.ofSlot w).op then .stop (s1.takeTrap u g (groupTrap G 1 G.pc.toNat))
        else match decode96 w with
          | .error .illop => .stop (s1.takeTrap u g (groupTrap G 1 G.pc.toNat))
          | .error .illopnd => .stop (s1.takeTrap u g (groupTrap G 2 G.pc.toNat))
          | .ok i => .got i s1

/-- Drop the least recently used line of a set of a core's L1, if it is the line of the sector named (R297). -/
def State.dropL1 (s : State) (core va : Nat) : State :=
  match (l1Set core (va / 4 % (Config.l1Lines / Config.l1Ways)) s.l1).getLast? with
  | some (ctx, n) =>
    if n == va / 4 then { s with l1 := s.l1.filter fun x => !(x.core == core && x.ctx == ctx && x.va / 4 == n) } else s
  | none => s

/-- What a cache replaces of its own accord: the least recently used line of a set, a dirty one after its write-back, a locked one never
(R213, R297, R301); a translation or a slot (R411, R456). -/
def State.dropItem (s : State) : DropItem → State
  | .l1 core va => s.dropL1 core va
  | .icache core va => { s with icache := s.icache.filter fun x => !(x.core == core && x.va == va) }
  | .tlb p va => { s with tlb := s.tlb.filter fun x => !(x.place == p && x.va == va / x.size) }
  | .line k proxy die =>
    match s.lines.find? fun l => l.key == k && l.proxy == proxy && (!proxy || l.die == die) with
    | some l => if s.victim (s.sliceOf l.name) l.key.set == some l then s.replaceLine l else s
    | none => s

end Sys2Proof.Machine
end

