-- ==== Sys2Proof/Machine/Host.lean ====
section
/-! DEFINITION. The registers of the host ports: plain registers (R377, R405, R444, R450, R452, R472), interrupts (R446), reset and
the loading of firmware (R457 to R460), attestation (R484 to R486), page heat, the tier table and the power cap (R473, R474, R487,
R489). -/

namespace Sys2Proof.Machine

open Sys2Proof

/-! ### Plain registers -/

/-- A value with only bits [hi:lo] left. -/
def field (v : DWord) (lo n : Nat) : Nat := bitsAt v.toNat lo n * 2 ^ lo

/-- Half a POOLWIN register (R450): its writable bits. -/
def poolHalf (high : Bool) (v : DWord) : Nat :=
  if high then field v 30 34 + field v 0 4 else field v 30 22 + field v 0 16

/-- A POOLWIN register with one half written. -/
def poolPut (w : BitVec 128) (high : Bool) (v : DWord) : BitVec 128 :=
  if high then BitVec.ofNat 128 (bitsAt w.toNat 0 64 + 2 ^ 64 * poolHalf true v)
  else BitVec.ofNat 128 (poolHalf false v + 2 ^ 64 * bitsAt w.toNat 64 64)

/-- A host register written: reserved bits stay zero (R10). -/
def HostRegs.put (r : HostRegs) (x : HostReg) (v : DWord) : HostRegs :=
  match x with
  | .qtbase => { r with qtbase := BitVec.ofNat 64 (field v 24 28) }
  | .ctxbase => { r with ctxbase := BitVec.ofNat 64 (field v 21 31) }
  | .ftbase => { r with ftbase := BitVec.ofNat 64 (field v 12 40) }
  | .fqbase => { r with fqbase := BitVec.ofNat 64 (field v 21 31) }
  | .fwstage => { r with fwstage := BitVec.ofNat 64 (field v 16 36) }
  | .peercfg => { r with peercfg := BitVec.ofNat 64 (field v 63 1 + field v 32 11 + field v 0 10) }
  | .poolwin n high => { r with poolwin := spSet 0 r.poolwin n.toNat (poolPut (spGet 0 r.poolwin n.toNat) high v) }
  | .tlbaddr => { r with tlbaddr := v }
  | .tlblen => { r with tlblen := v }
  | .evbase => { r with evbase := BitVec.ofNat 64 (field v 12 40) }
  | .attbuf => { r with attbuf := BitVec.ofNat 64 (field v 12 40) }

/-- REGISTER_WRITE (R10, R377, R405, R444, R450, R452). -/
def execRegisterWrite (r : HostReg) (v : DWord) (s : State) : Out := .next { s with regs := s.regs.put r v }

/-! ### Reading a register (R10) -/

/-- A register of window 0 as the host reads it: a write-only field reads as zero, QCMD and TLBCMD show BUSY, INTSTAT its state (R10,
R377, R405, R444, R446, R450, R452, R457). The text gives the other offsets no register. -/
def HostRegs.read0 (r : HostRegs) (off : Nat) : Option DWord :=
  match off with
  | 0x0000 => some r.qtbase
  | 0x0008 => some (if r.qcmd.isSome then 0x8000000000000000 else 0)
  | 0x0010 => some r.ctxbase
  | 0x0018 => some r.tlbcmd
  | 0x0020 => some r.tlbaddr
  | 0x0028 => some r.tlblen
  | 0x0030 => some r.ftbase
  | 0x0038 => some r.fqbase
  | 0x0040 => some 0
  | 0x0048 => some 0
  | 0x0050 => some (r.fwstat.setWidth 64)
  | 0x0058 => some r.fwstage
  | 0x0060 => some r.peercfg
  | 0x0068 => some (r.intstat.setWidth 64)
  | 0x0070 => some (r.intmask.setWidth 64)
  | 0x0078 => some (BitVec.ofNat 64 (r.qerrCount.toNat * 2 ^ 32 + r.qerrQueue.toNat))
  | _ =>
    if 0x100 ≤ off ∧ off < 0x200 ∧ off % 8 = 0 then
      some (BitVec.ofNat 64 (bitsAt (spGet 0 r.poolwin ((off - 0x100) / 16)).toNat (8 * (off % 16)) 64))
    else none

/-- A register of window 1 as the host reads it (R10, R472, R474, R484, R487). -/
def HostRegs.read1 (r : HostRegs) (off : Nat) : Option DWord :=
  match off with
  | 0x0000 => some r.heatctl
  | 0x0008 => some r.tierbase
  | 0x0010 => some r.evbase
  | 0x0018 => some (r.pwrcap.setWidth 64)
  | 0x0020 => some (BitVec.ofNat 64 (r.power.toNat * 2 ^ 32 + r.pwrClock % 2 ^ 16 * 2 ^ 16 + (if r.pwrFloor then 2 else 0) +
      (if r.pwrClock < 3300 then 1 else 0)))
  | 0x0028 => some r.attcmd
  | 0x0030 => some r.attbuf
  | _ => none

/-- What the host reads in a register window of either port; a read changes nothing. -/
def State.hostRegister (s : State) (window off : Nat) : Option DWord :=
  if window = 0 then s.regs.read0 off else if window = 1 then s.regs.read1 off else none

/-! ### Interrupts (R446) -/

/-- INTSTAT_WRITE: writing 1 clears a bit, and with it a message still owed. -/
def execIntstatWrite (v : DWord) (s : State) : Out :=
  .next { s with regs := { s.regs with
    intstat := s.regs.intstat &&& ~~~(v.setWidth 9)
    msixPend := s.regs.msixPend &&& ~~~((v.setWidth 9).setWidth 64) } }

/-- A message that is owed goes out, unless its vector is still masked. -/
def HostRegs.owed (r : HostRegs) (k : Nat) : HostRegs :=
  if r.msixPend.getLsbD k && r.intstat.getLsbD k && r.intmask.getLsbD k then
    { r with msixPend := r.msixPend &&& ~~~BitVec.ofNat 64 (2 ^ k) }.send k
  else r

/-- INTMASK_WRITE: a bit that became 1 while masked sends its message when it is unmasked. -/
def execIntmaskWrite (v : DWord) (s : State) : Out :=
  .next { s with regs := (List.range 9).foldl HostRegs.owed { s.regs with intmask := v.setWidth 9 } }

/-- MSIX_VECTOR_UNMASK: the host unmasks a vector in the MSI-X table, and a message that is owed goes out. -/
def execMsixVectorUnmask (v : BitVec 6) (s : State) : Out :=
  let r := { s.regs with msixMask := s.regs.msixMask &&& ~~~BitVec.ofNat 64 (2 ^ v.toNat) }
  .next { s with regs := r.owed v.toNat }

/-! ### Reset and firmware (R457 to R460) -/

/-- The machine after a reset: contexts, queues and units are gone, memory stands with every dirty line written back, as do fuses,
disabled blocks, the interleave's data and the model's own fields. -/
def State.restart (s : State) : State :=
  { State.reset with
    agenda := s.agenda
    cur := s.cur
    nextId := s.nextId
    freeCtr := s.freeCtr
    mem := s.dirtyHome s.lines s.mem
    uncorr := s.uncorr
    disabledCores := s.disabledCores
    disabledEngines := s.disabledEngines
    retiredSlices := s.retiredSlices
    fwFloor := s.fwFloor
    fwRaises := s.fwRaises
    cxl := s.cxl }

/-- DEVICE_RESET: no image, nothing runs (R457). -/
def execDeviceReset (s : State) : Out := .next s.restart

/-- FWSTAT takes a new value, which is an interrupt (R446, R457). -/
def State.setFwstat (s : State) (v : BitVec 8) : State :=
  if s.regs.fwstat == v then s else ({ s with regs := { s.regs with fwstat := v } }).raiseInt 8

/-- FWCTL_LOAD: ignored while a queue is enabled; else the device is reset and the staged image is loaded (R457). -/
def execFwctlLoad (s : State) : Out :=
  if s.queues.any fun q => q.enabled then .next s
  else
    let s1 := s.restart
    .next (({ s1 with regs := { s1.regs with fwstage := s.regs.fwstage } }).setFwstat 1)

/-- Bytes of an image by offset. -/
def imageBytes (bs : List Byte) (o n : Nat) : List Byte := (bs.drop o).take n

/-- Bytes of the image that FWSTAGE names: its header alone where its size breaks R458. -/
def imageLen (bsize : Nat) : Nat := if 0x1500 + bsize ≤ 2 ^ 26 then 0x1500 + bsize else 0x1500

/-- A section: type, offset in the image, size, its zero word. -/
def sectionAt (img : List Byte) (i : Nat) : Nat × Nat × Nat × Nat :=
  let o := 0x1500 + 16 * i
  (fieldAt img o 4, 0x1500 + fieldAt img (o + 4) 4, fieldAt img (o + 8) 4, fieldAt img (o + 12) 4)

/-- The sections of an image. -/
def sectionsOf (img : List Byte) : List (Nat × Nat × Nat × Nat) := (List.range (min 16 (fieldAt img 0x0C 4))).map (sectionAt img)

/-- Check 1 of R459: the layout of R458. -/
def imageOk (img : List Byte) : Bool :=
  let n := fieldAt img 0x0C 4
  let ss := sectionsOf img
  fieldAt img 0 4 == 0x56574D46 && decide (0x1500 + fieldAt img 8 4 ≤ 2 ^ 26 ∧ 1 ≤ n ∧ n ≤ 16 ∧ 16 * n ≤ fieldAt img 8 4) &&
    (imageBytes img 0x149D 99).all (· == 0) &&
    (ss.all fun x => decide (1 ≤ x.1 ∧ x.1 ≤ 7) && decide (x.2.1 + x.2.2.1 ≤ img.length) && x.2.2.2 == 0) &&
    [1, 3, 6, 7].all fun t => ss.any fun x => x.1 == t

/-- The public key of an image. -/
def imageKey (img : List Byte) : List Byte := imageBytes img 0x10 1952
/-- The digest that an image's signature signs (R459). -/
def imageDigest (img : List Byte) : List Byte := Config.shake256 64 (imageBytes img 0 0x7B0 ++ img.drop 0x1500)

/-- The first check of R459 that fails, as a value of STATE. -/
def bootFailure (img : List Byte) (floor : Nat) : Option (BitVec 8) :=
  if !imageOk img then some 0x10
  else if Config.shake256 32 (imageKey img) != Config.rootKeyDigest then some 0x11
  else if !Config.sigVerifies (imageKey img) (imageDigest img) (imageBytes img 0x7B0 3309) then some 0x12
  else if fieldAt img 4 4 < floor then some 0x13
  else none

/-- The ATOMX table of an image, empty where it has no section 4 (R460). -/
def atomxTable (img : List Byte) : List (Nat × Nat) :=
  match (sectionsOf img).find? fun x => x.1 == 4 with
  | none => List.replicate 16 (0, 0)
  | some x => (List.range 16).map fun i =>
      if 8 * i + 8 ≤ x.2.2.1 then (fieldAt img (x.2.1 + 8 * i) 4, bitsAt (fieldAt img (x.2.1 + 8 * i + 4) 4) 0 2) else (0, 0)

/-- The interleave of an image: the bytes of its section of type 6 (R300, R458). -/
def interleaveOf (img : List Byte) : List Byte :=
  match (sectionsOf img).find? fun x => x.1 == 6 with
  | none => []
  | some x => imageBytes img x.2.1 x.2.2.1

/-- The service program's unit of a cluster, at slot 0 of its section, which lies at a physical address; its registers and its
scratchpad of 9 granules are the model's (R461). DESIGN CHOICE (log entry 87): no rule gives its launch ID and unit index, from which
R49 seeds the stochastic state of its group; the model takes 0 for both in every cluster. -/
def svcUnitOf (cluster text clock : Nat) : Unit :=
  { newUnit ⟨0, 0, 0, true, 0, BitVec.ofNat 64 text - 12, BitVec.ofNat 32 (63 + 9 * 64 + 2 ^ 18), 256⟩ (512 + cluster) clock with
    svc := true }

/-- The image runs: its tables are taken, the service programs start (R459, R460). -/
def State.runImage (s : State) (img : List Byte) : State :=
  let text := match (sectionsOf img).find? fun x => x.1 == 3 with
    | some x => s.regs.fwstage.toNat + x.2.1
    | none => s.regs.fwstage.toNat
  { s with
    fw := some ⟨fieldAt img 4 4, imageKey img, imageDigest img, atomxTable img, interleaveOf img, s.retiredSlices,
      (sectionsOf img).any fun x => x.1 == 5⟩
    units := s.units ++ (List.range Config.clusters).map fun c => svcUnitOf c text s.clock }

/-- The four digests are one. -/
def sameDigests (ds : List (List Byte)) : Bool := ds.all fun d => some d == ds.head?

/-- FIRMWARE_BOOT_CHECK: the four boot processors have checked the staged image; `r` holds the bytes that they read and the digests
that they found. The image runs, or STATE reports the first failure and the device is left as at reset (R457, R459). -/
def execFirmwareBootCheck (r : BootResult) (s : State) : Out :=
  let base := s.regs.fwstage.toNat
  let n := imageLen (s.physNat (base + 8) 4)
  if s.regs.fwstat != 1 || r.image != s.physBytes base n || r.digests.length != 4 then .next s
  else match bootFailure r.image s.fwFloor with
    | some v => .next (s.setFwstat v)
    | none => if sameDigests r.digests then .next ((s.runImage r.image).setFwstat 2) else .next (s.setFwstat 0x14)

/-! ### Attestation (R484 to R486) -/

/-- Address of the attestation buffer. -/
def State.attBase (s : State) : Nat := s.pa52 s.regs.attbuf.toNat
/-- A command of ATTCMD ends with a result, and BUSY clears (R446, R484). -/
def State.attEnd (s : State) (r : Nat) : State := ({ s with regs := { s.regs with attcmd := BitVec.ofNat 64 (256 * r) } }).raiseInt 7
/-- A list brought to a length. -/
def fixLen (n : Nat) (l : List Byte) : List Byte := l.take n ++ List.replicate (n - l.length) 0

/-- The report of a quote without its signature (R485). -/
def State.report (s : State) (f : FwImage) (nonce : List Byte) : List Byte :=
  nonce ++ fixLen 16 Config.devId ++ fixLen 64 f.digest ++ toBytesLE 4 f.svn ++ toBytesLE 4 s.fwFloor ++
    ((List.range Config.clusters).flatMap fun c => toBytesLE 8 (s.signature c).toNat) ++ toBytesLE 8 0 ++
    fixLen 1952 Config.identityKey

/-- A command needs a running image (R484). -/
def State.withImage (s : State) (k : FwImage → Out) : Out :=
  match s.fw with
  | some f => if s.regs.fwstat == 2 then k f else .next (s.attEnd 3)
  | none => .next (s.attEnd 3)

/-- ATTCMD_QUOTE (R485). -/
def execAttcmdQuote (s : State) : Out := s.withImage fun f =>
  let body := s.report f (s.physBytes s.attBase 32)
  .next ((s.ownWrite s.attBase (body ++ fixLen 3309 (Config.identitySign (Config.shake256 64 body)))).attEnd 0)

/-- ATTCMD_READ_CERTIFICATE (R485). -/
def execAttcmdReadCertificate (s : State) : Out := s.withImage fun _ =>
  .next ((s.ownWrite s.attBase (Config.identityCert.take 8192)).attEnd 0)

/-- The request in the buffer authorizes a new floor (R486). -/
def State.floorOk (s : State) (f : FwImage) : Bool :=
  let b := s.physBytes s.attBase 0x20
  imageBytes b 0 16 == fixLen 16 Config.devId && decide (s.fwFloor < fieldAt b 0x10 4 ∧ fieldAt b 0x10 4 ≤ f.svn) &&
    Config.sigVerifies f.pubkey (Config.shake256 64 b) (s.physBytes (s.attBase + 0x20) 3309)

/-- ATTCMD_RAISE_FLOOR: the fuses allow 63 raises (R486). -/
def execAttcmdRaiseFloor (s : State) : Out := s.withImage fun f =>
  if 63 ≤ s.fwRaises then .next (s.attEnd 2)
  else if !s.floorOk f then .next (s.attEnd 1)
  else .next ({ s with fwFloor := s.physNat (s.attBase + 0x10) 4, fwRaises := s.fwRaises + 1 }.attEnd 0)

/-! ### Heat, tiers, power (R473, R474, R487, R489) -/

/-- HEATCTL_WRITE: page heat that is turned on, or whose decay period changes, counts its period from the write on (R476; log entry 122); with
EN set and SHIFT above 8 or DECAY outside 20 to 40 it is ignored (R474). -/
def execHeatctlWrite (v : DWord) (s : State) : Out :=
  if v.getLsbD 63 && (decide (8 < bitsAt v.toNat 0 4) || decide (bitsAt v.toNat 8 6 < 20) || decide (40 < bitsAt v.toNat 8 6)) then
    .next s
  else .next { s with
    regs := { s.regs with heatctl := BitVec.ofNat 64 (field v 63 1 + field v 8 6 + field v 0 4) }
    decayAt := if s.heatOn && bitsAt s.regs.heatctl.toNat 8 6 == bitsAt v.toNat 8 6 then s.decayAt else s.clock }

/-- A range lies in one enabled pool window. -/
def inWindow : Sparse (BitVec 128) → Nat → Nat → Bool
  | [], _, _ => false
  | (_, w) :: r, lo, n =>
    (w.getLsbD 0 && decide (bitsAt w.toNat 30 22 * 2 ^ 30 ≤ lo ∧
      lo + n ≤ bitsAt w.toNat 30 22 * 2 ^ 30 + bitsAt w.toNat 1 15 * 2 ^ 30)) || inWindow r lo n

/-- Entry `i` of the tier table (R473). -/
def State.tierEntry (s : State) (i : Nat) : Tier × Bool :=
  let a := s.pa52 (bitsAt s.regs.tierbase.toNat 12 40 * 4096) + 0x100 + 64 * i
  let b := s.physBytes a 64
  let f (o n : Nat) : Nat := fieldAt b o n
  let t : Tier := ⟨i, f 0 8, f 8 8, f 0x10 8, f 0x18 1 == 1, bitsAt (f 0x19 1) 0 1 == 1, bitsAt (f 0x19 1) 1 1 == 1,
    f 0x20 8, f 0x28 8, f 0x30 8, f 0x38 8⟩
  let place := if t.pool then decide (t.base < paMod) && inWindow s.regs.poolwin t.base t.size else decide (t.base + t.size ≤ hbmEnd)
  (t, t.base % 2097152 == 0 && t.size % 2097152 == 0 && t.size != 0 && t.heat % 4096 == 0 && decide (f 0x18 1 ≤ 1) &&
    decide (f 0x19 1 ≤ 3) && f 0x1A 6 == 0 && place)

/-- Take the entries that obey R473, in order; the rest are named. -/
def takeTiers (s : State) : List Nat → List Tier × List Nat
  | [] => ([], [])
  | i :: is =>
    let (ts, bad) := takeTiers s is
    let (t, ok) := s.tierEntry i
    if ok && (List.range i).all fun j => let (u, o) := s.tierEntry j; !o || !meets u.base u.size t.base t.size then (t :: ts, bad)
    else (ts, i :: bad)

/-- A cell of memory lies in a page of a compressed range whose entry has count 0 and no reservation: such a page is all zero (R480). -/
def State.zeroCell (s : State) (ts : List Tier) (k : Nat) : Bool :=
  ts.any fun t =>
    let b := s.memAt t.base
    t.comp && decide (b ≤ k ∧ k < b + t.size) &&
      (let c := s.physNat (t.mapAddr (t.base + (k - b)) + 0x10) 1
       bitsAt c 0 3 == 0 && bitsAt c 7 1 == 0)

/-- TIERBASE_WRITE: the new table's entries are checked once, and each that is ignored is reported (R472, R473, R489). The pages of a
compressed range are what their map entries say: one of no chunks is zero, and the bytes of any other stand at its logical address (R480;
log entry 5). -/
def execTierbaseWrite (v : DWord) (s : State) : Out :=
  let s1 := { s with regs := { s.regs with tierbase := BitVec.ofNat 64 (field v 12 40 + field v 0 7) } }
  let (ts, bad) := takeTiers s1 (List.range (min 64 (bitsAt v.toNat 0 7)))
  .next (bad.foldl (fun t i => t.event ⟨12, 4, bad.length, BitVec.ofNat 64 i, 0, none⟩) { s1 with
    tiers := ts, mem := s1.mem.filter fun c => !s1.zeroCell ts c.1 })

/-- PWRCAP_WRITE: LIMIT is clamped to 400 to 2,800 (R487). -/
def execPwrcapWrite (v : DWord) (s : State) : Out :=
  .next { s with regs := { s.regs with pwrcap := BitVec.ofNat 16 (max 400 (min 2800 (bitsAt v.toNat 0 16))) } }

end Sys2Proof.Machine
end

