-- ==== Sys2Proof/Machine/Fleet.lean ====
section
/-! DEFINITION. Fleet operation: decay of page heat (R476), migration of pages between tiers (R477 to R479, R488), recompression
(R480, R481), self-test (R482, R483) and the power cap's clock steps (R487). -/

namespace Sys2Proof.Machine

open Sys2Proof

/-! ### Heat decay (R476) -/

/-- HEAT_DECAY: once a period every counter c becomes floor(3c / 4) (R476). -/
def execHeatDecay (s : State) : Out := .next s.decay

/-! ### Migration (R477 to R479, R488) -/

/-- Bytes of a migrating page. -/
def migSize (large : Bool) : Nat := if large then 2097152 else 65536
/-- The owner word of a frame: context and address (R473). -/
def State.ownerOf (s : State) (t : Tier) (pa : Nat) : Nat := s.physNat (t.owner + 8 * ((pa - t.base) / 65536)) 8
/-- The address an owner word names. -/
def ownerVa (w : Nat) : Nat := canonVa (bitsAt w 12 41 * 65536)

/-- The entries of a page's leaf: one at level 2, sixteen with CONTIG at level 1 (R407, R409). -/
def State.migLeaves (s : State) (ctx va pa : Nat) (large : Bool) : Option (List Nat) :=
  match s.walk ctx va with
  | .fault _ _ | .uncorr _ => none
  | .leaf ptr lvl p bits =>
    if large then (if lvl = 2 ∧ p = pa ∧ va % 2097152 = 0 then some [ptr] else none)
    else if lvl = 1 ∧ p = pa ∧ bitsAt bits 7 1 = 1 ∧ va % 65536 = 0 ∧
        ((List.range 16).all fun i => s.physNat (ptr + 8 * i) 8 / 4096 % 2 ^ 40 * 4096 == pa + 4096 * i &&
          bitsAt (s.physNat (ptr + 8 * i) 8) 7 1 == 1 && bitsAt (s.physNat (ptr + 8 * i) 8) 0 1 == 1) then
      some ((List.range 16).map fun i => ptr + 8 * i)
    else none

/-- The page's frames lie in one range, its owner word names its mapping, and it has not moved within 2^24 cycles (R477). -/
def State.migratable (s : State) (t : Tier) (pa : Nat) (large : Bool) : Bool :=
  let w := s.ownerOf t pa
  t.migrate && pa % migSize large == 0 && decide (t.base ≤ pa ∧ pa + migSize large ≤ t.base + t.size) && w != 0 &&
    (s.migLeaves (bitsAt w 0 12) (ownerVa w) pa large).isSome &&
    !(s.moved.any fun m => meets m.1 m.2.1 pa (migSize large) && decide (s.clock < m.2.2 + 2 ^ 24)) &&
    !(s.migrations.any fun m => meets m.old (migSize m.large) pa (migSize large))

/-- Die of a page: its line's home. -/
def State.migDie (s : State) (ctx va : Nat) : Nat := sliceDie (s.homeOf (s.keyOf ctx va).1)

/-- Control block of the ring that supplies frames of the other tier (R473). -/
def State.frameRing (s : State) (t : Tier) (large : Bool) : Nat :=
  s.pa52 (bitsAt s.regs.tierbase.toNat 12 40 * 4096) + (if t.pool then 0 else 128) + (if large then 64 else 0)

/-- The running image holds policies, the tiering policy among them (R458, R477). -/
def State.tiering (s : State) : Bool := s.regs.fwstat == 2 && match s.fw with
  | some f => f.policy
  | none => false

/-- MIGRATION_START: a page that the policy names and that meets R477 takes a destination frame and is held (R478, steps 1 and 2). -/
def execMigrationStart (tier frame : Nat) (large : Bool) (s : State) : Out :=
  match s.tiers.find? fun t => t.idx == tier with
  | none => .next s
  | some t =>
    let pa := t.base + 65536 * frame
    let w := s.ownerOf t pa
    let die := s.migDie (bitsAt w 0 12) (ownerVa w)
    if !s.tiering || !s.migratable t pa large ||
        decide (4 ≤ (s.migrations.filter fun m => m.die == die).length) then .next s
    else match takeRing (s.frameRing t large) 1 s with
      | some ([x], s1) => .next { s1 with migrations := s1.migrations ++
          [(⟨s1.nextId, die, large, pa, x % paMod, bitsAt w 0 12, ownerVa w, s1.clock⟩ : Migration)] }.fresh
      | _ => .next s

/-- The page of a migration: context, address and size. -/
def Migration.page (m : Migration) : Nat × Nat × Nat := (m.ctx, m.va, migSize m.large)

/-- A migration ends without effect on the page: the frame is reported free (R478). -/
def State.migAbandon (s : State) (m : Migration) : State :=
  { s with migrations := s.migrations.filter fun x => x.id != m.id }.event
    ⟨2, m.die, 0, BitVec.ofNat 64 m.old, BitVec.ofNat 64 m.new, some m.page⟩

/-- An address of a context lies in the page. -/
def Migration.has (m : Migration) (ctx va : Nat) : Bool := ctx == m.ctx && decide (m.va ≤ va ∧ va < m.va + migSize m.large)

/-- Step 3: the owner word still names the page's mapping, no service request names the page and no lock is held on it (R478). -/
def State.migHolds (s : State) (m : Migration) : Bool :=
  (match s.tiers.find? fun t => decide (t.base ≤ m.old ∧ m.old < t.base + t.size) with
    | none => false
    | some t =>
      let w := s.ownerOf t m.old
      w != 0 && bitsAt w 0 12 == m.ctx && ownerVa w == m.va && (s.migLeaves m.ctx m.va m.old m.large).isSome) &&
    !(s.reqs.any fun q => q.index.isSome && !q.performed && m.has q.ctx q.va) && !s.lockedPa m.old (migSize m.large)

/-- The shootdown of a migrating page (R412). -/
def Migration.shoot (m : Migration) : Shootdown := ⟨m.id, false, 0, 0, some m.ctx, m.va, some (migSize m.large)⟩

/-- A physical byte of the old frame, at its new place. -/
def Migration.move (m : Migration) (pa : Nat) : Nat :=
  if m.old ≤ pa ∧ pa < m.old + migSize m.large then pa - m.old + m.new else pa

/-- Memory after the frame has been copied: the destination holds what the old frame holds. -/
def copyFrame (old new n : Nat) (mem : List Host.Cell) : List Host.Cell :=
  (mem.filter fun c => decide (old ≤ c.1 ∧ c.1 < old + n)).foldl (fun m c => spSet 0 m (c.1 - old + new) c.2)
    (mem.filter fun c => !decide (new ≤ c.1 ∧ c.1 < new + n))

/-- Leaves rewritten to a new frame, every other bit kept (R478, step 5). -/
def putLeaves : List Nat → Nat → State → State
  | [], _, s => s
  | p :: ps, pa, s =>
    let e := s.physNat p 8
    putLeaves ps (pa + 4096) (s.ownPut p 8 (e - bitsAt e 12 40 * 4096 + pa))

/-- Steps 4 to 6: write-back and copy, the leaf, the shootdown; cached lines, and the accesses that wait, now lie in the new frame
(R478). -/
def State.migMove (s : State) (m : Migration) (leaves : List Nat) : State :=
  let n := migSize m.large
  let hit (l : Line) : Bool := l.within m.old n
  let mem1 := s.dirtyHome (s.lines.filter hit) s.mem
  let moveLine (l : Line) : Line :=
    if hit l then { l with dirty := [], segs := l.segs.map fun g => (g.1, g.2.1, m.move g.2.2) } else l
  let s1 : State := { s with
    mem := copyFrame (s.memAt m.old) (s.memAt m.new) n mem1
    uncorr := (s.uncorr.filter fun x => !decide (m.new ≤ 32 * x ∧ 32 * x < m.new + n)) ++
      (s.uncorr.filter fun x => decide (m.old ≤ 32 * x ∧ 32 * x < m.old + n)).map fun x => m.move (32 * x) / 32
    lines := s.lines.map moveLine
    loads := s.loads.map fun p => { p with pa := m.move p.pa }
    stores := s.stores.map fun p => { p with pa := m.move p.pa } }
  (putLeaves leaves m.new s1).shootEntries m.shoot

/-- Record the proxy copies of the moved lines at their new place (R440). -/
def markMoved (m : Migration) : List Line → State → Bool × State
  | [], s => (true, s)
  | l :: ls, s =>
    if l.proxy && l.within m.old (migSize m.large) then
      match markSegs (sliceDie (s.homeOf l.key)) l.die (l.segs.map fun g => (g.1, g.2.1, m.move g.2.2)) s with
      | (true, s1) => markMoved m ls s1
      | (false, s1) => (false, s1)
    else markMoved m ls s

/-- MIGRATION_FINISH: steps 3 to 7; a check that fails abandons the migration. Writes that wait go on in the new frame (R478, R488). -/
def execMigrationFinish (id : Nat) (s : State) : Out :=
  match s.migrations.find? fun m => m.id == id with
  | none => .next s
  | some m =>
    if m.startedAt + 2 ^ 16 ≤ s.clock then .next s
    else if !s.migHolds m then .next (s.migAbandon m)
    else if s.invalPending m.old then .next s
    else match s.migLeaves m.ctx m.va m.old m.large with
      | none => .next (s.migAbandon m)
      | some leaves => match markMoved m s.lines s with
        | (false, s1) => .next s1
        | (true, s1) =>
          let s2 := s1.migMove m leaves
          .next ({ s2 with
            migrations := s2.migrations.filter fun x => x.id != id
            moved := (m.new, migSize m.large, s2.clock) :: s2.moved.filter fun x => decide (s2.clock < x.2.2 + 2 ^ 24) }.event
              ⟨1, m.die, 0, BitVec.ofNat 64 m.old, BitVec.ofNat 64 m.new, some m.page⟩)

/-- MIGRATION_HOLD_TIMEOUT: a hold of 2^16 cycles abandons the migration (R478). -/
def execMigrationHoldTimeout (id : Nat) (s : State) : Out :=
  match s.migrations.find? fun m => m.id == id with
  | none => .next s
  | some m => if m.startedAt + 2 ^ 16 ≤ s.clock then .next (s.migAbandon m) else .next s

/-! ### Recompression (R480, R481) -/

/-- Accesses in flight or requests to be translated name a physical range. -/
def State.inFlight (s : State) (lo n : Nat) : Bool :=
  (s.loads.any fun p => meets p.pa 32 lo n) || (s.stores.any fun p => p.wts.isNone && meets p.pa 16 lo n) ||
    s.reqs.any fun q => !q.performed && match s.reqPa q with
      | some p => meets p (2 ^ q.size) lo n
      | none => false

/-- A line holds dirty bytes of a physical range. -/
def State.dirtyIn (s : State) (lo n : Nat) : Bool :=
  s.lines.any fun l => !l.proxy && l.dirty.any fun o => match segPa l.segs o with
    | some p => decide (lo ≤ p ∧ p < lo + n)
    | none => false

/-- The shootdown of a physical page: every cached translation that reaches it goes. -/
def State.shootPa (s : State) (lo n : Nat) : State :=
  { s with tlb := s.tlb.filter fun e => e.table || !meets e.pa e.size lo n }.emptyPorts fun _ p => match p.tlb with
    | some (_, f, k) => meets (f * 2 ^ k) (2 ^ k) lo n
    | none => false

/-- Chunks a page takes: none where it is all zero, 1 to 4 otherwise (R480). -/
def chunksOf (bs : List Byte) : Nat := if bs.all (· == 0) then 0 else max 1 (min 4 (Config.compressedChunks bs))

/-- Free the chunks of a page entry from index `i` on; `n` counts them (R481). -/
def freeChunks (t : Tier) (a : Nat) : Nat → Nat → State → State
  | 0, _, s => s
  | n + 1, i, s =>
    let x := s.physNat (a + 4 * i) 4
    freeChunks t a n (i + 1) ((s.ownPut (a + 4 * i) 4 0xFFFFFFFF).event ⟨3, 4, 0, BitVec.ofNat 64 x, BitVec.ofNat 64 t.idx, none⟩)

/-- A page is shot down and recompressed; it keeps the chunks its form needs (R481). -/
def State.recompress (s : State) (t : Tier) (pa : Nat) : State :=
  let a := t.mapAddr pa
  let c := chunksOf (s.physBytes pa 4096)
  let s1 := { s.shootPa pa 4096 with dirtyAt := spSet 0 s.dirtyAt (pa / 4096) 0 }
  let kept := (List.range c).map fun i => s1.physNat (a + 4 * i) 4
  let s2 := ((freeChunks t a (4 - c) c s1).ownPut (a + 0x10) 1 c).fillChunks t kept
  if c = 4 then s2.event ⟨5, 4, 0, BitVec.ofNat 64 pa, BitVec.ofNat 64 t.idx, none⟩ else s2

/-- RECOMPRESSION: a page with a reservation, clean for 2^20 cycles, is recompressed; the cycles count from when it is found clean.
Uncorrectable data is consumed: it is reported and stays, and no launch is charged (R434, R481; log entry 72). -/
def execRecompression (tier page : Nat) (s : State) : Out :=
  match s.tiers.find? fun t => t.idx == tier with
  | none => .next s
  | some t =>
    let pa := t.base + 4096 * page
    let since := spGet 0 s.dirtyAt (pa / 4096)
    if !t.comp || t.base + t.size < pa + 4096 || bitsAt (s.physNat (t.mapAddr pa + 0x10) 1) 7 1 != 1 || s.inFlight pa 4096 then
      .next s
    else if s.dirtyIn pa 4096 then .next { s with dirtyAt := spSet 0 s.dirtyAt (pa / 4096) 0 }
    else if since = 0 then .next { s with dirtyAt := spSet 0 s.dirtyAt (pa / 4096) (s.clock + 1) }
    else if s.clock + 1 < since + 2 ^ 20 then .next s
    else match s.uncorr.find? fun x => decide (pa ≤ 32 * x ∧ 32 * x < pa + 4096) with
      | some x => .next ({ s with dirtyAt := spSet 0 s.dirtyAt (pa / 4096) 0 }.detect 0 (32 * x))
      | none => .next (s.recompress t pa)

/-! ### Self-test (R482) -/

/-- The unit that holds a core, or whose configuration runs on it. -/
def State.unitOn (s : State) (c : Nat) : Option Nat :=
  s.units.findIdx? fun U => (U.st == .resident && !U.svc && U.core == c) || U.regionCores.contains c

/-- A tile task's pass runs on an engine. -/
def State.engineInPass (s : State) (e : Nat) : Bool := s.tasks.any fun t => t.engine == e && t.pass

/-- Transient outcomes of a block within the last 2^40 cycles. -/
def State.recent (s : State) (b : Block) : List (Block × Nat) :=
  s.transients.filter fun x => x.1 == b && decide (s.clock < x.2 + 2 ^ 40)

/-- What a block's failure does; whether spares are left is not stated: a free value (R482). -/
def State.blockFails (s : State) (b : Block) : State :=
  let (v, s1) := s.freeVal
  match b with
  | .core n => { s with disabledCores := if s.disabledCores.contains n then s.disabledCores else s.disabledCores ++ [n] }
  | .engine n =>
    { s with disabledEngines := if s.disabledEngines.contains n then s.disabledEngines else s.disabledEngines ++ [n] }
  | .sramRow n _ => if v.getLsbD 0 then { s1 with retiredSlices := s1.retiredSlices ++ [n] } else s1
  | .hbmRow n _ => if v.getLsbD 0 then s1.event ⟨10, 4, 0, BitVec.ofNat 64 (2097152 * n), 0, none⟩ else s1
  | .linkLane _ => s

/-- The die of a block; 4 where the spec does not place it. -/
def blockDie : Block → Nat
  | .core n => dieOf n
  | .engine n => dieOf (4 * n)
  | .sramRow n _ => sliceDie n
  | .hbmRow _ _ | .linkLane _ => 4

/-- The event of an outcome; how it names the block is not stated: a free value (R483). -/
def State.testEvent (s : State) (b : Block) (r : Nat) : State :=
  let (v, s1) := s.freeVal
  s1.event ⟨7, blockDie b, 0, v, BitVec.ofNat 64 r, none⟩

/-- The outcome of a self-test: three transients within 2^40 cycles count as failed. -/
def State.outcome (s : State) (b : Block) (pass : Bool) : State :=
  if !pass then (s.blockFails b).testEvent b 1
  else if 2 ≤ (s.recent b).length then (s.blockFails b).testEvent b 2
  else { s with transients := s.transients ++ [(b, s.clock)] }.testEvent b 0

/-- The block may be tested: an engine between passes, a core without a unit. -/
def State.testable (s : State) (b : Block) : Bool :=
  match b with
  | .core n => decide (n < Config.cores) && (s.unitOn n).isNone
  | .engine n => decide (n < Config.quads) && !s.engineInPass n
  | .sramRow _ _ | .hbmRow _ _ | .linkLane _ => true

/-- A unit on a core that is to be tested is saved first with its cohort, where the save pool holds them (R294, R427, R482). -/
def State.clearCore (s : State) (c : Nat) : State :=
  match s.unitOn c with
  | none => s
  | some u => match s.units[u]? with
    | none => s
    | some U =>
      let us := s.cohortOf u U
      if s.allUnits us Unit.holds then (markSave true us s).getD s else s

/-- A block that owes no test reports a corrected error; its address and the block's kind are not stated: free values (R482, R483; log
entry 42). -/
def State.reports (s : State) (b : Block) : State :=
  if s.owed.contains b then s
  else
    let (v, s1) := s.freeVal
    let (w, s2) := s1.freeVal
    { s2 with owed := s2.owed ++ [b] }.event ⟨6, blockDie b, 0, v, w, none⟩

/-- SELF_TEST: a block that has reported an error, corrected or uncorrectable, is tested; its unit is saved first where it holds one
(R482). -/
def execSelfTest (b : Block) (pass : Bool) (s : State) : Out :=
  let s1 := s.reports b
  if s1.testable b then .next ({ s1 with owed := s1.owed.erase b }.outcome b pass)
  else match b with
    | .core n => .next (s1.clearCore n)
    | .engine _ | .sramRow _ _ | .hbmRow _ _ | .linkLane _ => .next s1

/-! ### Power (R487) -/

/-- POWER_CLOCK_STEP: firmware reads the average power of the last 10 ms and of the last 100 µs, which are not stated: free values. It
moves the arithmetic clock one step of 100 MHz between 1,200 and 3,300: down while one of them is over its limit, up while neither is
(R487, R488). -/
def execPowerClockStep (up : Bool) (s : State) : Out :=
  if s.regs.fwstat != 2 then .next s
  else
    let (v, s1) := s.freeVal
    let p := bitsAt v.toNat 0 16
    let hot := decide (s.regs.pwrcap.toNat < p ∨ 5 * s.regs.pwrcap.toNat < 4 * bitsAt v.toNat 16 16)
    let c := if up == hot then s.regs.pwrClock
      else if up then min 3300 (s.regs.pwrClock + 100) else max 1200 (s.regs.pwrClock - 100)
    .next { s1 with regs := { s1.regs with
      power := BitVec.ofNat 16 p
      pwrClock := c
      pwrFloor := c == 1200 && hot } }

end Sys2Proof.Machine
end

