-- ==== Sys2Proof/Machine/Turn.lean ====
section
/-! DEFINITION. What a turn of the agenda may name as an event, and the placing of a single instruction where the next step fetches
it. -/

namespace Sys2Proof.Machine

open Sys2Proof

/-- Steps of the device and of the outside world, which no agent fetches. -/
def isEvent : Instr → Bool
  | .barrierReevaluate _ => true
  | .checksumRefetch _ => true
  | .packetCompletion _ _ => true
  | .deltaApply _ => true
  | .launchCompletion _ => true
  | .predictorAnswer _ _ => true
  | .predictorTimeout _ => true
  | .deadlineExpiry _ => true
  | .csigAbort _ => true
  | .widxWake _ => true
  | .queueMap _ _ => true
  | .queueSlotReclaim _ _ => true
  | .queueUnmap _ => true
  | .qcmdEnable _ => true
  | .qcmdDisable _ => true
  | .qcmdReset _ => true
  | .tlbcmdRange _ => true
  | .tlbcmdContext _ => true
  | .tlbcmdAll => true
  | .shootdownComplete _ => true
  | .icinvInvalidation _ _ => true
  | .replayRetry _ _ _ => true
  | .replayFail _ _ _ => true
  | .replayRetryAll _ _ => true
  | .watchdogExpiry _ => true
  | .fwctlLoad => true
  | .firmwareBootCheck _ => true
  | .attcmdQuote => true
  | .attcmdRaiseFloor => true
  | .attcmdReadCertificate => true
  | .heatctlWrite _ => true
  | .tierbaseWrite _ => true
  | .pwrcapWrite _ => true
  | .intstatWrite _ => true
  | .intmaskWrite _ => true
  | .registerWrite _ _ => true
  | .deviceReset => true
  | .unitStart _ _ _ => true
  | .unitRetire _ => true
  | .rotationPreempt _ _ => true
  | .squashPreempt _ _ => true
  | .unitEvict _ _ => true
  | .unitSave _ => true
  | .unitRestore _ _ _ _ => true
  | .stageEvaluation _ => true
  | .bindOff _ => true
  | .promotion _ => true
  | .sleepExpiry _ _ => true
  | .waitcRepoll _ _ => true
  | .spatialLoad _ _ _ => true
  | .operatorFiring _ _ => true
  | .streamReadReturn _ _ => true
  | .spatialExit _ => true
  | .copyCommandStart _ => true
  | .copyCommandArrival _ _ => true
  | .engineGrant _ => true
  | .passEnd _ => true
  | .anyDispatch _ _ _ => true
  | .loadSectorReturn _ _ => true
  | .storePerformed _ => true
  | .writeAcknowledgement _ => true
  | .atomicReply _ => true
  | .serviceRequestDelivery _ => true
  | .tcTick _ => true
  | .epochAdvance _ => true
  | .sliceSleep _ => true
  | .sliceWake _ => true
  | .proxyFill _ _ _ _ _ => true
  | .regionMerge _ _ _ => true
  | .hostAccess _ => true
  | .hostSnoop _ => true
  | .peerRequest _ => true
  | .peerInvalidateMessage _ => true
  | .peerAcknowledgeMessage _ => true
  | .linkFailure _ _ _ _ => true
  | .heatDecay => true
  | .migrationStart _ _ _ => true
  | .migrationFinish _ => true
  | .migrationHoldTimeout _ => true
  | .recompression _ _ => true
  | .selfTest _ _ => true
  | .powerClockStep _ => true
  | .copyRequestPerformed _ _ => true
  | .stampScrub _ _ _ _ _ => true
  | .proxyInvalidation _ => true
  | .backInvalidationSnoopResponse _ => true
  | .msixVectorUnmask _ => true
  | _ => false

/-- A queue with a slot and a program of one word, at that word. -/
def queueWith (q : Nat) (prog : DWord) (code : List Word) (pkt : List Byte) : Queue :=
  { n := q, enabled := true, stopping := false, ring := 0, logn := 4, cls := 0, ctx := 0, notify := 0, prog := prog,
    ridx := 1, widx := 1, error := none, die := some 0, slot := 0, held := true, passed := 0, readyFrom := none, mappedAt := 0,
    idleSince := 0, wake := false, wakePkt := none, taken := false, code := code, wins := [], w := [], pc := 0, loops := [],
    win1 := [], pkt := pkt, pktIdx := 0, busy := true, steps := 0, launches := 0, lrec := none, lfail := none, joined := false, wait := none,
    woken := false, wakeBy := 0, fault := none, refetch := 0, refetchAt := 0, started := [⟨0, false, 0, 0, []⟩] }

/-- Put a queue in place of queue 0 and give it the next turn. -/
def State.placeQueue (s : State) (Q : Queue) : State :=
  { s with queues := Q :: s.queues.filter (·.n != 0), agenda := ⟨0, .qstep 0⟩ :: s.agenda }

/-- A resident unit of one group at address 0, with 256 vector registers. -/
def unitAt (clock : Nat) : Unit :=
  newUnit ⟨1, 0, 0, true, 0, BitVec.ofNat 64 (2 ^ 64 - 12), BitVec.ofNat 32 (63 + 9 * 64 + 2 ^ 18), 256⟩ 0 clock

/-- Add a unit whose group finds a slot word at its pc in the core's instruction cache, and give it the next turn. -/
def State.placeSlot (s : State) (w : Slot) : State :=
  let U := unitAt s.clock
  { s with
    units := s.units ++ [U]
    icache := ⟨0, 0, 0, w, false⟩ :: s.icache.filter fun x => !(x.core == 0 && x.ctx == 0 && x.va == 0)
    agenda := ⟨0, .issue s.units.length 0⟩ :: s.agenda }

end Sys2Proof.Machine
end

