-- ==== Sys2Proof/Machine/Dispatch.lean ====
section
/-! DEFINITION. The dispatch: one arm per instruction, each a direct call of its meaning. -/

namespace Sys2Proof.Machine

open Sys2Proof

def exec (i : Instr) (s : State) : Host.Outcome State Fault Refusal :=
  match i with
  | .add h m x => Sys2Proof.Machine.execAdd h m x s
  | .sub h m x => Sys2Proof.Machine.execSub h m x s
  | .mul h m x => Sys2Proof.Machine.execMul h m x s
  | .mulh h m x => Sys2Proof.Machine.execMulh h m x s
  | .mad h m x => Sys2Proof.Machine.execMad h m x s
  | .madw h m x => Sys2Proof.Machine.execMadw h m x s
  | .div h m x => Sys2Proof.Machine.execDiv h m x s
  | .rem h m x => Sys2Proof.Machine.execRem h m x s
  | .abs h m x => Sys2Proof.Machine.execAbs h m x s
  | .neg h m x => Sys2Proof.Machine.execNeg h m x s
  | .min h m x => Sys2Proof.Machine.execMin h m x s
  | .max h m x => Sys2Proof.Machine.execMax h m x s
  | .and h m x => Sys2Proof.Machine.execAnd h m x s
  | .or h m x => Sys2Proof.Machine.execOr h m x s
  | .xor h m x => Sys2Proof.Machine.execXor h m x s
  | .not h m x => Sys2Proof.Machine.execNot h m x s
  | .shl h m x => Sys2Proof.Machine.execShl h m x s
  | .shr h m x => Sys2Proof.Machine.execShr h m x s
  | .sar h m x => Sys2Proof.Machine.execSar h m x s
  | .rot h m x => Sys2Proof.Machine.execRot h m x s
  | .bfx h m x => Sys2Proof.Machine.execBfx h m x s
  | .bfi h m x => Sys2Proof.Machine.execBfi h m x s
  | .popc h m x => Sys2Proof.Machine.execPopc h m x s
  | .clz h m x => Sys2Proof.Machine.execClz h m x s
  | .brev h m x => Sys2Proof.Machine.execBrev h m x s
  | .blut h m x => Sys2Proof.Machine.execBlut h m x s
  | .sel h m x => Sys2Proof.Machine.execSel h m x s
  | .mov h m x => Sys2Proof.Machine.execMov h m x s
  | .movi h m x => Sys2Proof.Machine.execMovi h m x s
  | .bperm h m x => Sys2Proof.Machine.execBperm h m x s
  | .addc h m x => Sys2Proof.Machine.execAddc h m x s
  | .subb h m x => Sys2Proof.Machine.execSubb h m x s
  | .aadd h m x => Sys2Proof.Machine.execAadd h m x s
  | .amad h m x => Sys2Proof.Machine.execAmad h m x s
  | .amov h m x => Sys2Proof.Machine.execAmov h m x s
  | .aget h m x => Sys2Proof.Machine.execAget h m x s
  | .lea h m x => Sys2Proof.Machine.execLea h m x s
  | .dp4 h m x => Sys2Proof.Machine.execDp4 h m x s
  | .dp2 h m x => Sys2Proof.Machine.execDp2 h m x s
  | .sad h m x => Sys2Proof.Machine.execSad h m x s
  | .fadd h m x => Sys2Proof.Machine.execFadd h m x s
  | .fsub h m x => Sys2Proof.Machine.execFsub h m x s
  | .fmul h m x => Sys2Proof.Machine.execFmul h m x s
  | .ffma h m x => Sys2Proof.Machine.execFfma h m x s
  | .fmin h m x => Sys2Proof.Machine.execFmin h m x s
  | .fmax h m x => Sys2Proof.Machine.execFmax h m x s
  | .frcp h m x => Sys2Proof.Machine.execFrcp h m x s
  | .frsq h m x => Sys2Proof.Machine.execFrsq h m x s
  | .fsqrt h m x => Sys2Proof.Machine.execFsqrt h m x s
  | .fdiv h m x => Sys2Proof.Machine.execFdiv h m x s
  | .fex2 h m x => Sys2Proof.Machine.execFex2 h m x s
  | .flg2 h m x => Sys2Proof.Machine.execFlg2 h m x s
  | .fsin h m x => Sys2Proof.Machine.execFsin h m x s
  | .fcos h m x => Sys2Proof.Machine.execFcos h m x s
  | .ftanh h m x => Sys2Proof.Machine.execFtanh h m x s
  | .fsigm h m x => Sys2Proof.Machine.execFsigm h m x s
  | .fdot2 h m x => Sys2Proof.Machine.execFdot2 h m x s
  | .fdot4 h m x => Sys2Proof.Machine.execFdot4 h m x s
  | .cvt h m d a => Sys2Proof.Machine.execCvt h m d a s
  | .cvts h m d a => Sys2Proof.Machine.execCvts h m d a s
  | .bfpk h m d a => Sys2Proof.Machine.execBfpk h m d a s
  | .bfpx h m d a => Sys2Proof.Machine.execBfpx h m d a s
  | .qscl h m d a => Sys2Proof.Machine.execQscl h m d a s
  | .itest h ty nc cmp x => Sys2Proof.Machine.execItest h ty nc cmp x s
  | .ftest h f64 nc cmp x => Sys2Proof.Machine.execFtest h f64 nc cmp x s
  | .plut h lut x => Sys2Proof.Machine.execPlut h lut x s
  | .pmovPack h x => Sys2Proof.Machine.execPmovPack h x s
  | .pmovUnpack h x => Sys2Proof.Machine.execPmovUnpack h x s
  | .vote h m x => Sys2Proof.Machine.execVote h m x s
  | .matchLanes h b64 x => Sys2Proof.Machine.execMatchLanes h b64 x s
  | .xlane h b64 m x => Sys2Proof.Machine.execXlane h b64 m x s
  | .lreduce h m x => Sys2Proof.Machine.execLreduce h m x s
  | .lscan h m x => Sys2Proof.Machine.execLscan h m x s
  | .bcast h x => Sys2Proof.Machine.execBcast h x s
  | .smov h x => Sys2Proof.Machine.execSmov h x s
  | .bra h join off => Sys2Proof.Machine.execBra h join off s
  | .brx h a join => Sys2Proof.Machine.execBrx h a join s
  | .join h => Sys2Proof.Machine.execJoin h s
  | .call h ind d a off => Sys2Proof.Machine.execCall h ind d a off s
  | .ret h x => Sys2Proof.Machine.execRet h x s
  | .exit h => Sys2Proof.Machine.execExit h s
  | .loop h d off => Sys2Proof.Machine.execLoop h d off s
  | .barSync h => Sys2Proof.Machine.execBarSync h s
  | .barArrive h => Sys2Proof.Machine.execBarArrive h s
  | .yield h => Sys2Proof.Machine.execYield h s
  | .nop h => Sys2Proof.Machine.execNop h s
  | .sleep h x => Sys2Proof.Machine.execSleep h x s
  | .gsync h => Sys2Proof.Machine.execGsync h s
  | .ld h m x => Sys2Proof.Machine.execLd h m x s
  | .st h m x => Sys2Proof.Machine.execSt h m x s
  | .lds h m x => Sys2Proof.Machine.execLds h m x s
  | .sts h m x => Sys2Proof.Machine.execSts h m x s
  | .ldc h m x => Sys2Proof.Machine.execLdc h m x s
  | .ldx h m x => Sys2Proof.Machine.execLdx h m x s
  | .stx h m x => Sys2Proof.Machine.execStx h m x s
  | .ldm h m x => Sys2Proof.Machine.execLdm h m x s
  | .stm h m x => Sys2Proof.Machine.execStm h m x s
  | .fence h k sc => Sys2Proof.Machine.execFence h k sc s
  | .fenceAsync h => Sys2Proof.Machine.execFenceAsync h s
  | .atom h m x => Sys2Proof.Machine.execAtom h m x s
  | .red h m x => Sys2Proof.Machine.execRed h m x s
  | .cas h m x => Sys2Proof.Machine.execCas h m x s
  | .atomx h m x => Sys2Proof.Machine.execAtomx h m x s
  | .atoms h m x => Sys2Proof.Machine.execAtoms h m x s
  | .cass h m x => Sys2Proof.Machine.execCass h m x s
  | .waitc h m x => Sys2Proof.Machine.execWaitc h m x s
  | .cctl h op x => Sys2Proof.Machine.execCctl h op x s
  | .pref h tc x => Sys2Proof.Machine.execPref h tc x s
  | .cpy h m x => Sys2Proof.Machine.execCpy h m x s
  | .cpyt h m x => Sys2Proof.Machine.execCpyt h m x s
  | .cpyg h m x => Sys2Proof.Machine.execCpyg h m x s
  | .cpys h m x => Sys2Proof.Machine.execCpys h m x s
  | .binit h x => Sys2Proof.Machine.execBinit h x s
  | .bexp h x => Sys2Proof.Machine.execBexp h x s
  | .barrive h ext x => Sys2Proof.Machine.execBarrive h ext x s
  | .bwait h x => Sys2Proof.Machine.execBwait h x s
  | .btest h x => Sys2Proof.Machine.execBtest h x s
  | .seal h x => Sys2Proof.Machine.execSeal h x s
  | .waitb h x => Sys2Proof.Machine.execWaitb h x s
  | .tclook h x => Sys2Proof.Machine.execTclook h x s
  | .tcpref h x => Sys2Proof.Machine.execTcpref h x s
  | .tchalo h m x => Sys2Proof.Machine.execTchalo h m x s
  | .tcinv h m x => Sys2Proof.Machine.execTcinv h m x s
  | .tcwb h m x => Sys2Proof.Machine.execTcwb h m x s
  | .mxpost h x => Sys2Proof.Machine.execMxpost h x s
  | .mxwait h x => Sys2Proof.Machine.execMxwait h x s
  | .mxqry h x => Sys2Proof.Machine.execMxqry h x s
  | .mxcan h x => Sys2Proof.Machine.execMxcan h x s
  | .gset h clr n x => Sys2Proof.Machine.execGset h clr n x s
  | .slabld h m x => Sys2Proof.Machine.execSlabld h m x s
  | .slabfree h x => Sys2Proof.Machine.execSlabfree h x s
  | .spxs h m x => Sys2Proof.Machine.execSpxs h m x s
  | .shpq h x => Sys2Proof.Machine.execShpq h x s
  | .shpwait h x => Sys2Proof.Machine.execShpwait h x s
  | .shpset h sys x => Sys2Proof.Machine.execShpset h sys x s
  | .tmapset h x => Sys2Proof.Machine.execTmapset h x s
  | .tmapclr h x => Sys2Proof.Machine.execTmapclr h x s
  | .spaton h x => Sys2Proof.Machine.execSpaton h x s
  | .send h x => Sys2Proof.Machine.execSend h x s
  | .strld h gather x => Sys2Proof.Machine.execStrld h gather x s
  | .strst h x => Sys2Proof.Machine.execStrst h x s
  | .gtok h x => Sys2Proof.Machine.execGtok h x s
  | .dropt h x => Sys2Proof.Machine.execDropt h x s
  | .toki h x => Sys2Proof.Machine.execToki h x s
  | .spatq h x => Sys2Proof.Machine.execSpatq h x s
  | .spexit h x => Sys2Proof.Machine.execSpexit h x s
  | .hpref h r => Sys2Proof.Machine.execHpref h r s
  | .hprio h r => Sys2Proof.Machine.execHprio h r s
  | .hnote h r => Sys2Proof.Machine.execHnote h r s
  | .hintRegionNop h op r => Sys2Proof.Machine.execHintRegionNop h op r s
  | .trap h x => Sys2Proof.Machine.execTrap h x s
  | .sread h x => Sys2Proof.Machine.execSread h x s
  | .swrite h x => Sys2Proof.Machine.execSwrite h x s
  | .rte h x => Sys2Proof.Machine.execRte h x s
  | .hrec h x => Sys2Proof.Machine.execHrec h x s
  | .hrecW h x => Sys2Proof.Machine.execHrecW h x s
  | .pmap h x => Sys2Proof.Machine.execPmap h x s
  | .tlbinv h f x => Sys2Proof.Machine.execTlbinv h f x s
  | .icinv h all x => Sys2Proof.Machine.execIcinv h all x s
  | .park h x => Sys2Proof.Machine.execPark h x s
  | .bkpt h x => Sys2Proof.Machine.execBkpt h x s
  | .perf h x => Sys2Proof.Machine.execPerf h x s
  | .svcrmwLock h b64 x => Sys2Proof.Machine.execSvcrmwLock h b64 x s
  | .svcrmwUnlock h b64 x => Sys2Proof.Machine.execSvcrmwUnlock h b64 x s
  | .svcret h x => Sys2Proof.Machine.execSvcret h x s
  | .unassignedOpcode w => Sys2Proof.Machine.execUnassignedOpcode w s
  | .movq d im => Sys2Proof.Machine.execMovq d im s
  | .addq d a im => Sys2Proof.Machine.execAddq d a im s
  | .andq d a im => Sys2Proof.Machine.execAndq d a im s
  | .orq d a im => Sys2Proof.Machine.execOrq d a im s
  | .shlq d a im => Sys2Proof.Machine.execShlq d a im s
  | .shrq d a im => Sys2Proof.Machine.execShrq d a im s
  | .addr d a b => Sys2Proof.Machine.execAddr d a b s
  | .subr d a b => Sys2Proof.Machine.execSubr d a b s
  | .andr d a b => Sys2Proof.Machine.execAndr d a b s
  | .orr d a b => Sys2Proof.Machine.execOrr d a b s
  | .xorr d a b => Sys2Proof.Machine.execXorr d a b s
  | .seqr d a b => Sys2Proof.Machine.execSeqr d a b s
  | .sltr d a b => Sys2Proof.Machine.execSltr d a b s
  | .sltur d a b => Sys2Proof.Machine.execSltur d a b s
  | .ldb d x n w o => Sys2Proof.Machine.execLdb d x n w o s
  | .ldh d x n w o => Sys2Proof.Machine.execLdh d x n w o s
  | .ldw d x n w o => Sys2Proof.Machine.execLdw d x n w o s
  | .ldd d x n w o => Sys2Proof.Machine.execLdd d x n w o s
  | .stb d x n w o => Sys2Proof.Machine.execStb d x n w o s
  | .sth d x n w o => Sys2Proof.Machine.execSth d x n w o s
  | .stw d x n w o => Sys2Proof.Machine.execStw d x n w o s
  | .std d x n w o => Sys2Proof.Machine.execStd d x n w o s
  | .bz a im => Sys2Proof.Machine.execBz a im s
  | .bnz a im => Sys2Proof.Machine.execBnz a im s
  | .jmp im => Sys2Proof.Machine.execJmp im s
  | .qprogLoop c im => Sys2Proof.Machine.execQprogLoop c im s
  | .lnch d a im => Sys2Proof.Machine.execLnch d a im s
  | .xfer d a b => Sys2Proof.Machine.execXfer d a b s
  | .siga a b => Sys2Proof.Machine.execSiga a b s
  | .sigw a b => Sys2Proof.Machine.execSigw a b s
  | .wall d m => Sys2Proof.Machine.execWall d m s
  | .wany d m => Sys2Proof.Machine.execWany d m s
  | .canx a l => Sys2Proof.Machine.execCanx a l s
  | .cfgd a => Sys2Proof.Machine.execCfgd a s
  | .fin a => Sys2Proof.Machine.execFin a s
  | .qerr a c => Sys2Proof.Machine.execQerr a c s
  | .launch p => Sys2Proof.Machine.execLaunch p s
  | .barrierAnd p => Sys2Proof.Machine.execBarrierAnd p s
  | .barrierOr p => Sys2Proof.Machine.execBarrierOr p s
  | .signal p => Sys2Proof.Machine.execSignal p s
  | .copy p => Sys2Proof.Machine.execCopy p s
  | .configDelta p => Sys2Proof.Machine.execConfigDelta p s
  | .cancel p => Sys2Proof.Machine.execCancel p s
  | .nopPacket p => Sys2Proof.Machine.execNopPacket p s
  | .customPacket ty p => Sys2Proof.Machine.execCustomPacket ty p s
  | .barrierReevaluate q => Sys2Proof.Machine.execBarrierReevaluate q s
  | .checksumRefetch q => Sys2Proof.Machine.execChecksumRefetch q s
  | .packetCompletion q index => Sys2Proof.Machine.execPacketCompletion q index s
  | .deltaApply delta => Sys2Proof.Machine.execDeltaApply delta s
  | .launchCompletion l => Sys2Proof.Machine.execLaunchCompletion l s
  | .predictorAnswer l count => Sys2Proof.Machine.execPredictorAnswer l count s
  | .predictorTimeout l => Sys2Proof.Machine.execPredictorTimeout l s
  | .deadlineExpiry l => Sys2Proof.Machine.execDeadlineExpiry l s
  | .csigAbort l => Sys2Proof.Machine.execCsigAbort l s
  | .widxWake q => Sys2Proof.Machine.execWidxWake q s
  | .queueMap q die => Sys2Proof.Machine.execQueueMap q die s
  | .queueSlotReclaim waiter holder => Sys2Proof.Machine.execQueueSlotReclaim waiter holder s
  | .queueUnmap q => Sys2Proof.Machine.execQueueUnmap q s
  | .qcmdEnable q => Sys2Proof.Machine.execQcmdEnable q s
  | .qcmdDisable q => Sys2Proof.Machine.execQcmdDisable q s
  | .qcmdReset q => Sys2Proof.Machine.execQcmdReset q s
  | .tlbcmdRange ctx => Sys2Proof.Machine.execTlbcmdRange ctx s
  | .tlbcmdContext ctx => Sys2Proof.Machine.execTlbcmdContext ctx s
  | .tlbcmdAll => Sys2Proof.Machine.execTlbcmdAll s
  | .shootdownComplete id => Sys2Proof.Machine.execShootdownComplete id s
  | .icinvInvalidation die id => Sys2Proof.Machine.execIcinvInvalidation die id s
  | .replayRetry die ctx seq => Sys2Proof.Machine.execReplayRetry die ctx seq s
  | .replayFail die ctx seq => Sys2Proof.Machine.execReplayFail die ctx seq s
  | .replayRetryAll die ctx => Sys2Proof.Machine.execReplayRetryAll die ctx s
  | .watchdogExpiry t => Sys2Proof.Machine.execWatchdogExpiry t s
  | .fwctlLoad => Sys2Proof.Machine.execFwctlLoad s
  | .firmwareBootCheck r => Sys2Proof.Machine.execFirmwareBootCheck r s
  | .attcmdQuote => Sys2Proof.Machine.execAttcmdQuote s
  | .attcmdRaiseFloor => Sys2Proof.Machine.execAttcmdRaiseFloor s
  | .attcmdReadCertificate => Sys2Proof.Machine.execAttcmdReadCertificate s
  | .heatctlWrite v => Sys2Proof.Machine.execHeatctlWrite v s
  | .tierbaseWrite v => Sys2Proof.Machine.execTierbaseWrite v s
  | .pwrcapWrite v => Sys2Proof.Machine.execPwrcapWrite v s
  | .intstatWrite v => Sys2Proof.Machine.execIntstatWrite v s
  | .intmaskWrite v => Sys2Proof.Machine.execIntmaskWrite v s
  | .registerWrite r v => Sys2Proof.Machine.execRegisterWrite r v s
  | .deviceReset => Sys2Proof.Machine.execDeviceReset s
  | .unitStart launch stage cs => Sys2Proof.Machine.execUnitStart launch stage cs s
  | .unitRetire u => Sys2Proof.Machine.execUnitRetire u s
  | .rotationPreempt victim waiter => Sys2Proof.Machine.execRotationPreempt victim waiter s
  | .squashPreempt victim waiter => Sys2Proof.Machine.execSquashPreempt victim waiter s
  | .unitEvict u waiter => Sys2Proof.Machine.execUnitEvict u waiter s
  | .unitSave u => Sys2Proof.Machine.execUnitSave u s
  | .unitRestore us cs row col => Sys2Proof.Machine.execUnitRestore us cs row col s
  | .stageEvaluation l => Sys2Proof.Machine.execStageEvaluation l s
  | .bindOff l => Sys2Proof.Machine.execBindOff l s
  | .promotion u => Sys2Proof.Machine.execPromotion u s
  | .sleepExpiry u g => Sys2Proof.Machine.execSleepExpiry u g s
  | .waitcRepoll u g => Sys2Proof.Machine.execWaitcRepoll u g s
  | .spatialLoad u row col => Sys2Proof.Machine.execSpatialLoad u row col s
  | .operatorFiring u op => Sys2Proof.Machine.execOperatorFiring u op s
  | .streamReadReturn u port => Sys2Proof.Machine.execStreamReadReturn u port s
  | .spatialExit u => Sys2Proof.Machine.execSpatialExit u s
  | .copyCommandStart u => Sys2Proof.Machine.execCopyCommandStart u s
  | .copyCommandArrival u cmd => Sys2Proof.Machine.execCopyCommandArrival u cmd s
  | .engineGrant engine => Sys2Proof.Machine.execEngineGrant engine s
  | .passEnd engine => Sys2Proof.Machine.execPassEnd engine s
  | .anyDispatch u handle target => Sys2Proof.Machine.execAnyDispatch u handle target s
  | .loadSectorReturn id lease => Sys2Proof.Machine.execLoadSectorReturn id lease s
  | .storePerformed id => Sys2Proof.Machine.execStorePerformed id s
  | .writeAcknowledgement id => Sys2Proof.Machine.execWriteAcknowledgement id s
  | .atomicReply id => Sys2Proof.Machine.execAtomicReply id s
  | .serviceRequestDelivery id => Sys2Proof.Machine.execServiceRequestDelivery id s
  | .tcTick core => Sys2Proof.Machine.execTcTick core s
  | .epochAdvance die => Sys2Proof.Machine.execEpochAdvance die s
  | .sliceSleep slice => Sys2Proof.Machine.execSliceSleep slice s
  | .sliceWake slice => Sys2Proof.Machine.execSliceWake slice s
  | .proxyFill die ctx tensor tile line => Sys2Proof.Machine.execProxyFill die ctx tensor tile line s
  | .regionMerge die base k => Sys2Proof.Machine.execRegionMerge die base k s
  | .hostAccess op => Sys2Proof.Machine.execHostAccess op s
  | .hostSnoop pa => Sys2Proof.Machine.execHostSnoop pa s
  | .peerRequest op => Sys2Proof.Machine.execPeerRequest op s
  | .peerInvalidateMessage m => Sys2Proof.Machine.execPeerInvalidateMessage m s
  | .peerAcknowledgeMessage m => Sys2Proof.Machine.execPeerAcknowledgeMessage m s
  | .linkFailure port flow dieA dieB => Sys2Proof.Machine.execLinkFailure port flow dieA dieB s
  | .heatDecay => Sys2Proof.Machine.execHeatDecay s
  | .migrationStart tier frame large => Sys2Proof.Machine.execMigrationStart tier frame large s
  | .migrationFinish id => Sys2Proof.Machine.execMigrationFinish id s
  | .migrationHoldTimeout id => Sys2Proof.Machine.execMigrationHoldTimeout id s
  | .recompression tier page => Sys2Proof.Machine.execRecompression tier page s
  | .selfTest b pass => Sys2Proof.Machine.execSelfTest b pass s
  | .powerClockStep up => Sys2Proof.Machine.execPowerClockStep up s
  | .copyRequestPerformed u cmd => Sys2Proof.Machine.execCopyRequestPerformed u cmd s
  | .stampScrub die ctx tensor tile line => Sys2Proof.Machine.execStampScrub die ctx tensor tile line s
  | .proxyInvalidation id => Sys2Proof.Machine.execProxyInvalidation id s
  | .backInvalidationSnoopResponse id => Sys2Proof.Machine.execBackInvalidationSnoopResponse id s
  | .msixVectorUnmask v => Sys2Proof.Machine.execMsixVectorUnmask v s

end Sys2Proof.Machine
end

