-- ==== Sys2Proof/Machine/Sched.lean ====
section
/-! DEFINITION. When things happen: which group a quarter issues (R19, R242, R247, R250), what has become due when a cycle is to pass
(R105, R132, R250, R274, R338, R344, R367, R371, R376, R388, R476, R478), and the watch kept over readiness after each step (R250,
R346, R381, R382). Log entry 2 says how these fit together. -/

namespace Sys2Proof.Machine

open Sys2Proof

/-! ### Readiness and the choice of a quarter (R242, R247, R250) -/

/-- The quarter from which a group issues (R242). -/
def quarterOf (U : Unit) (g : Nat) : Nat := 4 * U.core + (if U.cm16 then g / 2 else g) % 4

/-- The group is READY: it may issue, its slot has been fetched, and it is not stalled, or a stall's cause has cleared (R247). -/
def State.isReady (s : State) (U : Unit) (G : Group) : Bool :=
  mayIssue U G s.clock && (G.st == .ready || (G.st == .stalled && G.readyFrom.isSome)) && (s.slotHeld U G).isSome

/-- Groups of a unit that are READY in a quarter, but for `g`. -/
def State.rivals (s : State) (U : Unit) (g : Nat) : List (Group × Nat) :=
  U.groups.zipIdx.filter fun x => x.2 != g && quarterOf U x.2 == quarterOf U g && s.isReady U x.1

/-- Cycles for which a group has been READY without issuing (R250). -/
def Group.age (G : Group) (clock : Nat) : Nat := clock - G.readyFrom.getD clock
/-- YIELD or YLD: the group is passed over by the choice by class in this cycle (R19, R250). -/
def Group.passed (G : Group) (clock : Nat) : Bool := G.passAt == clock && G.passAt != 0
/-- Key of a quarter's class in the record of turns. -/
def turnKey (U : Unit) (g : Nat) (G : Group) : Nat := 4 * quarterOf U g + G.hprio.toNat
/-- How far a group lies behind the group of its class that issued last, in slot order (R250). -/
def State.turnDist (s : State) (U : Unit) (g : Nat) (G : Group) : Nat := (g + 64 - spGet 0 s.turnOf (turnKey U g G) % 64) % 64

/-- A quarter that has not issued in this cycle chooses the group among its READY ones: by age from 48 cycles on, the oldest first;
else by HPRIO class, round-robin within a class (R250). -/
def State.picks (s : State) (U : Unit) (g : Nat) (G : Group) : Bool :=
  let rs := s.rivals U g
  let old (x : Group) : Bool := decide (48 ≤ x.age s.clock)
  let fresh := rs.filter fun x => !x.1.passed s.clock
  decide (spGet 0 s.lastIssue (quarterOf U g) ≤ s.clock) &&
    (if old G || rs.any fun x => old x.1 then old G && rs.all fun x => decide (x.1.age s.clock ≤ G.age s.clock)
    else if G.passed s.clock && !fresh.isEmpty then false
    else (if G.passed s.clock then rs else fresh).all fun x =>
      decide (x.1.hprio.toNat < G.hprio.toNat) ||
        (x.1.hprio == G.hprio && decide (s.turnDist U g G ≤ s.turnDist U x.2 x.1)))

/-- A group has issued: its quarter issues nothing else in this cycle. -/
def State.issued (s : State) (U : Unit) (g : Nat) (G : Group) : State :=
  { s with
    lastIssue := spSet 0 s.lastIssue (quarterOf U g) (s.clock + 1)
    turnOf := spSet 0 s.turnOf (turnKey U g G) (g + 1) }

/-- The group is stalled or waits at its slot. -/
def State.blocked (s : State) (u g : Nat) : Bool := match s.group? u g with
  | some (_, G) => match G.st with
    | .stalled | .waiting _ => true
    | .ready | .parked | .held | .ended => false
  | none => false

/-- A group whose cause has not cleared looks again in the next cycle. -/
def State.notReady (s : State) (u g : Nat) : State :=
  s.modGroup u g fun G => { G with readyFrom := none, readyAt := max G.readyAt (s.clock + 1) }

/-- A stalled group whose cause has cleared is READY from now on, and keeps its place in what it waited for. -/
def State.cleared (s : State) (u g : Nat) : State :=
  s.modGroup u g fun G => { G with readyFrom := G.readyFrom <|> some s.clock }

/-- What follows in a group that was let issue: it has issued, unless it stalls. -/
def State.afterIssue (s : State) (u g : Nat) (U : Unit) (G : Group) : State :=
  match s.group? u g with
  | some (_, H) => if H.st == .stalled then s.notReady u g else if s.blocked u g then (s.issued U g G).notReady u g else s.issued U g G
  | none => s.issued U g G

/-- What follows in a group that looked whether its wait or stall is over. -/
def State.afterRetest (s : State) (u g : Nat) : State := if s.blocked u g then s.notReady u g else s

/-! ### Turns -/

/-- An agent executes an instruction. -/
def execAs (a : Agent) (i : Instr) (s : State) : Host.Outcome State Fault Refusal := exec i { s with cur := a }

/-- Go on from a next state. -/
def thenState (o : Host.Outcome State Fault Refusal) (f : State → State) : Host.Outcome State Fault Refusal :=
  match o with
  | .next s => .next (f s)
  | .fault e => .fault e
  | .refused r => .refused r

/-- The group stalled on a full scoreboard or reservation table, whose freed entry it takes on the next cycle (R312, R352). -/
def Group.claims (G : Group) : Bool := match G.claim with
  | some (.scoreboard, _) | some (.table, _) => true
  | some (.batch, _) | none => false

/-- A group that its quarter has not chosen: a stalled one looks whether its cause has cleared. One that stalled on a full scoreboard or
table takes the freed entry, whatever its quarter issues in this cycle (R312, R352). -/
def State.lookOnly (s : State) (u g : Nat) (G : Group) (i : Instr) : Host.Outcome State Fault Refusal :=
  if G.st != .stalled then .next s
  else match execAs (.group u g) i s with
    | .next t => .next (if t.blocked u g then t.notReady u g else if G.claims then t else s.cleared u g)
    | .fault _ | .refused _ => .next (s.cleared u g)

/-- The turn of a group (R20, R247, R250): it fetches its slot and decodes it; a wait is tested again, and a READY group that its
quarter chooses issues. -/
def State.groupTurn (s : State) (u g : Nat) : Host.Outcome State Fault Refusal :=
  match s.group? u g with
  | none => .next s
  | some (U, G) =>
    match s.fetchGroup u g with
    | .stop s1 => .next (if mayIssue U G s.clock then s1.afterIssue u g U G else s1)
    | .wait s1 => .next s1
    | .got i s1 => match G.st with
      | .waiting _ => thenState (execAs (.group u g) i s1) fun t => t.afterRetest u g
      | .ready | .stalled | .parked | .held | .ended =>
        if s1.picks U g G then thenState (execAs (.group u g) i s1) fun t => t.afterIssue u g U G
        else s1.lookOnly u g G i

/-- The turn of a queue (R382). -/
def State.queueTurnOf (s : State) (q : Nat) : Host.Outcome State Fault Refusal :=
  match s.fetchQueue q with
  | .stop s1 => .next s1
  | .got i s1 => execAs (.queue q) i s1

/-- A turn of the agenda. -/
def State.turn (s : State) : Turn → Host.Outcome State Fault Refusal
  | .issue u g => s.groupTurn u g
  | .qstep q => s.queueTurnOf q
  | .event i => if isEvent i then execAs .front i s else .next s
  | .drop d => .next (s.dropItem d)

/-! ### What is due before a cycle passes -/

/-- What the device does of itself at a time the manual bounds. -/
inductive Due where
  | group (u g : Nat)
  | sleepEnd (u g : Nat)
  | poll (u g : Nat)
  | signals (q : Nat)
  | abort (l : Nat)
  | deadline (l : Nat)
  | predictor (l : Nat)
  | stages (l : Nat)
  | grant (e : Nat)
  | decay
  | holdEnd (id : Nat)
  | test (b : Block)
  | record (die : Nat)
  deriving DecidableEq, Repr

/-- Do it. -/
def State.perform (s : State) : Due → Host.Outcome State Fault Refusal
  | .group u g => s.groupTurn u g
  | .sleepEnd u g => execSleepExpiry u g s
  | .poll u g => execWaitcRepoll u g s
  | .signals q => execBarrierReevaluate q s
  | .abort l => execCsigAbort l s
  | .deadline l => execDeadlineExpiry l s
  | .predictor l => execPredictorTimeout l s
  | .stages l => execStageEvaluation l s
  | .grant e => execEngineGrant e s
  | .decay => execHeatDecay s
  | .holdEnd id => execMigrationHoldTimeout id s
  | .test b => execSelfTest b (s.freeVal.1.getLsbD 0) s.freeVal.2
  | .record die => .next (s.postOwed die)

/-- The first of a list that a test names. -/
def firstOf {α β : Type} (f : α → Option β) : List α → Option β
  | [] => none
  | x :: xs => match f x with
    | some y => some y
    | none => firstOf f xs

/-- The cause of a group's wait or stall is to be looked at in every cycle; a WAITC reads again once its time has come (R247, R338). -/
def Group.looks (G : Group) (clock : Nat) : Bool :=
  match G.st with
  | .stalled => G.readyFrom.isNone
  | .waiting .waitc => G.wcPoll && G.wakeBy != 0 && decide (G.wakeBy ≤ clock)
  | .waiting k => k.retests
  | .ready | .parked | .held | .ended => false

/-- What a group is to do in this cycle: to end a sleep 64 cycles after its length (R105), to look at its cause, or to
issue (R250). -/
def State.groupDue (s : State) (u : Nat) (U : Unit) (g : Nat) (G : Group) : Option Due :=
  if G.st == .waiting .sleep && U.st == .resident && decide (G.sleepUntil + 64 ≤ s.clock) then some (.sleepEnd u g)
  else if mayIssue U G s.clock && G.looks s.clock then some (.group u g)
  else if s.isReady U G && s.picks U g G then some (.group u g)
  else none

/-- What a group that waits in WAITC is to do before anything else of a cycle: to poll, or to read again (R132, R338). -/
def State.pollDue (s : State) (u : Nat) (U : Unit) (g : Nat) (G : Group) : Option Due :=
  if G.st != .waiting .waitc then none
  else if G.sleepUntil != 0 && decide (G.sleepUntil ≤ s.clock) then some (.poll u g)
  else if mayIssue U G s.clock && G.looks s.clock then some (.group u g)
  else none

/-- What the units' groups are to do first in a cycle. -/
def State.firstDue (s : State) : Option Due :=
  firstOf (fun (x : Unit × Nat) =>
    if x.1.st == .resident || x.1.st == .saved then firstOf (fun y => s.pollDue x.2 x.1 y.2 y.1) x.1.groups.zipIdx else none)
    s.units.zipIdx

/-- What a unit's groups are to do. -/
def State.unitDue (s : State) (x : Unit × Nat) : Option Due :=
  if x.1.st == .resident || x.1.st == .saved then firstOf (fun y => s.groupDue x.2 x.1 y.2 y.1) x.1.groups.zipIdx else none

/-- A waiting queue is to evaluate its signals (R388). -/
def queueDue (clock : Nat) (Q : Queue) : Option Due :=
  if Q.wait.isSome && Q.fault.isNone && Q.wakeBy != 0 && decide (Q.wakeBy ≤ clock) then some (.signals Q.n) else none

/-- What a launch's times ask for: its deadline (R367), the predictor's answer (R371), its stages (R274), and its signal, which is read
every 1,024 cycles where no monitor watches it (R132, R376). -/
def State.launchDue (s : State) (x : Launch × Nat) : Option Due :=
  let L := x.1
  let clock := s.clock
  if !L.live then none
  else if !L.cancelled && !L.aborted && (L.sigAbort || (clock - L.startedAt) % 1024 == 0) && s.signalled L then some (.abort x.2)
  else if (match L.deadlineAt with
    | some t => decide (t ≤ clock)
    | none => false) then some (.deadline x.2)
  else if L.needPolicy && decide (L.startedAt + 4096 ≤ clock) then some (.predictor x.2)
  else if !L.stages.isEmpty && !L.stopped && decide (L.evalAt + 4096 ≤ clock) then some (.stages x.2)
  else none

/-- An idle engine grants on the cycle after a record becomes eligible or its last pass ends (R344). -/
def State.engineDue (s : State) (e : Nat) : Option Due :=
  if (settle s.tasks s).grantDue e then some (.grant e) else none

/-- What is to happen before the present cycle passes, the first of it. -/
def State.due (s : State) : Option Due :=
  firstOf s.unitDue s.units.zipIdx <|> firstOf (queueDue s.clock) s.queues <|>
    firstOf s.launchDue s.launches.zipIdx <|>
    (if s.tasks.isEmpty then none else firstOf s.engineDue (List.range Config.quads)) <|>
    (if s.decayDue then some .decay else none) <|>
    firstOf (fun (m : Migration) => if m.startedAt + 2 ^ 16 ≤ s.clock then some (.holdEnd m.id) else none)
      s.migrations <|>
    firstOf (fun b => if s.testable b then some (.test b) else none) s.owed <|>
    firstOf (fun (p : Posted) => if !p.shown && s.ringRoom p.die then some (.record p.die) else none) s.posted

/-! ### The watch over readiness -/

/-- Since when a group has been READY without issuing (R250). -/
def State.markGroup (s : State) (U : Unit) (G : Group) : Group :=
  { G with readyFrom := if s.isReady U G then G.readyFrom <|> some s.clock else none }

/-- Since when a queue has been ready (R382), and when it last had a packet ready to start or ran (R381). -/
def State.markQueue (s : State) (Q : Queue) : Queue :=
  let r := s.queueReady Q
  { Q with
    readyFrom := if r then Q.readyFrom <|> some s.clock else none
    idleSince := if r || Q.held then s.clock else Q.idleSince }

/-- What the quarters, interpreters and engines observe after each step. -/
def State.tally (s : State) : State :=
  { s with
    units := s.units.map fun (U : Unit) => if U.st == UnitSt.resident then { U with groups := U.groups.map (s.markGroup U) } else U
    queues := s.queues.map s.markQueue }.watchEngines

end Sys2Proof.Machine
end

