-- ==== Sys2Proof/Machine/Step.lean ====
section
/-! DEFINITION. One step of the machine: the next entry of the agenda, what is due before a cycle passes, or the passing of a cycle; and
the placing of a single instruction where that step fetches it. -/

namespace Sys2Proof.Machine

open Sys2Proof

/-- A cycle passes: what is due is done first, one thing in each step; `r` is the agenda once the cycle has passed. -/
def State.passTime (s : State) (r : List Entry) : Host.Outcome State Fault Refusal :=
  match s.due with
  | some d => { s with cur := .front }.perform d
  | none => .next { s with agenda := r, clock := s.clock + 1, cur := .front }

/-- One step: what comes first in a cycle, then the turn at the agenda's head where its time has come, and otherwise the passing of
time; then what the device observes of readiness. -/
def step (s : State) : Host.Outcome State Fault Refusal :=
  thenState (match s.firstDue with
    | some d => { s with cur := .front }.perform d
    | none => match s.agenda with
      | [] => s.passTime []
      | e :: r =>
        if e.dt = 0 then { s with agenda := r, cur := .front }.turn e.turn
        else s.passTime ({ e with dt := e.dt - 1 } :: r)) State.tally

/-- The state in which the next step runs the one instruction given: a queue-program word in queue 0, an instruction word in a new
unit's group, or a packet of the standard program in queue 0. -/
def State.withFetchWord (s : State) (nbits w : Nat) : State :=
  if nbits ≤ 32 then s.placeQueue (queueWith 0 4096 [BitVec.ofNat 32 (w % 2 ^ nbits)] [])
  else if nbits ≤ 96 then s.placeSlot (BitVec.ofNat 96 (w % 2 ^ nbits))
  else s.placeQueue (queueWith 0 0 [] (toBytesLE 64 (w % 2 ^ nbits)))

end Sys2Proof.Machine
end

