-- ==== Sys2Proof/Safety.lean ====
section
/-! DEFINITION. What a safe run is: the machine never stops (memory's canonical form is memOk of State). -/

namespace Sys2Proof.Machine

open Sys2Proof

/-- A step that answers a next state. -/
def goesOn (s t : State) : Prop := step s = .next t

/-- A step that stops with a fault or a refusal. -/
def stops (s : State) : Prop := ∀ t, step s ≠ .next t

/-- A state that a number of steps reaches. -/
inductive Reaches : State → State → Prop where
  | refl (s : State) : Reaches s s
  | step (s t u : State) : goesOn s t → Reaches t u → Reaches s u

/-- A run is safe as long as no state it reaches stops. -/
def safeFrom (s : State) : Prop := ∀ t, Reaches s t → ¬ stops t

end Sys2Proof.Machine
end

