-- ==== Sys2Proof/Certificates/Slice0/Obligations.lean ====
section
/-! DEFINITION. The statements about the model: what each instruction, packet and event does, what it leaves alone, and what the
whole machine keeps. -/

namespace Sys2Proof.Machine

open Sys2Proof

/-! ### Words the statements use -/

/-- Group `g` of unit `u` executes: `U` and `G` are the unit and the group. -/
def Runs (s : State) (u g : Nat) (U : Machine.Unit) (G : Group) : Prop := s.cur = .group u g ∧ s.group? u g = some (U, G)

/-- Operator lane `o` of unit `u` is in the middle of a firing. -/
def Fires (s : State) (u o : Nat) (U : Machine.Unit) (c : Spat) (p : SOper) : Prop :=
  s.cur = .oper u o ∧ s.oper? u o = some (U, c, p) ∧ U.goesOn c p s.clock = true

/-- The unit has every register the operands name (R23), and none of them waits for a load or an atomic (R19). -/
def Clear (s : State) (u g : Nat) (U : Machine.Unit) (xs : Uses) : Prop :=
  U.usableAll xs = true ∧ s.interlocked u g xs = false

/-- The group has these registers and goes on to the next slot. -/
def State.left (s : State) (u g : Nat) (h : Hd) (r : Regs) : State := (s.modGroup u g fun H => H.putRegs r).finish u g h

/-- The registers after an instruction that computes `f` in every active lane. -/
def State.lanes (s : State) (U : Machine.Unit) (G : Group) (h : Hd) (d : Opnd) (wide : Bool) (f : Nat → Nat) : Regs :=
  lanewise (s.env U G) G.regs h d wide f

/-- Operand A of a lane. -/
def State.opA (s : State) (U : Machine.Unit) (G : Group) (w : Bool) (x : Args) (l : Nat) : Nat := rd (s.env U G) G.regs w x.a l
/-- Operand B of an integer instruction in a lane. -/
def State.opB (s : State) (U : Machine.Unit) (G : Group) (ty : IType) (x : Args) (l : Nat) : Nat := rdB (s.env U G) G.regs ty x.bc l
/-- Operand C of a lane. -/
def State.opC (s : State) (U : Machine.Unit) (G : Group) (w : Bool) (x : Args) (l : Nat) : Nat := rdC (s.env U G) G.regs w x.bc l

/-- The arithmetic of R67: the exact result of each element. -/
def exactTable (h : Hd) (m : IntMod) (x : Args) : List (Instr × (Int → Int → Int → Int)) :=
  [(.add h m x, fun a b _ => a + b), (.sub h m x, fun a b _ => a - b), (.mul h m x, fun a b _ => a * b),
    (.mulh h m x, fun a b _ => (a * b) / (2 ^ elemW m.ty : Int)), (.mad h m x, fun a b c => a * b + c),
    (.abs h m x, fun a _ _ => (a.natAbs : Int)), (.neg h m x, fun a _ _ => -a), (.min h m x, fun a b _ => min a b),
    (.max h m x, fun a b _ => max a b)]

/-- Instructions whose result is a function of the patterns of A, B and C, all of TYPE's width (R68, R71, R72, R75, R77). -/
def patternTable (h : Hd) (m : IntMod) (x : Args) : List (Instr × (Nat → Nat → Nat → Nat)) :=
  let w := elemW m.ty
  [(.div h m x, fun a b _ => perElem m.ty fun j => divElem w m.ty.signed m.sat (elemInt m.ty a j) (elemInt m.ty b j)),
    (.rem h m x, fun a b _ => perElem m.ty fun j => remElem w (elemInt m.ty a j) (elemInt m.ty b j)),
    (.and h m x, fun a b _ => a &&& b), (.or h m x, fun a b _ => a ||| b), (.xor h m x, fun a b _ => a ^^^ b),
    (.not h m x, fun a _ _ => 2 ^ w - 1 - a), (.mov h m x, fun a _ _ => a), (.movi h m x, fun _ b _ => b),
    (.brev h m x, fun a _ _ => revBits a w),
    (.shl h m x, fun a b _ => perElem m.ty fun j => shlElem w m.ty.signed m.sat (elemInt m.ty a j) (elemPat m.ty b j)),
    (.shr h m x, fun a b _ => perElem m.ty fun j => elemPat m.ty a j / 2 ^ Nat.min (elemPat m.ty b j) w),
    (.sar h m x, fun a b _ => perElem m.ty fun j =>
      patOf w (sext w (elemPat m.ty a j) / (2 ^ Nat.min (elemPat m.ty b j) w : Int))),
    (.rot h m x, fun a b _ => perElem m.ty fun j => rotElem w (m.var == 1) (elemPat m.ty a j) (elemPat m.ty b j)),
    (.bperm h m x, fun a b c =>
      joinElems 8 ((List.range 4).map fun i => bpermByte (a + 2 ^ 32 * b) (bitsAt c (8 * i) 8))),
    (.dp4 h m x, dotLane m), (.dp2 h m x, dotLane m),
    (.sad h m x, fun a b c =>
      narrow 32 false m.sat (elemSum m.ty m.ty (fun p q => ((p - q).natAbs : Int)) a b + (c : Int)))]

end Sys2Proof.Machine

open Sys2Proof Sys2Proof.Machine

/-- R67: in every active lane the exact result of each element, wrapped or saturated to TYPE; the instruction completes. -/
def Sys2Proof.Statements.IntegerArithmeticCompletes : Prop :=
  ∀ (s : State) (u g : Nat) (U : Machine.Unit) (G : Group) (h : Hd) (m : IntMod) (x : Args), Runs s u g U G →
    Clear s u g U (x.uses m.ty.wide m.ty.wide m.ty.wide m.ty.wide) → ∀ p ∈ exactTable h m x,
      exec p.1 s = .next (s.left u g h (s.lanes U G h x.d m.ty.wide fun l =>
        joinElems (elemW m.ty) ((List.range (elemN m.ty)).map fun j => narrow (elemW m.ty) m.ty.signed m.sat
          (p.2 (elemInt m.ty (s.opA U G m.ty.wide x l) j) (elemInt m.ty (s.opB U G m.ty x l) j)
            (elemInt m.ty (s.opC U G m.ty.wide x l) j)))))

/-- R68, R71, R72, R75, R77: results that are functions of the operands' patterns; the instruction completes. -/
def Sys2Proof.Statements.IntegerPatternCompletes : Prop :=
  ∀ (s : State) (u g : Nat) (U : Machine.Unit) (G : Group) (h : Hd) (m : IntMod) (x : Args), Runs s u g U G →
    Clear s u g U (x.uses m.ty.wide m.ty.wide m.ty.wide m.ty.wide) → ∀ p ∈ patternTable h m x,
      exec p.1 s = .next (s.left u g h (s.lanes U G h x.d m.ty.wide fun l =>
        p.2 (s.opA U G m.ty.wide x l) (s.opB U G m.ty x l) (s.opC U G m.ty.wide x l)))

/-- R67, R68, R71, R72, R75, R77: integer arithmetic with the exact result of each element, wrapped or saturated to TYPE, and
the instructions whose result is a function of the operands' patterns; each completes. -/
def Obligations.IntegerArithmeticCompletes : Prop :=
  Sys2Proof.Statements.IntegerArithmeticCompletes ∧ Sys2Proof.Statements.IntegerPatternCompletes

/-- R71, R73, R74: counts, selection, bit fields and tables, whose operands have widths of their own; each completes. -/
def Sys2Proof.Statements.BitInstructionsComplete : Prop :=
  ∀ (s : State) (u g : Nat) (U : Machine.Unit) (G : Group) (h : Hd) (m : IntMod) (x : Args), Runs s u g U G →
    let w := m.ty.wide
    let W := elemW m.ty
    let e := s.env U G
    (Clear s u g U (x.uses false w false false) →
      exec (.popc h m x) s = .next (s.left u g h (s.lanes U G h x.d false fun l => popcount (s.opA U G w x l) W)) ∧
      exec (.clz h m x) s = .next (s.left u g h (s.lanes U G h x.d false fun l => leadingZeros W (s.opA U G w x l)))) ∧
    (Clear s u g U (x.uses w w w false) →
      exec (.sel h m x) s = .next (s.left u g h (s.lanes U G h x.d w fun l =>
        if G.regs.pred x.bc.c.idx.toNat l then s.opA U G w x l else s.opB U G m.ty x l)) ∧
      exec (.bfi h m x) s = .next (s.left u g h (s.lanes U G h x.d w fun l =>
        bfi W (s.opA U G w x l) (s.opB U G m.ty x l) (rd e G.regs false x.bc.c l))) ∧
      exec (.blut h m x) s = .next (s.left u g h (s.lanes U G h x.d w fun l =>
        blut (x.bc.c.idx.toNat % 256) (s.opA U G w x l) (s.opB U G m.ty x l) (rd e G.regs w x.d l) W))) ∧
    (Clear s u g U (x.uses w w false false) →
      exec (.bfx h m x) s = .next (s.left u g h (s.lanes U G h x.d w fun l =>
        bfx W m.ty.signed (s.opA U G w x l) (rd e G.regs false x.bc.b l))))

/-- R69, R70, R76: wide multiply-add, carry chains and address arithmetic; each completes. -/
def Sys2Proof.Statements.WideIntegerAndAddressComplete : Prop :=
  ∀ (s : State) (u g : Nat) (U : Machine.Unit) (G : Group) (h : Hd) (m : IntMod) (x : Args), Runs s u g U G →
    let w := m.ty.wide
    let W := elemW m.ty
    let e := s.env U G
    let a64 := fun l => (rd64 e G.regs x.a l : Int)
    (Clear s u g U (x.uses true false false true) →
      exec (.madw h m x) s = .next (s.left u g h (s.lanes U G h x.d true fun l =>
        narrow 64 m.ty.signed m.sat (intOf 32 m.ty.signed (s.opA U G false x l) *
          intOf 32 m.ty.signed (s.opB U G m.ty x l) + intOf 64 m.ty.signed (s.opC U G true x l))))) ∧
    (Clear s u g U (x.uses w w w w) →
      exec (.addc h m x) s = .next (s.left u g h ((activeLanes e G.regs h).foldl
        (fun r l => r.putPred m.var.toNat l
          (addCarry W (s.opA U G w x l) (s.opB U G m.ty x l) (G.regs.pred m.var.toNat l)).2)
        (s.lanes U G h x.d w fun l =>
          (addCarry W (s.opA U G w x l) (s.opB U G m.ty x l) (G.regs.pred m.var.toNat l)).1))) ∧
      exec (.subb h m x) s = .next (s.left u g h ((activeLanes e G.regs h).foldl
        (fun r l => r.putPred m.var.toNat l
          (subBorrow W (s.opA U G w x l) (s.opB U G m.ty x l) (G.regs.pred m.var.toNat l)).2)
        (s.lanes U G h x.d w fun l =>
          (subBorrow W (s.opA U G w x l) (s.opB U G m.ty x l) (G.regs.pred m.var.toNat l)).1)))) ∧
    (Clear s u g U (x.uses true true w false) →
      exec (.aadd h m x) s = .next (s.left u g h (s.lanes U G h x.d true fun l =>
        patOf 64 (a64 l + extAddr m.ty (s.opB U G m.ty x l))))) ∧
    (Clear s u g U (x.uses true true false false) →
      exec (.amad h m x) s = .next (s.left u g h (s.lanes U G h x.d true fun l =>
        patOf 64 (a64 l + extAddr m.ty (s.opB U G m.ty x l) * extAddr m.ty (s.opC U G false x l)))) ∧
      exec (.amov h m x) s = .next (s.left u g h (s.lanes U G h x.d true fun l => rd64 e G.regs x.a l)) ∧
      exec (.aget h m x) s = .next (s.left u g h (s.lanes U G h x.d true fun l => rd64 e G.regs x.a l)) ∧
      exec (.lea h m x) s = .next (s.left u g h (s.lanes U G h x.d true fun l =>
        patOf 64 (a64 l + extAddr m.ty (s.opB U G m.ty x l) * (2 ^ m.var.toNat : Int)))))

/-- R69, R70, R71, R73, R74, R76: counts, selection, bit fields, tables, wide multiply-add, carry chains and address
arithmetic; each completes. -/
def Obligations.BitAndAddressInstructionsComplete : Prop :=
  Sys2Proof.Statements.BitInstructionsComplete ∧ Sys2Proof.Statements.WideIntegerAndAddressComplete

/-- R35, R66, R67: element `j` of a result is the exact result modulo 2^W, or clamped to TYPE's range where SAT is set. -/
def Obligations.ElementsWrapOrSaturate : Prop :=
  ∀ (m : IntMod) (F : Int → Int → Int → Int) (a b c j : Nat), j < elemN m.ty →
    let W := elemW m.ty
    let y := F (elemInt m.ty a j) (elemInt m.ty b j) (elemInt m.ty c j)
    let lo : Int := if m.ty.signed then -(2 ^ (W - 1) : Int) else 0
    let hi : Int := if m.ty.signed then (2 ^ (W - 1) : Int) - 1 else (2 ^ W : Int) - 1
    elemInt m.ty (intScheme m F a b c) j =
      (if m.sat then max lo (min hi y)
       else if m.ty.signed then (y + 2 ^ (W - 1)) % (2 ^ W : Int) - 2 ^ (W - 1) else y % (2 ^ W : Int))

/-- R68, R70, R72: a zero divisor gives all ones and leaves the dividend as remainder; quotient and remainder recompose; a carry or
borrow makes the sum exact; a shift by the width or more leaves zeros, or copies of the sign. -/
def Obligations.DivisionCarryAndShiftLaws : Prop :=
  (∀ (w : Nat) (sg sat : Bool) (a : Int), divElem w sg sat a 0 = 2 ^ w - 1 ∧ remElem w a 0 = patOf w a) ∧
  (∀ (w : Nat) (sg : Bool) (a b : Int), b ≠ 0 →
    ((divElem w sg false a b : Int) * b + (remElem w a b : Int)) % (2 ^ w : Int) = a % (2 ^ w : Int)) ∧
  (∀ (w u v : Nat) (c : Bool),
    (addCarry w u v c).1 + 2 ^ w * ((u + v + c.toNat) / 2 ^ w) = u + v + c.toNat ∧
    ((addCarry w u v c).2 = true ↔ 2 ^ w ≤ u + v + c.toNat)) ∧
  (∀ (w u v : Nat) (c : Bool), u < 2 ^ w → v < 2 ^ w →
    ((subBorrow w u v c).1 : Int) = (u : Int) - v - c.toNat + (if (subBorrow w u v c).2 then (2 ^ w : Int) else 0)) ∧
  (∀ (w s : Nat) (sg : Bool) (a : Int), w ≤ s → shlElem w sg false a s = 0) ∧
  (∀ (w a s : Nat), a < 2 ^ w → w ≤ s → a / 2 ^ Nat.min s w = 0) ∧
  (∀ (w a s : Nat), 0 < w → a < 2 ^ w → w ≤ s →
    patOf w (sext w a / (2 ^ Nat.min s w : Int)) = if a < 2 ^ (w - 1) then 0 else 2 ^ w - 1)

/-- R68: DIV and REM truncate toward zero; a zero divisor gives all ones and leaves the dividend, with no trap and SAT ignored; the most
negative value divided by -1 wraps or saturates, with remainder 0. Both complete. -/
def Obligations.DivisionTruncatesTowardZero : Prop :=
  (∀ (s : State) (u g : Nat) (U : Machine.Unit) (G : Group) (h : Hd) (m : IntMod) (x : Args), Runs s u g U G →
    Clear s u g U (x.uses m.ty.wide m.ty.wide m.ty.wide m.ty.wide) →
    let W := elemW m.ty
    let each := fun (f : Int → Int → Nat) (l : Nat) => joinElems W ((List.range (elemN m.ty)).map fun j =>
      f (elemInt m.ty (s.opA U G m.ty.wide x l) j) (elemInt m.ty (s.opB U G m.ty x l) j))
    exec (.div h m x) s = .next (s.left u g h (s.lanes U G h x.d m.ty.wide (each fun a b =>
      if b = 0 then 2 ^ W - 1 else narrow W m.ty.signed m.sat (Int.tdiv a b)))) ∧
    exec (.rem h m x) s = .next (s.left u g h (s.lanes U G h x.d m.ty.wide (each fun a b =>
      if b = 0 then patOf W a else patOf W (a - Int.tdiv a b * b))))) ∧
  (∀ w : Nat, 0 < w →
    sext w (narrow w true false (Int.tdiv (-(2 ^ (w - 1) : Int)) (-1))) = -(2 ^ (w - 1) : Int) ∧
    sext w (narrow w true true (Int.tdiv (-(2 ^ (w - 1) : Int)) (-1))) = (2 ^ (w - 1) : Int) - 1 ∧
    patOf w (-(2 ^ (w - 1) : Int) - Int.tdiv (-(2 ^ (w - 1) : Int)) (-1) * (-1)) = 0 ∧
    sext w (2 ^ w - 1) = -1) ∧
  (∀ a b : Int, b ≠ 0 →
    let r := a - Int.tdiv a b * b
    (0 ≤ a → 0 ≤ r) ∧ (a ≤ 0 → r ≤ 0) ∧ r.natAbs < b.natAbs)

/-- R71 to R74: what the counts, the reversal, the bit fields and the bit table mean, bit by bit. -/
def Obligations.BitFunctionsBitByBit : Prop :=
  (∀ w x : Nat, popcount x w = ((List.range w).filter fun i => x.testBit i).length) ∧
  (∀ w x : Nat, x < 2 ^ w → leadingZeros w x ≤ w ∧ x < 2 ^ (w - leadingZeros w x) ∧
    (x ≠ 0 → 2 ^ (w - 1 - leadingZeros w x) ≤ x)) ∧
  (∀ w x i : Nat, i < w → (revBits x w).testBit i = x.testBit (w - 1 - i)) ∧
  (∀ lut a b d w i : Nat, i < w → (blut lut a b d w).testBit i =
    lut.testBit ((a.testBit i).toNat + 2 * (b.testBit i).toNat + 4 * (d.testBit i).toNat)) ∧
  (∀ w a b ctl i : Nat, i < w → a < 2 ^ w → b < 2 ^ w →
    (bfi w a b ctl).testBit i =
      if Nat.min (ctl % 256) w ≤ i ∧ i < Nat.min (ctl % 256) w + Nat.min (ctl / 256 % 256) w
      then b.testBit (i - Nat.min (ctl % 256) w) else a.testBit i) ∧
  (∀ w a ctl i : Nat, i < w → a < 2 ^ w →
    (bfx w false a ctl).testBit i = (decide (i < Nat.min (ctl / 256 % 256) w) && a.testBit (i + Nat.min (ctl % 256) w))) ∧
  (∀ w a ctl i : Nat, i < w → a < 2 ^ w → 0 < Nat.min (ctl / 256 % 256) w →
    (bfx w true a ctl).testBit i = a.testBit (Nat.min (Nat.min (ctl % 256) w + Nat.min i (Nat.min (ctl / 256 % 256) w - 1)) (w - 1))) ∧
  (∀ w a ctl : Nat, Nat.min (ctl / 256 % 256) w = 0 → bfx w true a ctl = 0)

namespace Sys2Proof.Machine

/-- The scheme of R78: the exact result of each element, before its one rounding. -/
def exactFloatTable (h : Hd) (m : FpMod) (x : Args) : List (Instr × (RMode → FVal → FVal → FVal → FVal)) :=
  [(.fadd h m x, fun r a b _ => a.add r b), (.fsub h m x, fun r a b _ => a.add r b.neg), (.fmul h m x, fun _ a b _ => a.mul b),
    (.ffma h m x, fun r a b c => (a.mul b).add r c), (.frcp h m x, fun _ a _ _ => (FVal.fin false 1 0 false).div a),
    (.frsq h m x, fun _ a _ _ => a.rsqrt), (.fsqrt h m x, fun _ a _ _ => a.sqrt), (.fdiv h m x, fun _ a b _ => a.div b)]

/-- Element functions on patterns: the minimum and maximum of R79, and the correctly rounded functions of one operand (R78). -/
def floatPatternTable (h : Hd) (m : FpMod) (x : Args) : List (Instr × (FFmt → Nat → Nat → Nat → Nat)) :=
  [(.fmin h m x, fun f a b _ => fMinMax f false a b), (.fmax h m x, fun f a b _ => fMinMax f true a b),
    (.fex2 h m x, fun f a _ _ => fun1 .ex2 f m.ftz (f.decode a)), (.flg2 h m x, fun f a _ _ => fun1 .lg2 f m.ftz (f.decode a)),
    (.fsin h m x, fun f a _ _ => fun1 .sin f m.ftz (f.decode a)), (.fcos h m x, fun f a _ _ => fun1 .cos f m.ftz (f.decode a)),
    (.ftanh h m x, fun f a _ _ => fun1 .tanh f m.ftz (f.decode a)),
    (.fsigm h m x, fun f a _ _ => fun1 .sigm f m.ftz (f.decode a))]

/-- The result of a floating-point lane: `f` on the elements of A, B and C, with negation and FTZ applied (R28, R45). -/
def State.floatLane (s : State) (U : Machine.Unit) (G : Group) (m : FpMod) (x : Args) (f : FFmt → Nat → Nat → Nat → Nat)
    (l : Nat) : Nat :=
  let F := ftypeFmt m.ty
  let w := m.ty.wide
  joinElems F.bits ((List.range (ftypeN m.ty)).map fun j => f F (fElemOf F m.ftz m.nega (s.opA U G w x l) j)
    (fElemOf F m.ftz m.negb (rdFB (s.env U G) G.regs m.ty x.bc l) j) (fElemOf F m.ftz false (s.opC U G w x l) j))

/-- The stochastic state of a lane after `n` calls of Rand16 (R49). -/
def randAfter : Nat → Word → Word
  | 0, g => g
  | n + 1, g => randStep (randAfter n g)

/-- How the element `k` of a lane is rounded (R46, R50): by the fixed mode, or by the draw of its own call of Rand16. -/
def elemMode (sr : Bool) (rnd : Rnd) (k : Nat) (g : Word) : RMode :=
  if sr then .sr ((randAfter (k + 1) g).toNat / 2 ^ 16) else RMode.ofRnd rnd

/-- The registers `r1` with the state of each active lane after `n` calls, where the rounding is stochastic (R50). -/
def Regs.drawn (r1 r : Regs) (e : Env) (h : Hd) (sr : Bool) (n : Nat) : Regs :=
  if sr then (activeLanes e r h).foldl (fun x l => { x with stoch := spSet 0 x.stoch l (randAfter n (spGet 0 r.stoch l)) }) r1
  else r1

/-- Conversions with their checks and operands. -/
def convertTable (h : Hd) (m : CvtMod) (d a : Opnd) : List (Instr × Alu) :=
  [(.cvt h m d a, cvtOp h m d a), (.cvts h m d a, cvtsOp h m d a), (.bfpk h m d a, bfpkOp h m d a),
    (.bfpx h m d a, bfpxOp h m d a), (.qscl h m d a, qsclOp h m d a)]

end Sys2Proof.Machine

/-- R28, R45, R78, R79: each element is the exact result rounded once, a minimum or maximum, or a correctly rounded function; the
instruction completes. -/
def Sys2Proof.Statements.FloatingPointCompletes : Prop :=
  ∀ (s : State) (u g : Nat) (U : Machine.Unit) (G : Group) (h : Hd) (m : FpMod) (x : Args), Runs s u g U G →
    Clear s u g U (x.uses m.ty.wide m.ty.wide m.ty.wide m.ty.wide) →
      (∀ p ∈ exactFloatTable h m x,
        exec p.1 s = .next (s.left u g h (s.lanes U G h x.d m.ty.wide (s.floatLane U G m x fun f a b c =>
          roundTo f (RMode.ofRnd m.rnd) m.ftz false (p.2 (RMode.ofRnd m.rnd) (f.decode a) (f.decode b) (f.decode c)))))) ∧
      (∀ p ∈ floatPatternTable h m x,
        exec p.1 s = .next (s.left u g h (s.lanes U G h x.d m.ty.wide (s.floatLane U G m x p.2))))

/-- R80: dot products of two and four elements, summed exactly and rounded once to binary32; each completes. -/
def Sys2Proof.Statements.FloatDotProductsComplete : Prop :=
  ∀ (s : State) (u g : Nat) (U : Machine.Unit) (G : Group) (h : Hd) (m : FpMod) (x : Args), Runs s u g U G →
    let e := s.env U G
    (Clear s u g U (x.uses false false false false) →
      exec (.fdot2 h m x) s = .next (s.left u g h (s.lanes U G h x.d false fun l =>
        fdotLane 2 m (s.opA U G false x l) (rdFB e G.regs m.ty x.bc l) (s.opC U G false x l)))) ∧
    (Clear s u g U (x.uses false true true false) →
      exec (.fdot4 h m x) s = .next (s.left u g h (s.lanes U G h x.d false fun l =>
        fdotLane 4 m (s.opA U G true x l) (rd e G.regs true x.bc.b l) (s.opC U G false x l))))

/-- R28, R45, R78, R79: each element is the exact result rounded once, a minimum or maximum, or a correctly rounded function;
the instruction completes. R80: dot products of two and four elements, summed exactly and rounded once to binary32; each
completes. -/
def Obligations.FloatingPointCompletes : Prop :=
  Sys2Proof.Statements.FloatingPointCompletes ∧ Sys2Proof.Statements.FloatDotProductsComplete

/-- R81 to R86: a conversion whose format slot passes its check writes its results and the stochastic states and completes; where
the check fails the group takes the trap the check names instead. -/
def Obligations.ConversionsComplete : Prop :=
  ∀ (s : State) (u g : Nat) (U : Machine.Unit) (G : Group) (h : Hd) (m : CvtMod) (d a : Opnd), Runs s u g U G →
    ∀ p ∈ convertTable h m d a,
      (p.2.pre (s.env U G) = none → Clear s u g U (p.2.uses (s.env U G)) →
        exec p.1 s = .next (s.left u g h (p.2.run (s.env U G) G.regs))) ∧
      (∀ c, p.2.pre (s.env U G) = some c → exec p.1 s = .next (s.takeTrap u g ⟨c, G.pc, G.mask, G.pc, none⟩))

/-- R82, R83, R84, R85, R86: what a conversion leaves in each active lane, one value for each operation, with formats and rounding that
the codes name or, where a code is 15, the slot (R59); blocks are converted by R55 and R56; each converted element takes one call of
Rand16 where the rounding is stochastic, and no state moves otherwise (R50). -/
def Obligations.ConversionResults : Prop :=
  ∀ (e : Env) (r : Regs) (h : Hd) (m : CvtMod) (d a : Opnd),
    let k := e.slot m.slot.toNat
    let own := m.dst == .slot
    let sr := if own then k.rnd == 2 else m.stoch
    let rnd : Rnd := if own then (if k.rnd == 1 then .rz else .rn) else m.rnd
    let sat := if own then k.sat else m.sat
    let dst := if m.dst == .slot then k.fmt else m.dst
    let src := if m.src == .slot then k.fmt else m.src
    let g := fun l => spGet 0 r.stoch l
    (cvtOp h m d a).run e r = (lanewise e r h d dst.wide fun l =>
      widenDst dst (convert dst src (elemMode sr rnd 0 (g l)) sat (rd e r src.wide a l))).drawn r e h sr 1 ∧
    (cvtsOp h m d a).run e r = (lanewise e r h d (m.dst.width == 16) fun l =>
      joinElems m.dst.width ((List.range 4).map fun i =>
        convert m.dst m.src (elemMode sr rnd i (g l)) sat (bitsAt (rdPack e r m.src a l) (m.src.width * i) m.src.width))).drawn
          r e h sr 4 ∧
    (∀ f, Machine.Fmt.ffmt m.src = some f → k.block = true → k.len ≤ e.lanes → (e.lanes = 16 ∨ e.lanes = 32) →
      let val := fun l => f.decode (rd32 e r a l % 2 ^ f.bits)
      let scale := fun l => blockScale k (((activeLanes e r h).filter fun i => i / k.len == l / k.len).map val)
      (bfpkOp h m d a).run e r = (lanewise e r h d true fun l =>
        blockElem k (scale l) (elemMode sr rnd 0 (g l)) (val l) + 2 ^ 32 * (scale l + 2 ^ 8 * k.blog)).drawn r e h sr 1) ∧
    (∀ fd, Machine.Fmt.ffmt m.dst = some fd →
      (bfpxOp h m d a).run e r = (lanewise e r h d false fun l =>
        let y := rd64 e r a l
        roundTo fd (elemMode sr rnd 0 (g l)) false sat
          (if headerOk k (y / 2 ^ 32) then blockVal k (y / 2 ^ 32 % 256) (y % 2 ^ k.elemW) else .nan)).drawn r e h sr 1) ∧
    (∀ fs fd, Machine.Fmt.ffmt m.src = some fs → Machine.Fmt.ffmt m.dst = some fd →
      (qsclOp h m d a).run e r = (lanewise e r h d false fun l =>
        let y := rd64 e r a l
        roundTo fd (elemMode sr rnd 0 (g l)) false sat
          (if y / 2 ^ 32 % 256 = 255 then .nan else (fs.decode (y % 2 ^ fs.bits)).scale ((y / 2 ^ 32 % 256 : Nat) - 127))).drawn
            r e h sr 1)

/-- R87 to R89: compares and predicate instructions leave in every active lane the predicate the rule gives; each completes. -/
def Sys2Proof.Statements.CompareAndPredicateComplete : Prop :=
  ∀ (s : State) (u g : Nat) (U : Machine.Unit) (G : Group) (h : Hd) (x : Ops4), Runs s u g U G →
    let e := s.env U G
    let r := G.regs
    let pc := fun l => r.pred x.c.idx.toNat l
    (∀ (ty : WType) (nc : Bool) (c : ICmp), Clear s u g U [(x.a, regsOf ty.wide), (x.b, regsOf ty.wide)] →
      exec (.itest h ty nc c x) s = .next (s.left u g h (s.lanes U G h x.d false fun l =>
        let w := (wtypeOf ty).1
        let v := fun o => intOf w (wtypeOf ty).2 (rd e r (w == 64) o l)
        if icmp c (v x.a) (v x.b) && (pc l != nc) then 1 else 0))) ∧
    (∀ (d nc : Bool) (c : FCmp), Clear s u g U [(x.a, regsOf d), (x.b, regsOf d)] →
      exec (.ftest h d nc c x) s = .next (s.left u g h (s.lanes U G h x.d false fun l =>
        let v := fun o => (if d then fmt64 else fmt32).decode (rd e r d o l)
        if fcmp c (v x.a) (v x.b) && (pc l != nc) then 1 else 0))) ∧
    (∀ lut, Clear s u g U [] → exec (.plut h lut x) s = .next (s.left u g h (s.lanes U G h x.d false fun l =>
        if lut.getLsbD ((r.pred x.a.idx.toNat l).toNat + 2 * (r.pred x.b.idx.toNat l).toNat + 4 * (pc l).toNat)
        then 1 else 0))) ∧
    (Clear s u g U [(x.d, 1)] → exec (.pmovPack h x) s = .next (s.left u g h (s.lanes U G h x.d false fun l =>
        packPreds r l 16))) ∧
    (Clear s u g U [(x.a, 1)] → exec (.pmovUnpack h x) s = .next (s.left u g h
        ((activeLanes e r h).foldl (fun r1 l => unpackPreds r1 l (rd32 e r x.a l) 15) r)))

/-- R90 to R94: votes, matches, exchange, broadcast, reductions and scans; each completes. -/
def Sys2Proof.Statements.LaneExchangeAndReductionComplete : Prop :=
  ∀ (s : State) (u g : Nat) (U : Machine.Unit) (G : Group) (h : Hd) (x : Ops4), Runs s u g U G →
    let e := s.env U G
    let r := G.regs
    let act := activeLanes e r h
    let holds := fun l => r.pred x.a.idx.toNat l
    (Clear s u g U [(x.d, 1)] →
      exec (.vote h .all x) s = .next (s.left u g h (s.lanes U G h x.d false fun _ => if ∀ l ∈ act, holds l then 1 else 0)) ∧
      exec (.vote h .any x) s = .next (s.left u g h (s.lanes U G h x.d false fun _ => if ∃ l ∈ act, holds l then 1 else 0)) ∧
      exec (.vote h .uni x) s = .next (s.left u g h (s.lanes U G h x.d false fun _ =>
        if (∀ l ∈ act, holds l) ∨ (∀ l ∈ act, ¬ holds l) then 1 else 0)) ∧
      exec (.vote h .ballot x) s = .next (s.left u g h (s.lanes U G h x.d false fun _ =>
        (maskOf (act.filter fun l => holds l)).toNat))) ∧
    (∀ b, Clear s u g U [(x.d, 1), (x.a, regsOf b)] →
      exec (.matchLanes h b x) s = .next (s.left u g h (s.lanes U G h x.d false fun l =>
        (maskOf (act.filter fun k => rd e r b x.a k == rd e r b x.a l)).toNat))) ∧
    (∀ b m, Clear s u g U [(x.d, regsOf b), (x.a, regsOf b), (x.b, 1), (x.c, 1)] →
      exec (.xlane h b m x) s = .next (s.left u g h (s.lanes U G h x.d b fun l =>
        rd e r b x.a (xlaneSrc m e.lanes (rd32 e r x.c l) (rd32 e r x.b l) l)))) ∧
    (∀ m : RedMod, Clear s u g U [(x.d, regsOf m.ty.wide), (x.a, regsOf m.ty.wide)] →
      exec (.lreduce h m x) s = .next (s.left u g h (s.lanes U G h x.d m.ty.wide fun _ =>
        reduceVals m x.c e.lanes (act.map fun l => (l, rd e r m.ty.wide x.a l)))) ∧
      exec (.lscan h m x) s = .next (s.left u g h (s.lanes U G h x.d m.ty.wide fun l =>
        scanVals m x.c ((act.filter (· ≤ l)).map fun k => rd e r m.ty.wide x.a k)))) ∧
    (Clear s u g U [(x.d, 1), (x.a, 1), (x.b, 1)] →
      exec (.bcast h x) s = .next (s.left u g h (s.lanes U G h x.d false fun l =>
        rd32 e r x.a (rd32 e r x.b l % e.lanes)))) ∧
    (∀ b, (x.a.cls == .pair) = b → Clear s u g U [(x.d, regsOf b), (x.a, regsOf b)] →
      exec (.smov h x) s = .next (s.left u g h (s.lanes U G h x.d b fun l => rd e r b x.a l)))

/-- R87 to R89: compares and predicate instructions leave in every active lane the predicate the rule gives; each completes.
R90 to R94: votes, matches, exchange, broadcast, reductions and scans; each completes. -/
def Obligations.PredicatesAndLaneExchangeComplete : Prop :=
  Sys2Proof.Statements.CompareAndPredicateComplete ∧ Sys2Proof.Statements.LaneExchangeAndReductionComplete

/-- R92, R94: XLANE stays within its segment, and an unmoved lane reads itself; an integer sum over the active lanes is exact modulo
2^W, and the last lane of a scan holds what the reduction gives. -/
def Obligations.ExchangeAndReductionLaws : Prop :=
  (∀ (m : XMode) (lanes c b l : Nat), (lanes = 16 ∨ lanes = 32) → l < lanes →
    xlaneSrc m lanes c b l / xlaneWidth lanes c = l / xlaneWidth lanes c ∧ xlaneSrc m lanes c b l < lanes) ∧
  (∀ (m : XMode) (lanes c l : Nat), (lanes = 16 ∨ lanes = 32) → l < lanes → m ≠ .idx → xlaneSrc m lanes c 0 l = l) ∧
  (∀ (m : RedMod) (c : Opnd) (lanes : Nat) (xs : List (Nat × Nat)), m.ty.isFloat = false → m.red = .add → c.cls ≠ .simm →
    (reduceVals m c lanes xs : Int) % (2 ^ (rtypeOf m.ty).1 : Int) =
      ((xs.map fun x => intOf (rtypeOf m.ty).1 (rtypeOf m.ty).2 x.2).sum) % (2 ^ (rtypeOf m.ty).1 : Int)) ∧
  (∀ (m : RedMod) (c : Opnd) (lanes : Nat) (xs : List (Nat × Nat)), m.ty.isFloat = false →
    reduceVals m c lanes xs = scanVals m c (xs.map (·.2)))

namespace Sys2Proof.Machine

/-- Register arrays in their canonical form. -/
def Regs.ok (r : Regs) : Prop :=
  spOk 0 r.v = true ∧ spOk 0 r.s = true ∧ spOk 0 r.a = true ∧ spOk 0 r.p = true ∧ spOk 0 r.stoch = true

/-- A group whose register arrays are in canonical form. -/
def Group.ok (G : Group) : Prop := (⟨G.v, G.s, G.a, G.p, G.stoch, []⟩ : Regs).ok

/-- Instructions that work in registers alone, with their headers (R63). -/
def aluHd : Instr → Option Hd
  | .add h _ _ | .sub h _ _ | .mul h _ _ | .mulh h _ _ | .mad h _ _ | .madw h _ _ | .div h _ _ | .rem h _ _ | .abs h _ _
  | .neg h _ _ | .min h _ _ | .max h _ _ | .and h _ _ | .or h _ _ | .xor h _ _ | .not h _ _ | .shl h _ _ | .shr h _ _
  | .sar h _ _ | .rot h _ _ | .bfx h _ _ | .bfi h _ _ | .popc h _ _ | .clz h _ _ | .brev h _ _ | .blut h _ _ | .sel h _ _
  | .mov h _ _ | .movi h _ _ | .bperm h _ _ | .addc h _ _ | .subb h _ _ | .aadd h _ _ | .amad h _ _ | .amov h _ _
  | .aget h _ _ | .lea h _ _ | .dp4 h _ _ | .dp2 h _ _ | .sad h _ _ => some h
  | .fadd h _ _ | .fsub h _ _ | .fmul h _ _ | .ffma h _ _ | .fmin h _ _ | .fmax h _ _ | .frcp h _ _ | .frsq h _ _
  | .fsqrt h _ _ | .fdiv h _ _ | .fex2 h _ _ | .flg2 h _ _ | .fsin h _ _ | .fcos h _ _ | .ftanh h _ _ | .fsigm h _ _
  | .fdot2 h _ _ | .fdot4 h _ _ => some h
  | .cvt h _ _ _ | .cvts h _ _ _ | .bfpk h _ _ _ | .bfpx h _ _ _ | .qscl h _ _ _ => some h
  | .itest h _ _ _ _ | .ftest h _ _ _ _ => some h
  | .plut h _ _ | .pmovPack h _ | .pmovUnpack h _ | .vote h _ _ | .matchLanes h _ _ | .xlane h _ _ _ | .lreduce h _ _
  | .lscan h _ _ | .bcast h _ | .smov h _ => some h
  | _ => none

/-- The instructions of a group that work in registers alone, with their checks, operands and effect (R63): those that operators share,
and those that groups alone have (R189). -/
def groupOp : Instr → Option Alu
  | .fsub h m x => some (fsubOp h m x) | .frcp h m x => some (frcpOp h m x) | .frsq h m x => some (frsqOp h m x)
  | .fsqrt h m x => some (fsqrtOp h m x) | .fdiv h m x => some (fdivOp h m x) | .fex2 h m x => some (fex2Op h m x)
  | .flg2 h m x => some (flg2Op h m x) | .fsin h m x => some (fsinOp h m x) | .fcos h m x => some (fcosOp h m x)
  | .ftanh h m x => some (ftanhOp h m x) | .fsigm h m x => some (fsigmOp h m x) | .fdot2 h m x => some (fdot2Op h m x)
  | .fdot4 h m x => some (fdot4Op h m x) | .cvts h m d a => some (cvtsOp h m d a) | .bfpk h m d a => some (bfpkOp h m d a)
  | .bfpx h m d a => some (bfpxOp h m d a) | .qscl h m d a => some (qsclOp h m d a) | .pmovPack h x => some (pmovPackOp h x)
  | .pmovUnpack h x => some (pmovUnpackOp h x) | .vote h m x => some (voteOp h m x)
  | .matchLanes h b x => some (matchLanesOp h b x) | .xlane h b m x => some (xlaneOp h b m x)
  | .lreduce h m x => some (lreduceOp h m x) | .lscan h m x => some (lscanOp h m x) | .bcast h x => some (bcastOp h x)
  | .smov h x => some (smovOp h x)
  | i => aluOf i

/-- The active mask and the lane sets that wait in the split table (R254). -/
def Group.laneSets (G : Group) : List Word := G.mask :: G.split.map (·.mask)

end Sys2Proof.Machine

/-- R23, R35: a destination of vector, pair, quad or predicate class takes each active lane's value and keeps every other lane; a scalar
or address destination takes the value of the lowest active lane; p15 takes none; no other register changes. -/
def Obligations.WriteOpWritesTheDestinationOnly : Prop :=
  ∀ (e : Env) (r : Regs) (h : Hd) (d : Opnd) (wide : Bool) (f : Nat → Nat), r.ok → e.lanes ≤ 32 →
    let r' := lanewise e r h d wide f
    let act := activeLanes e r h
    let i := d.idx.toNat
    r'.ok ∧ r'.stoch = r.stoch ∧
    (∀ n, (d.cls = .vec ∧ n = 1) ∨ (d.cls = .pair ∧ n = 2) ∨ (d.cls = .quad ∧ n = 4) →
      (∀ k l, k < n → l ∈ act → spGet 0 r'.v (32 * (i + k) + l) = BitVec.ofNat 32 (f l / 2 ^ (32 * k))) ∧
      (∀ j, (∀ k l, k < n → l ∈ act → j ≠ 32 * (i + k) + l) → spGet 0 r'.v j = spGet 0 r.v j) ∧
      r'.s = r.s ∧ r'.a = r.a ∧ r'.p = r.p ∧ r'.outs = r.outs) ∧
    (d.cls = .pred → r'.v = r.v ∧ r'.s = r.s ∧ r'.a = r.a ∧ r'.outs = r.outs ∧
      (∀ j l, l < 32 → (spGet 0 r'.p j).getLsbD l =
        if j = i ∧ i ≠ 15 ∧ l ∈ act then f l % 2 == 1 else (spGet 0 r.p j).getLsbD l)) ∧
    (act = [] → r' = r) ∧
    (∀ l ls, act = l :: ls → d.cls = .scal → r'.v = r.v ∧ r'.a = r.a ∧ r'.p = r.p ∧ r'.outs = r.outs ∧
      spGet 0 r'.s i = BitVec.ofNat 32 (f l) ∧ (wide = true → spGet 0 r'.s (i + 1) = BitVec.ofNat 32 (f l / 2 ^ 32)) ∧
      (∀ j, j ≠ i → ¬ (wide = true ∧ j = i + 1) → spGet 0 r'.s j = spGet 0 r.s j)) ∧
    (∀ l ls, act = l :: ls → d.cls = .addr → r'.v = r.v ∧ r'.s = r.s ∧ r'.p = r.p ∧ r'.outs = r.outs ∧
      spGet 0 r'.a i = BitVec.ofNat 64 (f l) ∧ (∀ j, j ≠ i → spGet 0 r'.a j = spGet 0 r.a j)) ∧
    (∀ l ls, act = l :: ls → d.cls = .queue → r' = { r with outs := r.outs ++ [(i, BitVec.ofNat 32 (f l))] }) ∧
    (d.cls ∈ [Cls.acc, .const, .simm, .sreg, .fslot, .zero] → r' = r)

/-- R415: in supervisor state s0, a14, a15, p13 and p14 name the supervisor set, so a write there leaves the group's own registers of
those names; outside it the supervisor set keeps its values. Every register reads as it was written. -/
def Obligations.SupervisorRegisterSet : Prop :=
  ∀ (G : Group) (r : Regs), G.ok → r.ok →
    let H := G.putRegs r
    (∀ k, spGet 0 H.regs.v k = spGet 0 r.v k ∧ spGet 0 H.regs.s k = spGet 0 r.s k ∧ spGet 0 H.regs.a k = spGet 0 r.a k ∧
      spGet 0 H.regs.p k = spGet 0 r.p k) ∧ H.ok ∧
    (G.sup = true → spGet 0 H.s 0 = spGet 0 G.s 0 ∧ spGet 0 H.a 14 = spGet 0 G.a 14 ∧ spGet 0 H.a 15 = spGet 0 G.a 15 ∧
      spGet 0 H.p 13 = spGet 0 G.p 13 ∧ spGet 0 H.p 14 = spGet 0 G.p 14 ∧ spGet 0 G.regs.s 0 = G.supset.s0 ∧
      spGet 0 G.regs.a 14 = G.supset.a14 ∧ spGet 0 G.regs.a 15 = G.supset.a15 ∧ spGet 0 G.regs.p 13 = G.supset.p13 ∧
      spGet 0 G.regs.p 14 = G.supset.p14) ∧
    (G.sup = false → H.supset = G.supset)

/-- R20, R63: an instruction that works in registers alone does one of three things in a group: it leaves registers and goes to the
next slot, it stalls at its slot, or it traps there. -/
def Obligations.RegisterInstructionsHaveNoOtherEffect : Prop :=
  ∀ (s t : State) (u g : Nat) (U : Machine.Unit) (G : Group) (h : Hd) (i : Instr), Runs s u g U G → aluHd i = some h →
    exec i s = .next t →
      (∃ r : Regs, t = s.left u g h r ∧ (G.ok → r.ok)) ∨ t = s.stall u g ∨
      (∃ c, (c = 1 ∨ c = 2) ∧ t = s.takeTrap u g (groupTrap G c G.pc.toNat))

/-- What completing at a slot leaves unchanged: memory and everything outside the group, and in the group all but its registers, its
state, the stall count, the counter of instructions, what it noted of its waits, and the PC, which moves by one slot. -/
def Obligations.CompletingChangesOnlyTheGroup : Prop :=
  ∀ (s : State) (u g : Nat) (U : Machine.Unit) (G : Group) (h : Hd) (r : Regs), s.group? u g = some (U, G) →
    let t := s.left u g h r
    { t with units := s.units } = s ∧ (∀ a, t.physByte a = s.physByte a) ∧ (∀ v, v ≠ u → t.units[v]? = s.units[v]?) ∧
    ∃ V H, t.group? u g = some (V, H) ∧ { V with groups := U.groups } = U ∧ (∀ k, k ≠ g → V.groups[k]? = U.groups[k]?) ∧
      H.regs = (G.putRegs r).regs ∧ H.pc = G.pc + 12 ∧ H.st = .ready ∧
      { H with v := G.v, s := G.s, a := G.a, p := G.p, stoch := G.stoch, supset := G.supset, pc := G.pc, st := G.st,
               readyAt := G.readyAt, perf := G.perf, readyFrom := G.readyFrom, passAt := G.passAt, claim := G.claim,
               tileFrom := G.tileFrom, mxCode := G.mxCode } = G ∧
      (∀ k, k ≠ 0 → spOk 0 G.perf = true → spGet 0 H.perf k = spGet 0 G.perf k)

/-- R20, R23, R24: an instruction that works in registers alone and names an operand beyond the unit's registers raises ILLOPND and has no
other effect. R20, R59: one whose format slot fails its check raises that check's cause first. R19: one that names a register a load or an
atomic in flight will write stalls at its slot. The interlock covers a register in all its lanes: that is the model's choice (log entry 11). -/
def Obligations.BadOperandsTrapAndInterlocksStall : Prop :=
  (∀ i : Instr, (groupOp i).isSome = (aluHd i).isSome) ∧
  ∀ (s : State) (u g : Nat) (U : Machine.Unit) (G : Group) (i : Instr) (y : Alu), Runs s u g U G → groupOp i = some y →
    let e := s.env U G
    (∀ c, y.pre e = some c → exec i s = .next (s.takeTrap u g ⟨c, G.pc, G.mask, G.pc, none⟩)) ∧
    (y.pre e = none → U.usableAll (y.uses e) = false → exec i s = .next (s.takeTrap u g ⟨2, G.pc, G.mask, G.pc, none⟩)) ∧
    (y.pre e = none → U.usableAll (y.uses e) = true → s.interlocked u g (y.uses e) = true →
      exec i s = .next (s.modGroup u g fun H => { H with st := .stalled }))

/-- R96 to R99: BRA, BRX, JOIN and EXIT; each completes. -/
def Sys2Proof.Statements.BranchesComplete : Prop :=
  ∀ (s : State) (u g : Nat) (U : Machine.Unit) (G : Group) (h : Hd), Runs s u g U G →
    let e := s.env U G
    let base := s.textBase U G
    let act := activeLanes e G.regs h
    let J := slotIdx base G.pc
    (∀ (join : BitVec 16) (off : Word),
      let target := branchTo G.pc off.toInt
      exec (.bra h join off) s = .next
        (if maskOf act = 0 then s.finish u g h
         else if G.mask &&& ~~~maskOf act = 0 then s.finishAt u g h target
         else s.modGroup u g fun H =>
           { (H.done h s.clock) with
             pc := H.pc + 12, mask := H.mask &&& ~~~maskOf act,
             split := ⟨slotIdx base (branchTo G.pc join.toInt), slotIdx base target, maskOf act⟩ :: H.split })) ∧
    (∀ (a : Opnd) (join : Word), Clear s u g U [(a, 1)] → (∀ l ∈ act, rd32 e G.regs a l < 65536) → act ≠ [] →
      exec (.brx h a join) s = .next (s.modGroup u g fun H => (H.done h s.clock).brx base (branchTo G.pc join.toInt)
        (brxSets e.lanes (((List.range e.lanes).filter fun l => e.mask.getLsbD l).map fun l =>
          (l, if act.contains l then rd32 e G.regs a l else (slotIdx base (G.pc + 12)).toNat))))) ∧
    exec (.join h) s = .next (s.modGroup u g fun H =>
      match H.split with
      | [] => (H.done h s.clock).adv
      | x :: r =>
        if x.join ≠ J ∨ (H.sup = true ∧ H.split.length ≤ H.tdepth) then (H.done h s.clock).adv
        else if x.target ≠ J then
          { H.done h s.clock with split := ⟨J, J, H.mask⟩ :: r, mask := x.mask, pc := slotAddr base x.target }
        else { H.done h s.clock with split := r, mask := H.mask ||| x.mask }) ∧
    exec (.exit h) s = .next ((s.modGroup u g fun H =>
      if H.mask &&& ~~~maskOf act ≠ 0 then { (H.done h s.clock).adv with mask := H.mask &&& ~~~maskOf act }
      else match H.split with
        | [] => { H.done h s.clock with mask := 0, st := .ended }
        | x :: r => { H.done h s.clock with split := r, mask := x.mask, pc := slotAddr base x.target }).barCheck u)

/-- R95, R254: the lane sets of the split table stay disjoint from one another and from the active mask, whatever a branch, a join or an
exit does, and BRA and JOIN lose no lane. -/
def Obligations.DivergenceKeepsLaneSetsDisjoint : Prop :=
  ∀ (s t : State) (u g : Nat) (U V : Machine.Unit) (G H : Group) (h : Hd) (i : Instr), Runs s u g U G →
    ((∃ j o, i = .bra h j o) ∨ (∃ a j, i = .brx h a j) ∨ i = .join h ∨ i = .exit h) →
    G.laneSets.Pairwise (fun a b => a &&& b = 0) → exec i s = .next t → t.group? u g = some (V, H) →
      H.laneSets.Pairwise (fun a b => a &&& b = 0) ∧
      ((∃ j o, i = .bra h j o) ∨ i = .join h →
        H.laneSets.foldl (· ||| ·) 0 = G.laneSets.foldl (· ||| ·) 0)

/-- R100 to R105: calls, returns, loops, barriers, waits and no-ops; each completes. -/
def Sys2Proof.Statements.ControlFlowAndWaitsComplete : Prop :=
  ∀ (s : State) (u g : Nat) (U : Machine.Unit) (G : Group) (h : Hd), Runs s u g U G →
    let e := s.env U G
    let r := G.regs
    (∀ (d a : Opnd) (off : Word),
      let link := s.modGroup u g fun H => H.putRegs (H.regs.putAddr d.idx.toNat (G.pc + 12).toNat)
      exec (.call h false d a off) s = .next (link.finishAt u g h (branchTo G.pc off.toInt)) ∧
      exec (.call h true d a off) s = .next (link.finishAt u g h (BitVec.ofNat 64 (rd64 e r a 0)))) ∧
    (∀ x : Ops4, exec (.ret h x) s = .next (s.finishAt u g h (BitVec.ofNat 64 (rd64 e r x.a 0)))) ∧
    (∀ (d : Opnd) (off : Word), Clear s u g U [(d, 1)] →
      let n : Word := BitVec.ofNat 32 (rd32 e r d 0) - 1
      exec (.loop h d off) s = .next
        ((s.modGroup u g fun H => H.putRegs (H.regs.putScal false d.idx.toNat n.toNat)).finishAt u g h
          (if n = 0 then G.pc + 12 else branchTo G.pc off.toInt))) ∧
    (U.barArr.contains g = false → s.quiet u g = true →
      exec (.barSync h) s = .next
        (((s.modGroup u g fun H => { H.done h s.clock with st := .waiting .barSync }).barArrive u g).barCheck u) ∧
      exec (.barArrive h) s = .next (((s.finish u g h).barArrive u g).barCheck u)) ∧
    exec (.yield h) s = .next (s.finish u g { h with yld := true }) ∧ exec (.nop h) s = .next (s.finish u g h) ∧
    (∀ x : Ops4, Clear s u g U [(x.b, 1)] → ∀ l ls, activeLanes e r h = l :: ls →
      exec (.sleep h x) s = .next ((s.finish u g h).modGroup u g fun H =>
        { H with st := .waiting .sleep, sleepUntil := s.clock + Nat.min (rd32 e r x.b l) 1048576 })) ∧
    (s.quiet u g = true → exec (.gsync h) s = .next (s.finish u g h))

/-- R96 to R99: BRA, BRX, JOIN and EXIT; each completes. R100 to R105: calls, returns, loops, barriers, waits and no-ops;
each completes. Three clauses are the model's choices: the PC that SLEEP leaves moves on at its issue (log entry 9); and in supervisor
state EXIT takes entries of the interrupted code from the split table too (log entry 76), and JOIN leaves them (log entry 92). -/
def Obligations.ControlFlowCompletes : Prop :=
  Sys2Proof.Statements.BranchesComplete ∧ Sys2Proof.Statements.ControlFlowAndWaitsComplete

namespace Sys2Proof.Machine

/-- Lanes with their effective addresses (R30). -/
def State.eas (s : State) (U : Machine.Unit) (G : Group) (x : Ops4) (off : Int) (n : Nat) (ls : List Nat) : List (Nat × Nat) :=
  ls.map fun l => (l, laneEa (s.env U G) G.regs x.a x.b off n l)

/-- Every lane passes the checks of step 6: the lanes with their physical addresses, and the state in which the access is made. -/
def LanesPass (s : State) (U : Machine.Unit) (G : Group) (n : Nat) (acc : Acc) (extra : State → Nat → Option Nat)
    (eas : List (Nat × Nat)) (oks : List LaneOk) (s1 : State) : Prop := checkLanes U G n acc extra eas s = (s1, oks, [])

/-- Every lane passes the checks of a scratchpad or window access. -/
def PadPasses (s : State) (u : Nat) (U : Machine.Unit) (win : Bool) (n : Nat) (eas : List (Nat × Nat)) (oks : List PadLane) :
    Prop := splitLanes (eas.map fun y => s.padLane u U win n y.1 y.2) = (oks, [])

/-- What the model keeps of memory and lines: memory is canonical, each key has one home line, and each line's stretches lie apart and
its bytes are canonical. -/
def State.Kept (s : State) : Prop :=
  memWf s.mem = true ∧ ((s.lines.filter fun l => !l.proxy).map (·.key)).Nodup ∧
  ∀ l ∈ s.lines, l.segs.Pairwise (fun x y => x.1 + x.2.1 ≤ y.1 ∨ y.1 + y.2.1 ≤ x.1) ∧ spOk 0 l.data = true

/-- The four atomics of global memory with what each asks of the service group (R124, R125, R127, R128). -/
def atomTable (h : Hd) (m : MemMod) (x : Ops4) : List (Instr × AtomForm) :=
  [(.atom h m x, ⟨.atom, x.c.idx.toNat, 0, [(x.d, 2 * sizeRegs m.size), (x.b, 1)]⟩),
    (.red h m x, ⟨.red, x.c.idx.toNat, 0, [(x.d, sizeRegs m.size), (x.b, 1)]⟩),
    (.cas h m x, ⟨.cas, 0, offOf x.c, casUses m x⟩),
    (.atomx h m x, ⟨.atomx, x.c.idx.toNat, 0, [(x.d, 2 * sizeRegs m.size), (x.b, 1)]⟩)]

end Sys2Proof.Machine

/-- R21: the trap of failing lanes reports the lowest cause among them, the lanes that raised it, and the address of the lowest of
those; it returns to the slot itself. -/
def Obligations.FailingLanesTrapWithTheLowestCause : Prop :=
  ∀ (G : Group) (fs : List LaneFail), fs ≠ [] → (∀ f ∈ fs, f.lane < 32) → fs.Pairwise (fun a b => a.lane < b.lane) →
    let t := laneTrap G fs
    (∀ f ∈ fs, t.cause ≤ f.cause) ∧
    (∀ l, l < 32 → (t.mask.getLsbD l = true ↔ ∃ f ∈ fs, f.cause = t.cause ∧ f.lane = l)) ∧
    (∃ f ∈ fs, f.cause = t.cause ∧ t.va = BitVec.ofNat 64 f.ea ∧ t.walk = f.walk ∧
      ∀ f' ∈ fs, f'.cause = t.cause → f.lane ≤ f'.lane) ∧
    t.ret = G.pc

/-- R20, R21, R113: a load or a store with a failing lane takes that trap and makes no access in any lane. Where a lane's walk has to wait
for a locked line, or for a slice or a flow (R213, R438, R442), the check is made again later, and nothing is claimed here. -/
def Obligations.LoadsAndStoresCheckEveryLaneFirst : Prop :=
  ∀ (s s1 : State) (u g : Nat) (U : Machine.Unit) (G : Group) (h : Hd) (m : MemMod) (x : Ops4) (oks : List LaneOk)
    (f : LaneFail) (fs : List LaneFail), Runs s u g U G → Clear s u g U [(x.d, sizeRegs m.size), (x.b, 1)] →
    s.acqBlocked u g = false → G.mid = false → s.quiet u g = true → lowestCause (f :: fs) ≠ 13 → walksWait (f :: fs) = false →
    let n := sizeBytes m.size
    let act := activeLanes (s.env U G) G.regs h
    (checkLanes U G n .read noExtra (s.eas U G x (offOf x.c) n (accessLanes (x.d.cls == .scal) act)) s = (s1, oks, f :: fs) →
      exec (.ld h m x) s = .next (s.takeTrap u g (laneTrap G (f :: fs)))) ∧
    (checkLanes U G n .write noExtra
        (s.eas U G x (offOf x.c) n (accessLanes (x.d.cls == .scal && x.b.cls == .zero) act)) s = (s1, oks, f :: fs) →
      exec (.st h m x) s = .next (s.takeTrap u g (laneTrap G (f :: fs))))

/-- R114, R115, R296: a load whose lanes all pass asks for its sectors, or takes them from L1, and completes; a store puts its bytes on
their way, or into the unit's tentative lines, and completes, an .sc store once its own part is acknowledged. -/
def Obligations.LoadsAndStoresComplete : Prop :=
  ∀ (s s1 : State) (u g : Nat) (U : Machine.Unit) (G : Group) (h : Hd) (m : MemMod) (x : Ops4) (oks : List LaneOk),
    Runs s u g U G → Clear s u g U [(x.d, sizeRegs m.size), (x.b, 1)] → s.acqBlocked u g = false →
    (m.ord = .sc → s.quiet u g = true) →
    let n := sizeBytes m.size
    let e := s.env U G
    let act := activeLanes e G.regs h
    (∀ l ls, accessLanes (x.d.cls == .scal) act = l :: ls →
      LanesPass s U G n .read noExtra (s.eas U G x (offOf x.c) n (l :: ls)) oks s1 →
      let secs := sectorsOf G x.d n oks
      let s2 := if m.ord = .sc then (s1.tcCatchUp U.core).scFence u g U.core (scopeCode m.scope) else s1.tcCatchUp U.core
      s2.coreLoads U.core + (secs.filter fun q => s2.sectorMiss u g U q).length ≤ 2048 →
      s2.readRoom (dieOf U.core) (secs.map (·.pa)) = true →
      exec (.ld h m x) s = .next ((secs.foldl (fun t q => t.serveSector u g U (ordAcq m.ord) q) s2).finish u g h)) ∧
    (G.mid = false → (m.ord ≠ .rlx → s.quiet u g = true) →
      ∀ l ls, accessLanes (x.d.cls == .scal && x.b.cls == .zero) act = l :: ls →
      LanesPass s U G n .write noExtra (s.eas U G x (offOf x.c) n (l :: ls)) oks s1 →
      let xs := storeBytes (storeVal e G.regs m.size x.d) n oks
      s1.storesHeld u g U xs = false →
      let t := s1.putStores u g U (m.ord != .rlx) (s1.writeFloor U G (m.ord != .rlx)) xs
      exec (.st h m x) s = .next (if m.ord = .sc then (t.modGroup u g fun H => { H with mid := true }).stall u g
        else t.finish u g h)) ∧
    (G.mid = true → s.quiet u g = true →
      exec (.st h m x) s = .next
        (((s.scFence u g U.core (scopeCode m.scope)).modGroup u g fun H => { H with mid := false }).finish u g h))

/-- R297, R301, R450: a write of bytes at their home gives those bytes, and leaves every other byte of memory. Pool windows may give
one byte of the fabric two addresses (log entry 104): the bytes written are different ones, and every other byte is one that none of them
is. -/
def Obligations.PhysicalWriteReadsBack : Prop :=
  ∀ (s : State) (pa : Nat) (bs : List Byte), s.Kept → pa % paMod + bs.length ≤ paMod →
    (∀ i j, i < j → j < bs.length → s.memAt (pa + i) ≠ s.memAt (pa + j)) →
    let t := s.physWrite pa bs
    t.physBytes pa bs.length = bs ∧ t.Kept ∧
    (∀ a, (∀ i, i < bs.length → s.memAt a ≠ s.memAt (pa + i)) → t.physByte a = s.physByte a)

/-- R115, R277: issuing a store changes no byte of memory beyond what its translations set: the store only stands on its way, or in the
unit's tentative lines, for which the tile cache may give up home lines. -/
def Sys2Proof.Statements.IssuedStoresLeaveMemory : Prop :=
  ∀ (s s1 t : State) (u g : Nat) (U : Machine.Unit) (G : Group) (h : Hd) (m : MemMod) (x : Ops4) (oks : List LaneOk),
    Runs s u g U G → Clear s u g U [(x.d, sizeRegs m.size), (x.b, 1)] →
    LanesPass s U G (sizeBytes m.size) .write noExtra (s.eas U G x (offOf x.c) (sizeBytes m.size)
      (accessLanes (x.d.cls == .scal && x.b.cls == .zero) (activeLanes (s.env U G) G.regs h))) oks s1 →
    exec (.st h m x) s = .next t → (∀ a, t.physByte a = s.physByte a) ∨
      ∀ a, t.physByte a = s1.physByte a ∨ (U.firm = false ∧ ∃ l ∈ s1.lines, l.proxy = false ∧ t.line? l.key = none ∧
        ∃ b, s1.memAt b = s1.memAt a ∧ (segOff l.segs b).isSome = true)

/-- R113, R297, R475: a store performed at a target that is not cached writes its bytes there, and no other byte of memory but what the
page-heat event counts. -/
def Sys2Proof.Statements.PerformedStoreWritesItsBytes : Prop :=
  ∀ (s : State) (id : Nat) (p : PendStore), s.Kept → s.stores.find? (fun p => p.id == id && p.wts.isNone) = some p →
    s.storeSvc p = false → s.storeReady p = true → s.cutWrite (dieOf p.core) p.ctx p.va p.pa = false → s.uncorrIn p.pa 1 = false →
    s.cached p.pa = false →
    (∀ b ∈ p.bytes, p.va ≤ b.1 ∧ p.pa + (b.1 - p.va) < paMod ∧ s.cached (p.pa + (b.1 - p.va)) = false) →
    (p.bytes.map fun b => s.memAt (p.pa + (b.1 - p.va))).Nodup →
    ∃ t, exec (.storePerformed id) s = .next t ∧
      (∀ b ∈ p.bytes, t.physByte (p.pa + (b.1 - p.va)) = b.2) ∧
      (∀ a, (∀ b ∈ p.bytes, s.memAt a ≠ s.memAt (p.pa + (b.1 - p.va))) →
        t.physByte a = (s.heatReq p.ctx p.va p.pa).physByte a) ∧
      (s.heatOn = false → ∀ a, (∀ b ∈ p.bytes, s.memAt a ≠ s.memAt (p.pa + (b.1 - p.va))) → t.physByte a = s.physByte a)

/-- R297, R301: a store performed at a cached target leaves its bytes in the line at its home and the line's other bytes as they were;
where the home keeps no line its bytes are in memory. A copy of the sector in the writer's L1 takes them too. No copy on another die stands
in the way (`startInvals`). -/
def Sys2Proof.Statements.PerformedStoreUpdatesItsLine : Prop :=
  ∀ (s s1 : State) (id : Nat) (p : PendStore) (k : Key), s.Kept → s.stores.find? (fun p => p.id == id && p.wts.isNone) = some p →
    s.storeSvc p = false → s.storeReady p = true → s.cutWrite (dieOf p.core) p.ctx p.va p.pa = false → s.uncorrIn p.pa 1 = false →
    s.cached p.pa = true → startInvals p.pa (dieOf p.core) (s.keysOf p.ctx p.va p.bytes.length) s = (false, s1) →
    (∀ b ∈ p.bytes, (s.keyOf p.ctx b.1).1 = k ∧ s.cached (p.pa + (b.1 - p.va)) = true) →
    (p.bytes.map (·.1)).Nodup → (p.bytes.map fun b => (s.keyOf p.ctx b.1).2).Nodup →
    (p.bytes.map fun b => s.memAt (p.pa + (b.1 - p.va))).Nodup →
    ∃ t, exec (.storePerformed id) s = .next t ∧
      (∀ b ∈ p.bytes,
        (∀ l, t.line? k = some l → spGet 0 l.data (s.keyOf p.ctx b.1).2 = b.2) ∧
        (t.line? k = none → spGet 0 t.mem (s.memAt (p.pa + (b.1 - p.va))) = b.2) ∧
        (∀ y ∈ t.l1, y.core = p.core → y.ctx = p.ctx → y.va = b.1 / 32 → ∀ v, y.data[b.1 % 32]? = some v → v = b.2)) ∧
      (∀ l0 l o, s.line? k = some l0 → t.line? k = some l → (∀ b ∈ p.bytes, (s.keyOf p.ctx b.1).2 ≠ o) →
        spGet 0 l.data o = spGet 0 l0.data o)

/-- R115, R277: issuing a store changes no byte of memory beyond what its translations set: the store only stands on its way, or in
the unit's tentative lines, for which the tile cache may give up home lines. R113, R297, R475: a store performed at a target that is not
cached writes its bytes there, and no other byte of memory but what the page-heat event counts. R297, R301: one performed at a cached
target updates the line at its home and the writer's L1 copy. -/
def Obligations.StoresWriteTheirBytesWhenPerformed : Prop :=
  Sys2Proof.Statements.IssuedStoresLeaveMemory ∧ Sys2Proof.Statements.PerformedStoreWritesItsBytes ∧
    Sys2Proof.Statements.PerformedStoreUpdatesItsLine

/-- R114, R116 to R118, R293: loads from scratchpad, window and constant banks give each lane its bytes, and stores write theirs, lowest
lane first; each completes. -/
def Sys2Proof.Statements.ScratchpadAndConstantAccessesComplete : Prop :=
  ∀ (s : State) (u g : Nat) (U : Machine.Unit) (G : Group) (h : Hd) (m : MemMod) (x : Ops4) (oks : List PadLane), Runs s u g U G →
    Clear s u g U [(x.d, sizeRegs m.size), (x.b, 1)] →
    let n := sizeBytes m.size
    let e := s.env U G
    let act := activeLanes e G.regs h
    let sc := m.ord == .sc
    let loaded := fun ks : List PadLane => ((s.padFence u g U sc m.scope).padRead U.core (ordAcq m.ord) (ks.map (·.unit))).modGroup u g
      fun H => H.putRegs (H.regs.write x.d (m.size == .b64) (ks.map fun o => (o.lane, s.spadNat o.unit o.off n)))
    let stored := putPad n (storeVal e G.regs m.size x.d) oks (s.padWrote U G (m.ord != .rlx) (oks.map (·.unit)))
    (∀ win l ls, accessLanes (x.d.cls == .scal) act = l :: ls → s.padReady u g false sc = true →
      PadPasses s u U win n (s.eas U G x (offOf x.c) n (l :: ls)) oks →
      (∀ o ∈ oks, o.unit = u → U.dstBusy o.off n = false) →
      exec (if win then .ldx h m x else .lds h m x) s = .next ((loaded oks).finish u g h)) ∧
    (∀ win l ls, accessLanes (x.d.cls == .scal && x.b.cls == .zero) act = l :: ls → s.padReady u g (m.ord != .rlx) sc = true →
      (win = true → U.firm = true) → PadPasses s u U win n (s.eas U G x (offOf x.c) n (l :: ls)) oks →
      (∀ o ∈ oks, o.unit = u → U.dstBusy o.off n = false ∧ U.srcBusy o.off n = false) →
      exec (if win then .stx h m x else .sts h m x) s = .next (((stored.tailMoved u U).padFence u g U sc m.scope).finish u g h)) ∧
    (let eas := (accessLanes (x.d.cls == .scal) act).map fun l => (l, ldcAddr e G.regs x n l)
     (∀ y ∈ eas, y.2 % (n : Int) = 0 ∧ 0 ≤ y.2 ∧ y.2 < 1024) →
      exec (.ldc h m x) s = .next ((s.modGroup u g fun H => H.putRegs (H.regs.write x.d (m.size == .b64)
        (eas.map fun y => (y.1, ofBytesLE (spGetList 0 e.banks (1024 * (x.a.idx.toNat / 256) + y.2.toNat) n))))).finish u g h))

/-- R113, R119, R129: accumulator rows move between tile and scratchpad, and the atomics on scratchpad act lane after lane and return
the old values; each completes. -/
def Sys2Proof.Statements.TileMovesAndScratchpadAtomicsComplete : Prop :=
  ∀ (s : State) (u g : Nat) (U : Machine.Unit) (G : Group) (h : Hd) (m : MemMod) (x : Ops4) (oks : List PadLane) (l : Nat)
    (ls : List Nat), Runs s u g U G →
    let n := sizeBytes m.size
    let k := sizeRegs m.size
    let e := s.env U G
    let r := G.regs
    let b := rd32 e r x.b l
    let row := b % 32
    let rows := b / 32 % 32 + 1
    let base := groupEa r x.a x.c
    let t := x.d.idx.toNat
    let sc := m.ord == .sc
    let rel := m.ord == .acqrel || m.ord == .sc
    activeLanes e r h = l :: ls →
    (Clear s u g U [(x.d, 1), (x.b, 1)] → base % 16 = 0 → row + rows ≤ 32 → base + 256 * rows * n ≤ U.spadSize →
      s.acqBlocked u g = false →
      (∀ y ∈ s.tasks, y.unit = u → y.dst = t → y.st.live = true → ∃ a b, G.tileFrom = some (a, b) ∧ b ≤ y.seq) →
      U.dstBusy base (256 * rows * n) = false →
      let s1 := s.tcRaise U.core U.engTime
      exec (.stm h m x) s = .next
        ((((s.padWrote U G false [u]).tcRaise U.core U.engTime).modUnit u fun V => V.tileStore t row n base rows).finish u g h) ∧
      (U.srcBusy base (256 * rows * n) = false →
        exec (.ldm h m x) s = .next ((s1.modUnit u fun V => V.tileLoad t row n base rows).finish u g h))) ∧
    (Clear s u g U [(x.d, 2 * k), (x.b, 1)] → s.padReady u g rel sc = true →
      (∀ o ∈ oks, U.dstBusy o.off n = false ∧ U.srcBusy o.off n = false) →
      let after := fun f : Nat → Nat → Nat =>
        let s1 := ((s.padFence u g U sc m.scope).padRead U.core (m.ord != .rlx) [u]).padWrote U G rel [u]
        let s2 := s1.modUnit u fun V => (padRmwLanes n f oks V).2
        let s3 := s2.modGroup u g fun H => H.putRegs ((padRmwLanes n f oks U).1.foldl
          (fun r y => r.putVec x.d.idx.toNat y.1 k y.2) H.regs)
        ((s3.tailMoved u U).padFence u g U sc m.scope).finish u g h
      (PadPasses s u U false n (s.eas U G x 0 n (l :: ls)) oks →
        exec (.atoms h m x) s = .next (after fun l old =>
          rmwVal x.c.idx.toNat (8 * n) old (r.words (x.d.idx.toNat + k) l k))) ∧
      (PadPasses s u U false n (s.eas U G x (offOf x.c) n (l :: ls)) oks →
        exec (.cass h m x) s = .next (after fun l old =>
          if old = r.words x.d.idx.toNat l k then r.words (x.d.idx.toNat + k) l k else old)))

/-- R114, R116 to R118, R293: loads from scratchpad, window and constant banks give each lane its bytes, and stores write
theirs, lowest lane first; each completes. R113, R119, R129: accumulator rows move between tile and scratchpad, and the
atomics on scratchpad act lane after lane and return the old values; each completes. -/
def Obligations.ScratchpadConstantAndTileAccessesComplete : Prop :=
  Sys2Proof.Statements.ScratchpadAndConstantAccessesComplete ∧ Sys2Proof.Statements.TileMovesAndScratchpadAtomicsComplete

/-- R120, R121, R319, R329: a fence whose conditions hold acts on the core's times and completes. -/
def Sys2Proof.Statements.FencesComplete : Prop :=
  ∀ (s : State) (u g : Nat) (U : Machine.Unit) (G : Group) (h : Hd) (sc : Scope), Runs s u g U G →
    activeLanes (s.env U G) G.regs h ≠ [] →
    (s.outLoads u g = 0 → s.awaitsReply u g = false → exec (.fence h .acq sc) s = .next ((s.acqFence U.core).finish u g h)) ∧
    (s.unacked u g = 0 → exec (.fenceAsync h) s = .next (s.finish u g h)) ∧
    (s.quiet u g = true →
      exec (.fence h .rel sc) s = .next ((s.relFence u g U.core).finish u g h) ∧
      exec (.fence h .acqrel sc) s = .next (((s.acqFence U.core).relFence u g U.core).finish u g h) ∧
      exec (.fence h .sc sc) s = .next ((s.scFence u g U.core (scopeCode sc)).finish u g h))

/-- R122, R124, R125, R127, R128, R332: an atomic whose lanes pass and find room sends one request for each lane and completes, an .sc
one after its fence. -/
def Obligations.GlobalAtomicsComplete : Prop :=
  ∀ (s s1 : State) (u g : Nat) (U : Machine.Unit) (G : Group) (h : Hd) (m : MemMod) (x : Ops4) (oks : List LaneOk) (l : Nat)
    (ls : List Nat), Runs s u g U G → ∀ p ∈ atomTable h m x, Clear s u g U p.2.uses →
    (G.mid = true → s.quiet u g = true → exec p.1 s = .next
      (((s.scFence u g U.core (scopeCode m.scope)).modGroup u g fun H => { H with mid := false }).finish u g h)) ∧
    (G.mid = false → U.firm = true → s.acqBlocked u g = false → (atomRel p.2 m.ord = true ∨ m.ord = .sc → s.quiet u g = true) →
      accessLanes (!p.2.returns && x.d.cls == .scal && x.b.cls == .zero) (activeLanes (s.env U G) G.regs h) = l :: ls →
      LanesPass s U G (sizeBytes m.size) .rmw (atomExtra p.2) (s.eas U G x p.2.off (sizeBytes m.size) (l :: ls)) oks s1 →
      (p.2.kind = .atomx → s.atomxReady p.2.code m.size = true) → s.sendQueue U.core + oks.length ≤ 256 →
      (p.2.returns = true → oks.length ≤ (s.slotsFree U.core).length) →
      s1.flowsRoom (dieOf U.core) 1 (oks.map fun o => s1.routeOf U.ctx o.ea o.pa) = true →
      let s2 := if m.ord = .sc then (s1.tcCatchUp U.core).scFence u g U.core (scopeCode m.scope) else s1
      let t := sendReqs u g U G p.2 m x.d (atomOps p.2 (s.env U G) G.regs m x.d) (s2.writeFloor U G (atomRel p.2 m.ord))
        (s2.slotsFree U.core) oks s2
      exec p.1 s = .next (if m.ord = .sc then (t.modGroup u g fun H => { H with mid := true }).stall u g
        else t.finish u g h))

/-- R130 to R134: a wait whose lanes are all satisfied resumes with their values, cache control acts on each lane's line, and a
prefetch is made; each completes. -/
def Sys2Proof.Statements.WaitCacheControlAndPrefetchComplete : Prop :=
  ∀ (s s1 : State) (u g : Nat) (U : Machine.Unit) (G : Group) (h : Hd) (x : Ops4) (oks : List LaneOk) (l : Nat) (ls : List Nat),
    Runs s u g U G → activeLanes (s.env U G) G.regs h = l :: ls →
    (∀ (m : WaitMod) (s3 : State) (r : List (Nat × Nat)),
      let n := if m.b64 then 8 else 4
      let ref := fun l => G.regs.words (x.d.idx.toNat + n / 4) l (n / 4)
      let s2 := oks.foldl (fun t o => t.waitcFetch u g U n o) (oks.foldl (fun t o => t.armMon u g U.ctx o) (s1.tcCatchUp U.core))
      let ds := s2.waitcRoutes oks
      Clear s u g U [(x.d, n / 2), (x.b, 1)] → G.st ≠ .waiting .waitc → s.acqBlocked u g = false →
      LanesPass s U G n .read noExtra (s.eas U G x (offOf x.c) n (l :: ls)) oks s1 →
      (∀ o ∈ oks, s2.waitcLost U n o = false) → s2.waitcHeld u g U oks n = false →
      waitcRead u g U m ref oks ((s2.passPkts (dieOf U.core) 0 ds).backPkts (dieOf U.core) 0 ds) = some (r, s3) →
      (∀ k ∈ l :: ls, ∃ v ∈ r, v.1 = k) →
      exec (.waitc h m x) s = .next (((s3.disarm u g).modGroup u g fun H =>
        { H.putRegs (r.foldl (fun q v => q.putVec x.d.idx.toNat v.1 (n / 4) v.2) H.regs) with
          wcVals := [], wcPoll := false, wakeBy := 0 }).finish u g h)) ∧
    (∀ op : CctlOp, Clear s u g U [(x.b, 1)] → (op = .wb ∨ op = .wbinv → U.firm = true ∧ ∀ o ∈ oks, s1.cctlHeld U o.ea = false) →
      s.acqBlocked u g = false → LanesPass s U G 1 .read noExtra (s.eas U G x (offOf x.c) 1 (l :: ls)) oks s1 →
      exec (.cctl h op x) s = .next ((oks.foldl (fun t o => t.cctlLane U op o.ea) s1).finish u g h)) ∧
    (∀ tc, Clear s u g U [(x.b, 1)] → (∀ y ∈ s.eas U G x (offOf x.c) 1 (l :: ls), s.prefWaits U G y.2 = false) →
      exec (.pref h tc x) s = .next
      (((s.eas U G x (offOf x.c) 1 (l :: ls)).foldl (fun t y => t.prefLane U G false tc y.2) (s.tcCatchUp U.core)).finish u g h))

/-- R120, R121, R319, R329: a fence whose conditions hold acts on the core's times and completes. R130 to R134: a wait whose
lanes are all satisfied resumes with their values, cache control acts on each lane's line, and a prefetch is made; each
completes. -/
def Obligations.FencesWaitsAndCacheControlComplete : Prop :=
  Sys2Proof.Statements.FencesComplete ∧ Sys2Proof.Statements.WaitCacheControlAndPrefetchComplete

namespace Sys2Proof.Machine

/-- A group-wide instruction may act: lane `l` is its lowest active lane, and no acquire is outstanding (R18, R319). -/
def Acts (s : State) (u g : Nat) (U : Machine.Unit) (G : Group) (h : Hd) (xs : Uses) (l : Nat) : Prop :=
  Runs s u g U G ∧ Clear s u g U xs ∧ s.acqBlocked u g = false ∧ ∃ ls, activeLanes (s.env U G) G.regs h = l :: ls

/-- A barrier object may be used: it lies in the scratchpad and is initialised (R144). -/
def BarOk (U : Machine.Unit) (b : Option Nat) : Prop := ∀ off, b = some off → U.barFail off false = none

/-- A command joins the unit's queue and the instruction completes. -/
def State.queued (s : State) (u g : Nat) (h : Hd) (c : Cmd) : State :=
  ((((s.declare c).modGroup u g fun H => H.count 7).modUnit u fun V => { V with copyq := V.copyq ++ [c] }).fresh).finish u g h

/-- A copy of no bytes without a guard arrives at once; any other joins the queue (R150). -/
def State.copied (s : State) (u g : Nat) (U : Machine.Unit) (h : Hd) (c : Cmd) : State :=
  if c.len = 0 ∧ c.guard = none then
    (((s.declare c).modGroup u g fun H => H.count 7).arriveCmd c U.core).finish u g h
  else s.queued u g h c

/-- The queue and the scoreboard take a command of group `g` (R136, R139, R312). -/
def CmdFits (U : Machine.Unit) (g : Nat) (G : Group) (c : Cmd) : Prop :=
  U.copyq.length < 64 ∧ U.sbConflict c.sb = false ∧ U.sbFull g G c.sb = false

end Sys2Proof.Machine

/-- R141, R143 to R145, R319: barrier objects: initialisation, byte counts, arrivals, waits and tests; each completes. -/
def Sys2Proof.Statements.BarrierObjectsComplete : Prop :=
  ∀ (s : State) (u g : Nat) (U : Machine.Unit) (G : Group) (h : Hd) (x : Ops4) (l : Nat),
    let b := rd32 (s.env U G) G.regs x.b l
    let off := groupEa G.regs x.a x.c
    let d := tokenDist (U.barObj off).phase b
    (Acts s u g U G h [(x.b, 1)] l → off % 16 = 0 → off + 16 ≤ U.spadSize → 1 ≤ b → b ≤ 65535 →
      exec (.binit h x) s = .next ((s.modUnit u fun V => V.initBar off b).finish u g h)) ∧
    (Acts s u g U G h [(x.b, 1)] l → U.barFail off false = none →
      exec (.bexp h x) s = .next ((s.modUnit u fun V => V.putBar off ((V.barObj off).expect b).test).finish u g h) ∧
      (0 < d → d ≤ 2 ^ 31 →
        exec (.bwait h x) s = .next ((s.barAcquire u off U.core).finish u g h) ∧
        exec (.btest h x) s = .next (((s.barAcquire u off U.core).putPredD u g h x.d U.lanes true).finish u g h)) ∧
      (d = 0 → exec (.btest h x) s = .next ((s.putPredD u g h x.d U.lanes false).finish u g h))) ∧
    (∀ (ext : Bool) (v o : Nat), Acts s u g U G h [(x.d, 1)] l → (ext = true → U.firm = true) → s.quiet u g = true →
      s.barTarget u U ext off = .ok (v, o) →
      exec (.barrive h ext x) s =
        .next (((s.barArriveOn v o 0 U.core 0).putD u g x.d (s.spadNat v o 4)).finish u g h))

/-- R141: what an arrival and declared bytes do to a barrier object: the phase advances exactly when no arrival is pending and the bytes
balance, and then the pending count starts again; an object reads back as it was written, its reserved bits as they
were; BINIT clears them. -/
def Obligations.BarrierObjectLaws : Prop :=
  (∀ (b : BarObj) (n : Nat), b.bal < 2 ^ 32 → n < 2 ^ 32 →
    let c := b.arrive n
    (b.pend ≤ 1 ∧ b.bal = n → c.phase = (b.phase + 1) % 2 ^ 32 ∧ c.pend = b.count ∧ c.bal = 0) ∧
    (¬ (b.pend ≤ 1 ∧ b.bal = n) → c.phase = b.phase ∧ c.pend = b.pend - 1 ∧ (c.bal + n) % 2 ^ 32 = b.bal) ∧
    c.count = b.count) ∧
  (∀ (U : Machine.Unit) (off : Nat) (b : BarObj), spOk 0 U.spad = true → b.phase < 2 ^ 32 → b.count < 2 ^ 16 → b.pend < 2 ^ 16 →
    b.bal < 2 ^ 32 → (U.putBar off b).barObj off = b ∧
    ∀ a, (a < off ∨ off + 12 ≤ a) → spGet 0 (U.putBar off b).spad a = spGet 0 U.spad a) ∧
  (∀ (U : Machine.Unit) (off b : Nat), spOk 0 U.spad = true → b < 2 ^ 16 → (U.initBar off b).barObj off = ⟨0, b, b, 0⟩ ∧
    (U.initBar off b).spadNat (off + 12) 4 = 0 ∧
    ∀ a, (a < off ∨ off + 16 ≤ a) → spGet 0 (U.initBar off b).spad a = spGet 0 U.spad a)

/-- R147 to R149, R155, R156: sealing a batch, waiting for batches, looking a tile up and prefetching tiles; each completes. -/
def Sys2Proof.Statements.BatchAndTileCacheQueriesComplete : Prop :=
  ∀ (s : State) (u g : Nat) (U : Machine.Unit) (G : Group) (h : Hd) (x : Ops4) (l : Nat),
    let b := rd32 (s.env U G) G.regs x.b l
    let d := tokenDist G.openB.toNat b
    let live := s.openOps u g U
    let pend := G.sealed.filter live.contains
    let key := keyOpnd G.regs x.a
    (Acts s u g U G h [(x.d, 1)] l →
      ((∀ t, G.claim ≠ some (.batch, t)) ∧ (live.contains G.openB = false ∨ pend.length < 8)) ∨
        (∃ t n r, G.claim = some (.batch, t) ∧ G.sealed = n :: r ∧ live.contains n = false) →
      exec (.seal h x) s = .next (((s.modGroup u g fun H =>
        { H with sealed := (pend ++ [H.openB]).filter live.contains, openB := nextBatch H.openB }).putD u g x.d
          G.openB.toNat).finish u g h)) ∧
    (Acts s u g U G h [(x.b, 1)] l →
      (b = 0 ∨ 2 ^ 31 < d → exec (.waitb h x) s = .next (s.finish u g h)) ∧
      (b ≠ 0 → 0 < d → d ≤ 2 ^ 31 → (∀ n ∈ s.openOps u g U, tokenDist G.openB.toNat n.toNat < d) →
        exec (.waitb h x) s = .next (((s.acqFence U.core).tcRaise U.core U.engTime).finish u g h))) ∧
    (∀ t tile, s.keyTile U.ctx key = some (t, tile) →
      (Acts s u g U G h [(x.d, 1), (x.a, 2)] l →
        exec (.tclook h x) s = .next ((s.putD u g x.d (s.lookWord u U.ctx t.id tile)).finish u g h)) ∧
      (Acts s u g U G h [(x.a, 2), (x.b, 1)] l →
        let tiles := tile :: (neighbours.zipIdx.filterMap fun (o, i) => if bitsAt b i 1 == 1 then t.tileAt tile o else none)
        (∀ k ∈ tiles, s.tileWaits (dieOf U.core) U.ctx t k = false) →
          exec (.tcpref h x) s =
            .next ((tiles.foldl (fun r k => r.prefTile (dieOf U.core) U.ctx t k) s).finish u g h)))

/-- R141, R143 to R145, R319: barrier objects: initialisation, byte counts, arrivals, waits and tests; each completes. R147
to R149, R155, R156: sealing a batch, waiting for batches, looking a tile up and prefetching tiles; each completes. -/
def Obligations.BarrierAndTileCacheInstructionsComplete : Prop :=
  Sys2Proof.Statements.BarrierObjectsComplete ∧ Sys2Proof.Statements.BatchAndTileCacheQueriesComplete

/-- R136 to R139, R142, R150, R151, R154, R157, R158, R173: a copy whose operands obey its rule becomes a command of the unit's queue;
each completes. -/
def Obligations.CopyInstructionsComplete : Prop :=
  ∀ (s : State) (u g : Nat) (U : Machine.Unit) (G : Group) (h : Hd) (m : CopyMod) (x : Ops4) (l : Nat),
    let e := s.env U G
    let dst := G.regs.addr x.d.idx.toNat
    let src := G.regs.addr x.a.idx.toNat
    let key := keyOpnd G.regs x.a
    let len := rd32 e G.regs x.b l
    let bar := barOpnd e G.regs x.c l
    (Acts s u g U G h [(x.b, 1), (x.c, 1)] l → BarOk U bar → dst % 16 = 0 → src % 16 = 0 → len % 16 = 0 → len ≤ 262144 →
      dst + len ≤ U.spadSize →
      let c := { newCmd s g G m .cpy u len bar with
        dst := BitVec.ofNat 64 dst, src := BitVec.ofNat 64 src, sb := sbRange dst len true }
      CmdFits U g G c → exec (.cpy h m x) s = .next (s.copied u g U h c)) ∧
    (Acts s u g U G h [(x.b, 1), (x.c, 1)] l → BarOk U bar → dst % 16 = 0 → src % 16 = 0 → len % 16 = 0 → len ≤ 262144 →
      src + len ≤ U.spadSize → m.sub = 0 →
      let c := { newCmd s g G m .cpys u len bar with
        dst := BitVec.ofNat 64 dst, src := BitVec.ofNat 64 src, sb := sbRange src len false }
      CmdFits U g G c → exec (.cpys h m x) s = .next (s.copied u g U h c)) ∧
    (∀ v boff, Acts s u g U G h [(x.b, 1), (x.c, 1)] l → dst % 16 = 0 → src % 16 = 0 → len % 16 = 0 → len ≤ 262144 →
      src + len ≤ U.spadSize → m.sub ≠ 0 → s.windowChecks u U dst len bar = .ok (v, boff) →
      let c := { newCmd s g G m .cpysx u len (bar.map fun _ => boff) with
        dst := BitVec.ofNat 64 dst, src := BitVec.ofNat 64 src, sb := sbRange src len false, barUnit := v }
      CmdFits U g G c → exec (.cpys h m x) s = .next (s.copied u g U h c)) ∧
    (∀ t tile, s.keyTile U.ctx key = some (t, tile) →
      (Acts s u g U G h [(x.a, 2), (x.c, 1)] l → BarOk U bar → dst % 16 = 0 → t.tileBytes ≤ 262144 →
        dst + t.tileBytes ≤ U.spadSize →
        let c := { newCmd s g G m .cpyt u t.tileBytes bar with
          dst := BitVec.ofNat 64 dst, src := BitVec.ofNat 64 key, sb := sbRange dst t.tileBytes true }
        CmdFits U g G c → exec (.cpyt h m x) s = .next (s.copied u g U h c)) ∧
      (Acts s u g U G h [(x.a, 2), (x.b, 1), (x.c, 1)] l → BarOk U bar →
        let h0 := len % 256
        let h1 := len / 256 % 256
        h0 ≤ (t.dim 0).2.1 → h1 ≤ (t.dim 1).2.1 → t.esize ∈ [1, 2, 4, 8] → dst % 16 = 0 → dst + haloLen t h0 h1 ≤ U.spadSize →
        let c := { newCmd s g G m .tchalo u (haloLen t h0 h1) bar with
          dst := BitVec.ofNat 64 dst, src := BitVec.ofNat 64 key, opb := BitVec.ofNat 32 (len % 65536),
          sb := sbRange dst (haloLen t h0 h1) true }
        CmdFits U g G c → exec (.tchalo h m x) s = .next (s.copied u g U h c))) ∧
    (Acts s u g U G h [(x.b, 1), (x.c, 1)] l → BarOk U bar →
      let size := 2 ^ m.sub.toNat
      let act := activeLanes e G.regs h
      let lanes := act.map fun l => (l, BitVec.ofNat 32 (rd32 e G.regs x.b l))
      let span := size * (act.foldl Nat.max 0 + 1)
      dst % 16 = 0 → (∀ y ∈ lanes, gatherVa src y.2 size % size = 0) → dst + span ≤ U.spadSize →
      let c := { newCmd s g G m (.cpyg size) u (size * act.length) bar with
        dst := BitVec.ofNat 64 dst, src := BitVec.ofNat 64 src, lanes := lanes, sb := sbRange dst span true }
      CmdFits U g G c → exec (.cpyg h m x) s = .next (s.copied u g U h c)) ∧
    (Acts s u g U G h [(x.a, 1), (x.c, 1)] l → BarOk U bar → U.firm = true →
      let id := rd32 e G.regs x.a l
      id < 2 ^ 24 → (id ≠ 0 → (s.tensor? U.ctx id).isSome = true) → U.copyq.length < 64 →
      let c := fun k => { newCmd s g G m k u 0 bar with src := BitVec.ofNat 64 id }
      exec (.tcinv h m x) s = .next (s.queued u g h (c (.tcinv (m.sub == 1)))) ∧
      exec (.tcwb h m x) s = .next (s.queued u g h (c .tcwb))) ∧
    (Acts s u g U G h [(x.d, 1), (x.b, 1), (x.c, 1)] l → BarOk U bar → src % 16 = 0 → len % 16 = 0 → len ≠ 0 → len ≤ 4194304 →
      let gran := (len + 65535) / 65536
      s.slabUsed (quadOf U.core) + gran ≤ 64 → (U.slabs.filter (·.live)).length < 16 → U.copyq.length < 64 →
      let s1 := (s.modUnit u fun V => { V with
        slabs := V.slabs ++ [(⟨BitVec.ofNat 16 U.freeHandle, gran, len, [], true, false⟩ : Slab)] }).putD u g x.d U.freeHandle
      exec (.slabld h m x) s = .next (s1.queued u g h { newCmd s g G m .slabld u len bar with
        src := BitVec.ofNat 64 src, slab := U.freeHandle }))

/-- R161, R165 to R171, R175: posting a tile task, asking for its status, cancelling it, setting a guard slot and freeing a slab; each
completes. -/
def Sys2Proof.Statements.TileTaskInstructionsComplete : Prop :=
  ∀ (s : State) (u g : Nat) (U : Machine.Unit) (G : Group) (h : Hd) (x : Ops4) (l : Nat),
    let e := s.env U G
    let b := rd32 e G.regs x.b l
    let w : Word := BitVec.ofNat 32 b
    let d := tokenDist U.nextHandle.toNat w.toNat
    let ea := groupEa G.regs x.a x.c
    let desc := U.spadNat ea 64
    let r := TaskRec.of desc
    (Acts s u g U G h [(x.d, 1)] l → ea % 64 = 0 → ea + 64 ≤ U.spadSize → firstFail (s.mxChecks U e ea r) = none →
      s.tableFull g U G = false →
      let t : Task := ⟨u, g, G.openB, U.nextHandle, BitVec.ofNat 512 desc, .queued, s.clock, s.nextId, r.prio,
        if r.gd then s.guardOf u r.gslot else some true, 0, 0, quadOf U.core, quadOf U.core, false, false, [], [], [], none, none,
        0⟩
      exec (.mxpost h x) s = .next (((((({ s with tasks := s.tasks ++ [t] }.fresh).modUnit u
        fun V => { V with nextHandle := nextHandle V.nextHandle }).modGroup u g fun H => H.count 6).putD u g x.d
          U.nextHandle.toNat).settleTasks u).finish u g h)) ∧
    (Acts s u g U G h [(x.d, 1), (x.b, 1)] l → w ≠ 0 → 0 < d → d ≤ 2 ^ 31 →
      exec (.mxqry h x) s = .next ((s.putD u g x.d (s.taskCode u U w d)).finish u g h) ∧
      (s.task? u w = none →
        exec (.mxwait h x) s = .next (((s.tcRaise U.core U.engTime).putD u g x.d (match G.mxCode with
          | some (_, some c) => c
          | some (_, none) | none => s.taskCode u U w d)).finish u g h) ∧
        exec (.mxcan h x) s = .next ((s.putPredD u g h x.d U.lanes false).finish u g h)) ∧
      (∀ t, s.task? u w = some t → exec (.mxcan h x) s = .next (
        if t.st = .queued then (((s.putPredD u g h x.d U.lanes true).endTask t .cancelled).settleTasks u).finish u g h
        else (s.putPredD u g h x.d U.lanes false).finish u g h))) ∧
    (∀ n : BitVec 4, Acts s u g U G h [] l → U.setLater n.toNat g s.clock = false →
      let s1 := s.modUnit u fun V => { V with lastSet := spSet (0, 0) V.lastSet n.toNat (s.clock + 1, g) }
      exec (.gset h true n x) s =
        .next ((s1.modUnit u fun V => { V with guards := updAt V.guards n.toNat fun _ => none }).finish u g h) ∧
      exec (.gset h false n x) s = .next ((s1.resolve u n.toNat (G.regs.pred x.a.idx.toNat l)).finish u g h)) ∧
    (Acts s u g U G h [(x.b, 1)] l → (∃ y ∈ U.slabs, y.live = true ∧ y.handle.toNat = b) →
      exec (.slabfree h x) s = .next (((s.modUnit u fun V => { V with slabs := V.slabs.map fun y =>
        if y.handle.toNat == b then { y with live := false } else y }).sweepSlabs u).finish u g h))

/-- R178: SPXS stores the nonzero values of its lanes and their coordinates, in lane order, with the stop entries its form asks for, as
ordinary scratchpad stores, and leaves the cursor after them; it completes. -/
def Sys2Proof.Statements.SparseStreamStoreCompletes : Prop :=
  ∀ (s : State) (u g : Nat) (U : Machine.Unit) (G : Group) (h : Hd) (m : SpxsMod) (x : Ops4) (l : Nat),
    Acts s u g U G h [(x.a, 1), (x.b, 1)] l →
    let e := s.env U G
    let es := if m.e8 then 1 else 2
    let b := rd32 e G.regs x.b l
    let cur := G.regs.addr x.d.idx.toNat
    let vals := (activeLanes e G.regs h).map fun l => (l, rd32 e G.regs x.a l % 2 ^ (8 * es))
    let y := spxsStores es b vals (cur % 2 ^ 32) (cur / 2 ^ 32)
    let stops := (if m.s0 then [0xFFFE] else []) ++ (if m.s1 then [0xFFFF] else [])
    let all := y.1 ++ stops.zipIdx.map fun z => (y.2.2 + 2 * z.2, toBytesLE 2 z.1)
    (∀ v ∈ vals, v.2 % 2 ^ (8 * es - 1) ≠ 0 → b + v.1 ≤ 0x3FFF) → cur / 2 ^ 32 % 2 = 0 → cur % 2 ^ 32 % es = 0 →
    (∀ z ∈ all, z.1 + z.2.length ≤ U.spadSize ∧ U.dstBusy z.1 z.2.length = false ∧ U.srcBusy z.1 z.2.length = false) →
      exec (.spxs h m x) s = .next ((((s.padWrote U G false [u]).modUnit u fun V => all.foldl (fun V z => V.spadPut z.1 z.2) V).modGroup u g fun H =>
        H.putRegs (H.regs.putAddr x.d.idx.toNat ((y.2.2 + 2 * stops.length) * 2 ^ 32 + y.2.1))).finish u g h)

/-- R161, R165 to R171, R175: posting a tile task, asking for its status, cancelling it, setting a guard slot and freeing a
slab; each completes. R178: SPXS stores the nonzero values of its lanes and their coordinates, in lane order, with the stop
entries its form asks for, and leaves the cursor after them; it completes. -/
def Obligations.TileTaskInstructionsComplete : Prop :=
  Sys2Proof.Statements.TileTaskInstructionsComplete ∧ Sys2Proof.Statements.SparseStreamStoreCompletes

/-- A TMAPSET may write the descriptor `d` to entry `b` from state `r`: its checks have passed, in this execution or in the one that it
goes on from (R183, R216). -/
def Sys2Proof.Machine.MapReady (s : State) (u g : Nat) (U : Machine.Unit) (G : Group) (b ea d : Nat) (r : State) : Prop :=
  let vas := (List.range 64).map fun i => some ((ea + i) % 2 ^ 64)
  (G.mid = true ∧ (∃ i ys, G.wcVals = (i, d) :: ys) ∧ r = s.modGroup u g fun H => { H with mid := false, wcVals := [] }) ∨
  (G.mid = false ∧ U.firm = true ∧ ea % 64 = 0 ∧ b ≠ 0 ∧ b < 2 ^ 24 ∧ s.tensor? U.ctx b = none ∧ s.ownPending u g ea 64 = false ∧
    s.tensorOk (tensorOf U.ctx b d) d = true ∧ ∃ bs s1, d = ofBytesLE bs ∧
      engRead ⟨.core U.core, dieOf U.core, U.ctx, some u⟩ vas s = .ok bs s1 ∧
      r = s1.rhRaise U.core (s1.readTimes (dieOf U.core) U.ctx vas))

/-- R179 to R184, R303 to R305: shape queries, waits and stores, and the registration and removal of a tensor; each completes. That the
tentative anonymous lines of the tensor's range take its keys at TMAPSET is the model's choice (log entry 52), as is that it waits where a
set or a slice has no room for them (log entry 108). -/
def Obligations.ShapeAndTensorMapInstructionsComplete : Prop :=
  ∀ (s : State) (u g : Nat) (U : Machine.Unit) (G : Group) (h : Hd) (x : Ops4) (l : Nat),
    let b := rd32 (s.env U G) G.regs x.b l
    let ea := groupEa G.regs x.a x.c
    (∀ L, s.launchOf U = some L → Acts s u g U G h [(x.d, 1)] l →
      exec (.shpq h x) s = .next ((s.putD u g x.d (L.shapeWord U.firm x.b.idx.toNat)).finish u g h)) ∧
    (Runs s u g U G → (∀ L, s.launchOf U = some L → L.shape = 0 ∨ (L.bound = true ∧ U.firm = true)) →
      exec (.shpwait h x) s = .next (s.finish u g h)) ∧
    (∀ (sys : Bool) (o : LaneOk) (s1 : State), Acts s u g U G h [(x.b, 1)] l → U.firm = true → s.quiet u g = true →
      s.checkLane U G 8 .write noExtra 0 ea = .ok (o, s1) → s1.storesHeld u g U [(o, bytesAt ea 8 (2 ^ 63 + b))] = false →
      exec (.shpset h sys x) s = .next
        ((s1.addStore u g U true (s1.writeFloor U G true) (o, bytesAt ea 8 (2 ^ 63 + b))).finish u g h)) ∧
    (∀ (d w : Nat) (r s2 s3 : State), Acts s u g U G h [(x.b, 1)] l → MapReady s u g U G b ea d r →
      let t := tensorOf U.ctx b d
      let ent := (r.tmapOf U.ctx + 64 * b) % 2 ^ 64
      r.lockedKeys t.coversKey = false → r.ownPending u g ent 64 = false →
      engWrite ⟨.core U.core, dieOf U.core, U.ctx, none⟩ (r.tcOf U.core) G.relFloor
        ((tmapEntry d).zipIdx.map fun (y, i) => ((ent + i) % 2 ^ 64, y)) r = .ok w s2 →
      (s2.tcRaise U.core w).installTensor t = some s3 →
        exec (.tmapset h x) s = .next (s3.finish u g h)) ∧
    (∀ (w : Nat) (s1 : State), Acts s u g U G h [(x.b, 1)] l → U.firm = true → b ≠ 0 → (s.tensor? U.ctx b).isSome = true →
      let mine := fun k : Key => k.ctx == U.ctx && k.tensor == b
      let ent := (s.tmapOf U.ctx + 64 * b) % 2 ^ 64
      (∀ t ∈ s.tent, mine t.key = false) → s.lockedKeys mine = false → s.ownPending u g ent 64 = false →
      engWrite ⟨.core U.core, dieOf U.core, U.ctx, none⟩ (s.tcOf U.core) G.relFloor
        ((List.replicate 64 (0 : Byte)).zipIdx.map fun (y, i) => ((ent + i) % 2 ^ 64, y)) s = .ok w s1 →
      let s2 := (s1.tcRaise U.core w).flushLines mine
      exec (.tmapclr h x) s = .next
        (({ s2 with tensors := s2.tensors.filter fun t => !(t.ctx == U.ctx && t.id == b) }).finish u g h))

namespace Sys2Proof.Machine

/-- A group-wide instruction that waits for nothing: lane `l` is its lowest active lane. -/
def Once (s : State) (u g : Nat) (U : Machine.Unit) (G : Group) (h : Hd) (xs : Uses) (l : Nat) : Prop :=
  Runs s u g U G ∧ Clear s u g U xs ∧ ∃ ls, activeLanes (s.env U G) G.regs h = l :: ls

/-- The privileged instructions with their operands and the states that may execute them (R201). -/
def privTable (h : Hd) (x : Ops4) (f : TlbForm) (b : Bool) : List (Instr × Uses × (Machine.Unit → Group → Bool)) :=
  let wd := sregWide x.d.idx == some true
  let wb := x.b.idx == 0
  let n := if b then 2 else 1
  [(.swrite h x, [(x.a, regsOf wd)], privileged), (.hrec h x, [(x.d, regsOf wb)], privileged),
    (.hrecW h x, [(x.a, regsOf wb)], privileged), (.pmap h x, [(x.d, 1)], privileged),
    (.tlbinv h f x, if f = .all then [] else [(x.b, 1)], privileged), (.rte h x, [], supOnly), (.park h x, [], supOnly),
    (.svcrmwLock h b x, [(x.d, n), (x.b, 1)], svcOnly), (.svcrmwUnlock h b x, [(x.d, n), (x.b, 1)], svcOnly),
    (.svcret h x, [(x.a, regsOf (x.a.cls == .pair)), (x.b, 1)], svcOnly)]

end Sys2Proof.Machine

/-- R199: what a delivered trap saves and where it goes: the return slot and the active mask in the trap record, the mask becomes the
lanes that raised the cause, supervisor state at the handler's entry; registers, predicates, the split table, guard slots and batches are
left, as are memory and every other group. -/
def Obligations.TrapEntersTheHandler : Prop :=
  ∀ (s : State) (u g : Nat) (U : Machine.Unit) (G : Group) (t : Trap), s.group? u g = some (U, G) → t.cause ≠ 0x0A →
    G.sup = false → U.svc = false → s.handler U.ctx ≠ 0 →
    ∃ V H, (s.takeTrap u g t).group? u g = some (V, H) ∧
      H.retpc = t.ret ∧ H.retmask = G.mask ∧ H.mask = t.mask ∧ H.sup = true ∧ H.pc = s.handler U.ctx ∧
      H.cause = BitVec.ofNat 8 t.cause ∧ H.trapcause = BitVec.ofNat 32 t.cause ∧ H.trapva = t.va ∧ H.trapmask = t.mask ∧
      H.supset = ⟨0, 0, t.va, 0, 0⟩ ∧ H.v = G.v ∧ H.s = G.s ∧ H.a = G.a ∧ H.p = G.p ∧ H.split = G.split ∧
      H.openB = G.openB ∧ H.sealed = G.sealed ∧ V.guards = U.guards ∧ V.spad = U.spad ∧ V.acc = U.acc ∧
      { s.takeTrap u g t with units := s.units } = s ∧
      (∀ k, k ≠ g → V.groups[k]? = U.groups[k]?) ∧ (∀ v, v ≠ u → (s.takeTrap u g t).units[v]? = s.units[v]?)

/-- R200, R425: a trap raised in supervisor state is not delivered: its record is posted, the group ends, and the launch is to end FAULTED
with the number of its first such record; a barrier that the unit's other groups have reached is complete (R102). While the fault queue
is full the group stalls. That the launch is not cancelled at once, but
marked as failing from this cycle and cancelled when log entry 101 says, is the model's choice. -/
def Obligations.TrapInSupervisorStateEndsTheLaunch : Prop :=
  ∀ (s : State) (u g : Nat) (U : Machine.Unit) (G : Group) (t : Trap) (L : Launch), s.group? u g = some (U, G) → t.cause ≠ 0x0A →
    G.sup = true → U.svc = false → s.launch? U.launch = some L → L.faulted = none →
    (s.fqRoom (dieOf U.core) = false → s.takeTrap u g t = s.modGroup u g fun H => { H with st := .stalled }) ∧
    (s.fqRoom (dieOf U.core) = true →
      let seq := spGet 0 s.seqs (dieOf U.core)
      (∃ s1, s.post (dieOf U.core) (trapRecord U g t 3) (.group u g) = some (s1, seq) ∧
        s.takeTrap u g t = ((s1.modGroup u g fun H => { H with st := .ended }).barCheck u).groupFails U.launch seq) ∧
      (∃ M, (s.takeTrap u g t).launch? U.launch = some M ∧ M.faulted = some (6, seq % 65536) ∧ (L.stopped = false → M.failing = some s.clock)) ∧
      (∃ V H, (s.takeTrap u g t).group? u g = some (V, H) ∧ H.st = .ended))

/-- R203: RTE restores the active mask from RETMASK and goes to RETPC, in user state, and completes. -/
def Obligations.ReturnFromHandlerRestores : Prop :=
  ∀ (s : State) (u g : Nat) (U : Machine.Unit) (G : Group) (h : Hd) (x : Ops4), Runs s u g U G → G.sup = true → U.svc = false →
    ∃ t V H, exec (.rte h x) s = .next t ∧ t.group? u g = some (V, H) ∧
      H.mask = G.retmask ∧ H.pc = G.retpc ∧ H.sup = false ∧ H.st = .ready ∧ H.v = G.v ∧ H.s = G.s ∧ H.a = G.a ∧ H.p = G.p ∧
      H.split = G.split.drop (G.split.length - G.tdepth) ∧ { t with units := s.units } = s ∧
      (∀ k, k ≠ g → V.groups[k]? = U.groups[k]?) ∧ (∀ v, v ≠ u → t.units[v]? = s.units[v]?) ∧
      (∀ w : Slot, (Instr.rte h x).wf = true → encode96 (.rte h x) = some w → w.toNat / 2 ^ 88 = 0xF3 ∧
        w.toNat / 2 ^ 80 % 256 = 0 ∧ w.toNat % 2 ^ 64 = 0xF000_F000_F000_F000)

/-- R201: a privileged instruction executed anywhere else raises PRIV at its slot. -/
def Obligations.PrivilegedInstructionsTrapElsewhere : Prop :=
  ∀ (s : State) (u g : Nat) (U : Machine.Unit) (G : Group) (h : Hd) (x : Ops4) (f : TlbForm) (b : Bool), Runs s u g U G →
    (∀ p ∈ privTable h x f b, Clear s u g U p.2.1 → p.2.2 U G = false →
      exec p.1 s = .next (s.takeTrap u g ⟨3, G.pc, G.mask, G.pc, none⟩)) ∧
    (11 ≤ x.a.idx.toNat → G.sup = false → U.svc = false →
      Clear s u g U [(x.d, regsOf (sregWide x.a.idx == some true))] →
      exec (.sread h x) s = .next (s.takeTrap u g ⟨3, G.pc, G.mask, G.pc, none⟩))

/-- R32, R33, R197, R202: TRAP and BKPT raise their causes with the value of B, an unassigned opcode raises ILLOP, and the hint region
prefetches, sets a preference, or does nothing; each completes. That TRAP and BKPT report the whole active mask whatever the guard
(log entry 26), and that B as an immediate code is extended by its sign to 32 bits (log entry 75), is the model's choice. -/
def Obligations.TrapAndHintInstructionsComplete : Prop :=
  ∀ (s : State) (u g : Nat) (U : Machine.Unit) (G : Group) (h : Hd) (x : Ops4) (l : Nat), Runs s u g U G →
    let e := s.env U G
    (Once s u g U G h [(x.b, 1)] l →
      exec (.trap h x) s =
        .next (s.takeTrap u g ⟨11, BitVec.ofNat 64 (rd32 e G.regs x.b l), G.mask, G.pc + 12, none⟩) ∧
      exec (.bkpt h x) s = .next (s.takeTrap u g ⟨12, BitVec.ofNat 64 (rd32 e G.regs x.b l), G.mask, G.pc, none⟩)) ∧
    (∀ w, exec (.unassignedOpcode w) s = .next (s.takeTrap u g ⟨1, G.pc, G.mask, G.pc, none⟩)) ∧
    (∀ r : HintRaw,
      (hintMemOk U (hintOps r) r = false → exec (.hpref h r) s = .next (s.finish u g h)) ∧
      (hintMemOk U (hintOps r) r = true → Clear s u g U [((hintOps r).b, 1)] →
        exec (.hpref h r) s = .next (((s.eas U G (hintOps r) (offOf (hintOps r).c) 1 (activeLanes e G.regs h)).foldl
          (fun t y => t.prefLane U G true (r.mod == 32) y.2) (s.tcCatchUp U.core)).finish u g h)) ∧
      exec (.hnote h r) s = .next (s.finish u g h) ∧
      (∀ op, exec (.hintRegionNop h op r) s = .next (s.finish u g h)) ∧
      exec (.hprio h r) s = .next ((if activeLanes e G.regs h = [] ∨ hprioFields r = false then s
        else s.modGroup u g fun H => { H with hprio := r.low.extractLsb' 16 2 }).finish u g h))

/-- R204 to R207, R212: special registers, the trap record and the performance counters are read and written as their tables say; each
completes. -/
def Sys2Proof.Statements.SpecialRegisterInstructionsComplete : Prop :=
  ∀ (s : State) (u g : Nat) (U : Machine.Unit) (G : Group) (h : Hd) (x : Ops4) (l : Nat), Runs s u g U G →
    let e := s.env U G
    let wa := sregWide x.a.idx == some true
    let wd := sregWide x.d.idx == some true
    let wb := x.b.idx == 0
    ((sregPriv x.a.idx.toNat = false ∨ privileged U G = true) → Clear s u g U [(x.d, regsOf wa)] →
      exec (.sread h x) s = .next (s.left u g h (s.lanes U G h x.d wa fun k => s.sreg U g G x.a.idx.toNat k % 2 ^ 64))) ∧
    (Once s u g U G h [(x.a, regsOf wd)] l → privileged U G = true →
      exec (.swrite h x) s =
        .next ((s.modGroup u g fun H => H.putSreg x.d.idx.toNat (rd e G.regs wd x.a l)).finish u g h)) ∧
    (Once s u g U G h [(x.d, regsOf wb)] l → privileged U G = true →
      exec (.hrec h x) s = .next ((s.modGroup u g fun H =>
        H.putRegs (H.regs.putScal wb x.d.idx.toNat (G.hrec x.b.idx.toNat))).finish u g h)) ∧
    (Once s u g U G h [(x.a, regsOf wb)] l → privileged U G = true →
      exec (.hrecW h x) s =
        .next ((s.modGroup u g fun H => H.putHrec x.b.idx.toNat (rd e G.regs wb x.a l)).finish u g h)) ∧
    (Clear s u g U [(x.d, 2)] →
      exec (.perf h x) s = .next (s.left u g h (s.lanes U G h x.d true fun _ =>
        s.perfOf G (patOf 32 (sext 12 x.b.idx.toNat)))))

/-- R205: the values of the special registers. That %coreid is the core's number modulo 512 for every unit, service units included, is the
model's choice (log entry 109). -/
def Sys2Proof.Statements.SpecialRegisterValues : Prop :=
  ∀ (s : State) (U : Machine.Unit) (g l : Nat) (G : Group),
    s.sreg U g G 0 l = l ∧ s.sreg U g G 1 l = g ∧ s.sreg U g G 2 l = U.idx ∧
    (∀ L, s.launchOf U = some L → s.sreg U g G 3 l =
      if L.bound then L.trueCount.getD L.nunits else if L.shape = 0 then L.nunits else L.pred) ∧
    s.sreg U g G 4 l = U.launch.toNat ∧ s.sreg U g G 5 l = U.core % 512 ∧ s.sreg U g G 6 l = clusterOf U.core ∧
    s.sreg U g G 7 l = s.clock ∧ s.sreg U g G 8 l = G.mask.toNat ∧ s.sreg U g G 9 l = (if U.firm then 1 else 0) ∧
    s.sreg U g G 10 l = 0 ∧ s.sreg U g G 11 l = G.trapcause.toNat ∧ s.sreg U g G 12 l = G.trapva.toNat ∧
    s.sreg U g G 13 l = G.trapmask.toNat ∧ s.sreg U g G 14 l = G.faultrec.toNat ∧
    (∀ v, (G.putSreg 11 v).trapcause = BitVec.ofNat 32 v ∧ (G.putSreg 12 v).trapva = BitVec.ofNat 64 v ∧
      (G.putSreg 13 v).trapmask = BitVec.ofNat 32 v ∧ (G.putSreg 14 v).faultrec = BitVec.ofNat 64 v)

/-- R204 to R207, R212: special registers, the trap record and the performance counters are read and written as their tables
say; each completes. R205: the values of the special registers; %coreid of a service unit is the model's choice (log
entry 109). -/
def Obligations.SpecialRegisterInstructionsComplete : Prop :=
  Sys2Proof.Statements.SpecialRegisterInstructionsComplete ∧ Sys2Proof.Statements.SpecialRegisterValues

/-- R208 to R211, R417, R418: mapping a page, starting a shootdown or an instruction-cache invalidation, and parking on a record; each
completes. That TLBINV.ctx takes its context modulo 4,096 is the model's choice (log entry 112). -/
def Sys2Proof.Statements.HandlerInstructionsComplete : Prop :=
  ∀ (s : State) (u g : Nat) (U : Machine.Unit) (G : Group) (h : Hd) (x : Ops4) (l : Nat),
    let e := s.env U G
    let b := rd32 e G.regs x.b l
    let va := G.regs.addr x.a.idx.toNat
    (Once s u g U G h [(x.d, 1)] l → privileged U G = true →
      let die := dieOf U.core
      let trail := s.walkTrail va 5 (s.root U.ctx)
      let r := (s.walkReads die trail).pmap die U.ctx va x.b.idx.toNat
      trail.find? (s.entryCut die) = none →
        (s.pmapBad U.ctx va x.b.idx.toNat = none → s.walkHeld die trail = false →
          exec (.pmap h x) s = .next ((r.2.putD u g x.d r.1).finish u g h)) ∧
        (∀ pa, s.pmapBad U.ctx va x.b.idx.toNat = some pa → exec (.pmap h x) s = .next (s.consume U.launch pa))) ∧
    (∀ f : TlbForm, Once s u g U G h (if f = .all then [] else [(x.b, 1)]) l → privileged U G = true →
      (∀ d ∈ s.shoots, d.host = false → d.unit = u → d.grp ≠ g) → s.unacked u g = 0 →
      let d : Shootdown := ⟨s.nextId, false, u, g, if f = .all then none else some (if f = .ctx then b % 4096 else U.ctx),
        if f = .range then va else 0, if f = .range then some b else none⟩
      exec (.tlbinv h f x) s = .next
        ((({ s with shoots := s.shoots ++ [d] }.fresh).modGroup u g fun H => { H with mid := true }).stall u g)) ∧
    (∀ all, Once s u g U G h (if all then [] else [(x.b, 1)]) l → (∀ c ∈ s.icinvs, c.unit = u → c.grp ≠ g) →
      s.unacked u g = 0 → (∀ d < 4, s.flowFull (dieOf U.core) d 2 = false) →
      let r := sendIcinv (dieOf U.core) [0, 1, 2, 3] s
      let c : Icinv := ⟨s.nextId, u, g, U.ctx, if all then 0 else va, if all then none else some b, [0, 1, 2, 3], r.1⟩
      exec (.icinv h all x) s = .next
        ((({ r.2 with icinvs := s.icinvs ++ [c] }.fresh).modGroup u g fun H => { H with mid := true }).stall u g)) ∧
    (Runs s u g U G → supOnly U G = true →
      (∀ r s1 seq, G.faultrec = BitVec.allOnes 64 → G.record = some r → s.post (dieOf U.core) r (.group u g) = some (s1, seq) →
        exec (.park h x) s = .next (s1.modGroup u g fun H => H.park (dieOf U.core) seq r)) ∧
      (∀ bs s1, G.faultrec ≠ BitVec.allOnes 64 → G.faultrec ≠ 0 → G.faultrec.toNat % 64 = 0 →
        s.ownPending u g G.faultrec.toNat 64 = false →
        engRead ⟨.core U.core, dieOf U.core, U.ctx, some u⟩ ((List.range 64).map fun i => some (G.faultrec.toNat + i)) s =
          .ok bs s1 → s1.fqRoom (dieOf U.core) = true →
        let r := s1.postPrepared u g (dieOf U.core) (ofBytesLE bs)
        exec (.park h x) s = .next (r.1.modGroup u g fun H => H.park (dieOf U.core) r.2 (recOf (ofBytesLE bs)))))

/-- R208, R418: PMAP's status is 1 exactly where a canonical address already translates and 3 for one outside the first-touch regions; any
status but 0 leaves the machine as it was. -/
def Sys2Proof.Statements.PageMapStatus : Prop :=
  ∀ (s : State) (die ctx va z : Nat), z ≤ 2 →
    let r := s.pmap die ctx va z
    r.1 ≤ 4 ∧ (r.1 ≠ 0 → r.2 = s) ∧
    (canonical va = true → (s.walkPa ctx va).isSome = true → r.1 = 1) ∧
    (r.1 = 1 → (s.walkPa ctx va).isSome = true) ∧
    (canonical va = true → (s.walkPa ctx va).isSome = false →
      s.inFtreg ctx (va / pmapSize z * pmapSize z) (pmapSize z) = false → r.1 = 3)

/-- R213, R214, R461, R462: a service group locks and reads lines, writes and unlocks them, and sends replies; each completes. -/
def Sys2Proof.Statements.ServiceInstructionsComplete : Prop :=
  ∀ (s : State) (u g : Nat) (U : Machine.Unit) (G : Group) (h : Hd) (b : Bool) (x : Ops4), Runs s u g U G → U.svc = true →
    let e := s.env U G
    let die := dieOf U.core
    let n := if b then 8 else 4
    let xs := s.svcLanes e G.regs h x n
    let ys := xs.map fun y => (y.2, rd e G.regs b x.d y.1)
    let wide := x.a.cls == .pair
    (Clear s u g U [(x.d, n / 4), (x.b, 1)] → (∀ y ∈ xs, y.2 % n = 0) → s.svcLocked u g xs = false →
      ((∀ y ∈ xs, s.svcFull die y.2 0 = false ∧ s.uncorrIn y.2 n = false ∧ s.svcCutRead die y.2 = false) →
        let s1 := xs.foldl (fun t y => t.svcLockRead u g U y.2 n) s
        exec (.svcrmwLock h b x) s = .next ((s1.modGroup u g fun H => H.putRegs (xs.foldl (fun r y =>
          r.putVec x.d.idx.toNat y.1 (n / 4) (s1.physNat y.2 n)) H.regs)).finish u g h)) ∧
      (∀ s1 s2, (∀ y ∈ xs, s.heldPage y.2 = false ∧ s.svcFull die y.2 1 = false) →
        (∀ y ∈ ys, s.svcCutWrite die y.1 = false) → svcInvals die (ys.map (·.1)) s = (false, s1) →
        svcReserve (ys.map (·.1)) s1 = .ok s2 →
        exec (.svcrmwUnlock h b x) s = .next ((ys.foldl (fun t y => t.svcUnlock u g U n y) s2).finish u g h))) ∧
    (Clear s u g U [(x.a, regsOf wide), (x.b, 1)] →
      exec (.svcret h x) s = .next (((activeLanes e G.regs h).foldl (fun t l =>
        t.svcReply (rd e G.regs wide x.a l) (rd32 e G.regs x.b l)) s).finish u g h))

/-- R208 to R211, R417, R418: mapping a page, starting a shootdown or an instruction-cache invalidation, and parking on a
record; each completes; TLBINV.ctx's context modulo 4,096 is the model's choice (log entry 112). R208, R418: PMAP's status is 1 exactly where a canonical address already translates and 3 for one
outside the first-touch regions; any status but 0 leaves the machine as it was. R213, R214, R461, R462: a service group locks
and reads lines, writes and unlocks them, and sends replies; each completes. -/
def Obligations.HandlerPageMapAndServiceInstructionsComplete : Prop :=
  Sys2Proof.Statements.HandlerInstructionsComplete ∧ Sys2Proof.Statements.PageMapStatus ∧ Sys2Proof.Statements.ServiceInstructionsComplete

/-- R185 to R188, R266: staging a token, reading SPATQ, and the gather of SPATON: an arrival waits for the group's own results (R19) and
for the other groups, and the last one holds every live group and opens the configuration; each completes. That a group which has arrived
is in state stalled with its operand kept is the model's choice (log entry 47). -/
def Sys2Proof.Statements.SpatialModeEntryCompletes : Prop :=
  ∀ (s : State) (u g : Nat) (U : Machine.Unit) (G : Group) (h : Hd) (x : Ops4) (l : Nat),
    let e := s.env U G
    let b : Word := BitVec.ofNat 32 (rd32 e G.regs x.b l)
    let s1 := s.modGroup u g fun H => { H with st := .stalled, spatB := some b }
    (Acts s u g U G h [(x.a, 1), (x.b, 1)] l → U.staged.length < 8 →
      exec (.toki h x) s = .next ((s.modUnit u fun V =>
        { V with staged := V.staged ++ [(b, BitVec.ofNat 32 (rd32 e G.regs x.a l))] }).finish u g h)) ∧
    (Acts s u g U G h [(x.d, 1)] l →
      exec (.spatq h x) s = .next ((s.putD u g x.d (U.spatWord x.b.idx.toNat)).finish u g h)) ∧
    (Once s u g U G h [(x.b, 1)] l → s.pendingRegs u g = [] → (∃ k H, k ≠ g ∧ U.groups[k]? = some H ∧ H.st ≠ .ended ∧ H.spatB = none) →
      exec (.spaton h x) s = .next s1) ∧
    (Once s u g U G h [(x.b, 1)] l → s.pendingRegs u g = [] → b.toNat < U.nimg →
      (∀ k H, k ≠ g → U.groups[k]? = some H → H.st = .ended ∨ H.spatB = some b) →
      exec (.spaton h x) s = .next (s1.modUnit u fun V => { V with
        spat := some (.start b.toNat)
        groups := V.groups.map fun H => if H.st == .ended then H else { H with st := .held } }))

/-- R189 to R195: the instructions of an operator lane: register instructions, sends, predicate tokens, drops, stream reads and writes,
and the exit; each completes. -/
def Sys2Proof.Statements.OperatorInstructionsComplete : Prop :=
  ∀ (s : State) (u o : Nat) (U : Machine.Unit) (c : Spat) (p : SOper) (h : Hd) (x : Ops4), Fires s u o U c p →
    let va := s.operVal U p x.a
    let v : Word := BitVec.ofNat 32 va
    let give := fun (core q : Nat) (t : Word) => (s.modSpat u fun c => c.give core q t).operDone u o
    (∀ (i : Instr) (y : Alu), aluOf i = some y → c.waits o (y.uses (s.operEnv U p)) = false →
      y.pre (s.operEnv U p) = none →
      let r := y.run (s.operEnv U p) p.regs
      (∀ t ∈ r.outs, c.queueBusy p.core t.1 none = false) →
      exec i s = .next (((s.modSpat u fun c => r.outs.foldl (fun c t => c.give p.core t.1 t.2) c).modOper u o
        fun p => p.putRegs r).operDone u o)) ∧
    (c.waits o [(x.a, 1)] = false →
      (c.queueBusy (x.b.idx.toNat % 32) x.d.idx.toNat none = false →
        exec (.send h x) s = .next (give (x.b.idx.toNat % 32) x.d.idx.toNat v)) ∧
      (∀ k q, c.portNo p.core x.b.idx.toNat true = some (k, q) → q.pos < q.count →
        exec (.strst h x) s = .next (if s.operVal U p x.c = 0 then
            (s.modPort u k fun y => { y with pos := y.pos + 1 }).operDone u o
          else ((s.modPort u k fun y => { y with
            pos := y.pos + 1, writes := y.writes ++ [⟨q.pos, BitVec.ofNat 64 q.nextVa, v⟩] }).operDone u o).drain u k)) ∧
      exec (.spexit h x) s = .next ((if c.exitsAt p.relLane s.clock then s.modSpat u fun d =>
          { d with step := .exit, exitVal := v, exitAt := some (s.clock, p.relLane) } else s).operDone u o)) ∧
    (c.queueBusy p.core x.d.idx.toNat none = false →
      exec (.gtok h x) s = .next (give p.core x.d.idx.toNat (if p.regs.pred x.a.idx.toNat 0 then 1 else 0))) ∧
    exec (.dropt h x) s = .next (s.operDone u o) ∧
    (∀ gather k q, c.waits o [(x.d, 1), (x.a, 1)] = false → c.portNo p.core x.b.idx.toNat false = some (k, q) →
      q.pos < q.count → q.reads.length < 8 →
      (x.d.cls = .queue → c.queueBusy p.core x.d.idx.toNat (some (p.core, q.port)) = false) →
      let r : PortRead := ⟨q.pos, BitVec.ofNat 64 (if gather then patOf 64 ((q.base.toNat : Int) + sext 32 va * q.esize)
          else q.nextVa), gather, x.c.cls == .queue && s.operVal U p x.c == 0,
        if x.d.cls = .queue then .queue p.core x.d.idx.toNat else .temp o x.d.idx.toNat⟩
      exec (.strld h gather x) s = .next
        ((s.modPort u k fun y => { y with pos := y.pos + 1, reads := y.reads ++ [r] }).operDone u o))

/-- R185 to R188, R266: staging a token, reading SPATQ, and the gather of SPATON: an arrival waits for the others, and the
last one holds every live group and opens the configuration; each completes; the state of a group that has arrived is the
model's choice (log entry 47). R189 to R195: the instructions of an operator
lane: register instructions, sends, predicate tokens, drops, stream reads and writes, and the exit; each completes. -/
def Obligations.SpatialInstructionsComplete : Prop :=
  Sys2Proof.Statements.SpatialModeEntryCompletes ∧ Sys2Proof.Statements.OperatorInstructionsComplete

/-- R190, R258: a firing takes the head token of each queue its operator reads, reserves room for each token it gives, and begins at its
first instruction; no other token moves. -/
def Obligations.FiringTakesItsTokens : Prop :=
  ∀ (c : Spat) (o : Nat) (p : SOper), c.ops[o]? = some p →
    let d := c.begin o p
    d.queues = c.queues.map (fun x => { x with
      toks := if x.core = p.core ∧ x.idx ∈ p.reads then x.toks.tail else x.toks
      resv := x.resv + p.gives.count (x.core, x.idx) }) ∧
    d.firings = c.firings + 1 ∧ (∃ q, d.ops[o]? = some q ∧ q.resume = 1 ∧ q.fired = p.fired + 1 ∧ q.t = p.t ∧ q.p = p.p) ∧
    (∀ k, k ≠ o → d.ops[k]? = c.ops[k]?) ∧ d.ports = c.ports

/-- R186, R190, R192, R195, R225 to R228, R265 to R268: loading a configuration, a firing, the return of a stream read, and the exit
step; each happens where its conditions hold. -/
def Obligations.SpatialStepsComplete : Prop :=
  ∀ (s : State) (u : Nat) (U : Machine.Unit) (c : Spat), s.units[u]? = some U → U.spat = some c → U.st = .resident →
    (∀ row col i0 sig s1 qs, c.step = .load → U.saveAt = none → s.readImage U c.image (U.core / 32) = .got i0 sig s1 →
      let es := s1.patchesOf U c.image
      let i := { i0 with ops := patchOpers es i0.ops }
      let d := loadSpat U c.image row col i sig qs
      let d1 := { d with ports := patchPorts es d.ports }
      s1.spatPlace U i sig.isSome = false → s1.findRegion u U i = some (row, col) → stageTokens U.staged i.queues = .ok qs →
      exec (.spatialLoad u row col) s = .next (s1.modUnit u fun V => { V with
        spat := some { d1 with drain := s1.drainOf U d1 }, staged := [], seek := none })) ∧
    (∀ o p, c.ops[o]? = some p → c.step = .run → c.frozen = false → p.resume = 0 → c.drain.contains o = false →
      U.saveAt = none → c.rateOk p = true → c.fires p = true →
      exec (.operatorFiring u o) s = .next (operRun u o 8 (s.modSpat u fun d => d.begin o p))) ∧
    (∀ k p, c.ports[k]? = some p → c.frozen = false → p.fault = none → c.step ≠ .load → s.retriedNow (.port u p.core p.port) = false →
      (p.reads = [] → exec (.streamReadReturn u k) s = .next (s.drain u k)) ∧
      (∀ r rs, p.reads = r :: rs →
        (r.skip = true → exec (.streamReadReturn u k) s =
          .next ((s.modPort u k fun q => { q with reads := q.reads.tail, tlb := p.tlb }).placeRead u r.dst 0)) ∧
        (r.skip = false → ∀ bs e s1,
          let pt := U.streamPort u c p
          portRead { pt with place := if r.gather then .edge pt.die else .last pt.die } r.gather
            ((List.range p.esize).map fun i => (r.va.toNat + i) % 2 ^ 64) p.tlb s = .ok (bs, e) s1 →
          exec (.streamReadReturn u k) s = .next
            (((s1.engReadHeat pt.die U.ctx [some r.va.toNat]).modPort u k fun q => { q with reads := q.reads.tail, tlb := e }).placeRead u
              r.dst (BitVec.ofNat 32 (ofBytesLE bs)))))) ∧
    (c.step = .exit → c.readsOut = false → c.exitAt.map (·.1) ≠ some s.clock → (∀ p ∈ c.ops, p.owes = false) →
      let s1 := (List.range c.ports.length).foldl (fun t k => t.drain u k) s
      ∀ V d, s1.units[u]? = some V → V.spat = some d → (∀ p ∈ d.ports, p.writes = []) →
        exec (.spatialExit u) s = .next (s1.spatEnd u d))

namespace Sys2Proof.Machine

/-- The program of queue `q` executes. -/
def RunsQueue (s : State) (q : Nat) (Q : Queue) : Prop := s.cur = .queue q ∧ s.queue? q = some Q

/-- The packet's header obeys R383 and the standard program interprets it (R386). -/
def PacketFits (p : Packet) (Q : Queue) : Prop :=
  Q.prog = 0 ∧ p.rsv = 0 ∧ p.rels ≠ 3 ∧ p.acqs ≠ 3 ∧ p.len = 0 ∧ p.q38.toNat % 8 = 0

/-- A queue's program at another instruction. -/
def State.qAt (s : State) (Q : Queue) (pc : Nat) (f : Queue → Queue) : State :=
  s.modQueue Q.n fun (x : Queue) => { f x with pc := pc, steps := x.steps + 1 }

/-- The arithmetic of queue programs: OP, and the result from wA and wB (R396). -/
def queueTable (d a b : BitVec 4) (i : BitVec 18) : List (Instr × Nat × (DWord → DWord → DWord)) :=
  [(.movq d i, 0x01, fun _ _ => BitVec.ofInt 64 i.toInt), (.addq d a i, 0x02, fun x _ => BitVec.ofInt 64 ((x.toNat : Int) + i.toInt)),
    (.andq d a i, 0x03, fun x _ => BitVec.ofNat 64 (x.toNat &&& i.toNat)), (.orq d a i, 0x04, fun x _ => BitVec.ofNat 64 (x.toNat ||| i.toNat)),
    (.shlq d a i, 0x05, fun x _ => BitVec.ofNat 64 (x.toNat * 2 ^ i.toNat)), (.shrq d a i, 0x06, fun x _ => BitVec.ofNat 64 (x.toNat / 2 ^ i.toNat)),
    (.addr d a b, 0x08, fun x y => BitVec.ofNat 64 (x.toNat + y.toNat)), (.subr d a b, 0x09, fun x y => BitVec.ofInt 64 ((x.toNat : Int) - y.toNat)),
    (.andr d a b, 0x0A, fun x y => x &&& y), (.orr d a b, 0x0B, fun x y => x ||| y), (.xorr d a b, 0x0C, fun x y => x ^^^ y),
    (.seqr d a b, 0x0D, fun x y => if x = y then 1 else 0), (.sltr d a b, 0x0E, fun x y => if x.toInt < y.toInt then 1 else 0),
    (.sltur d a b, 0x0F, fun x y => if x.toNat < y.toNat then 1 else 0)]

/-- Loads of queue programs with their sizes (R397). -/
def queueLoads (d x : BitVec 4) (ix : Bool) (w : BitVec 3) (o : BitVec 14) : List (Instr × Nat) :=
  [(.ldb d x ix w o, 1), (.ldh d x ix w o, 2), (.ldw d x ix w o, 4), (.ldd d x ix w o, 8)]
/-- Stores of queue programs with their sizes (R397). -/
def queueStores (d x : BitVec 4) (ix : Bool) (w : BitVec 3) (o : BitVec 14) : List (Instr × Nat) :=
  [(.stb d x ix w o, 1), (.sth d x ix w o, 2), (.stw d x ix w o, 4), (.std d x ix w o, 8)]

/-- What a wait does with the values it has read (R388, R399): the first negative one aborts, zeros satisfy, else it waits. -/
def waitEnd (any : Bool) (vs : List DWord) (abort : DWord → State) (ok wait : State) : State :=
  match vs.find? fun v => v.msb with
  | some v => abort v
  | none => if vs = [] ∨ (any = false ∧ ∀ v ∈ vs, v = 0) ∨ (any = true ∧ 0 ∈ vs) then ok else wait

end Sys2Proof.Machine

/-- R396: arithmetic of queue programs; wD takes the result, a write of w0 is discarded, and nothing else of the machine changes. -/
def Obligations.QueueArithmeticCompletes : Prop :=
  ∀ (s : State) (q : Nat) (Q : Queue) (d a b : BitVec 4) (i : BitVec 18), RunsQueue s q Q →
    ∀ p ∈ queueTable d a b i,
      let v := p.2.2 (Q.getW a.toNat) (Q.getW b.toNat)
      let t := s.qAt Q (Q.pc + 1) fun x => x.putW d.toNat v
      exec p.1 s = .next t ∧ { t with queues := s.queues } = s ∧ (∀ k, k ≠ q → t.queue? k = s.queue? k) ∧
      ∃ R, t.queue? q = some R ∧ { R with w := Q.w, pc := Q.pc, steps := Q.steps } = Q ∧ R.pc = Q.pc + 1 ∧ R.getW 0 = 0 ∧
        (d ≠ 0 → spOk 0 Q.w = true → R.getW d.toNat = v) ∧
        (∀ k, k ≠ d.toNat → spOk 0 Q.w = true → R.getW k = Q.getW k) ∧
        (∀ w : Word, encodeQ p.1 = some w → w.toNat / 2 ^ 26 = p.2.1)

/-- R394, R397: loads and stores of queue programs. Window 0 is the packet, window 1 the queue's own bytes; a window of the program
reads and writes memory. Each completes, and an indexed access stays aligned in its window. -/
def Obligations.QueueLoadsAndStoresComplete : Prop :=
  ∀ (s : State) (q : Nat) (Q : Queue) (d x : BitVec 4) (ix : Bool) (w : BitVec 3) (o : BitVec 14), RunsQueue s q Q →
    (∀ p ∈ queueLoads d x ix w o,
      let n := p.2
      let a := Q.winAddr x ix w o n
      let done := fun (t : State) (v : Nat) => t.qAt Q (Q.pc + 1) fun y => y.putW d.toNat (BitVec.ofNat 64 v)
      (w = 0 → exec p.1 s = .next (done s (fieldAt Q.pkt a n))) ∧
      (w = 1 → exec p.1 s = .next (done s (ofBytesLE (spGetList 0 Q.win1 a n)))) ∧
      (∀ win bs s1, 2 ≤ w.toNat → Q.wins[w.toNat - 2]? = some win →
        engRead Q.port ((List.range n).map fun k => some ((win.base.toNat + a + k) % 2 ^ 64)) s = .ok bs s1 →
        exec p.1 s = .next (done s1 (ofBytesLE bs))) ∧
      (ix = false → a = o.toNat) ∧ (ix = true → Q.winSize w.toNat % n = 0 → Q.winSize w.toNat ≠ 0 →
        a % n = 0 ∧ a + n ≤ Q.winSize w.toNat)) ∧
    (∀ p ∈ queueStores d x ix w o,
      let n := p.2
      let a := Q.winAddr x ix w o n
      let bs := toBytesLE n (Q.getW d.toNat).toNat
      (w = 1 → exec p.1 s = .next (s.qAt Q (Q.pc + 1) fun y => { y with win1 := spSetList 0 y.win1 a bs })) ∧
      (∀ win wt s1, 2 ≤ w.toNat → Q.wins[w.toNat - 2]? = some win →
        engWrite Q.port 0 0 (bs.zipIdx.map fun (b, k) => ((win.base.toNat + a + k) % 2 ^ 64, b)) s = .ok wt s1 →
        exec p.1 s = .next (s1.qAt Q (Q.pc + 1) id)) ∧
      (∀ win va wi, 2 ≤ w.toNat → Q.wins[w.toNat - 2]? = some win →
        engWrite Q.port 0 0 (bs.zipIdx.map fun (b, k) => ((win.base.toNat + a + k) % 2 ^ 64, b)) s = .fault va wi →
        exec p.1 s = .next (s.qFault Q 9 none va wi)))

/-- R398: BZ, BNZ, JMP and LOOP, whose hidden counter is zero at packet start; each completes. -/
def Obligations.QueueBranchesComplete : Prop :=
  ∀ (s : State) (q : Nat) (Q : Queue), RunsQueue s q Q →
    (∀ (a : BitVec 4) (i : BitVec 18), 0 ≤ (Q.pc : Int) + i.toInt →
      ∃ k : Nat, (k : Int) = Q.pc + i.toInt ∧
        exec (.jmp i) s = .next (s.qAt Q k id) ∧
        exec (.bz a i) s = .next (s.qAt Q (if Q.getW a.toNat = 0 then k else Q.pc + 1) id) ∧
        exec (.bnz a i) s = .next (s.qAt Q (if Q.getW a.toNat = 0 then Q.pc + 1 else k) id) ∧
        ∀ c : BitVec 6, exec (.qprogLoop c i) s = .next
          (if spGet 0 Q.loops Q.pc < c.toNat then
            s.qAt Q k fun x => { x with loops := spSet 0 x.loops Q.pc (spGet 0 Q.loops Q.pc + 1) }
           else s.qAt Q (Q.pc + 1) fun x => { x with loops := spSet 0 x.loops Q.pc 0 })) ∧
    (∀ (a : BitVec 4) (c : BitVec 6) (i : BitVec 18) (w : Word),
      (encodeQ (.bz a i) = some w → w.toNat / 2 ^ 26 = 0x20) ∧ (encodeQ (.bnz a i) = some w → w.toNat / 2 ^ 26 = 0x21) ∧
      (encodeQ (.jmp i) = some w → w.toNat / 2 ^ 18 = 0x22 * 256) ∧
      (encodeQ (.qprogLoop c i) = some w → w.toNat / 2 ^ 26 = 0x23 ∧ w.toNat / 2 ^ 20 % 64 = c.toNat)) ∧
    (∀ (bs : List Byte) (R : Queue) (k : Nat), (s.startPacket Q bs).queue? q = some R → spGet 0 R.loops k = 0)

/-- R399: the actions of queue programs; each completes. -/
def Obligations.QueueActionsComplete : Prop :=
  ∀ (s : State) (q : Nat) (Q : Queue), RunsQueue s q Q →
    let go := fun (t : State) => t.qAt Q (Q.pc + 1) id
    (∀ (d a : BitVec 4) (i : BitVec 3) (s1 : State),
      s.startLaunch Q (Q.getW a.toNat).toNat i.toNat (Q.getW d.toNat) = .started s1 →
      exec (.lnch d a i) s = .next (go s1)) ∧
    (∀ d a b : BitVec 4, copyBad (Q.getW d.toNat) (Q.getW a.toNat) (Q.getW b.toNat) = false →
      exec (.xfer d a b) s = .next (go (s.queueCopy Q (Q.getW d.toNat) (Q.getW a.toNat) (Q.getW b.toNat)))) ∧
    (∀ a b : BitVec 4, (Q.getW a.toNat).toNat % 8 = 0 → canonical (Q.getW a.toNat).toNat = true →
      exec (.siga a b) s = .next (go (s.qAdd Q true (Q.getW a.toNat).toNat (Q.getW b.toNat) Q.pktIdx)) ∧
      exec (.sigw a b) s = .next (go (s.qStore Q true (Q.getW a.toNat).toNat (Q.getW b.toNat) Q.pktIdx))) ∧
    (∀ (d : BitVec 4) (m : BitVec 15) (vs : List DWord) (s1 : State), (∀ x ∈ Q.maskSignals m, x.toNat % 8 = 0) →
      readSignals Q (Q.maskSignals m) s = .ok vs s1 →
      let out := fun v : DWord => (s1.endWait Q.n).modQueue Q.n fun (x : Queue) =>
        { x.putW d.toNat v with wait := none, pc := x.pc + 1, steps := x.steps + 1 }
      let wait := fun any => s1.waitSignals Q ⟨Q.maskSignals m, any, d.toNat⟩
      exec (.wall d m) s = .next (waitEnd false vs out (out 0) (wait false)) ∧
      exec (.wany d m) s = .next (waitEnd true vs out (out 0) (wait true))) ∧
    (∀ (a : BitVec 4) (l : BitVec 2), l = 0 ∨ (Q.getW a.toNat).toNat < 2 ^ 32 →
      exec (.canx a l) s = .next (go (s.queueCancel Q l.toNat (Q.getW a.toNat)))) ∧
    (∀ a : BitVec 4, (Q.getW a.toNat).toNat % 16 = 0 →
      exec (.cfgd a) s = .next (s.delta Q (Q.getW a.toNat).toNat go)) ∧
    (∀ a : BitVec 4, (Q.getW a.toNat).toNat % 8 = 0 → exec (.fin a) s = .next (s.finPacket Q (Q.getW a.toNat))) ∧
    (∀ (a : BitVec 4) (c : BitVec 8), exec (.qerr a c) s = .next (s.queueError q c.toNat (Q.getW a.toNat) Q.pktIdx))

/-- R386, R388: what the standard program does with each type of packet; a packet that breaks a rule puts the queue into ERROR with
BADPKT. -/
def Obligations.PacketsComplete : Prop :=
  ∀ (s : State) (q : Nat) (Q : Queue) (p : Packet), RunsQueue s q Q →
    (PacketFits p Q →
      (∀ s1, p.q20 = 0 → p.q28 = 0 → p.q30 = 0 → p.q10.toNat < 8 →
        s.startLaunch Q p.q08.toNat p.q10.toNat p.q18 = .started s1 → exec (.launch p) s = .next (s1.finPacket Q p.q38)) ∧
      (∀ vs s1, p.q30 = 0 → (∀ a ∈ packetSignals p, a.toNat % 8 = 0) → readSignals Q (packetSignals p) s = .ok vs s1 →
        let e := s1.endWait Q.n
        let abort := fun v => e.queueError Q.n 1 v Q.pktIdx
        let wait := fun any => s1.waitSignals Q ⟨packetSignals p, any, 0⟩
        exec (.barrierAnd p) s = .next (waitEnd false vs abort (e.finPacket Q p.q38) (wait false)) ∧
        exec (.barrierOr p) s = .next (waitEnd true vs abort (e.finPacket Q p.q38) (wait true))) ∧
      (p.q20 = 0 → p.q28 = 0 → p.q30 = 0 → p.q08.toNat % 8 = 0 → canonical p.q08.toNat = true →
        (p.q10 = 0 → exec (.signal p) s = .next ((s.qAdd Q (p.rels != 0) p.q08.toNat p.q18 Q.pktIdx).finPacket Q p.q38)) ∧
        (p.q10 = 1 → exec (.signal p) s = .next ((s.qStore Q (p.rels != 0) p.q08.toNat p.q18 Q.pktIdx).finPacket Q p.q38))) ∧
      (p.q20 = 0 → p.q28 = 0 → p.q30 = 0 → copyBad p.q08 p.q10 p.q18 = false →
        exec (.copy p) s = .next ((s.queueCopy Q p.q08 p.q10 p.q18).finPacket Q p.q38)) ∧
      (p.q10 = 0 → p.q18 = 0 → p.q20 = 0 → p.q28 = 0 → p.q30 = 0 → p.q08.toNat % 16 = 0 →
        exec (.configDelta p) s = .next (s.delta Q p.q08.toNat fun s1 => s1.finPacket Q p.q38)) ∧
      (p.q18 = 0 → p.q20 = 0 → p.q28 = 0 → p.q30 = 0 → p.q08.toNat < 4 → (p.q08 = 0 ∨ p.q10.toNat < 2 ^ 32) →
        exec (.cancel p) s = .next ((s.queueCancel Q p.q08.toNat p.q10).finPacket Q p.q38)) ∧
      (p.q08 = 0 → p.q10 = 0 → p.q18 = 0 → p.q20 = 0 → p.q28 = 0 → p.q30 = 0 →
        exec (.nopPacket p) s = .next (s.finPacket Q p.q38)) ∧
      (p.q30 ≠ 0 → ∀ i ∈ [Instr.launch p, .barrierAnd p, .barrierOr p, .signal p, .copy p, .configDelta p, .cancel p, .nopPacket p],
        exec i s = .next (s.queueError q 3 0 Q.pktIdx))) ∧
    (p.rsv ≠ 0 → ∀ i ∈ [Instr.launch p, .barrierAnd p, .barrierOr p, .signal p, .copy p, .configDelta p, .cancel p, .nopPacket p],
      exec i s = .next (s.queueError q 3 0 Q.pktIdx)) ∧
    (∀ ty : BitVec 8, exec (.customPacket ty p) s = .next
      (s.oddPacket { Q with ridx := Q.pktIdx } (toBytesLE 64 (p.toBits ty).toNat)))

/-- R378, R381, R384, R392, R404: what happens to queues from outside their programs: waits read again, failed checksums read again,
packets and deltas that complete, mapping into slots and leaving them, and the commands of QCMD; each takes effect. -/
def Sys2Proof.Statements.QueueEventsComplete : Prop :=
  ∀ (s : State) (q : Nat) (Q : Queue), s.queue? q = some Q →
    (∀ (w : QWait) (vs : List DWord) (s1 : State), Q.wait = some w → Q.fault = none → Q.evaluates s.clock = true →
      readSignals Q w.sigs (s.waitLater q) = .ok vs s1 →
      let s2 := (s1.endWait q).modQueue q fun (x : Queue) => { x with wake := x.die.isNone }
      let out := fun v : DWord => s2.modQueue q fun (x : Queue) =>
        { x.putW w.d v with wait := none, pc := x.pc + 1, steps := x.steps + 1 }
      exec (.barrierReevaluate q) s = .next
        (if Q.prog = 0 then waitEnd w.any vs (fun v => s2.queueError q 1 v Q.pktIdx)
          (s2.finPacket Q (BitVec.ofNat 64 (fieldAt Q.pkt 0x38 8))) (s1.waitSignals Q w)
         else waitEnd w.any vs out (out 0) (s1.waitSignals Q w))) ∧
    (∀ (ws pkt : List Byte) (s1 s2 : State), Q.refetch ≠ 0 → Q.held = false → Q.busy = false → s.selects Q = true →
      (s.selectQueue Q).qRead Q Q.notify.toNat 8 = .ok ws s1 →
      let W := { Q with widx := fieldAt ws 0 8 }
      Q.ridx < W.widx → W.widx ≤ Q.ridx + 2 ^ Q.logn → Q.started.length < 64 →
      (s1.modQueue q fun (x : Queue) => { x with widx := W.widx }).readPacket W = .ok (pkt, s2) →
      let bad := bitsAt (fieldAt pkt 0 8) 13 1 = 1 ∧ checkPacket pkt Q.ridx = false
      (bad → 4 ≤ Q.refetch → exec (.checksumRefetch q) s = .next (s2.queueError q 4 0 Q.ridx)) ∧
      (bad → Q.refetch < 4 → exec (.checksumRefetch q) s = .next
        (s2.modQueue q fun (x : Queue) => { x with refetch := x.refetch + 1, refetchAt := s2.clock + 1024 })) ∧
      (¬ bad → decodePacket (packetWord pkt) = none →
        exec (.checksumRefetch q) s = .next ((s2.startPacket W pkt).oddPacket W pkt)) ∧
      (¬ bad → (decodePacket (packetWord pkt)).isSome = true → exec (.checksumRefetch q) s = .next (s2.startPacket W pkt))) ∧
    (∀ (index : Nat) (p : Started), (Q.started.find? fun p => p.index == index && p.fin) = some p →
      (∀ a ∈ p.acts, s.actDone a = true) → s.packetWrites q index = false →
      let s1 := s.modQueue q fun (x : Queue) => { x with started := x.started.filter fun y => y.index != index }
      exec (.packetCompletion q index) s = .next
        (if p.csig = 0 then s1 else s1.qAdd Q (p.rels != 0) p.csig.toNat (BitVec.allOnes 64) (doneTag index))) ∧
    (∀ pa, Q.enabled = true → Q.die = none → Q.error = none → s.wakeHeld Q = false →
      s.walkPa Q.ctx Q.notify.toNat = some pa →
      let s1 := s.modQueue q fun (x : Queue) => { x with wakePkt := none }
      exec (.widxWake q) s = .next (if s.physNat pa 8 = Q.ridx then s1 else s1.modQueue q fun (x : Queue) =>
        { x with wake := true })) ∧
    (∀ die, Q.enabled = true → Q.die = none → Q.error = none → Q.fault = none → Q.wake = true → die < 4 →
      s.slotsUsedOn die < 512 →
      exec (.queueMap q die) s = .next (if Q.prog = 0 then s.enterSlot Q die [] [] else s.mapProgram Q die)) ∧
    (∀ (w : Nat) (W : Queue) (die : Nat), s.queue? w = some W → W.enabled = true → W.die = none → W.wake = true →
      Q.die = some die → Q.taken = false → 512 ≤ s.slotsUsedOn die → Q.dormant s.clock = true →
      exec (.queueSlotReclaim w q) s = .next (s.modQueue q fun (x : Queue) => { x with taken := true })) ∧
    (Q.stopping = false → Q.die.isSome = true → Q.taken = true → Q.held = false →
      Q.busy = false ∨ Q.wait.isSome = true →
      exec (.queueUnmap q) s = .next ((s.saveQueue Q).modQueue q fun (x : Queue) => { x with
        die := none, taken := false, readyFrom := none, passed := 0, wake := decide (x.ridx < x.widx), refetch := 0 })) ∧
    (∀ n : BitVec 15, n.toNat = q → s.regs.qcmd = none → Q.enabled = false →
      let s1 := (s.modQueue q fun (x : Queue) => { x with error := none }).setQcmd none
      exec (.qcmdReset n) s = .next (if Q.error ≠ none ∧ Q.notify.toNat % 4096 = 0 then
        s1.qStore Q false (Q.notify.toNat + 0x80) 0 noPacket else s1)) ∧
    (∀ n : BitVec 15, n.toNat = q → s.regs.qcmd = none → Q.enabled = true →
      (Q.busy = true → exec (.qcmdDisable n) s = .next (s.modQueue q fun (x : Queue) => { x with stopping := true })) ∧
      (Q.busy = false → Q.started = [] → Q.die = none → exec (.qcmdDisable n) s = .next (s.finishDisable Q)) ∧
      (∀ bs s1, Q.fault = none → s.qRead Q Q.notify.toNat 8 = .ok bs s1 →
        let w := ofBytesLE bs
        let s2 := (s1.modQueue q fun (x : Queue) => { x with
          error := none, ridx := w, widx := w, win1 := [], refetch := 0, wake := false }).clearWin1 Q
        exec (.qcmdReset n) s = .next (((s2.qStore Q true (Q.notify.toNat + 0x40) (BitVec.ofNat 64 w) noPacket).qStore Q false
          (Q.notify.toNat + 0x80) 0 noPacket).setQcmd none)))

/-- R377, R378: QCMD ENABLE with a descriptor that obeys R378 enables the queue at the index its notification page holds; with another
the queue enters ERROR. R404: a delta whose configurations are drained patches them. -/
def Sys2Proof.Statements.QueueEnableAndDeltaComplete : Prop :=
  (∀ (s s2 : State) (n : BitVec 15) (bs : List Byte), s.regs.qcmd = none → s.regs.fwstat = 2 → s.queue? n.toNat = none →
    let d := s.physBytes (s.queueDesc n.toNat) 64
    let Q := queueOf n.toNat d
    (s.descOk d = false → exec (.qcmdEnable n) s = .next (((s.setQueue Q).queueError n.toNat 0x0A 0 0).setQcmd none)) ∧
    (s.descOk d = true → (s.setQueue Q).qRead Q Q.notify.toNat 8 = .ok bs s2 →
      let w := ofBytesLE bs
      let s3 := s2.zeroRange (s2.queueDesc n.toNat + 0x40) 0x1C0
      let R : Queue := { Q with enabled := true, ridx := w, widx := w, idleSince := s3.clock }
      exec (.qcmdEnable n) s = .next ((((s3.setQueue R).qStore R true (R.notify.toNat + 0x40) (BitVec.ofNat 64 w) noPacket).qStore R
        false (R.notify.toNat + 0x80) 0 noPacket).setQcmd none))) ∧
  (∀ (s : State) (id : Nat) (d : Delta), s.deltas.find? (fun x => x.id == id) = some d →
    (∀ U ∈ s.units, U.st = .resident → ∀ c, U.spat = some c → (d.aims U c.image = true → c.step ≠ .exit) ∧
      (d.patches U = true → c.frozen = true ∨ c.drained d.entries = true)) →
    let s0 := s.emptyPorts d.rebases
    let s1 := { s0 with
      deltas := s.deltas.filter fun x => x.id != id
      units := s0.units.map fun (U : Machine.Unit) =>
        if d.patches U then { U with spat := U.spat.map fun (c : Spat) => c.patch d.entries } else U }
    exec (.deltaApply id) s = .next
      ((s1.modLaunch d.launch fun l => { l with
        patches := l.patches ++ d.entries.map fun e => ⟨d.stage, d.image, e⟩ }).setDrains d.launch))

/-- R378, R381, R384, R392, R404: what happens to queues from outside their programs: waits read again, failed checksums read
again, packets and deltas that complete, mapping into slots and leaving them, and the commands of QCMD; each takes effect.
R377, R378: QCMD ENABLE with a descriptor that obeys R378 enables the queue at the index its notification page holds; with
another the queue enters ERROR. R404: a delta whose configurations are drained patches them. -/
def Obligations.QueueEventsComplete : Prop :=
  Sys2Proof.Statements.QueueEventsComplete ∧ Sys2Proof.Statements.QueueEnableAndDeltaComplete

/-- R285, R366, R367, R370, R371, R376: completion and status of a launch, its predicted count, its deadline and the abort through its
signal; each event takes effect. -/
def Sys2Proof.Statements.LaunchCourseCompletes : Prop :=
  ∀ (s : State) (l : Nat) (L : Launch), s.launches[l]? = some L →
    (L.done = true → exec (.launchCompletion l) s = .next
      (if L.leaves = true ∧ s.packetOver L = true then s.leaveChain L else s)) ∧
    (L.done = false → L.failing ≠ none → exec (.launchCompletion l) s = .next
      (if s.failDue L then s.cancelLaunch L.id fun x => x else s)) ∧
    (L.done = false → L.failing = none → s.launchOver L = true →
      let s1 := { s.modLaunch L.id fun x => { x with done := true, leaves := true } with
        monitors := s.monitors.filter fun m => m.who != .launch L.id }
      (L.status = 0 → L.cancelled = true ∨ L.aborted = true ∨ s.signalled L = false →
        exec (.launchCompletion l) s = .next ((s.modLaunch L.id fun x => { x with status := L.endStatus }).endWrites L)) ∧
      (L.status = 0 → L.cancelled = false → L.aborted = false → s.signalled L = true →
        exec (.launchCompletion l) s = .next (s.cancelLaunch L.id fun x => { x with aborted := true })) ∧
      (L.status ≠ 0 → exec (.launchCompletion l) s = .next s1)) ∧
    (∀ f : Launch → Launch, s.launch? L.id = some L → L.halted = true → L.live = true →
      s.cancelLaunch L.id f = s.modLaunch L.id f) ∧
    (L.aborted = true → L.endStatus = 5) ∧ (L.aborted = false → L.cancelled = true → L.endStatus = 2) ∧
    (L.live = true → L.needPolicy = true →
      (∀ count : Word, s.clock < L.startedAt + 4096 →
        exec (.predictorAnswer l count) s = .next (s.modLaunch L.id (Launch.takeCount count.toNat))) ∧
      (L.startedAt + 4096 ≤ s.clock →
        exec (.predictorTimeout l) s = .next (s.modLaunch L.id (Launch.takeCount L.hint.toNat)))) ∧
    (∀ t, L.live = true → L.deadlineAt = some t → t ≤ s.clock →
      exec (.deadlineExpiry l) s = .next (s.modLaunch L.id fun x => { x with deadlineAt := none, prio := Nat.min 7 (x.prio + 1) })) ∧
    (L.live = true → L.cancelled = false → L.aborted = false → exec (.csigAbort l) s = .next
      (if s.signalled L then s.cancelLaunch L.id fun x => { x with aborted := true } else s))

/-- R274, R280 to R283: stages, bind-off and promotion; each event takes effect. -/
def Sys2Proof.Statements.StagesAndShapesComplete : Prop :=
  ∀ (s : State) (l : Nat) (L : Launch), s.launches[l]? = some L →
    (L.stages ≠ [] → L.live = true → L.stopped = false → L.evalAt + 4096 ≤ s.clock →
      let s1 := s.modLaunch L.id fun x => { x with evalAt := s.clock }
      let best := bestOf L.fuller ((L.stages.zipIdx.filter fun x => L.pressed x.2 x.1).map (·.2))
      (best = none → exec (.stageEvaluation l) s = .next s1) ∧
      (∀ k, best = some k → L.below k = false → exec (.stageEvaluation l) s = .next s1) ∧
      (∀ cl k, L.home = some cl → best = some k → L.below k = true → s.spareCore L cl = true →
        exec (.stageEvaluation l) s = .next
          (s1.modLaunch L.id fun x => x.modStage k fun st => { st with replicas := st.replicas + 1 }))) ∧
    (∀ t, L.trueCount = some t → L.shape ≠ 0 → L.bound = false → L.stopped = false → L.live = true → L.needPolicy = false →
      let s1 := (s.recordCount L.ctx L.khdr t).modLaunch L.id fun x => { x with bound := true, nunits := t }
      let s2 := bindUnits L t (List.range s1.units.length) s1
      let lo := Nat.max (s.startedOf L) (Nat.max L.cast.toNat t)
      let s3 := returnRange L lo (L.pred - lo) s2
      exec (.bindOff l) s = .next { s3 with units := s3.units.map (wakeShape L) }) ∧
    (∀ (u : Nat) (U : Machine.Unit) (xs : List (Nat × Nat × Byte)) (s1 s2 : State) (w : Nat), s.units[u]? = some U →
      U.promoting = true → (∀ V ∈ s.units, V.launch = U.launch → V.promoting = true → U.idx ≤ V.idx) → s.storesLanded u U = true →
      let p : Port := ⟨.last (dieOf U.core), dieOf U.core, U.ctx, none⟩
      promoCheck p (s.tentBytes u) s = .ok xs s1 →
      engStore p (s1.tcOf U.core) (s1.promoFloor U.core U.ctx (xs.map (·.1))) xs s1 = .ok w s2 →
      exec (.promotion u) s = .next ((({ s2 with tent := s2.tent.filter fun t => t.unit != u } : State).sawPromotion u U w
        (xs.map fun x => (x.1, x.2.2))).modUnit u Unit.promoted))

/-- R285, R366, R367, R370, R371, R376: completion and status of a launch, its predicted count, its deadline and the abort
through its signal; each event takes effect. R274, R280 to R283: stages, bind-off and promotion; each event takes effect. The
model's choices among them: when a launch that is to end FAULTED is cancelled (log entry 101); that it leaves its level at a completion
event of its own once its packet is done with (log entry 121); that BIND_OFF classifies the units, later than the first write of VALID, by
the count captured at that write (log entry 44); and of the stages, that the first is never pressed, that the last has no output condition,
and that replicas grow by one at an evaluation (log entry 64). -/
def Obligations.LaunchEventsComplete : Prop :=
  Sys2Proof.Statements.LaunchCourseCompletes ∧ Sys2Proof.Statements.StagesAndShapesComplete

/-- R105, R132, R243, R245, R248, R251, R252, R273, R279, R294, R430, R431: units start, retire, are pre-empted, evicted, saved and
restored, and waits end; each event takes effect. -/
def Obligations.PlacementEventsComplete : Prop :=
  (∀ (s s1 : State) (launch stage hdr : Nat) (cs : List Nat) (L : Launch), s.launches[launch]? = some L →
    s.waiting (.pending launch stage) = true → s.coresOk (.pending launch stage) cs = true →
    s.savedFirst (.pending launch stage) cs = false → s.squashed (.pending launch stage) = false →
    (∀ st, L.stages[stage]? = some st → s.readHeader L st.khdr = .ok (hdr, s1) →
      exec (.unitStart launch stage cs) s = .next ((s1.startStage L stage st hdr (cs.headD 0)).takeCores cs)) ∧
    (L.stages[stage]? = none → s.readHeader L L.khdr = .ok (hdr, s1) →
      exec (.unitStart launch stage cs) s = .next ((startUnits L hdr (s.startedOf L) cs s1).takeCores cs))) ∧
  (∀ (s : State) (u : Nat) (U : Machine.Unit), s.units[u]? = some U →
    (U.st = .resident → U.svc = false →
      (∀ v ∈ s.cohortOf u U, ∃ V, s.units[v]? = some V ∧ s.unitDone v V = true ∧ V.saveAt = none) →
      exec (.unitRetire u) s = .next ((s.cohortOf u U).foldl State.retireUnit s)) ∧
    (∀ w, s.waiting w = true → s.placeable w = false → s.wants w = true →
      (s.squashed w = false → s.squashDue = false → (∀ v ∈ s.waiters, s.squashed v = true ∨ s.ahead w v = true) →
        s.rotates w u U = true → (∀ x ∈ s.units.zipIdx, s.rotates w x.2 x.1 = true → U.since ≤ x.1.since) →
        exec (.rotationPreempt u w) s = .next (s.preempt w u U) ∧ s.unitPrio U ≤ s.waiterPrio w ∧ U.since + 2 ^ 22 ≤ s.clock) ∧
      (s.waiterFirm w = true → s.makesRoom (s.maySquash w) w u U = true →
        exec (.squashPreempt u w) s = .next (s.preempt w u U) ∧ U.firm = false ∧ U.promoting = false ∧
        s.unitPrio U ≤ s.waiterPrio w)) ∧
    (∀ w, s.victimFor w u U = true →
      (s.unitPrio U ≤ s.waiterPrio w → U.since + 2 ^ 22 ≤ s.clock → s.rotates w u U = true) ∧
      (∀ L, U.firm = false → U.promoting = false → s.launchOf U = some L → L.squash = true → s.unitPrio U ≤ s.waiterPrio w →
        s.makesRoom (s.maySquash w) w u U = true)) ∧
    (∀ w, s.allUnits (s.cohortOf u U) Unit.holds = true →
      (∀ s1, U.seeks = true → markSave true (s.cohortOf u U) s = some s1 → exec (.unitEvict u w) s = .next s1) ∧
      (∀ s1, U.seeks = false → s.allUnits (s.cohortOf u U) Unit.evictable = true → s.waiting w = true → s.placeable w = false →
        markSave false (s.cohortOf u U) s = some s1 → exec (.unitEvict u w) s = .next s1)) ∧
    (∀ s1, U.svc = false → (∀ v ∈ s.cohortOf u U, ∃ V, s.units[v]? = some V ∧ s.saveReady v V = true) →
      saveAll (s.cohortOf u U) s = some s1 → exec (.unitSave u) s = .next s1) ∧
    (∀ us cs row col os s1, s.waiting (.saved u) = true →
      us = [] ∨ u :: us = ((List.range s.units.length).filter fun v => match s.units[v]? with
        | some V => U.mate V && V.st == .saved
        | none => false) → (u :: us).length = s.waiterNeed (.saved u) → s.coresOk (.saved u) cs = true →
      s.squashed (.saved u) = false → regionsFor ((u :: us).zip cs) (s.seated ((u :: us).zip cs)) = some os →
      U.spat = none ∨ os.head? = some (row, col) → restoreAll (((u :: us).zip cs).zip os) s = some s1 →
      exec (.unitRestore (u :: us) cs row col) s = .next (s1.takeCores cs))) ∧
  (∀ (s : State) (u g : Nat) (U : Machine.Unit) (G : Group), s.group? u g = some (U, G) →
    (G.st = .waiting .sleep → G.sleepUntil ≤ s.clock → exec (.sleepExpiry u g) s = .next
      (if U.st = .saved then s.modUnit u fun V => { V with eligible := true }
       else s.modGroup u g fun H => { H with st := .ready, sleepUntil := 0 })) ∧
    (G.st = .waiting .waitc → G.sleepUntil ≠ 0 → G.sleepUntil ≤ s.clock → exec (.waitcRepoll u g) s = .next
      ((s.modUnit u fun V => if U.st = .saved then { V with eligible := true } else V).modGroup u g fun H =>
        { H with wcPoll := true, sleepUntil := G.sleepUntil + 1024, wakeBy := s.clock })))

/-- R405, R412, R422, R424, R426, R456: shootdowns, REPLAY and the watchdog; each event takes effect, and a REPLAY of a record that is
not pending has none. -/
def Obligations.FaultAndShootdownEventsComplete : Prop :=
  ∀ s : State,
    (∀ ctx : BitVec 12, s.regs.tlbcmd.getLsbD 63 = false →
      let b := { s with regs := { s.regs with tlbcmd := 0x8000000000000000 } }
      exec (.tlbcmdRange ctx) s = .next (b.startShoot true 0 0 (some ctx.toNat) s.regs.tlbaddr.toNat (some s.regs.tlblen.toNat)) ∧
      exec (.tlbcmdContext ctx) s = .next (b.startShoot true 0 0 (some ctx.toNat) 0 none) ∧
      exec .tlbcmdAll s = .next (b.startShoot true 0 0 none 0 none)) ∧
    (∀ (id : Nat) (d : Shootdown), (s.shoots.find? fun d => d.id == id) = some d → s.shootBusy d = false → s.shootMoves d = false →
      let s1 := { s.shootEntries d with shoots := s.shoots.filter fun y => y.id != id }
      (d.host = true → exec (.shootdownComplete id) s = .next (({ s1 with regs := { s1.regs with tlbcmd := 0 } } : State).raiseInt 6)) ∧
      (d.host = false → exec (.shootdownComplete id) s = .next (s1.finishMid d.unit d.grp))) ∧
    (∀ (die id : Nat) (c : Icinv), (s.icinvs.find? fun c => c.id == id && c.dies.contains die) = some c →
      s.behindIcinv c die = false →
      let s1 := (s.dropSlots c die).ackPkt (c.pkts.find? (·.dst == die))
      ((c.acked die).dies = [] → exec (.icinvInvalidation die id) s = .next
        (({ s1 with icinvs := s1.icinvs.filter fun y => y.id != id } : State).finishMid c.unit c.grp)) ∧
      ((c.acked die).dies ≠ [] → exec (.icinvInvalidation die id) s = .next
        { s1 with icinvs := s1.icinvs.map fun (y : Icinv) => if y.id == id then y.acked die else y })) ∧
    (∀ (die : BitVec 2) (seq : BitVec 48),
      (∀ p, s.pendingRec die.toNat seq.toNat = some p →
        exec (.replayRetry die 0 seq) s = .next ((s.setRecState p 2).retryAgent p.die p.seq p.agent) ∧
        exec (.replayFail die 0 seq) s = .next ((s.setRecState p 3).failAgent p)) ∧
      (∀ ctx, s.pendingRec die.toNat seq.toNat = none →
        exec (.replayRetry die ctx seq) s = .next s ∧ exec (.replayFail die ctx seq) s = .next s)) ∧
    (∀ (die : BitVec 2) (ctx : BitVec 12), exec (.replayRetryAll die ctx) s = .next
      (retryAll (s.posted.filter fun p => p.die == die.toNat && p.frec.ctx == ctx.toNat && p.frec.state == 1) s)) ∧
    (∀ (die seq : Nat) (p : Posted), s.pendingRec die (seq % 2 ^ 48) = some p → s.wdLim p.frec.ctx ≠ 0 →
      p.since + s.wdLim p.frec.ctx < s.clock → exec (.watchdogExpiry (.record die seq)) s = .next (s.watchRec p)) ∧
    (∀ (u g : Nat) (U : Machine.Unit) (G : Group), s.group? u g = some (U, G) → G.sup = true → U.svc = false →
      U.st = .resident ∨ U.st = .saved → G.st ≠ .ended → s.wdLim U.ctx ≠ 0 → G.supSince + s.wdLim U.ctx < s.clock →
      exec (.watchdogExpiry (.group u g)) s = .next (s.watchGroup u g U))

/-- R296, R297, R329, R333: loads return with their bytes, stores are performed and acknowledged, atomics are performed and answered;
each event takes effect. -/
def Sys2Proof.Statements.MemoryPathCompletes : Prop :=
  (∀ (s : State) (id lease : Nat) (p : PendLoad) (U : Machine.Unit), (s.loads.find? fun p => p.id == id) = some p →
    s.units[p.unit]? = some U → 1 ≤ lease → lease ≤ 256 → s.loadReady p U = true → s.cutRead (dieOf U.core) U.ctx p.va p.pa = false →
    s.uncorrIn p.pa 32 = false → U.svc = false →
    (s.cached p.pa = true → exec (.loadSectorReturn id lease) s = .next ((s.tcCatchUp U.core).returnCached p U lease)) ∧
    (s.cached p.pa = false → exec (.loadSectorReturn id lease) s = .next ((s.tcCatchUp U.core).returnPlain p U))) ∧
  (∀ (s : State) (id : Nat) (p : PendStore),
    ((s.stores.find? fun p => p.id == id && p.wts.isNone) = some p → s.cutWrite (dieOf p.core) p.ctx p.va p.pa = false →
      s.storeSvc p = false → s.storeReady p = true → s.uncorrIn p.pa 1 = false →
      (s.cached p.pa = false ∨ (startInvals p.pa (dieOf p.core) (s.keysOf p.ctx p.va p.bytes.length) s).1 = false →
        exec (.storePerformed id) s = .next (s.performStore p))) ∧
    (∀ w, (s.stores.find? fun p => p.id == id) = some p → p.wts = some w →
      exec (.writeAcknowledgement id) s =
        .next ((({ s with stores := s.stores.filter (·.id != id) } : State).ackPkt p.pkt).tcRaise p.core w))) ∧
  (∀ (s : State) (id : Nat) (q : Req), (s.reqs.find? fun q => q.id == id && !q.replied && !q.half) = some q →
    (∀ v, q.reply = some v → exec (.atomicReply id) s = .next
      (((((s.replyDone q).ackPkt q.pkt).l1Drop q.core q.ctx q.va (2 ^ q.size)).ackCore q.core
          (if q.performed then q.wts else s.reqTime q)).modGroup q.unit q.grp fun G =>
        { G with v := (Regs.putVec ⟨G.v, [], [], [], [], []⟩ q.reg q.lane (2 ^ (q.size - 2)) v.toNat).v }))) ∧
  (∀ (s s1 : State) (id pa : Nat) (p : Req),
    (s.reqs.find? fun q => q.id == id && q.index.isNone && !q.performed && q.fault.isNone && !s.retriedNow (.req id)) = some p →
    let q := { p with cluster := sliceCluster (s.homeOf (s.keyOf p.ctx p.va).1) }
    s.reqPhys p = false → s.unsent q = false → s.reqBlocked q = false → s.behindWrite q.pkt q.ctx q.va = false → s.behindFault q = false → canonical q.va = true →
    s.translate (.last (q.cluster / 4 % 4)) (q.cluster / 4 % 4) q.ctx q.va (if q.kind == .store then .write else .rmw) false =
      .ok (pa, s1) →
    exec (.serviceRequestDelivery id) s = .next (s1.reqReserve q pa))

/-- R136, R138, R142, R309, R340, R344, R346: the copy engine starts, performs and ends its commands, and the matrix engines grant passes,
end them and move records; each event takes effect. -/
def Sys2Proof.Statements.EnginesComplete : Prop :=
  (∀ (s : State) (u : Nat) (U : Machine.Unit) (c : Cmd), s.units[u]? = some U →
    ((U.copyq.find? fun c => !c.started) = some c → U.st = .resident → U.saveAt = none →
      (U.copyq.filter (·.started)).length < 8 → (U.firm = true ∨ (c.kind ≠ .cpys ∧ c.kind ≠ .cpysx)) →
      (c.res = some true → exec (.copyCommandStart u) s = .next
        (s.modCmd u c.id fun d => { d with started := true, todo := s.requests U d })) ∧
      (c.res = some false → exec (.copyCommandStart u) s = .next
        (s.modCmd u c.id fun d => { d with started := true, discard := true, sb := none }))) ∧
    (∀ id q qs, (U.copyq.find? fun c => c.id == id && c.started && c.fault.isNone && !s.retriedNow (.cmd u c.id)) = some c →
      c.todo = q :: qs →
      ((c.kind = .cpy ∨ c.kind = .cpyt ∨ (∃ n, c.kind = .cpyg n) ∨ c.kind = .tchalo ∨ c.kind = .slabld) →
        exec (.copyRequestPerformed u id) s = .next (s.cmdRead u U c q)) ∧
      (c.kind = .cpys → exec (.copyRequestPerformed u id) s = .next (s.cmdWrite u U c q)) ∧
      (c.kind = .cpysx → exec (.copyRequestPerformed u id) s = .next (s.cmdWindow u U c q)) ∧
      (∀ wb, c.kind = .tcinv wb → s.tensorLocked U.ctx c.src.toNat = false → exec (.copyRequestPerformed u id) s = .next
        ((s.visitTensor U.ctx c.src.toNat wb true).modCmd u c.id Cmd.pop)) ∧
      (c.kind = .tcwb → s.tensorLocked U.ctx c.src.toNat = false → exec (.copyRequestPerformed u id) s = .next
        ((s.visitTensor U.ctx c.src.toNat true false).modCmd u c.id Cmd.pop))) ∧
    (∀ id, (U.copyq.find? fun c => c.id == id && c.started && c.todo.isEmpty) = some c →
      exec (.copyCommandArrival u id) s = .next (((s.arriveCmd c U.core).slabLoaded u c).modUnit u fun V =>
        { V with copyq := V.copyq.filter fun d => d.id != id, engTime := Nat.max V.engTime c.time }))) ∧
  (∀ (s0 : State) (e : Nat) (t : Task) (U : Machine.Unit),
    let s := settle s0.tasks s0
    let el := s.tasks.filter fun t => t.engine == e && s.eligible t
    let fa := (s.taskSlots U t).1
    let fb := (s.taskSlots U t).2
    s.grantDue e = true → bestTask el = some t → s.units[t.unit]? = some U → t.rcd.opk ≠ 1 →
    let t1 := { t with st := .running, pass := true, granted := true, got := [] }
    let s1 := (s.passOver e t el).modEngine e fun x => { x with lastGrant := s.clock }
    exec (.engineGrant e) s0 = .next
      ((s1.modTask t.unit t.handle fun _ => t1).mxOperands t1 U fa fb fun _ s2 => s2)) ∧
  (∀ (s : State) (e : Nat) (t : Task) (U : Machine.Unit),
    (s.tasks.find? fun t => t.engine == e && t.pass && t.fault.isNone && !s.retriedNow (.task t.unit t.handle)) = some t →
    s.units[t.unit]? = some U →
    let fa := (s.taskSlots U t).1
    let fb := (s.taskSlots U t).2
    exec (.passEnd e) s = .next (s.mxOperands t U fa fb fun t1 s1 =>
      let na := (t.passRange fa).2
      (s1.modEngine e fun x => { x with lastEnd := s.clock }).passDone t1
        (passTile U t fa fb (mxRows fa na (t1.got.take (32 * na))) (mxRows fb (t.passRange fb).2 (t1.got.drop (32 * na)))))) ∧
  (∀ (s : State) (u target : Nat) (handle : Word) (t : Task), s.task? u handle = some t → s.movable t = true →
    target / 8 = t.home / 8 → target ≠ t.home → s.disabledEngines.contains target = false →
    (∀ y ∈ s.tasks, y.engine = target → s.eligible y = false) → (s.engineOf target).busyAt + 64 ≤ s.clock →
    (s.engineOf target).lastMove + 256 ≤ s.clock →
    bestTask (s.tasks.filter fun y => y.home / 8 == t.home / 8 && s.movable y) = some t →
    exec (.anyDispatch u handle target) s = .next
      ((s.modTask u handle fun y => { y with engine := target }).modEngine target fun y => { y with lastMove := s.clock }))

/-- R296, R297, R329, R333: loads return with their bytes, stores are performed and acknowledged, atomics are performed and
answered; each event takes effect. R136, R138, R142, R309, R340, R344, R346: the copy engine starts, performs and ends its
commands, and the matrix engines grant passes, end them and move records; each event takes effect. -/
def Obligations.MemoryAndEngineEventsComplete : Prop :=
  Sys2Proof.Statements.MemoryPathCompletes ∧ Sys2Proof.Statements.EnginesComplete

/-- R330, R436 to R441: logical time, epochs, sleeping slices, proxy copies and the region directory; each event takes effect. -/
def Sys2Proof.Statements.TimeAndProxiesComplete : Prop :=
  ∀ s : State,
    (∀ core, core < 528 → exec (.tcTick core) s = .next (s.tcCatchUp core)) ∧
    (∀ core, spOk 0 s.tc = true → s.tcOf core ≤ tcHold (s.epochOf (dieOf core)) →
      (s.tcCatchUp core).tcOf core = s.tcOf core +
        Nat.min ((s.clock - spGet 0 s.tcAt core) / 32) (tcHold (s.epochOf (dieOf core)) - s.tcOf core)) ∧
    (∀ die, die < 4 → s.advanceDue die = true → s.scrubbed die = true →
      let n := s.epochOf die + 1
      exec (.epochAdvance die) s = .next (raiseCores (coresOf die) (n * 2 ^ 24) { s with
        epoch := spSet 0 s.epoch die n, proxyTime := spSet 0 s.proxyTime die (Nat.max (s.ptOf die) (n * 2 ^ 24)) })) ∧
    (∀ die ctx tensor tile line,
      let n := s.epochOf die
      let re := fun x => if genBefore n x then n * 2 ^ 24 else x
      exec (.stampScrub die ctx tensor tile line) s = .next { s with
        lines := s.lines.map fun (l : Line) =>
          if (l.key == (⟨ctx, tensor, tile, line⟩ : Key) && s.lineAwake l die) then { l with rts := re l.rts, wts := re l.wts } else l }) ∧
    (∀ sl, sl < 2048 → (∀ x ∈ s.asleep, x.1 ≠ sl) → spGet 0 s.lastReq sl + 2 ^ 20 ≤ s.clock → s.sliceHeld sl = false →
      exec (.sliceSleep sl) s = .next { s with asleep := s.asleep ++ [(sl, s.epochOf (sliceDie sl))] }) ∧
    (∀ x ∈ s.asleep, exec (.sliceWake x.1) s = .next (s.touchSlice x.1)) ∧
    (∀ die ctx tensor tile line s1 l s2,
      let k : Key := ⟨ctx, tensor, tile, line⟩
      let segs := match s.line? k with
        | some l => l.segs
        | none => s.lineSegs k none
      die < 4 → sliceDie (s.homeOf k) ≠ die → s.proxy? k die = none → s.cutDies die (sliceDie (s.homeOf k)) = false →
      segs ≠ [] → s.proxyWaits k die segs = false → (s.askHome k die segs).fill k none = (s1, l) →
      markSegs (sliceDie (s.homeOf k)) die l.segs s1 = (true, s2) →
      let pt := s2.ptAfter die 1
      let copy : Line := { l with proxy := true, die := die, dirty := [], rts := pt, wts := pt, lock := none }
      (∀ s3, s2.addProxy copy = some s3 → exec (.proxyFill die ctx tensor tile line) s =
        .next ((s3.setPt die pt).backPkts die 0 [sliceDie (s.homeOf k)])) ∧
      (s2.addProxy copy = none → exec (.proxyFill die ctx tensor tile line) s = .next s)) ∧
    (∀ (id : Nat) (v : Inval) (d : Nat), (s.invals.find? fun v => v.id == id) = some v → v.target = .die d →
      let gone := fun l : Line => l.proxy && l.die == d && l.within v.base v.size
      let pt := s.ptAfter d (s.lines.filter gone).length
      s.ptFits d pt = true → s.behindInval v = false → exec (.proxyInvalidation id) s = .next (({ s with
        lines := s.lines.filter fun l => !gone l
        invals := s.invals.filter fun x => x.id != id } : State).setPt d pt |>.ackPkt v.pkt)) ∧
    (∀ (die base k : Nat) (a b : Region), 1 ≤ k → k ≤ 8 → base % (256 * 2 ^ k) = 0 →
      (s.regions.find? fun r => r.die == die && r.base == base && r.k + 1 == k) = some a →
      (s.regions.find? fun r => r.die == die && r.base == base + 256 * 2 ^ (k - 1) && r.k + 1 == k) = some b →
      Nat.max a.lastInv b.lastInv + 2 ^ 20 ≤ s.clock →
      exec (.regionMerge die base k) s = .next { s with
        regions := ⟨die, base, k, a.present ++ b.present.filter fun d => !a.present.contains d, Nat.max a.lastInv b.lastInv⟩ ::
          s.regions.filter fun (x : Region) => !(a.same x || b.same x) })

/-- R443, R447, R448, R453, R454: what the host, the peers and failed links do to the device; each event takes effect. -/
def Sys2Proof.Statements.HostAndPeersComplete : Prop :=
  ∀ s : State,
    (∀ op, (hostRange op).2 ≠ 0 → s.hostMay (hostRange op).1 (hostRange op).2 = true →
      exec (.hostAccess op) s = .next (evDrain (s.hostDo op).events (s.hostDo op))) ∧
    (∀ pa t, s.paKind pa = .host → s.cxlMode = true → s.giveUp (pa / 64 * 64) 64 = some t → exec (.hostSnoop pa) s = .next t) ∧
    (∀ (id : Nat) (v : Inval), (s.invals.find? fun v => v.id == id && v.target == .host) = some v →
      exec (.backInvalidationSnoopResponse id) s =
        .next (({ s with invals := s.invals.filter fun x => x.id != v.id } : State).ackPkt v.pkt)) ∧
    (∀ id pa, s.isPeer id = true → pa < hbmEnd → s.extBusy pa 1 = false →
      exec (.peerRequest (.fill id pa)) s = .next ((s.extTouch false pa).peerTrack pa (PeerEnt.join id)).2) ∧
    (∀ id pa kind code size op0 op1, s.isPeer id = true →
      exec (.peerRequest (.rmw id pa kind code size op0 op1)) s = .next (s.peerRmw id pa kind code size op0 op1)) ∧
    (∀ id pa bs, s.isPeer id = true → pa + bs.length ≤ mailBase →
      exec (.peerRequest (.write id pa bs)) s = .next (s.extWrite pa bs (some id) false)) ∧
    (∀ id pa bs, s.isPeer id = true → mailBase < pa + bs.length → pa < hbmEnd →
      exec (.peerRequest (.write id pa bs)) s = .next s) ∧
    (∀ id pa bs, s.isPeer id = true →
      let own := 0x8000000000000 + id * 2 ^ 40
      own ≤ pa → pa + bs.length ≤ own + hbmEnd → (∀ l ∈ s.lines, l.within pa bs.length = false) →
      exec (.peerRequest (.write id pa bs)) s = .next (s.physWrite pa bs)) ∧
    (∀ (m : MailMsg) (t : State), s.mailOk m 1 = true →
      s.giveUp (0x8000000000000 + m.home.toNat * 2 ^ 40 + m.pa.toNat) (2 ^ m.logsz.toNat) = some t →
      exec (.peerInvalidateMessage m) s = .next (t.acknowledge m)) ∧
    (∀ m : MailMsg, s.mailOk m 1 = false → exec (.peerInvalidateMessage m) s = .next (s.mailBad m)) ∧
    (∀ m : MailMsg, s.mailOk m 2 = true →
      let own := fun v : Inval =>
        v.target == .peer m.home.toNat && v.base == m.pa.toNat && v.size == 2 ^ m.logsz.toNat && v.id == m.seq.toNat
      (∀ v, s.invals.find? own = some v → exec (.peerAcknowledgeMessage m) s =
        .next (({ s with invals := s.invals.filter fun x => x.id != v.id } : State).ackPkt v.pkt)) ∧
      (s.invals.find? own = none → exec (.peerAcknowledgeMessage m) s = .next s)) ∧
    (∀ m : MailMsg, s.mailOk m 2 = false → exec (.peerAcknowledgeMessage m) s = .next (s.mailBad m)) ∧
    (∀ m : MailMsg, s.mailBad m = s.event ⟨11, 4, 0, m.home.setWidth 64, 0, none⟩) ∧
    (∀ port flow a b,
      let s1 := s.event ⟨9, if a = b then 4 else a, 0, BitVec.ofNat 64 port, BitVec.ofNat 64 flow, none⟩
      exec (.linkFailure port flow a b) s = .next (if a = b then { s1 with failedFlows := s1.failedFlows ++ [(port, flow)] }
        else { s1 with failedDies := s1.failedDies ++ [(a, b)] }))

/-- R330, R436 to R441: logical time, epochs, sleeping slices, proxy copies and the region directory; each event takes
effect. R443, R447, R448, R453, R454: what the host, the peers and failed links do to the device; each event takes effect. The model's
choices among them: the hold stands until the epoch advances (log entry 65); which access of a peer is a fill and what its messages carry
(log entry 66); what the request of a peer's RMW holds (log entry 120); and that a malformed message is reported with KIND 11 (log entry
68). -/
def Obligations.CoherenceHostAndPeerEventsComplete : Prop :=
  Sys2Proof.Statements.TimeAndProxiesComplete ∧ Sys2Proof.Statements.HostAndPeersComplete

/-- R10, R446, R457, R459, R473, R474, R484 to R487: the host's registers, reset, the loading of an image and attestation. The model's
choices among them: a reset writes dirty lines back (log entry 70), a raise of the floor beyond the fuses is refused before its
authorization is checked (log entry 71), a clear of INTSTAT takes a message still owed with it (log entry 74), and the bytes of a new
compressed range (log entry 5). -/
def Obligations.HostRegisterEventsComplete : Prop :=
  ∀ s : State,
    (∀ r v, exec (.registerWrite r v) s = .next { s with regs := s.regs.put r v }) ∧
    (s.hostRegister 0 0x08 = some (if s.regs.qcmd = none then 0 else 0x8000000000000000) ∧ s.hostRegister 0 0x40 = some 0 ∧
      s.hostRegister 0 0x48 = some 0 ∧ s.hostRegister 0 0x50 = some (s.regs.fwstat.setWidth 64) ∧
      s.hostRegister 0 0x68 = some (s.regs.intstat.setWidth 64) ∧ s.hostRegister 0 0x70 = some (s.regs.intmask.setWidth 64)) ∧
    (∀ v : DWord, exec (.intstatWrite v) s = .next { s with regs := { s.regs with
      intstat := s.regs.intstat &&& ~~~(v.setWidth 9), msixPend := s.regs.msixPend &&& ~~~((v.setWidth 9).setWidth 64) } }) ∧
    (∀ v : DWord, exec (.intmaskWrite v) s = .next
      { s with regs := (List.range 9).foldl HostRegs.owed { s.regs with intmask := v.setWidth 9 } }) ∧
    (∀ v : BitVec 6, exec (.msixVectorUnmask v) s = .next
      { s with regs := ({ s.regs with msixMask := s.regs.msixMask &&& ~~~BitVec.ofNat 64 (2 ^ v.toNat) } : HostRegs).owed v.toNat }) ∧
    (∀ v : DWord, (v.getLsbD 63 = false ∨ (bitsAt v.toNat 0 4 ≤ 8 ∧ 20 ≤ bitsAt v.toNat 8 6 ∧ bitsAt v.toNat 8 6 ≤ 40)) →
      ∃ t, exec (.heatctlWrite v) s = .next t ∧ (∀ k, t.regs.heatctl.getLsbD k =
        (v.getLsbD k && decide (k = 63 ∨ (8 ≤ k ∧ k ≤ 13) ∨ k ≤ 3))) ∧
        t = { s with regs := { s.regs with heatctl := t.regs.heatctl }, decayAt := t.decayAt }) ∧
    (∀ v : DWord, v.getLsbD 63 = true → (8 < bitsAt v.toNat 0 4 ∨ bitsAt v.toNat 8 6 < 20 ∨ 40 < bitsAt v.toNat 8 6) →
      exec (.heatctlWrite v) s = .next s) ∧
    (∀ v : DWord, exec (.pwrcapWrite v) s = .next
      { s with regs := { s.regs with pwrcap := BitVec.ofNat 16 (Nat.max 400 (Nat.min 2800 (v.toNat % 65536))) } }) ∧
    (∀ v : DWord,
      let s1 := { s with regs := { s.regs with tierbase := BitVec.ofNat 64 (field v 12 40 + field v 0 7) } }
      let k := takeTiers s1 (List.range (Nat.min 64 (v.toNat % 128)))
      exec (.tierbaseWrite v) s = .next (k.2.foldl (fun t i => t.event ⟨12, 4, k.2.length, BitVec.ofNat 64 i, 0, none⟩)
        { s1 with tiers := k.1, mem := s1.mem.filter fun c => !s1.zeroCell k.1 c.1 })) ∧
    (∃ t, exec .deviceReset s = .next t ∧ t.regs = HostRegs.reset ∧ t.fw = none ∧ t.units = [] ∧ t.queues = [] ∧ t.launches = [] ∧
      t.lines = [] ∧ t.fwFloor = s.fwFloor ∧ t.fwRaises = s.fwRaises ∧ t.mem = s.dirtyHome s.lines s.mem) ∧
    ((∃ q ∈ s.queues, q.enabled = true) → exec .fwctlLoad s = .next s) ∧
    ((∀ q ∈ s.queues, q.enabled = false) → ∃ t, exec .fwctlLoad s = .next t ∧ t.regs.fwstat = 1 ∧ t.fw = none ∧
      t.regs.fwstage = s.regs.fwstage ∧ t.units = [] ∧ t.queues = [] ∧ t.mem = s.dirtyHome s.lines s.mem) ∧
    (∀ r : BootResult, s.regs.fwstat = 1 → r.image = s.physBytes s.regs.fwstage.toNat (imageLen (s.physNat (s.regs.fwstage.toNat + 8) 4)) →
      r.digests.length = 4 →
      (∀ v, bootFailure r.image s.fwFloor = some v → exec (.firmwareBootCheck r) s = .next (s.setFwstat v)) ∧
      (bootFailure r.image s.fwFloor = none → exec (.firmwareBootCheck r) s = .next
        (if sameDigests r.digests then (s.runImage r.image).setFwstat 2 else s.setFwstat 0x14))) ∧
    (∀ f : FwImage, s.fw = some f → s.regs.fwstat = 2 →
      let body := s.report f (s.physBytes s.attBase 32)
      exec .attcmdQuote s = .next
        ((s.ownWrite s.attBase (body ++ fixLen 3309 (Config.identitySign (Config.shake256 64 body)))).attEnd 0) ∧
      exec .attcmdReadCertificate s = .next ((s.ownWrite s.attBase (Config.identityCert.take 8192)).attEnd 0) ∧
      (63 ≤ s.fwRaises → exec .attcmdRaiseFloor s = .next (s.attEnd 2)) ∧
      (s.fwRaises < 63 → s.floorOk f = false → exec .attcmdRaiseFloor s = .next (s.attEnd 1)) ∧
      (s.fwRaises < 63 → s.floorOk f = true → ∃ t, exec .attcmdRaiseFloor s = .next t ∧ s.fwFloor < t.fwFloor ∧
        t.fwFloor ≤ f.svn ∧ t.fwFloor = s.physNat (s.attBase + 0x10) 4 ∧ t.fwRaises = s.fwRaises + 1 ∧ t.mem = s.mem)) ∧
    (s.fw = none → exec .attcmdQuote s = .next (s.attEnd 3) ∧ exec .attcmdReadCertificate s = .next (s.attEnd 3) ∧
      exec .attcmdRaiseFloor s = .next (s.attEnd 3))

/-- R476 to R482, R487, R488: heat decay, migration, recompression, self-test and the arithmetic clock; each event takes effect. The
model's choices among them: the cycles of a clean page count from when a step finds it clean (log entry 72), the power that firmware reads
is a free value (log entry 73), and how a block is named and which errors call for a test (log entry 42). -/
def Obligations.FleetEventsComplete : Prop :=
  ∀ s : State,
    (s.heatOn = true → s.decayAt + s.decayPeriod ≤ s.clock → exec .heatDecay s = .next
      { s.tiers.foldl (fun t x => decayFrom x.heat (x.size / 65536) t) s with decayAt := s.decayAt + s.decayPeriod }) ∧
    (∀ (tier frame x : Nat) (large : Bool) (t : Tier) (s1 : State), s.tiers.find? (fun t => t.idx == tier) = some t →
      let pa := t.base + 65536 * frame
      let w := s.ownerOf t pa
      let die := s.migDie (bitsAt w 0 12) (ownerVa w)
      s.tiering = true → s.migratable t pa large = true → (s.migrations.filter fun m => m.die == die).length < 4 →
      takeRing (s.frameRing t large) 1 s = some ([x], s1) →
      exec (.migrationStart tier frame large) s = .next (({ s1 with migrations := s1.migrations ++
        [⟨s1.nextId, die, large, pa, x % paMod, bitsAt w 0 12, ownerVa w, s1.clock⟩] } : State).fresh)) ∧
    (∀ (id : Nat) (m : Migration), s.migrations.find? (fun m => m.id == id) = some m →
      (m.startedAt + 2 ^ 16 ≤ s.clock → exec (.migrationHoldTimeout id) s = .next (s.migAbandon m)) ∧
      (s.clock < m.startedAt + 2 ^ 16 → s.migHolds m = false → exec (.migrationFinish id) s = .next (s.migAbandon m)) ∧
      (∀ leaves s1, s.clock < m.startedAt + 2 ^ 16 → s.migHolds m = true →
        s.invalPending m.old = false → s.migLeaves m.ctx m.va m.old m.large = some leaves → markMoved m s.lines s = (true, s1) →
        let s2 := s1.migMove m leaves
        exec (.migrationFinish id) s = .next (({ s2 with
          migrations := s2.migrations.filter fun x => x.id != id
          moved := (m.new, migSize m.large, s2.clock) :: s2.moved.filter fun x => decide (s2.clock < x.2.2 + 2 ^ 24) } : State).event
            ⟨1, m.die, 0, BitVec.ofNat 64 m.old, BitVec.ofNat 64 m.new, some m.page⟩))) ∧
    (∀ (tier page : Nat) (t : Tier), s.tiers.find? (fun t => t.idx == tier) = some t → t.comp = true →
      let pa := t.base + 4096 * page
      let since := spGet 0 s.dirtyAt (pa / 4096)
      pa + 4096 ≤ t.base + t.size → bitsAt (s.physNat (t.mapAddr pa + 0x10) 1) 7 1 = 1 → s.inFlight pa 4096 = false →
      (s.dirtyIn pa 4096 = true → exec (.recompression tier page) s = .next
        { s with dirtyAt := spSet 0 s.dirtyAt (pa / 4096) 0 }) ∧
      (s.dirtyIn pa 4096 = false → since = 0 → exec (.recompression tier page) s = .next
        { s with dirtyAt := spSet 0 s.dirtyAt (pa / 4096) (s.clock + 1) }) ∧
      (s.dirtyIn pa 4096 = false → since ≠ 0 → since + 2 ^ 20 ≤ s.clock + 1 →
        let bad := s.uncorr.find? fun x => decide (pa ≤ 32 * x ∧ 32 * x < pa + 4096)
        (bad = none → exec (.recompression tier page) s = .next (s.recompress t pa)) ∧
        (∀ x, bad = some x → exec (.recompression tier page) s = .next
          (({ s with dirtyAt := spSet 0 s.dirtyAt (pa / 4096) 0 } : State).detect 0 (32 * x))))) ∧
    (∀ (b : Block) (pass : Bool),
      let s1 := s.reports b
      (s.owed.contains b = true → s1 = s) ∧
      (s1.testable b = true → exec (.selfTest b pass) s = .next (({ s1 with owed := s1.owed.erase b } : State).outcome b pass)) ∧
      (∀ n, b = .core n → s1.testable b = false → exec (.selfTest b pass) s = .next (s1.clearCore n))) ∧
    (∀ up, s.regs.fwstat = 2 → ∃ (t : State) (fast : Nat), exec (.powerClockStep up) s = .next t ∧
      let hot := s.regs.pwrcap.toNat < t.regs.power.toNat ∨ 5 * s.regs.pwrcap.toNat < 4 * fast
      (hot → t.regs.pwrClock = if up then s.regs.pwrClock else Nat.max 1200 (s.regs.pwrClock - 100)) ∧
      (¬ hot → t.regs.pwrClock = if up then Nat.min 3300 (s.regs.pwrClock + 100) else s.regs.pwrClock) ∧
      (t.regs.pwrFloor = true ↔ t.regs.pwrClock = 1200 ∧ hot) ∧
      t = { s with freeCtr := t.freeCtr, regs := { s.regs with
        power := t.regs.power, pwrClock := t.regs.pwrClock, pwrFloor := t.regs.pwrFloor } })

namespace Sys2Proof.Machine

/-- A memory instruction of a queue program without an index names register 0 (R395, R397). -/
def queueFieldsOk : Instr → Bool
  | .ldb _ x n _ _ | .ldh _ x n _ _ | .ldw _ x n _ _ | .ldd _ x n _ _ => n || x == 0
  | .stb _ x n _ _ | .sth _ x n _ _ | .stw _ x n _ _ | .std _ x n _ _ => n || x == 0
  | _ => true

end Sys2Proof.Machine

/-- R457, R436, R473, R487: after reset no image is loaded and nothing is resident, enabled or in flight; the registers hold the values
the manual gives them. The values of R10's fields without a reset value, and memory that lists nothing, are the model's (log entries
6 and 40). -/
def Obligations.ResetValues : Prop :=
  let s := State.reset
  s.fw = none ∧ s.regs.fwstat = 0 ∧ s.regs.intstat = 0 ∧ s.regs.intmask = 0 ∧ s.regs.qcmd = none ∧ s.regs.tlbcmd = 0 ∧
    s.regs.heatctl = 0 ∧ s.regs.tierbase = 0 ∧ s.regs.pwrcap = 2800 ∧ s.regs.attcmd = 0 ∧ s.units = [] ∧ s.launches = [] ∧
    s.queues = [] ∧ s.tasks = [] ∧ s.loads = [] ∧ s.stores = [] ∧ s.reqs = [] ∧ s.lines = [] ∧ s.tlb = [] ∧ s.icache = [] ∧
    s.posted = [] ∧ (∀ die, s.epochOf die = 0 ∧ s.ptOf die = 0) ∧ (∀ core, s.tcOf core = 0 ∧ s.rhOf core = 0) ∧ s.Kept

/-- Every step keeps memory in its canonical form, one home line for each key, and each line's stretches apart and its bytes canonical:
the premise of the statements about memory. -/
def Obligations.EveryStepKeepsMemoryCanonical : Prop :=
  ∀ s t : State, s.Kept → step s = .next t → t.Kept

/-- R13, R16 to R33, R383, R386, R395: decoding the word of a well-formed instruction gives the instruction, and a word that decodes is
the word of its instruction: no bit of an encoding is dropped. It holds of instruction words, of queue programs' words and of
packets. -/
def Obligations.DecodeAndEncodeAgree : Prop :=
  (∀ (i : Instr) (w : Slot), i.wf = true → encode96 i = some w →
    (∀ v, i = .unassignedOpcode v → opAssigned (Raw.ofSlot v).op = false) → decode96 w = .ok i) ∧
  (∀ (i : Instr) (w : Slot), decode96 w = .ok i → i.wf = true ∧ encode96 i = some w) ∧
  (∀ (i : Instr) (w : Word), queueFieldsOk i = true → encodeQ i = some w → decodeQ w = some i) ∧
  (∀ (i : Instr) (w : Word), decodeQ w = some i → encodeQ i = some w) ∧
  (∀ (i : Instr) (w : BitVec 512), (∀ ty p, i = .customPacket ty p → 128 ≤ ty.toNat) → encodePacket i = some w →
    decodePacket w = some i) ∧
  (∀ (i : Instr) (w : BitVec 512), decodePacket w = some i → encodePacket i = some w)

/-- R9, R16, R22 to R33, R395: words written out from the encoding tables decode to the instructions they stand for. -/
def Obligations.WordsDecode : Prop :=
  decode96 0x9000_1000_F000_0003_0000_0002 = .ok (.bra ⟨1, false, 0, false, 0, 0⟩ 3 2) ∧
  decode96 0xF300_F000_F000_F000_F000_F000 = .ok (.rte ⟨15, false, 0, false, 0, 0⟩ ⟨⟨.zero, 0⟩, ⟨.zero, 0⟩, ⟨.zero, 0⟩, ⟨.zero, 0⟩⟩) ∧
  decode96 0x8002_F000_2001_0000_7008_200F =
    .ok (.itest ⟨15, false, 0, false, 0, 0⟩ .i32 false .lt ⟨⟨.pred, 1⟩, ⟨.vec, 0⟩, ⟨.simm, 8⟩, ⟨.pred, 15⟩⟩) ∧
  decode96 0xF500_F000_1000_300F_7000_F000 =
    .ok (.pmap ⟨15, false, 0, false, 0, 0⟩ ⟨⟨.scal, 0⟩, ⟨.addr, 15⟩, ⟨.simm, 0⟩, ⟨.zero, 0⟩⟩) ∧
  decode96 0x0180_F000_0005_0006_FFFF_FFFE =
    .ok (.add ⟨15, false, 0, false, 0, 0⟩ ⟨.i32, false, 0⟩ ⟨⟨.vec, 5⟩, ⟨.vec, 6⟩, .imm 0xFFFFFFFE⟩) ∧
  decode96 0xA040_F000_0003_3002_F000_F000 =
    .ok (.ld ⟨15, false, 0, false, 0, 0⟩ ⟨.b32, .grp, .rlx⟩ ⟨⟨.vec, 3⟩, ⟨.addr, 2⟩, ⟨.zero, 0⟩, ⟨.zero, 0⟩⟩) ∧
  decode96 0x01F0_F000_0005_0006_0007_C000 = .ok (.add ⟨15, false, 0, false, 0, 0⟩ ⟨.n8x4, false, 0⟩
    ⟨⟨.vec, 5⟩, ⟨.vec, 6⟩, .imm 0x0007C000⟩) ∧
  decode96 0x0100_F000_0005_0006_0007_C000 = .error .illopnd ∧ decode96 0xA0A0_F000_0003_3002_F000_F000 = .error .illop ∧
  decodeQ 0x0448_0001 = none ∧ decodeQ 0x0848_0001 = some (.addq 1 2 1) ∧ decodeQ 0xE004_0000 = some (.fin 1)

/-- R13, R15, R20, R394: a step in which a group or a queue has its turn executes the instruction that its bytes decode to, from the
state the fetch leaves; what follows in the group, and what is observed of readiness, is stated beside it. An event happens by itself;
where no turn's time has come, what is due happens, and with nothing due a cycle passes. What a cycle begins with (the end of a sleep, a
read of WAITC) comes before its turns. The agenda, its turns and what is due are
the model's device for the order that the manual leaves open (log entries 2 and 12). -/
def Sys2Proof.Statements.AStepRunsTheDecodedInstruction : Prop :=
  (∀ (s : State) (e : Entry) (r : List Entry), s.firstDue = none → s.agenda = e :: r → e.dt = 0 →
    let s0 := { s with agenda := r, cur := Agent.front }
    (∀ (u g : Nat) (U : Machine.Unit) (G : Group) (i : Instr) (s1 : State), e.turn = .issue u g → s0.group? u g = some (U, G) →
      s0.fetchGroup u g = .got i s1 →
      ((∀ k, G.st ≠ .waiting k) → s1.picks U g G = true →
        step s = thenState (exec i { s1 with cur := .group u g }) fun t => (t.afterIssue u g U G).tally) ∧
      (∀ k, G.st = .waiting k →
        step s = thenState (exec i { s1 with cur := .group u g }) fun t => (t.afterRetest u g).tally)) ∧
    (∀ (u g : Nat) (U : Machine.Unit) (G : Group) (s1 : State), e.turn = .issue u g → s0.group? u g = some (U, G) →
      s0.fetchGroup u g = .wait s1 → step s = .next s1.tally) ∧
    (∀ (q : Nat) (i : Instr) (s1 : State), e.turn = .qstep q → s0.fetchQueue q = .got i s1 →
      step s = thenState (exec i { s1 with cur := .queue q }) State.tally) ∧
    (∀ i, e.turn = .event i → isEvent i = true → step s = thenState (exec i s0) State.tally) ∧
    (∀ d, e.turn = .drop d → step s = .next (s0.dropItem d).tally)) ∧
  (∀ (s : State) (u g : Nat) (U : Machine.Unit) (G : Group), s.group? u g = some (U, G) → mayIssue U G s.clock = true →
    (∀ w s1 i, s.fetchWord u g U G = .ok (w, s1) → spatialOnlyOp (w.extractLsb' 88 8) = false → decode96 w = .ok i →
      s.fetchGroup u g = .got i s1) ∧
    (∀ w sup, G.pc.toNat % 4 = 0 → s.slotHeld U G = some (w, sup) →
      s.fetchWord u g U G = .ok (w, s.keepSlot u g U.core U.ctx G.pc.toNat w sup)) ∧
    (∀ bs sup s1, G.pc.toNat % 4 = 0 → s.slotHeld U G = none → U.svc = false → canonical G.pc.toNat = true →
      canonical ((G.pc.toNat + 11) % 2 ^ 64) = true → fetchBytes U.core U.ctx G.sup 3 G.pc.toNat 12 s = .ok (bs, sup) s1 →
      let w : Slot := BitVec.ofNat 96 (ofBytesLE bs)
      s.fetchWord u g U G = .ok (w, s1.keepSlot u g U.core U.ctx G.pc.toNat w sup))) ∧
  (∀ (s : State) (q : Nat) (Q : Queue) (w : Word) (i : Instr), s.queue? q = some Q → Q.open = true → Q.held = true → Q.busy = true →
    Q.prog ≠ 0 → Q.steps < 256 → Q.code[Q.pc]? = some w → decodeQ w = some i → s.fetchQueue q = .got i s) ∧
  (∀ (s : State) (d : Due), s.firstDue = some d → step s = thenState (({ s with cur := .front } : State).perform d) State.tally) ∧
  (∀ (s : State), s.firstDue = none → (∀ e r, s.agenda = e :: r → e.dt ≠ 0) →
    (∀ d, s.due = some d → step s = thenState (({ s with cur := .front } : State).perform d) State.tally) ∧
    (s.due = none → step s = .next (({ s with
      agenda := (match s.agenda with
        | [] => []
        | e :: r => { e with dt := e.dt - 1 } :: r)
      clock := s.clock + 1, cur := .front } : State).tally)))

/-- R15, R20: a PC that is not a multiple of 4 raises the trap of cause 4; a word that decodes to no instruction raises ILLOP or ILLOPND
at its slot, and the instruction has no other effect. -/
def Sys2Proof.Statements.UndecodableWordsTrap : Prop :=
  ∀ (s : State) (e : Entry) (r : List Entry) (u g : Nat) (U : Machine.Unit) (G : Group), s.firstDue = none → s.agenda = e :: r → e.dt = 0 →
    let s0 := { s with agenda := r, cur := Agent.front }
    e.turn = .issue u g → s0.group? u g = some (U, G) → mayIssue U G s0.clock = true →
    let traps := fun (t : State) (cause : Nat) => step s =
      .next ((t.takeTrap u g ⟨cause, G.pc, G.mask, G.pc, none⟩).afterIssue u g U G).tally
    (G.pc.toNat % 4 ≠ 0 → traps s0 4) ∧
    (∀ w s1, s0.fetchWord u g U G = .ok (w, s1) →
      (decode96 w = .error .illop ∨ spatialOnlyOp (w.extractLsb' 88 8) = true → traps s1 1) ∧
      (decode96 w = .error .illopnd → spatialOnlyOp (w.extractLsb' 88 8) = false → traps s1 2))

/-- A step runs the decoded instruction, and a word that decodes to none traps at its slot (R13, R15, R20, R394). The agenda, its turns
(an issue, a queue's step, an event, a drop), what is due and the passing of a cycle are the model's choice, the device that stands for
the order and the time the manual leaves open (log entries 2 and 12). -/
def Obligations.AStepRunsTheDecodedInstruction : Prop :=
  Sys2Proof.Statements.AStepRunsTheDecodedInstruction ∧ Sys2Proof.Statements.UndecodableWordsTrap

/-- R242, R250: a quarter that has not issued in a cycle and has READY groups chooses one of them; once it has issued it chooses none.
A group that has been READY for 48 cycles comes before those that have not, the oldest first; before that no group of a higher class that
has not yielded is passed over. -/
def Obligations.AQuarterChoosesOneReadyGroup : Prop :=
  ∀ (s : State) (U : Machine.Unit),
    (∀ (g h : Nat) (G H : Group), spOk 0 s.lastIssue = true → quarterOf U g = quarterOf U h →
      (s.issued U g G).picks U h H = false) ∧
    (∀ (g : Nat) (G : Group), s.picks U g G = true →
      (∀ x ∈ s.rivals U g, 48 ≤ x.1.age s.clock → 48 ≤ G.age s.clock ∧ x.1.age s.clock ≤ G.age s.clock) ∧
      (G.age s.clock < 48 → ∀ x ∈ s.rivals U g, x.1.passed s.clock = false → x.1.hprio.toNat ≤ G.hprio.toNat)) ∧
    (∀ q, spGet 0 s.lastIssue q ≤ s.clock →
      (∃ x ∈ U.groups.zipIdx, quarterOf U x.2 = q ∧ s.isReady U x.1 = true) →
      ∃ x ∈ U.groups.zipIdx, quarterOf U x.2 = q ∧ s.isReady U x.1 = true ∧ s.picks U x.2 x.1 = true)
end

