-- ==== Sys2Proof/Laws/Sparse.lean ====
section
/-! SUPPORT. Laws of the sparse arrays: a read after a write, the canonical form is kept, and equal arrays are equal data. -/

namespace Sys2Proof.Machine

variable {α : Type} {d : α}

@[simp] theorem spGet_nil (k : Nat) : spGet d [] k = d := rfl

variable [DecidableEq α]

theorem spOkFrom_cons {lo j : Nat} {y : α} {r : Sparse α} :
    spOkFrom d lo ((j, y) :: r) = true ↔ lo ≤ j ∧ y ≠ d ∧ spOkFrom d (j + 1) r = true := by
  simp [spOkFrom, and_assoc]

/-- A lower bound may be lowered. -/
theorem spOkFrom_mono {lo lo' : Nat} {m : Sparse α} (h : spOkFrom d lo m = true) (hl : lo' ≤ lo) : spOkFrom d lo' m = true := by
  cases m with
  | nil => rfl
  | cons c r =>
    obtain ⟨h1, h2, h3⟩ := spOkFrom_cons.1 h
    exact spOkFrom_cons.2 ⟨by omega, h2, h3⟩

/-- Below its lower bound an array holds the default. -/
theorem spGet_of_lt {lo k : Nat} {m : Sparse α} (h : spOkFrom d lo m = true) (hk : k < lo) : spGet d m k = d := by
  cases m with
  | nil => rfl
  | cons c r =>
    have h1 := (spOkFrom_cons.1 h).1
    have : c.1 ≠ k := by omega
    simp [spGet, this, show k < c.1 by omega]

/-- A write keeps the canonical form. -/
theorem spOkFrom_spSet {lo k : Nat} {m : Sparse α} (x : α) (h : spOkFrom d lo m = true) (hk : lo ≤ k) :
    spOkFrom d lo (spSet d m k x) = true := by
  induction m generalizing lo with
  | nil =>
    unfold spSet
    split
    · rfl
    · exact spOkFrom_cons.2 ⟨hk, by assumption, rfl⟩
  | cons c r ih =>
    obtain ⟨h1, h2, h3⟩ := spOkFrom_cons.1 h
    unfold spSet
    split
    · split
      · exact h
      · exact spOkFrom_cons.2 ⟨hk, by assumption, spOkFrom_cons.2 ⟨by omega, h2, h3⟩⟩
    · split
      · subst k
        split
        · exact spOkFrom_mono h3 (by omega)
        · exact spOkFrom_cons.2 ⟨h1, by assumption, h3⟩
      · exact spOkFrom_cons.2 ⟨h1, h2, ih h3 (by omega)⟩

/-- A write keeps the canonical form. -/
theorem spOk_spSet {m : Sparse α} (k : Nat) (x : α) (h : spOk d m = true) : spOk d (spSet d m k x) = true :=
  spOkFrom_spSet x h (Nat.zero_le k)

/-- A read after a write, from a lower bound. -/
theorem spGet_spSet_from {lo k : Nat} {m : Sparse α} (x : α) (h : spOkFrom d lo m = true) (j : Nat) :
    spGet d (spSet d m k x) j = if j = k then x else spGet d m j := by
  induction m generalizing lo with
  | nil =>
    unfold spSet
    split
    · simp_all
    · simp [spGet, eq_comm]
  | cons c r ih =>
    obtain ⟨h1, h2, h3⟩ := spOkFrom_cons.1 h
    unfold spSet
    split
    · next hlt =>
      split
      · next hx =>
        split
        · next e => subst e; simp [spGet, hx, show ¬ c.1 = j by omega, hlt]
        · rfl
      · by_cases e : j = k
        · subst e; simp [spGet]
        · have e' : ¬ k = j := fun t => e t.symm
          by_cases g : j < k
          · simp [spGet, e, e', g, show ¬ c.1 = j by omega, show j < c.1 by omega]
          · simp [spGet, e, e', g]
    · split
      · next hk =>
        subst hk
        split
        · next hx =>
          by_cases e : j = c.1
          · subst e; simp [spGet_of_lt h3 (Nat.lt_succ_self _), hx]
          · have e' : ¬ c.1 = j := fun t => e t.symm
            by_cases g : j < c.1
            · simp [spGet, e, e', g, spGet_of_lt h3 (show j < c.1 + 1 by omega)]
            · simp [spGet, e, e', g]
        · by_cases e : j = c.1
          · subst e; simp [spGet]
          · have e' : ¬ c.1 = j := fun t => e t.symm
            simp [spGet, e, e']
      · have := ih h3
        by_cases e : c.1 = j
        · have : ¬ j = k := by omega
          simp [spGet, e, this]
        · by_cases g : j < c.1
          · have : ¬ j = k := by omega
            simp [spGet, e, g, this]
          · simp [spGet, e, g, this]

/-- A read after a write. -/
theorem spGet_spSet {m : Sparse α} (k : Nat) (x : α) (h : spOk d m = true) (j : Nat) :
    spGet d (spSet d m k x) j = if j = k then x else spGet d m j := spGet_spSet_from x h j

@[simp] theorem spGet_spSet_same {m : Sparse α} {k : Nat} {x : α} (h : spOk d m = true) : spGet d (spSet d m k x) k = x := by
  simp [spGet_spSet k x h]

theorem spGet_spSet_ne {m : Sparse α} {k j : Nat} {x : α} (h : spOk d m = true) (e : j ≠ k) :
    spGet d (spSet d m k x) j = spGet d m j := by
  simp [spGet_spSet k x h, e]

/-- Entries may be removed. -/
theorem spOkFrom_filter {lo : Nat} {m : Sparse α} (p : Nat × α → Bool) (h : spOkFrom d lo m = true) :
    spOkFrom d lo (m.filter p) = true := by
  induction m generalizing lo with
  | nil => rfl
  | cons c r ih =>
    obtain ⟨h1, h2, h3⟩ := spOkFrom_cons.1 h
    by_cases e : p c = true
    · rw [List.filter_cons_of_pos e]; exact spOkFrom_cons.2 ⟨h1, h2, ih h3⟩
    · rw [List.filter_cons_of_neg e]; exact spOkFrom_mono (ih h3) (by omega)

/-- Entries may be removed. -/
theorem spOk_filter {m : Sparse α} (p : Nat × α → Bool) (h : spOk d m = true) : spOk d (m.filter p) = true := spOkFrom_filter p h

/-- Writing a list keeps the canonical form. -/
theorem spOk_spSetList {m : Sparse α} (k : Nat) (xs : List α) (h : spOk d m = true) : spOk d (spSetList d m k xs) = true := by
  induction xs generalizing m k with
  | nil => exact h
  | cons x xs ih => exact ih (k + 1) (spOk_spSet k x h)

/-- A read after writing a list. -/
theorem spGet_spSetList {m : Sparse α} (k : Nat) (xs : List α) (h : spOk d m = true) (j : Nat) :
    spGet d (spSetList d m k xs) j = if h : k ≤ j ∧ j < k + xs.length then xs[j - k]'(by omega) else spGet d m j := by
  induction xs generalizing m k with
  | nil => simp [spSetList]
  | cons x xs ih =>
    rw [spSetList, ih (k + 1) (spOk_spSet k x h), spGet_spSet k x h]
    by_cases e : j = k
    · subst e; simp
    · by_cases g : k + 1 ≤ j ∧ j < k + 1 + xs.length
      · have g' : k ≤ j ∧ j < k + (xs.length + 1) := by omega
        have e2 : j - k = (j - (k + 1)) + 1 := by omega
        simp [g, g', e2]
      · have g' : ¬ (k ≤ j ∧ j < k + (xs.length + 1)) := by omega
        have g'' : ¬ (k ≤ j ∧ j < k + (x :: xs).length) := g'
        rw [dif_neg g, if_neg e, dif_neg g'']

omit [DecidableEq α] in
/-- An entry that is listed at the head is what a read gives there. -/
theorem spGet_head {j : Nat} {y : α} {r : Sparse α} : spGet d ((j, y) :: r) j = y := by simp [spGet]

/-- Canonical arrays that read alike are equal. -/
theorem spOkFrom_ext {lo : Nat} {m n : Sparse α} (hm : spOkFrom d lo m = true) (hn : spOkFrom d lo n = true)
    (h : ∀ k, spGet d m k = spGet d n k) : m = n := by
  induction m generalizing lo n with
  | nil =>
    cases n with
    | nil => rfl
    | cons c r => exact absurd (by simpa [spGet] using (h c.1).symm) (spOkFrom_cons.1 hn).2.1
  | cons a r ih =>
    obtain ⟨a1, a2, a3⟩ := spOkFrom_cons.1 hm
    cases n with
    | nil => exact absurd (by simpa [spGet] using h a.1) a2
    | cons c t =>
      obtain ⟨c1, c2, c3⟩ := spOkFrom_cons.1 hn
      obtain ⟨aj, ay⟩ := a
      obtain ⟨cj, cy⟩ := c
      have e : aj = cj := by
        rcases Nat.lt_trichotomy aj cj with g | g | g
        · have := h aj
          simp [spGet, show ¬ cj = aj by omega, g] at this
          exact absurd this a2
        · exact g
        · have := h cj
          simp [spGet, show ¬ aj = cj by omega, g] at this
          exact absurd this.symm c2
      subst e
      have ey : ay = cy := by simpa [spGet] using h aj
      subst ey
      rw [ih a3 c3 fun k => ?_]
      by_cases g : aj = k
      · subst g; rw [spGet_of_lt a3 (Nat.lt_succ_self _), spGet_of_lt c3 (Nat.lt_succ_self _)]
      · by_cases g2 : k < aj
        · rw [spGet_of_lt a3 (by omega), spGet_of_lt c3 (by omega)]
        · simpa [spGet, g, g2] using h k

/-- Canonical arrays that read alike are equal data. -/
theorem spOk_ext {m n : Sparse α} (hm : spOk d m = true) (hn : spOk d n = true) (h : ∀ k, spGet d m k = spGet d n k) : m = n :=
  spOkFrom_ext hm hn h

end Sys2Proof.Machine
end

