-- ==== Sys2Proof/Laws/State.lean ====
section
/-! SUPPORT. What the plain updates of State leave unchanged: one lemma per field and update, so that no proof unfolds a record
update. -/

namespace Sys2Proof.Machine

/-! ### modUnit -/

@[simp] theorem State.modUnit_clock (s : State) (u : Nat) (f : Unit → Unit) : (s.modUnit u f).clock = s.clock := rfl
@[simp] theorem State.modUnit_agenda (s : State) (u : Nat) (f : Unit → Unit) : (s.modUnit u f).agenda = s.agenda := rfl
@[simp] theorem State.modUnit_cur (s : State) (u : Nat) (f : Unit → Unit) : (s.modUnit u f).cur = s.cur := rfl
@[simp] theorem State.modUnit_nextId (s : State) (u : Nat) (f : Unit → Unit) : (s.modUnit u f).nextId = s.nextId := rfl
@[simp] theorem State.modUnit_freeCtr (s : State) (u : Nat) (f : Unit → Unit) : (s.modUnit u f).freeCtr = s.freeCtr := rfl
@[simp] theorem State.modUnit_lastIssue (s : State) (u : Nat) (f : Unit → Unit) : (s.modUnit u f).lastIssue = s.lastIssue := rfl
@[simp] theorem State.modUnit_turnOf (s : State) (u : Nat) (f : Unit → Unit) : (s.modUnit u f).turnOf = s.turnOf := rfl
@[simp] theorem State.modUnit_queueTurn (s : State) (u : Nat) (f : Unit → Unit) : (s.modUnit u f).queueTurn = s.queueTurn := rfl
@[simp] theorem State.modUnit_mem (s : State) (u : Nat) (f : Unit → Unit) : (s.modUnit u f).mem = s.mem := rfl
@[simp] theorem State.modUnit_uncorr (s : State) (u : Nat) (f : Unit → Unit) : (s.modUnit u f).uncorr = s.uncorr := rfl
@[simp] theorem State.modUnit_promised (s : State) (u : Nat) (f : Unit → Unit) : (s.modUnit u f).promised = s.promised := rfl
@[simp] theorem State.modUnit_launches (s : State) (u : Nat) (f : Unit → Unit) : (s.modUnit u f).launches = s.launches := rfl
@[simp] theorem State.modUnit_levels (s : State) (u : Nat) (f : Unit → Unit) : (s.modUnit u f).levels = s.levels := rfl
@[simp] theorem State.modUnit_swatches (s : State) (u : Nat) (f : Unit → Unit) : (s.modUnit u f).swatches = s.swatches := rfl
@[simp] theorem State.modUnit_queues (s : State) (u : Nat) (f : Unit → Unit) : (s.modUnit u f).queues = s.queues := rfl
@[simp] theorem State.modUnit_copies (s : State) (u : Nat) (f : Unit → Unit) : (s.modUnit u f).copies = s.copies := rfl
@[simp] theorem State.modUnit_deltas (s : State) (u : Nat) (f : Unit → Unit) : (s.modUnit u f).deltas = s.deltas := rfl
@[simp] theorem State.modUnit_tasks (s : State) (u : Nat) (f : Unit → Unit) : (s.modUnit u f).tasks = s.tasks := rfl
@[simp] theorem State.modUnit_engines (s : State) (u : Nat) (f : Unit → Unit) : (s.modUnit u f).engines = s.engines := rfl
@[simp] theorem State.modUnit_tc (s : State) (u : Nat) (f : Unit → Unit) : (s.modUnit u f).tc = s.tc := rfl
@[simp] theorem State.modUnit_rh (s : State) (u : Nat) (f : Unit → Unit) : (s.modUnit u f).rh = s.rh := rfl
@[simp] theorem State.modUnit_tcAt (s : State) (u : Nat) (f : Unit → Unit) : (s.modUnit u f).tcAt = s.tcAt := rfl
@[simp] theorem State.modUnit_lines (s : State) (u : Nat) (f : Unit → Unit) : (s.modUnit u f).lines = s.lines := rfl
@[simp] theorem State.modUnit_paLocks (s : State) (u : Nat) (f : Unit → Unit) : (s.modUnit u f).paLocks = s.paLocks := rfl
@[simp] theorem State.modUnit_lru (s : State) (u : Nat) (f : Unit → Unit) : (s.modUnit u f).lru = s.lru := rfl
@[simp] theorem State.modUnit_tent (s : State) (u : Nat) (f : Unit → Unit) : (s.modUnit u f).tent = s.tent := rfl
@[simp] theorem State.modUnit_l1 (s : State) (u : Nat) (f : Unit → Unit) : (s.modUnit u f).l1 = s.l1 := rfl
@[simp] theorem State.modUnit_tlb (s : State) (u : Nat) (f : Unit → Unit) : (s.modUnit u f).tlb = s.tlb := rfl
@[simp] theorem State.modUnit_icache (s : State) (u : Nat) (f : Unit → Unit) : (s.modUnit u f).icache = s.icache := rfl
@[simp] theorem State.modUnit_loads (s : State) (u : Nat) (f : Unit → Unit) : (s.modUnit u f).loads = s.loads := rfl
@[simp] theorem State.modUnit_stores (s : State) (u : Nat) (f : Unit → Unit) : (s.modUnit u f).stores = s.stores := rfl
@[simp] theorem State.modUnit_reqs (s : State) (u : Nat) (f : Unit → Unit) : (s.modUnit u f).reqs = s.reqs := rfl
@[simp] theorem State.modUnit_monitors (s : State) (u : Nat) (f : Unit → Unit) : (s.modUnit u f).monitors = s.monitors := rfl
@[simp] theorem State.modUnit_scs (s : State) (u : Nat) (f : Unit → Unit) : (s.modUnit u f).scs = s.scs := rfl
@[simp] theorem State.modUnit_regions (s : State) (u : Nat) (f : Unit → Unit) : (s.modUnit u f).regions = s.regions := rfl
@[simp] theorem State.modUnit_peers (s : State) (u : Nat) (f : Unit → Unit) : (s.modUnit u f).peers = s.peers := rfl
@[simp] theorem State.modUnit_invals (s : State) (u : Nat) (f : Unit → Unit) : (s.modUnit u f).invals = s.invals := rfl
@[simp] theorem State.modUnit_flows (s : State) (u : Nat) (f : Unit → Unit) : (s.modUnit u f).flows = s.flows := rfl
@[simp] theorem State.modUnit_goneTs (s : State) (u : Nat) (f : Unit → Unit) : (s.modUnit u f).goneTs = s.goneTs := rfl
@[simp] theorem State.modUnit_mailOut (s : State) (u : Nat) (f : Unit → Unit) : (s.modUnit u f).mailOut = s.mailOut := rfl
@[simp] theorem State.modUnit_epoch (s : State) (u : Nat) (f : Unit → Unit) : (s.modUnit u f).epoch = s.epoch := rfl
@[simp] theorem State.modUnit_proxyTime (s : State) (u : Nat) (f : Unit → Unit) : (s.modUnit u f).proxyTime = s.proxyTime := rfl
@[simp] theorem State.modUnit_asleep (s : State) (u : Nat) (f : Unit → Unit) : (s.modUnit u f).asleep = s.asleep := rfl
@[simp] theorem State.modUnit_lastReq (s : State) (u : Nat) (f : Unit → Unit) : (s.modUnit u f).lastReq = s.lastReq := rfl
@[simp] theorem State.modUnit_tensors (s : State) (u : Nat) (f : Unit → Unit) : (s.modUnit u f).tensors = s.tensors := rfl
@[simp] theorem State.modUnit_ctxTmaps (s : State) (u : Nat) (f : Unit → Unit) : (s.modUnit u f).ctxTmaps = s.ctxTmaps := rfl
@[simp] theorem State.modUnit_posted (s : State) (u : Nat) (f : Unit → Unit) : (s.modUnit u f).posted = s.posted := rfl
@[simp] theorem State.modUnit_seqs (s : State) (u : Nat) (f : Unit → Unit) : (s.modUnit u f).seqs = s.seqs := rfl
@[simp] theorem State.modUnit_shoots (s : State) (u : Nat) (f : Unit → Unit) : (s.modUnit u f).shoots = s.shoots := rfl
@[simp] theorem State.modUnit_icinvs (s : State) (u : Nat) (f : Unit → Unit) : (s.modUnit u f).icinvs = s.icinvs := rfl
@[simp] theorem State.modUnit_migrations (s : State) (u : Nat) (f : Unit → Unit) : (s.modUnit u f).migrations = s.migrations := rfl
@[simp] theorem State.modUnit_moved (s : State) (u : Nat) (f : Unit → Unit) : (s.modUnit u f).moved = s.moved := rfl
@[simp] theorem State.modUnit_sampler (s : State) (u : Nat) (f : Unit → Unit) : (s.modUnit u f).sampler = s.sampler := rfl
@[simp] theorem State.modUnit_decayAt (s : State) (u : Nat) (f : Unit → Unit) : (s.modUnit u f).decayAt = s.decayAt := rfl
@[simp] theorem State.modUnit_tiers (s : State) (u : Nat) (f : Unit → Unit) : (s.modUnit u f).tiers = s.tiers := rfl
@[simp] theorem State.modUnit_events (s : State) (u : Nat) (f : Unit → Unit) : (s.modUnit u f).events = s.events := rfl
@[simp] theorem State.modUnit_evSeq (s : State) (u : Nat) (f : Unit → Unit) : (s.modUnit u f).evSeq = s.evSeq := rfl
@[simp] theorem State.modUnit_failedFlows (s : State) (u : Nat) (f : Unit → Unit) : (s.modUnit u f).failedFlows = s.failedFlows := rfl
@[simp] theorem State.modUnit_failedDies (s : State) (u : Nat) (f : Unit → Unit) : (s.modUnit u f).failedDies = s.failedDies := rfl
@[simp] theorem State.modUnit_disabledCores (s : State) (u : Nat) (f : Unit → Unit) : (s.modUnit u f).disabledCores = s.disabledCores := rfl
@[simp] theorem State.modUnit_disabledEngines (s : State) (u : Nat) (f : Unit → Unit) : (s.modUnit u f).disabledEngines = s.disabledEngines := rfl
@[simp] theorem State.modUnit_retiredSlices (s : State) (u : Nat) (f : Unit → Unit) : (s.modUnit u f).retiredSlices = s.retiredSlices := rfl
@[simp] theorem State.modUnit_transients (s : State) (u : Nat) (f : Unit → Unit) : (s.modUnit u f).transients = s.transients := rfl
@[simp] theorem State.modUnit_owed (s : State) (u : Nat) (f : Unit → Unit) : (s.modUnit u f).owed = s.owed := rfl
@[simp] theorem State.modUnit_dirtyAt (s : State) (u : Nat) (f : Unit → Unit) : (s.modUnit u f).dirtyAt = s.dirtyAt := rfl
@[simp] theorem State.modUnit_regs (s : State) (u : Nat) (f : Unit → Unit) : (s.modUnit u f).regs = s.regs := rfl
@[simp] theorem State.modUnit_fw (s : State) (u : Nat) (f : Unit → Unit) : (s.modUnit u f).fw = s.fw := rfl
@[simp] theorem State.modUnit_fwFloor (s : State) (u : Nat) (f : Unit → Unit) : (s.modUnit u f).fwFloor = s.fwFloor := rfl
@[simp] theorem State.modUnit_fwRaises (s : State) (u : Nat) (f : Unit → Unit) : (s.modUnit u f).fwRaises = s.fwRaises := rfl
@[simp] theorem State.modUnit_cxl (s : State) (u : Nat) (f : Unit → Unit) : (s.modUnit u f).cxl = s.cxl := rfl

/-! ### modGroup -/

@[simp] theorem State.modGroup_clock (s : State) (u g : Nat) (f : Group → Group) : (s.modGroup u g f).clock = s.clock := rfl
@[simp] theorem State.modGroup_agenda (s : State) (u g : Nat) (f : Group → Group) : (s.modGroup u g f).agenda = s.agenda := rfl
@[simp] theorem State.modGroup_cur (s : State) (u g : Nat) (f : Group → Group) : (s.modGroup u g f).cur = s.cur := rfl
@[simp] theorem State.modGroup_nextId (s : State) (u g : Nat) (f : Group → Group) : (s.modGroup u g f).nextId = s.nextId := rfl
@[simp] theorem State.modGroup_freeCtr (s : State) (u g : Nat) (f : Group → Group) : (s.modGroup u g f).freeCtr = s.freeCtr := rfl
@[simp] theorem State.modGroup_lastIssue (s : State) (u g : Nat) (f : Group → Group) : (s.modGroup u g f).lastIssue = s.lastIssue := rfl
@[simp] theorem State.modGroup_turnOf (s : State) (u g : Nat) (f : Group → Group) : (s.modGroup u g f).turnOf = s.turnOf := rfl
@[simp] theorem State.modGroup_queueTurn (s : State) (u g : Nat) (f : Group → Group) : (s.modGroup u g f).queueTurn = s.queueTurn := rfl
@[simp] theorem State.modGroup_mem (s : State) (u g : Nat) (f : Group → Group) : (s.modGroup u g f).mem = s.mem := rfl
@[simp] theorem State.modGroup_uncorr (s : State) (u g : Nat) (f : Group → Group) : (s.modGroup u g f).uncorr = s.uncorr := rfl
@[simp] theorem State.modGroup_promised (s : State) (u g : Nat) (f : Group → Group) : (s.modGroup u g f).promised = s.promised := rfl
@[simp] theorem State.modGroup_launches (s : State) (u g : Nat) (f : Group → Group) : (s.modGroup u g f).launches = s.launches := rfl
@[simp] theorem State.modGroup_levels (s : State) (u g : Nat) (f : Group → Group) : (s.modGroup u g f).levels = s.levels := rfl
@[simp] theorem State.modGroup_swatches (s : State) (u g : Nat) (f : Group → Group) : (s.modGroup u g f).swatches = s.swatches := rfl
@[simp] theorem State.modGroup_queues (s : State) (u g : Nat) (f : Group → Group) : (s.modGroup u g f).queues = s.queues := rfl
@[simp] theorem State.modGroup_copies (s : State) (u g : Nat) (f : Group → Group) : (s.modGroup u g f).copies = s.copies := rfl
@[simp] theorem State.modGroup_deltas (s : State) (u g : Nat) (f : Group → Group) : (s.modGroup u g f).deltas = s.deltas := rfl
@[simp] theorem State.modGroup_tasks (s : State) (u g : Nat) (f : Group → Group) : (s.modGroup u g f).tasks = s.tasks := rfl
@[simp] theorem State.modGroup_engines (s : State) (u g : Nat) (f : Group → Group) : (s.modGroup u g f).engines = s.engines := rfl
@[simp] theorem State.modGroup_tc (s : State) (u g : Nat) (f : Group → Group) : (s.modGroup u g f).tc = s.tc := rfl
@[simp] theorem State.modGroup_rh (s : State) (u g : Nat) (f : Group → Group) : (s.modGroup u g f).rh = s.rh := rfl
@[simp] theorem State.modGroup_tcAt (s : State) (u g : Nat) (f : Group → Group) : (s.modGroup u g f).tcAt = s.tcAt := rfl
@[simp] theorem State.modGroup_lines (s : State) (u g : Nat) (f : Group → Group) : (s.modGroup u g f).lines = s.lines := rfl
@[simp] theorem State.modGroup_paLocks (s : State) (u g : Nat) (f : Group → Group) : (s.modGroup u g f).paLocks = s.paLocks := rfl
@[simp] theorem State.modGroup_lru (s : State) (u g : Nat) (f : Group → Group) : (s.modGroup u g f).lru = s.lru := rfl
@[simp] theorem State.modGroup_tent (s : State) (u g : Nat) (f : Group → Group) : (s.modGroup u g f).tent = s.tent := rfl
@[simp] theorem State.modGroup_l1 (s : State) (u g : Nat) (f : Group → Group) : (s.modGroup u g f).l1 = s.l1 := rfl
@[simp] theorem State.modGroup_tlb (s : State) (u g : Nat) (f : Group → Group) : (s.modGroup u g f).tlb = s.tlb := rfl
@[simp] theorem State.modGroup_icache (s : State) (u g : Nat) (f : Group → Group) : (s.modGroup u g f).icache = s.icache := rfl
@[simp] theorem State.modGroup_loads (s : State) (u g : Nat) (f : Group → Group) : (s.modGroup u g f).loads = s.loads := rfl
@[simp] theorem State.modGroup_stores (s : State) (u g : Nat) (f : Group → Group) : (s.modGroup u g f).stores = s.stores := rfl
@[simp] theorem State.modGroup_reqs (s : State) (u g : Nat) (f : Group → Group) : (s.modGroup u g f).reqs = s.reqs := rfl
@[simp] theorem State.modGroup_monitors (s : State) (u g : Nat) (f : Group → Group) : (s.modGroup u g f).monitors = s.monitors := rfl
@[simp] theorem State.modGroup_scs (s : State) (u g : Nat) (f : Group → Group) : (s.modGroup u g f).scs = s.scs := rfl
@[simp] theorem State.modGroup_regions (s : State) (u g : Nat) (f : Group → Group) : (s.modGroup u g f).regions = s.regions := rfl
@[simp] theorem State.modGroup_peers (s : State) (u g : Nat) (f : Group → Group) : (s.modGroup u g f).peers = s.peers := rfl
@[simp] theorem State.modGroup_invals (s : State) (u g : Nat) (f : Group → Group) : (s.modGroup u g f).invals = s.invals := rfl
@[simp] theorem State.modGroup_flows (s : State) (u g : Nat) (f : Group → Group) : (s.modGroup u g f).flows = s.flows := rfl
@[simp] theorem State.modGroup_goneTs (s : State) (u g : Nat) (f : Group → Group) : (s.modGroup u g f).goneTs = s.goneTs := rfl
@[simp] theorem State.modGroup_mailOut (s : State) (u g : Nat) (f : Group → Group) : (s.modGroup u g f).mailOut = s.mailOut := rfl
@[simp] theorem State.modGroup_epoch (s : State) (u g : Nat) (f : Group → Group) : (s.modGroup u g f).epoch = s.epoch := rfl
@[simp] theorem State.modGroup_proxyTime (s : State) (u g : Nat) (f : Group → Group) : (s.modGroup u g f).proxyTime = s.proxyTime := rfl
@[simp] theorem State.modGroup_asleep (s : State) (u g : Nat) (f : Group → Group) : (s.modGroup u g f).asleep = s.asleep := rfl
@[simp] theorem State.modGroup_lastReq (s : State) (u g : Nat) (f : Group → Group) : (s.modGroup u g f).lastReq = s.lastReq := rfl
@[simp] theorem State.modGroup_tensors (s : State) (u g : Nat) (f : Group → Group) : (s.modGroup u g f).tensors = s.tensors := rfl
@[simp] theorem State.modGroup_ctxTmaps (s : State) (u g : Nat) (f : Group → Group) : (s.modGroup u g f).ctxTmaps = s.ctxTmaps := rfl
@[simp] theorem State.modGroup_posted (s : State) (u g : Nat) (f : Group → Group) : (s.modGroup u g f).posted = s.posted := rfl
@[simp] theorem State.modGroup_seqs (s : State) (u g : Nat) (f : Group → Group) : (s.modGroup u g f).seqs = s.seqs := rfl
@[simp] theorem State.modGroup_shoots (s : State) (u g : Nat) (f : Group → Group) : (s.modGroup u g f).shoots = s.shoots := rfl
@[simp] theorem State.modGroup_icinvs (s : State) (u g : Nat) (f : Group → Group) : (s.modGroup u g f).icinvs = s.icinvs := rfl
@[simp] theorem State.modGroup_migrations (s : State) (u g : Nat) (f : Group → Group) : (s.modGroup u g f).migrations = s.migrations := rfl
@[simp] theorem State.modGroup_moved (s : State) (u g : Nat) (f : Group → Group) : (s.modGroup u g f).moved = s.moved := rfl
@[simp] theorem State.modGroup_sampler (s : State) (u g : Nat) (f : Group → Group) : (s.modGroup u g f).sampler = s.sampler := rfl
@[simp] theorem State.modGroup_decayAt (s : State) (u g : Nat) (f : Group → Group) : (s.modGroup u g f).decayAt = s.decayAt := rfl
@[simp] theorem State.modGroup_tiers (s : State) (u g : Nat) (f : Group → Group) : (s.modGroup u g f).tiers = s.tiers := rfl
@[simp] theorem State.modGroup_events (s : State) (u g : Nat) (f : Group → Group) : (s.modGroup u g f).events = s.events := rfl
@[simp] theorem State.modGroup_evSeq (s : State) (u g : Nat) (f : Group → Group) : (s.modGroup u g f).evSeq = s.evSeq := rfl
@[simp] theorem State.modGroup_failedFlows (s : State) (u g : Nat) (f : Group → Group) : (s.modGroup u g f).failedFlows = s.failedFlows := rfl
@[simp] theorem State.modGroup_failedDies (s : State) (u g : Nat) (f : Group → Group) : (s.modGroup u g f).failedDies = s.failedDies := rfl
@[simp] theorem State.modGroup_disabledCores (s : State) (u g : Nat) (f : Group → Group) : (s.modGroup u g f).disabledCores = s.disabledCores := rfl
@[simp] theorem State.modGroup_disabledEngines (s : State) (u g : Nat) (f : Group → Group) : (s.modGroup u g f).disabledEngines = s.disabledEngines := rfl
@[simp] theorem State.modGroup_retiredSlices (s : State) (u g : Nat) (f : Group → Group) : (s.modGroup u g f).retiredSlices = s.retiredSlices := rfl
@[simp] theorem State.modGroup_transients (s : State) (u g : Nat) (f : Group → Group) : (s.modGroup u g f).transients = s.transients := rfl
@[simp] theorem State.modGroup_owed (s : State) (u g : Nat) (f : Group → Group) : (s.modGroup u g f).owed = s.owed := rfl
@[simp] theorem State.modGroup_dirtyAt (s : State) (u g : Nat) (f : Group → Group) : (s.modGroup u g f).dirtyAt = s.dirtyAt := rfl
@[simp] theorem State.modGroup_regs (s : State) (u g : Nat) (f : Group → Group) : (s.modGroup u g f).regs = s.regs := rfl
@[simp] theorem State.modGroup_fw (s : State) (u g : Nat) (f : Group → Group) : (s.modGroup u g f).fw = s.fw := rfl
@[simp] theorem State.modGroup_fwFloor (s : State) (u g : Nat) (f : Group → Group) : (s.modGroup u g f).fwFloor = s.fwFloor := rfl
@[simp] theorem State.modGroup_fwRaises (s : State) (u g : Nat) (f : Group → Group) : (s.modGroup u g f).fwRaises = s.fwRaises := rfl
@[simp] theorem State.modGroup_cxl (s : State) (u g : Nat) (f : Group → Group) : (s.modGroup u g f).cxl = s.cxl := rfl

/-! ### modLaunch -/

@[simp] theorem State.modLaunch_clock (s : State) (id : DWord) (f : Launch → Launch) : (s.modLaunch id f).clock = s.clock := rfl
@[simp] theorem State.modLaunch_agenda (s : State) (id : DWord) (f : Launch → Launch) : (s.modLaunch id f).agenda = s.agenda := rfl
@[simp] theorem State.modLaunch_cur (s : State) (id : DWord) (f : Launch → Launch) : (s.modLaunch id f).cur = s.cur := rfl
@[simp] theorem State.modLaunch_nextId (s : State) (id : DWord) (f : Launch → Launch) : (s.modLaunch id f).nextId = s.nextId := rfl
@[simp] theorem State.modLaunch_freeCtr (s : State) (id : DWord) (f : Launch → Launch) : (s.modLaunch id f).freeCtr = s.freeCtr := rfl
@[simp] theorem State.modLaunch_lastIssue (s : State) (id : DWord) (f : Launch → Launch) : (s.modLaunch id f).lastIssue = s.lastIssue := rfl
@[simp] theorem State.modLaunch_turnOf (s : State) (id : DWord) (f : Launch → Launch) : (s.modLaunch id f).turnOf = s.turnOf := rfl
@[simp] theorem State.modLaunch_queueTurn (s : State) (id : DWord) (f : Launch → Launch) : (s.modLaunch id f).queueTurn = s.queueTurn := rfl
@[simp] theorem State.modLaunch_mem (s : State) (id : DWord) (f : Launch → Launch) : (s.modLaunch id f).mem = s.mem := rfl
@[simp] theorem State.modLaunch_uncorr (s : State) (id : DWord) (f : Launch → Launch) : (s.modLaunch id f).uncorr = s.uncorr := rfl
@[simp] theorem State.modLaunch_units (s : State) (id : DWord) (f : Launch → Launch) : (s.modLaunch id f).units = s.units := rfl
@[simp] theorem State.modLaunch_promised (s : State) (id : DWord) (f : Launch → Launch) : (s.modLaunch id f).promised = s.promised := rfl
@[simp] theorem State.modLaunch_levels (s : State) (id : DWord) (f : Launch → Launch) : (s.modLaunch id f).levels = s.levels := rfl
@[simp] theorem State.modLaunch_swatches (s : State) (id : DWord) (f : Launch → Launch) : (s.modLaunch id f).swatches = s.swatches := rfl
@[simp] theorem State.modLaunch_queues (s : State) (id : DWord) (f : Launch → Launch) : (s.modLaunch id f).queues = s.queues := rfl
@[simp] theorem State.modLaunch_copies (s : State) (id : DWord) (f : Launch → Launch) : (s.modLaunch id f).copies = s.copies := rfl
@[simp] theorem State.modLaunch_deltas (s : State) (id : DWord) (f : Launch → Launch) : (s.modLaunch id f).deltas = s.deltas := rfl
@[simp] theorem State.modLaunch_tasks (s : State) (id : DWord) (f : Launch → Launch) : (s.modLaunch id f).tasks = s.tasks := rfl
@[simp] theorem State.modLaunch_engines (s : State) (id : DWord) (f : Launch → Launch) : (s.modLaunch id f).engines = s.engines := rfl
@[simp] theorem State.modLaunch_tc (s : State) (id : DWord) (f : Launch → Launch) : (s.modLaunch id f).tc = s.tc := rfl
@[simp] theorem State.modLaunch_rh (s : State) (id : DWord) (f : Launch → Launch) : (s.modLaunch id f).rh = s.rh := rfl
@[simp] theorem State.modLaunch_tcAt (s : State) (id : DWord) (f : Launch → Launch) : (s.modLaunch id f).tcAt = s.tcAt := rfl
@[simp] theorem State.modLaunch_lines (s : State) (id : DWord) (f : Launch → Launch) : (s.modLaunch id f).lines = s.lines := rfl
@[simp] theorem State.modLaunch_paLocks (s : State) (id : DWord) (f : Launch → Launch) : (s.modLaunch id f).paLocks = s.paLocks := rfl
@[simp] theorem State.modLaunch_lru (s : State) (id : DWord) (f : Launch → Launch) : (s.modLaunch id f).lru = s.lru := rfl
@[simp] theorem State.modLaunch_tent (s : State) (id : DWord) (f : Launch → Launch) : (s.modLaunch id f).tent = s.tent := rfl
@[simp] theorem State.modLaunch_l1 (s : State) (id : DWord) (f : Launch → Launch) : (s.modLaunch id f).l1 = s.l1 := rfl
@[simp] theorem State.modLaunch_tlb (s : State) (id : DWord) (f : Launch → Launch) : (s.modLaunch id f).tlb = s.tlb := rfl
@[simp] theorem State.modLaunch_icache (s : State) (id : DWord) (f : Launch → Launch) : (s.modLaunch id f).icache = s.icache := rfl
@[simp] theorem State.modLaunch_loads (s : State) (id : DWord) (f : Launch → Launch) : (s.modLaunch id f).loads = s.loads := rfl
@[simp] theorem State.modLaunch_stores (s : State) (id : DWord) (f : Launch → Launch) : (s.modLaunch id f).stores = s.stores := rfl
@[simp] theorem State.modLaunch_reqs (s : State) (id : DWord) (f : Launch → Launch) : (s.modLaunch id f).reqs = s.reqs := rfl
@[simp] theorem State.modLaunch_monitors (s : State) (id : DWord) (f : Launch → Launch) : (s.modLaunch id f).monitors = s.monitors := rfl
@[simp] theorem State.modLaunch_scs (s : State) (id : DWord) (f : Launch → Launch) : (s.modLaunch id f).scs = s.scs := rfl
@[simp] theorem State.modLaunch_regions (s : State) (id : DWord) (f : Launch → Launch) : (s.modLaunch id f).regions = s.regions := rfl
@[simp] theorem State.modLaunch_peers (s : State) (id : DWord) (f : Launch → Launch) : (s.modLaunch id f).peers = s.peers := rfl
@[simp] theorem State.modLaunch_invals (s : State) (id : DWord) (f : Launch → Launch) : (s.modLaunch id f).invals = s.invals := rfl
@[simp] theorem State.modLaunch_flows (s : State) (id : DWord) (f : Launch → Launch) : (s.modLaunch id f).flows = s.flows := rfl
@[simp] theorem State.modLaunch_goneTs (s : State) (id : DWord) (f : Launch → Launch) : (s.modLaunch id f).goneTs = s.goneTs := rfl
@[simp] theorem State.modLaunch_mailOut (s : State) (id : DWord) (f : Launch → Launch) : (s.modLaunch id f).mailOut = s.mailOut := rfl
@[simp] theorem State.modLaunch_epoch (s : State) (id : DWord) (f : Launch → Launch) : (s.modLaunch id f).epoch = s.epoch := rfl
@[simp] theorem State.modLaunch_proxyTime (s : State) (id : DWord) (f : Launch → Launch) : (s.modLaunch id f).proxyTime = s.proxyTime := rfl
@[simp] theorem State.modLaunch_asleep (s : State) (id : DWord) (f : Launch → Launch) : (s.modLaunch id f).asleep = s.asleep := rfl
@[simp] theorem State.modLaunch_lastReq (s : State) (id : DWord) (f : Launch → Launch) : (s.modLaunch id f).lastReq = s.lastReq := rfl
@[simp] theorem State.modLaunch_tensors (s : State) (id : DWord) (f : Launch → Launch) : (s.modLaunch id f).tensors = s.tensors := rfl
@[simp] theorem State.modLaunch_ctxTmaps (s : State) (id : DWord) (f : Launch → Launch) : (s.modLaunch id f).ctxTmaps = s.ctxTmaps := rfl
@[simp] theorem State.modLaunch_posted (s : State) (id : DWord) (f : Launch → Launch) : (s.modLaunch id f).posted = s.posted := rfl
@[simp] theorem State.modLaunch_seqs (s : State) (id : DWord) (f : Launch → Launch) : (s.modLaunch id f).seqs = s.seqs := rfl
@[simp] theorem State.modLaunch_shoots (s : State) (id : DWord) (f : Launch → Launch) : (s.modLaunch id f).shoots = s.shoots := rfl
@[simp] theorem State.modLaunch_icinvs (s : State) (id : DWord) (f : Launch → Launch) : (s.modLaunch id f).icinvs = s.icinvs := rfl
@[simp] theorem State.modLaunch_migrations (s : State) (id : DWord) (f : Launch → Launch) : (s.modLaunch id f).migrations = s.migrations := rfl
@[simp] theorem State.modLaunch_moved (s : State) (id : DWord) (f : Launch → Launch) : (s.modLaunch id f).moved = s.moved := rfl
@[simp] theorem State.modLaunch_sampler (s : State) (id : DWord) (f : Launch → Launch) : (s.modLaunch id f).sampler = s.sampler := rfl
@[simp] theorem State.modLaunch_decayAt (s : State) (id : DWord) (f : Launch → Launch) : (s.modLaunch id f).decayAt = s.decayAt := rfl
@[simp] theorem State.modLaunch_tiers (s : State) (id : DWord) (f : Launch → Launch) : (s.modLaunch id f).tiers = s.tiers := rfl
@[simp] theorem State.modLaunch_events (s : State) (id : DWord) (f : Launch → Launch) : (s.modLaunch id f).events = s.events := rfl
@[simp] theorem State.modLaunch_evSeq (s : State) (id : DWord) (f : Launch → Launch) : (s.modLaunch id f).evSeq = s.evSeq := rfl
@[simp] theorem State.modLaunch_failedFlows (s : State) (id : DWord) (f : Launch → Launch) : (s.modLaunch id f).failedFlows = s.failedFlows := rfl
@[simp] theorem State.modLaunch_failedDies (s : State) (id : DWord) (f : Launch → Launch) : (s.modLaunch id f).failedDies = s.failedDies := rfl
@[simp] theorem State.modLaunch_disabledCores (s : State) (id : DWord) (f : Launch → Launch) : (s.modLaunch id f).disabledCores = s.disabledCores := rfl
@[simp] theorem State.modLaunch_disabledEngines (s : State) (id : DWord) (f : Launch → Launch) : (s.modLaunch id f).disabledEngines = s.disabledEngines := rfl
@[simp] theorem State.modLaunch_retiredSlices (s : State) (id : DWord) (f : Launch → Launch) : (s.modLaunch id f).retiredSlices = s.retiredSlices := rfl
@[simp] theorem State.modLaunch_transients (s : State) (id : DWord) (f : Launch → Launch) : (s.modLaunch id f).transients = s.transients := rfl
@[simp] theorem State.modLaunch_owed (s : State) (id : DWord) (f : Launch → Launch) : (s.modLaunch id f).owed = s.owed := rfl
@[simp] theorem State.modLaunch_dirtyAt (s : State) (id : DWord) (f : Launch → Launch) : (s.modLaunch id f).dirtyAt = s.dirtyAt := rfl
@[simp] theorem State.modLaunch_regs (s : State) (id : DWord) (f : Launch → Launch) : (s.modLaunch id f).regs = s.regs := rfl
@[simp] theorem State.modLaunch_fw (s : State) (id : DWord) (f : Launch → Launch) : (s.modLaunch id f).fw = s.fw := rfl
@[simp] theorem State.modLaunch_fwFloor (s : State) (id : DWord) (f : Launch → Launch) : (s.modLaunch id f).fwFloor = s.fwFloor := rfl
@[simp] theorem State.modLaunch_fwRaises (s : State) (id : DWord) (f : Launch → Launch) : (s.modLaunch id f).fwRaises = s.fwRaises := rfl
@[simp] theorem State.modLaunch_cxl (s : State) (id : DWord) (f : Launch → Launch) : (s.modLaunch id f).cxl = s.cxl := rfl

/-! ### modQueue -/

@[simp] theorem State.modQueue_clock (s : State) (q : Nat) (f : Queue → Queue) : (s.modQueue q f).clock = s.clock := rfl
@[simp] theorem State.modQueue_agenda (s : State) (q : Nat) (f : Queue → Queue) : (s.modQueue q f).agenda = s.agenda := rfl
@[simp] theorem State.modQueue_cur (s : State) (q : Nat) (f : Queue → Queue) : (s.modQueue q f).cur = s.cur := rfl
@[simp] theorem State.modQueue_nextId (s : State) (q : Nat) (f : Queue → Queue) : (s.modQueue q f).nextId = s.nextId := rfl
@[simp] theorem State.modQueue_freeCtr (s : State) (q : Nat) (f : Queue → Queue) : (s.modQueue q f).freeCtr = s.freeCtr := rfl
@[simp] theorem State.modQueue_lastIssue (s : State) (q : Nat) (f : Queue → Queue) : (s.modQueue q f).lastIssue = s.lastIssue := rfl
@[simp] theorem State.modQueue_turnOf (s : State) (q : Nat) (f : Queue → Queue) : (s.modQueue q f).turnOf = s.turnOf := rfl
@[simp] theorem State.modQueue_queueTurn (s : State) (q : Nat) (f : Queue → Queue) : (s.modQueue q f).queueTurn = s.queueTurn := rfl
@[simp] theorem State.modQueue_mem (s : State) (q : Nat) (f : Queue → Queue) : (s.modQueue q f).mem = s.mem := rfl
@[simp] theorem State.modQueue_uncorr (s : State) (q : Nat) (f : Queue → Queue) : (s.modQueue q f).uncorr = s.uncorr := rfl
@[simp] theorem State.modQueue_units (s : State) (q : Nat) (f : Queue → Queue) : (s.modQueue q f).units = s.units := rfl
@[simp] theorem State.modQueue_promised (s : State) (q : Nat) (f : Queue → Queue) : (s.modQueue q f).promised = s.promised := rfl
@[simp] theorem State.modQueue_launches (s : State) (q : Nat) (f : Queue → Queue) : (s.modQueue q f).launches = s.launches := rfl
@[simp] theorem State.modQueue_levels (s : State) (q : Nat) (f : Queue → Queue) : (s.modQueue q f).levels = s.levels := rfl
@[simp] theorem State.modQueue_swatches (s : State) (q : Nat) (f : Queue → Queue) : (s.modQueue q f).swatches = s.swatches := rfl
@[simp] theorem State.modQueue_copies (s : State) (q : Nat) (f : Queue → Queue) : (s.modQueue q f).copies = s.copies := rfl
@[simp] theorem State.modQueue_deltas (s : State) (q : Nat) (f : Queue → Queue) : (s.modQueue q f).deltas = s.deltas := rfl
@[simp] theorem State.modQueue_tasks (s : State) (q : Nat) (f : Queue → Queue) : (s.modQueue q f).tasks = s.tasks := rfl
@[simp] theorem State.modQueue_engines (s : State) (q : Nat) (f : Queue → Queue) : (s.modQueue q f).engines = s.engines := rfl
@[simp] theorem State.modQueue_tc (s : State) (q : Nat) (f : Queue → Queue) : (s.modQueue q f).tc = s.tc := rfl
@[simp] theorem State.modQueue_rh (s : State) (q : Nat) (f : Queue → Queue) : (s.modQueue q f).rh = s.rh := rfl
@[simp] theorem State.modQueue_tcAt (s : State) (q : Nat) (f : Queue → Queue) : (s.modQueue q f).tcAt = s.tcAt := rfl
@[simp] theorem State.modQueue_lines (s : State) (q : Nat) (f : Queue → Queue) : (s.modQueue q f).lines = s.lines := rfl
@[simp] theorem State.modQueue_paLocks (s : State) (q : Nat) (f : Queue → Queue) : (s.modQueue q f).paLocks = s.paLocks := rfl
@[simp] theorem State.modQueue_lru (s : State) (q : Nat) (f : Queue → Queue) : (s.modQueue q f).lru = s.lru := rfl
@[simp] theorem State.modQueue_tent (s : State) (q : Nat) (f : Queue → Queue) : (s.modQueue q f).tent = s.tent := rfl
@[simp] theorem State.modQueue_l1 (s : State) (q : Nat) (f : Queue → Queue) : (s.modQueue q f).l1 = s.l1 := rfl
@[simp] theorem State.modQueue_tlb (s : State) (q : Nat) (f : Queue → Queue) : (s.modQueue q f).tlb = s.tlb := rfl
@[simp] theorem State.modQueue_icache (s : State) (q : Nat) (f : Queue → Queue) : (s.modQueue q f).icache = s.icache := rfl
@[simp] theorem State.modQueue_loads (s : State) (q : Nat) (f : Queue → Queue) : (s.modQueue q f).loads = s.loads := rfl
@[simp] theorem State.modQueue_stores (s : State) (q : Nat) (f : Queue → Queue) : (s.modQueue q f).stores = s.stores := rfl
@[simp] theorem State.modQueue_reqs (s : State) (q : Nat) (f : Queue → Queue) : (s.modQueue q f).reqs = s.reqs := rfl
@[simp] theorem State.modQueue_monitors (s : State) (q : Nat) (f : Queue → Queue) : (s.modQueue q f).monitors = s.monitors := rfl
@[simp] theorem State.modQueue_scs (s : State) (q : Nat) (f : Queue → Queue) : (s.modQueue q f).scs = s.scs := rfl
@[simp] theorem State.modQueue_regions (s : State) (q : Nat) (f : Queue → Queue) : (s.modQueue q f).regions = s.regions := rfl
@[simp] theorem State.modQueue_peers (s : State) (q : Nat) (f : Queue → Queue) : (s.modQueue q f).peers = s.peers := rfl
@[simp] theorem State.modQueue_invals (s : State) (q : Nat) (f : Queue → Queue) : (s.modQueue q f).invals = s.invals := rfl
@[simp] theorem State.modQueue_flows (s : State) (q : Nat) (f : Queue → Queue) : (s.modQueue q f).flows = s.flows := rfl
@[simp] theorem State.modQueue_goneTs (s : State) (q : Nat) (f : Queue → Queue) : (s.modQueue q f).goneTs = s.goneTs := rfl
@[simp] theorem State.modQueue_mailOut (s : State) (q : Nat) (f : Queue → Queue) : (s.modQueue q f).mailOut = s.mailOut := rfl
@[simp] theorem State.modQueue_epoch (s : State) (q : Nat) (f : Queue → Queue) : (s.modQueue q f).epoch = s.epoch := rfl
@[simp] theorem State.modQueue_proxyTime (s : State) (q : Nat) (f : Queue → Queue) : (s.modQueue q f).proxyTime = s.proxyTime := rfl
@[simp] theorem State.modQueue_asleep (s : State) (q : Nat) (f : Queue → Queue) : (s.modQueue q f).asleep = s.asleep := rfl
@[simp] theorem State.modQueue_lastReq (s : State) (q : Nat) (f : Queue → Queue) : (s.modQueue q f).lastReq = s.lastReq := rfl
@[simp] theorem State.modQueue_tensors (s : State) (q : Nat) (f : Queue → Queue) : (s.modQueue q f).tensors = s.tensors := rfl
@[simp] theorem State.modQueue_ctxTmaps (s : State) (q : Nat) (f : Queue → Queue) : (s.modQueue q f).ctxTmaps = s.ctxTmaps := rfl
@[simp] theorem State.modQueue_posted (s : State) (q : Nat) (f : Queue → Queue) : (s.modQueue q f).posted = s.posted := rfl
@[simp] theorem State.modQueue_seqs (s : State) (q : Nat) (f : Queue → Queue) : (s.modQueue q f).seqs = s.seqs := rfl
@[simp] theorem State.modQueue_shoots (s : State) (q : Nat) (f : Queue → Queue) : (s.modQueue q f).shoots = s.shoots := rfl
@[simp] theorem State.modQueue_icinvs (s : State) (q : Nat) (f : Queue → Queue) : (s.modQueue q f).icinvs = s.icinvs := rfl
@[simp] theorem State.modQueue_migrations (s : State) (q : Nat) (f : Queue → Queue) : (s.modQueue q f).migrations = s.migrations := rfl
@[simp] theorem State.modQueue_moved (s : State) (q : Nat) (f : Queue → Queue) : (s.modQueue q f).moved = s.moved := rfl
@[simp] theorem State.modQueue_sampler (s : State) (q : Nat) (f : Queue → Queue) : (s.modQueue q f).sampler = s.sampler := rfl
@[simp] theorem State.modQueue_decayAt (s : State) (q : Nat) (f : Queue → Queue) : (s.modQueue q f).decayAt = s.decayAt := rfl
@[simp] theorem State.modQueue_tiers (s : State) (q : Nat) (f : Queue → Queue) : (s.modQueue q f).tiers = s.tiers := rfl
@[simp] theorem State.modQueue_events (s : State) (q : Nat) (f : Queue → Queue) : (s.modQueue q f).events = s.events := rfl
@[simp] theorem State.modQueue_evSeq (s : State) (q : Nat) (f : Queue → Queue) : (s.modQueue q f).evSeq = s.evSeq := rfl
@[simp] theorem State.modQueue_failedFlows (s : State) (q : Nat) (f : Queue → Queue) : (s.modQueue q f).failedFlows = s.failedFlows := rfl
@[simp] theorem State.modQueue_failedDies (s : State) (q : Nat) (f : Queue → Queue) : (s.modQueue q f).failedDies = s.failedDies := rfl
@[simp] theorem State.modQueue_disabledCores (s : State) (q : Nat) (f : Queue → Queue) : (s.modQueue q f).disabledCores = s.disabledCores := rfl
@[simp] theorem State.modQueue_disabledEngines (s : State) (q : Nat) (f : Queue → Queue) : (s.modQueue q f).disabledEngines = s.disabledEngines := rfl
@[simp] theorem State.modQueue_retiredSlices (s : State) (q : Nat) (f : Queue → Queue) : (s.modQueue q f).retiredSlices = s.retiredSlices := rfl
@[simp] theorem State.modQueue_transients (s : State) (q : Nat) (f : Queue → Queue) : (s.modQueue q f).transients = s.transients := rfl
@[simp] theorem State.modQueue_owed (s : State) (q : Nat) (f : Queue → Queue) : (s.modQueue q f).owed = s.owed := rfl
@[simp] theorem State.modQueue_dirtyAt (s : State) (q : Nat) (f : Queue → Queue) : (s.modQueue q f).dirtyAt = s.dirtyAt := rfl
@[simp] theorem State.modQueue_regs (s : State) (q : Nat) (f : Queue → Queue) : (s.modQueue q f).regs = s.regs := rfl
@[simp] theorem State.modQueue_fw (s : State) (q : Nat) (f : Queue → Queue) : (s.modQueue q f).fw = s.fw := rfl
@[simp] theorem State.modQueue_fwFloor (s : State) (q : Nat) (f : Queue → Queue) : (s.modQueue q f).fwFloor = s.fwFloor := rfl
@[simp] theorem State.modQueue_fwRaises (s : State) (q : Nat) (f : Queue → Queue) : (s.modQueue q f).fwRaises = s.fwRaises := rfl
@[simp] theorem State.modQueue_cxl (s : State) (q : Nat) (f : Queue → Queue) : (s.modQueue q f).cxl = s.cxl := rfl

/-! ### fresh -/

@[simp] theorem State.fresh_clock (s : State) : (s.fresh).clock = s.clock := rfl
@[simp] theorem State.fresh_agenda (s : State) : (s.fresh).agenda = s.agenda := rfl
@[simp] theorem State.fresh_cur (s : State) : (s.fresh).cur = s.cur := rfl
@[simp] theorem State.fresh_freeCtr (s : State) : (s.fresh).freeCtr = s.freeCtr := rfl
@[simp] theorem State.fresh_lastIssue (s : State) : (s.fresh).lastIssue = s.lastIssue := rfl
@[simp] theorem State.fresh_turnOf (s : State) : (s.fresh).turnOf = s.turnOf := rfl
@[simp] theorem State.fresh_queueTurn (s : State) : (s.fresh).queueTurn = s.queueTurn := rfl
@[simp] theorem State.fresh_mem (s : State) : (s.fresh).mem = s.mem := rfl
@[simp] theorem State.fresh_uncorr (s : State) : (s.fresh).uncorr = s.uncorr := rfl
@[simp] theorem State.fresh_units (s : State) : (s.fresh).units = s.units := rfl
@[simp] theorem State.fresh_promised (s : State) : (s.fresh).promised = s.promised := rfl
@[simp] theorem State.fresh_launches (s : State) : (s.fresh).launches = s.launches := rfl
@[simp] theorem State.fresh_levels (s : State) : (s.fresh).levels = s.levels := rfl
@[simp] theorem State.fresh_swatches (s : State) : (s.fresh).swatches = s.swatches := rfl
@[simp] theorem State.fresh_queues (s : State) : (s.fresh).queues = s.queues := rfl
@[simp] theorem State.fresh_copies (s : State) : (s.fresh).copies = s.copies := rfl
@[simp] theorem State.fresh_deltas (s : State) : (s.fresh).deltas = s.deltas := rfl
@[simp] theorem State.fresh_tasks (s : State) : (s.fresh).tasks = s.tasks := rfl
@[simp] theorem State.fresh_engines (s : State) : (s.fresh).engines = s.engines := rfl
@[simp] theorem State.fresh_tc (s : State) : (s.fresh).tc = s.tc := rfl
@[simp] theorem State.fresh_rh (s : State) : (s.fresh).rh = s.rh := rfl
@[simp] theorem State.fresh_tcAt (s : State) : (s.fresh).tcAt = s.tcAt := rfl
@[simp] theorem State.fresh_lines (s : State) : (s.fresh).lines = s.lines := rfl
@[simp] theorem State.fresh_paLocks (s : State) : (s.fresh).paLocks = s.paLocks := rfl
@[simp] theorem State.fresh_lru (s : State) : (s.fresh).lru = s.lru := rfl
@[simp] theorem State.fresh_tent (s : State) : (s.fresh).tent = s.tent := rfl
@[simp] theorem State.fresh_l1 (s : State) : (s.fresh).l1 = s.l1 := rfl
@[simp] theorem State.fresh_tlb (s : State) : (s.fresh).tlb = s.tlb := rfl
@[simp] theorem State.fresh_icache (s : State) : (s.fresh).icache = s.icache := rfl
@[simp] theorem State.fresh_loads (s : State) : (s.fresh).loads = s.loads := rfl
@[simp] theorem State.fresh_stores (s : State) : (s.fresh).stores = s.stores := rfl
@[simp] theorem State.fresh_reqs (s : State) : (s.fresh).reqs = s.reqs := rfl
@[simp] theorem State.fresh_monitors (s : State) : (s.fresh).monitors = s.monitors := rfl
@[simp] theorem State.fresh_scs (s : State) : (s.fresh).scs = s.scs := rfl
@[simp] theorem State.fresh_regions (s : State) : (s.fresh).regions = s.regions := rfl
@[simp] theorem State.fresh_peers (s : State) : (s.fresh).peers = s.peers := rfl
@[simp] theorem State.fresh_invals (s : State) : (s.fresh).invals = s.invals := rfl
@[simp] theorem State.fresh_flows (s : State) : (s.fresh).flows = s.flows := rfl
@[simp] theorem State.fresh_goneTs (s : State) : (s.fresh).goneTs = s.goneTs := rfl
@[simp] theorem State.fresh_mailOut (s : State) : (s.fresh).mailOut = s.mailOut := rfl
@[simp] theorem State.fresh_epoch (s : State) : (s.fresh).epoch = s.epoch := rfl
@[simp] theorem State.fresh_proxyTime (s : State) : (s.fresh).proxyTime = s.proxyTime := rfl
@[simp] theorem State.fresh_asleep (s : State) : (s.fresh).asleep = s.asleep := rfl
@[simp] theorem State.fresh_lastReq (s : State) : (s.fresh).lastReq = s.lastReq := rfl
@[simp] theorem State.fresh_tensors (s : State) : (s.fresh).tensors = s.tensors := rfl
@[simp] theorem State.fresh_ctxTmaps (s : State) : (s.fresh).ctxTmaps = s.ctxTmaps := rfl
@[simp] theorem State.fresh_posted (s : State) : (s.fresh).posted = s.posted := rfl
@[simp] theorem State.fresh_seqs (s : State) : (s.fresh).seqs = s.seqs := rfl
@[simp] theorem State.fresh_shoots (s : State) : (s.fresh).shoots = s.shoots := rfl
@[simp] theorem State.fresh_icinvs (s : State) : (s.fresh).icinvs = s.icinvs := rfl
@[simp] theorem State.fresh_migrations (s : State) : (s.fresh).migrations = s.migrations := rfl
@[simp] theorem State.fresh_moved (s : State) : (s.fresh).moved = s.moved := rfl
@[simp] theorem State.fresh_sampler (s : State) : (s.fresh).sampler = s.sampler := rfl
@[simp] theorem State.fresh_decayAt (s : State) : (s.fresh).decayAt = s.decayAt := rfl
@[simp] theorem State.fresh_tiers (s : State) : (s.fresh).tiers = s.tiers := rfl
@[simp] theorem State.fresh_events (s : State) : (s.fresh).events = s.events := rfl
@[simp] theorem State.fresh_evSeq (s : State) : (s.fresh).evSeq = s.evSeq := rfl
@[simp] theorem State.fresh_failedFlows (s : State) : (s.fresh).failedFlows = s.failedFlows := rfl
@[simp] theorem State.fresh_failedDies (s : State) : (s.fresh).failedDies = s.failedDies := rfl
@[simp] theorem State.fresh_disabledCores (s : State) : (s.fresh).disabledCores = s.disabledCores := rfl
@[simp] theorem State.fresh_disabledEngines (s : State) : (s.fresh).disabledEngines = s.disabledEngines := rfl
@[simp] theorem State.fresh_retiredSlices (s : State) : (s.fresh).retiredSlices = s.retiredSlices := rfl
@[simp] theorem State.fresh_transients (s : State) : (s.fresh).transients = s.transients := rfl
@[simp] theorem State.fresh_owed (s : State) : (s.fresh).owed = s.owed := rfl
@[simp] theorem State.fresh_dirtyAt (s : State) : (s.fresh).dirtyAt = s.dirtyAt := rfl
@[simp] theorem State.fresh_regs (s : State) : (s.fresh).regs = s.regs := rfl
@[simp] theorem State.fresh_fw (s : State) : (s.fresh).fw = s.fw := rfl
@[simp] theorem State.fresh_fwFloor (s : State) : (s.fresh).fwFloor = s.fwFloor := rfl
@[simp] theorem State.fresh_fwRaises (s : State) : (s.fresh).fwRaises = s.fwRaises := rfl
@[simp] theorem State.fresh_cxl (s : State) : (s.fresh).cxl = s.cxl := rfl

/-! ### tcRaise -/

@[simp] theorem State.tcRaise_clock (s : State) (core v : Nat) : (s.tcRaise core v).clock = s.clock := rfl
@[simp] theorem State.tcRaise_agenda (s : State) (core v : Nat) : (s.tcRaise core v).agenda = s.agenda := rfl
@[simp] theorem State.tcRaise_cur (s : State) (core v : Nat) : (s.tcRaise core v).cur = s.cur := rfl
@[simp] theorem State.tcRaise_nextId (s : State) (core v : Nat) : (s.tcRaise core v).nextId = s.nextId := rfl
@[simp] theorem State.tcRaise_freeCtr (s : State) (core v : Nat) : (s.tcRaise core v).freeCtr = s.freeCtr := rfl
@[simp] theorem State.tcRaise_lastIssue (s : State) (core v : Nat) : (s.tcRaise core v).lastIssue = s.lastIssue := rfl
@[simp] theorem State.tcRaise_turnOf (s : State) (core v : Nat) : (s.tcRaise core v).turnOf = s.turnOf := rfl
@[simp] theorem State.tcRaise_queueTurn (s : State) (core v : Nat) : (s.tcRaise core v).queueTurn = s.queueTurn := rfl
@[simp] theorem State.tcRaise_mem (s : State) (core v : Nat) : (s.tcRaise core v).mem = s.mem := rfl
@[simp] theorem State.tcRaise_uncorr (s : State) (core v : Nat) : (s.tcRaise core v).uncorr = s.uncorr := rfl
@[simp] theorem State.tcRaise_units (s : State) (core v : Nat) : (s.tcRaise core v).units = s.units := rfl
@[simp] theorem State.tcRaise_promised (s : State) (core v : Nat) : (s.tcRaise core v).promised = s.promised := rfl
@[simp] theorem State.tcRaise_launches (s : State) (core v : Nat) : (s.tcRaise core v).launches = s.launches := rfl
@[simp] theorem State.tcRaise_levels (s : State) (core v : Nat) : (s.tcRaise core v).levels = s.levels := rfl
@[simp] theorem State.tcRaise_swatches (s : State) (core v : Nat) : (s.tcRaise core v).swatches = s.swatches := rfl
@[simp] theorem State.tcRaise_queues (s : State) (core v : Nat) : (s.tcRaise core v).queues = s.queues := rfl
@[simp] theorem State.tcRaise_copies (s : State) (core v : Nat) : (s.tcRaise core v).copies = s.copies := rfl
@[simp] theorem State.tcRaise_deltas (s : State) (core v : Nat) : (s.tcRaise core v).deltas = s.deltas := rfl
@[simp] theorem State.tcRaise_tasks (s : State) (core v : Nat) : (s.tcRaise core v).tasks = s.tasks := rfl
@[simp] theorem State.tcRaise_engines (s : State) (core v : Nat) : (s.tcRaise core v).engines = s.engines := rfl
@[simp] theorem State.tcRaise_rh (s : State) (core v : Nat) : (s.tcRaise core v).rh = s.rh := rfl
@[simp] theorem State.tcRaise_tcAt (s : State) (core v : Nat) : (s.tcRaise core v).tcAt = s.tcAt := rfl
@[simp] theorem State.tcRaise_lines (s : State) (core v : Nat) : (s.tcRaise core v).lines = s.lines := rfl
@[simp] theorem State.tcRaise_paLocks (s : State) (core v : Nat) : (s.tcRaise core v).paLocks = s.paLocks := rfl
@[simp] theorem State.tcRaise_lru (s : State) (core v : Nat) : (s.tcRaise core v).lru = s.lru := rfl
@[simp] theorem State.tcRaise_tent (s : State) (core v : Nat) : (s.tcRaise core v).tent = s.tent := rfl
@[simp] theorem State.tcRaise_l1 (s : State) (core v : Nat) : (s.tcRaise core v).l1 = s.l1 := rfl
@[simp] theorem State.tcRaise_tlb (s : State) (core v : Nat) : (s.tcRaise core v).tlb = s.tlb := rfl
@[simp] theorem State.tcRaise_icache (s : State) (core v : Nat) : (s.tcRaise core v).icache = s.icache := rfl
@[simp] theorem State.tcRaise_loads (s : State) (core v : Nat) : (s.tcRaise core v).loads = s.loads := rfl
@[simp] theorem State.tcRaise_stores (s : State) (core v : Nat) : (s.tcRaise core v).stores = s.stores := rfl
@[simp] theorem State.tcRaise_reqs (s : State) (core v : Nat) : (s.tcRaise core v).reqs = s.reqs := rfl
@[simp] theorem State.tcRaise_monitors (s : State) (core v : Nat) : (s.tcRaise core v).monitors = s.monitors := rfl
@[simp] theorem State.tcRaise_scs (s : State) (core v : Nat) : (s.tcRaise core v).scs = s.scs := rfl
@[simp] theorem State.tcRaise_regions (s : State) (core v : Nat) : (s.tcRaise core v).regions = s.regions := rfl
@[simp] theorem State.tcRaise_peers (s : State) (core v : Nat) : (s.tcRaise core v).peers = s.peers := rfl
@[simp] theorem State.tcRaise_invals (s : State) (core v : Nat) : (s.tcRaise core v).invals = s.invals := rfl
@[simp] theorem State.tcRaise_flows (s : State) (core v : Nat) : (s.tcRaise core v).flows = s.flows := rfl
@[simp] theorem State.tcRaise_goneTs (s : State) (core v : Nat) : (s.tcRaise core v).goneTs = s.goneTs := rfl
@[simp] theorem State.tcRaise_mailOut (s : State) (core v : Nat) : (s.tcRaise core v).mailOut = s.mailOut := rfl
@[simp] theorem State.tcRaise_epoch (s : State) (core v : Nat) : (s.tcRaise core v).epoch = s.epoch := rfl
@[simp] theorem State.tcRaise_proxyTime (s : State) (core v : Nat) : (s.tcRaise core v).proxyTime = s.proxyTime := rfl
@[simp] theorem State.tcRaise_asleep (s : State) (core v : Nat) : (s.tcRaise core v).asleep = s.asleep := rfl
@[simp] theorem State.tcRaise_lastReq (s : State) (core v : Nat) : (s.tcRaise core v).lastReq = s.lastReq := rfl
@[simp] theorem State.tcRaise_tensors (s : State) (core v : Nat) : (s.tcRaise core v).tensors = s.tensors := rfl
@[simp] theorem State.tcRaise_ctxTmaps (s : State) (core v : Nat) : (s.tcRaise core v).ctxTmaps = s.ctxTmaps := rfl
@[simp] theorem State.tcRaise_posted (s : State) (core v : Nat) : (s.tcRaise core v).posted = s.posted := rfl
@[simp] theorem State.tcRaise_seqs (s : State) (core v : Nat) : (s.tcRaise core v).seqs = s.seqs := rfl
@[simp] theorem State.tcRaise_shoots (s : State) (core v : Nat) : (s.tcRaise core v).shoots = s.shoots := rfl
@[simp] theorem State.tcRaise_icinvs (s : State) (core v : Nat) : (s.tcRaise core v).icinvs = s.icinvs := rfl
@[simp] theorem State.tcRaise_migrations (s : State) (core v : Nat) : (s.tcRaise core v).migrations = s.migrations := rfl
@[simp] theorem State.tcRaise_moved (s : State) (core v : Nat) : (s.tcRaise core v).moved = s.moved := rfl
@[simp] theorem State.tcRaise_sampler (s : State) (core v : Nat) : (s.tcRaise core v).sampler = s.sampler := rfl
@[simp] theorem State.tcRaise_decayAt (s : State) (core v : Nat) : (s.tcRaise core v).decayAt = s.decayAt := rfl
@[simp] theorem State.tcRaise_tiers (s : State) (core v : Nat) : (s.tcRaise core v).tiers = s.tiers := rfl
@[simp] theorem State.tcRaise_events (s : State) (core v : Nat) : (s.tcRaise core v).events = s.events := rfl
@[simp] theorem State.tcRaise_evSeq (s : State) (core v : Nat) : (s.tcRaise core v).evSeq = s.evSeq := rfl
@[simp] theorem State.tcRaise_failedFlows (s : State) (core v : Nat) : (s.tcRaise core v).failedFlows = s.failedFlows := rfl
@[simp] theorem State.tcRaise_failedDies (s : State) (core v : Nat) : (s.tcRaise core v).failedDies = s.failedDies := rfl
@[simp] theorem State.tcRaise_disabledCores (s : State) (core v : Nat) : (s.tcRaise core v).disabledCores = s.disabledCores := rfl
@[simp] theorem State.tcRaise_disabledEngines (s : State) (core v : Nat) : (s.tcRaise core v).disabledEngines = s.disabledEngines := rfl
@[simp] theorem State.tcRaise_retiredSlices (s : State) (core v : Nat) : (s.tcRaise core v).retiredSlices = s.retiredSlices := rfl
@[simp] theorem State.tcRaise_transients (s : State) (core v : Nat) : (s.tcRaise core v).transients = s.transients := rfl
@[simp] theorem State.tcRaise_owed (s : State) (core v : Nat) : (s.tcRaise core v).owed = s.owed := rfl
@[simp] theorem State.tcRaise_dirtyAt (s : State) (core v : Nat) : (s.tcRaise core v).dirtyAt = s.dirtyAt := rfl
@[simp] theorem State.tcRaise_regs (s : State) (core v : Nat) : (s.tcRaise core v).regs = s.regs := rfl
@[simp] theorem State.tcRaise_fw (s : State) (core v : Nat) : (s.tcRaise core v).fw = s.fw := rfl
@[simp] theorem State.tcRaise_fwFloor (s : State) (core v : Nat) : (s.tcRaise core v).fwFloor = s.fwFloor := rfl
@[simp] theorem State.tcRaise_fwRaises (s : State) (core v : Nat) : (s.tcRaise core v).fwRaises = s.fwRaises := rfl
@[simp] theorem State.tcRaise_cxl (s : State) (core v : Nat) : (s.tcRaise core v).cxl = s.cxl := rfl

/-! ### rhRaise -/

@[simp] theorem State.rhRaise_clock (s : State) (core v : Nat) : (s.rhRaise core v).clock = s.clock := rfl
@[simp] theorem State.rhRaise_agenda (s : State) (core v : Nat) : (s.rhRaise core v).agenda = s.agenda := rfl
@[simp] theorem State.rhRaise_cur (s : State) (core v : Nat) : (s.rhRaise core v).cur = s.cur := rfl
@[simp] theorem State.rhRaise_nextId (s : State) (core v : Nat) : (s.rhRaise core v).nextId = s.nextId := rfl
@[simp] theorem State.rhRaise_freeCtr (s : State) (core v : Nat) : (s.rhRaise core v).freeCtr = s.freeCtr := rfl
@[simp] theorem State.rhRaise_lastIssue (s : State) (core v : Nat) : (s.rhRaise core v).lastIssue = s.lastIssue := rfl
@[simp] theorem State.rhRaise_turnOf (s : State) (core v : Nat) : (s.rhRaise core v).turnOf = s.turnOf := rfl
@[simp] theorem State.rhRaise_queueTurn (s : State) (core v : Nat) : (s.rhRaise core v).queueTurn = s.queueTurn := rfl
@[simp] theorem State.rhRaise_mem (s : State) (core v : Nat) : (s.rhRaise core v).mem = s.mem := rfl
@[simp] theorem State.rhRaise_uncorr (s : State) (core v : Nat) : (s.rhRaise core v).uncorr = s.uncorr := rfl
@[simp] theorem State.rhRaise_units (s : State) (core v : Nat) : (s.rhRaise core v).units = s.units := rfl
@[simp] theorem State.rhRaise_promised (s : State) (core v : Nat) : (s.rhRaise core v).promised = s.promised := rfl
@[simp] theorem State.rhRaise_launches (s : State) (core v : Nat) : (s.rhRaise core v).launches = s.launches := rfl
@[simp] theorem State.rhRaise_levels (s : State) (core v : Nat) : (s.rhRaise core v).levels = s.levels := rfl
@[simp] theorem State.rhRaise_swatches (s : State) (core v : Nat) : (s.rhRaise core v).swatches = s.swatches := rfl
@[simp] theorem State.rhRaise_queues (s : State) (core v : Nat) : (s.rhRaise core v).queues = s.queues := rfl
@[simp] theorem State.rhRaise_copies (s : State) (core v : Nat) : (s.rhRaise core v).copies = s.copies := rfl
@[simp] theorem State.rhRaise_deltas (s : State) (core v : Nat) : (s.rhRaise core v).deltas = s.deltas := rfl
@[simp] theorem State.rhRaise_tasks (s : State) (core v : Nat) : (s.rhRaise core v).tasks = s.tasks := rfl
@[simp] theorem State.rhRaise_engines (s : State) (core v : Nat) : (s.rhRaise core v).engines = s.engines := rfl
@[simp] theorem State.rhRaise_tc (s : State) (core v : Nat) : (s.rhRaise core v).tc = s.tc := rfl
@[simp] theorem State.rhRaise_tcAt (s : State) (core v : Nat) : (s.rhRaise core v).tcAt = s.tcAt := rfl
@[simp] theorem State.rhRaise_lines (s : State) (core v : Nat) : (s.rhRaise core v).lines = s.lines := rfl
@[simp] theorem State.rhRaise_paLocks (s : State) (core v : Nat) : (s.rhRaise core v).paLocks = s.paLocks := rfl
@[simp] theorem State.rhRaise_lru (s : State) (core v : Nat) : (s.rhRaise core v).lru = s.lru := rfl
@[simp] theorem State.rhRaise_tent (s : State) (core v : Nat) : (s.rhRaise core v).tent = s.tent := rfl
@[simp] theorem State.rhRaise_l1 (s : State) (core v : Nat) : (s.rhRaise core v).l1 = s.l1 := rfl
@[simp] theorem State.rhRaise_tlb (s : State) (core v : Nat) : (s.rhRaise core v).tlb = s.tlb := rfl
@[simp] theorem State.rhRaise_icache (s : State) (core v : Nat) : (s.rhRaise core v).icache = s.icache := rfl
@[simp] theorem State.rhRaise_loads (s : State) (core v : Nat) : (s.rhRaise core v).loads = s.loads := rfl
@[simp] theorem State.rhRaise_stores (s : State) (core v : Nat) : (s.rhRaise core v).stores = s.stores := rfl
@[simp] theorem State.rhRaise_reqs (s : State) (core v : Nat) : (s.rhRaise core v).reqs = s.reqs := rfl
@[simp] theorem State.rhRaise_monitors (s : State) (core v : Nat) : (s.rhRaise core v).monitors = s.monitors := rfl
@[simp] theorem State.rhRaise_scs (s : State) (core v : Nat) : (s.rhRaise core v).scs = s.scs := rfl
@[simp] theorem State.rhRaise_regions (s : State) (core v : Nat) : (s.rhRaise core v).regions = s.regions := rfl
@[simp] theorem State.rhRaise_peers (s : State) (core v : Nat) : (s.rhRaise core v).peers = s.peers := rfl
@[simp] theorem State.rhRaise_invals (s : State) (core v : Nat) : (s.rhRaise core v).invals = s.invals := rfl
@[simp] theorem State.rhRaise_flows (s : State) (core v : Nat) : (s.rhRaise core v).flows = s.flows := rfl
@[simp] theorem State.rhRaise_goneTs (s : State) (core v : Nat) : (s.rhRaise core v).goneTs = s.goneTs := rfl
@[simp] theorem State.rhRaise_mailOut (s : State) (core v : Nat) : (s.rhRaise core v).mailOut = s.mailOut := rfl
@[simp] theorem State.rhRaise_epoch (s : State) (core v : Nat) : (s.rhRaise core v).epoch = s.epoch := rfl
@[simp] theorem State.rhRaise_proxyTime (s : State) (core v : Nat) : (s.rhRaise core v).proxyTime = s.proxyTime := rfl
@[simp] theorem State.rhRaise_asleep (s : State) (core v : Nat) : (s.rhRaise core v).asleep = s.asleep := rfl
@[simp] theorem State.rhRaise_lastReq (s : State) (core v : Nat) : (s.rhRaise core v).lastReq = s.lastReq := rfl
@[simp] theorem State.rhRaise_tensors (s : State) (core v : Nat) : (s.rhRaise core v).tensors = s.tensors := rfl
@[simp] theorem State.rhRaise_ctxTmaps (s : State) (core v : Nat) : (s.rhRaise core v).ctxTmaps = s.ctxTmaps := rfl
@[simp] theorem State.rhRaise_posted (s : State) (core v : Nat) : (s.rhRaise core v).posted = s.posted := rfl
@[simp] theorem State.rhRaise_seqs (s : State) (core v : Nat) : (s.rhRaise core v).seqs = s.seqs := rfl
@[simp] theorem State.rhRaise_shoots (s : State) (core v : Nat) : (s.rhRaise core v).shoots = s.shoots := rfl
@[simp] theorem State.rhRaise_icinvs (s : State) (core v : Nat) : (s.rhRaise core v).icinvs = s.icinvs := rfl
@[simp] theorem State.rhRaise_migrations (s : State) (core v : Nat) : (s.rhRaise core v).migrations = s.migrations := rfl
@[simp] theorem State.rhRaise_moved (s : State) (core v : Nat) : (s.rhRaise core v).moved = s.moved := rfl
@[simp] theorem State.rhRaise_sampler (s : State) (core v : Nat) : (s.rhRaise core v).sampler = s.sampler := rfl
@[simp] theorem State.rhRaise_decayAt (s : State) (core v : Nat) : (s.rhRaise core v).decayAt = s.decayAt := rfl
@[simp] theorem State.rhRaise_tiers (s : State) (core v : Nat) : (s.rhRaise core v).tiers = s.tiers := rfl
@[simp] theorem State.rhRaise_events (s : State) (core v : Nat) : (s.rhRaise core v).events = s.events := rfl
@[simp] theorem State.rhRaise_evSeq (s : State) (core v : Nat) : (s.rhRaise core v).evSeq = s.evSeq := rfl
@[simp] theorem State.rhRaise_failedFlows (s : State) (core v : Nat) : (s.rhRaise core v).failedFlows = s.failedFlows := rfl
@[simp] theorem State.rhRaise_failedDies (s : State) (core v : Nat) : (s.rhRaise core v).failedDies = s.failedDies := rfl
@[simp] theorem State.rhRaise_disabledCores (s : State) (core v : Nat) : (s.rhRaise core v).disabledCores = s.disabledCores := rfl
@[simp] theorem State.rhRaise_disabledEngines (s : State) (core v : Nat) : (s.rhRaise core v).disabledEngines = s.disabledEngines := rfl
@[simp] theorem State.rhRaise_retiredSlices (s : State) (core v : Nat) : (s.rhRaise core v).retiredSlices = s.retiredSlices := rfl
@[simp] theorem State.rhRaise_transients (s : State) (core v : Nat) : (s.rhRaise core v).transients = s.transients := rfl
@[simp] theorem State.rhRaise_owed (s : State) (core v : Nat) : (s.rhRaise core v).owed = s.owed := rfl
@[simp] theorem State.rhRaise_dirtyAt (s : State) (core v : Nat) : (s.rhRaise core v).dirtyAt = s.dirtyAt := rfl
@[simp] theorem State.rhRaise_regs (s : State) (core v : Nat) : (s.rhRaise core v).regs = s.regs := rfl
@[simp] theorem State.rhRaise_fw (s : State) (core v : Nat) : (s.rhRaise core v).fw = s.fw := rfl
@[simp] theorem State.rhRaise_fwFloor (s : State) (core v : Nat) : (s.rhRaise core v).fwFloor = s.fwFloor := rfl
@[simp] theorem State.rhRaise_fwRaises (s : State) (core v : Nat) : (s.rhRaise core v).fwRaises = s.fwRaises := rfl
@[simp] theorem State.rhRaise_cxl (s : State) (core v : Nat) : (s.rhRaise core v).cxl = s.cxl := rfl

/-! ### freeVal -/

@[simp] theorem State.freeVal_clock (s : State) : s.freeVal.2.clock = s.clock := rfl
@[simp] theorem State.freeVal_agenda (s : State) : s.freeVal.2.agenda = s.agenda := rfl
@[simp] theorem State.freeVal_cur (s : State) : s.freeVal.2.cur = s.cur := rfl
@[simp] theorem State.freeVal_nextId (s : State) : s.freeVal.2.nextId = s.nextId := rfl
@[simp] theorem State.freeVal_lastIssue (s : State) : s.freeVal.2.lastIssue = s.lastIssue := rfl
@[simp] theorem State.freeVal_turnOf (s : State) : s.freeVal.2.turnOf = s.turnOf := rfl
@[simp] theorem State.freeVal_queueTurn (s : State) : s.freeVal.2.queueTurn = s.queueTurn := rfl
@[simp] theorem State.freeVal_mem (s : State) : s.freeVal.2.mem = s.mem := rfl
@[simp] theorem State.freeVal_uncorr (s : State) : s.freeVal.2.uncorr = s.uncorr := rfl
@[simp] theorem State.freeVal_units (s : State) : s.freeVal.2.units = s.units := rfl
@[simp] theorem State.freeVal_promised (s : State) : s.freeVal.2.promised = s.promised := rfl
@[simp] theorem State.freeVal_launches (s : State) : s.freeVal.2.launches = s.launches := rfl
@[simp] theorem State.freeVal_levels (s : State) : s.freeVal.2.levels = s.levels := rfl
@[simp] theorem State.freeVal_swatches (s : State) : s.freeVal.2.swatches = s.swatches := rfl
@[simp] theorem State.freeVal_queues (s : State) : s.freeVal.2.queues = s.queues := rfl
@[simp] theorem State.freeVal_copies (s : State) : s.freeVal.2.copies = s.copies := rfl
@[simp] theorem State.freeVal_deltas (s : State) : s.freeVal.2.deltas = s.deltas := rfl
@[simp] theorem State.freeVal_tasks (s : State) : s.freeVal.2.tasks = s.tasks := rfl
@[simp] theorem State.freeVal_engines (s : State) : s.freeVal.2.engines = s.engines := rfl
@[simp] theorem State.freeVal_tc (s : State) : s.freeVal.2.tc = s.tc := rfl
@[simp] theorem State.freeVal_rh (s : State) : s.freeVal.2.rh = s.rh := rfl
@[simp] theorem State.freeVal_tcAt (s : State) : s.freeVal.2.tcAt = s.tcAt := rfl
@[simp] theorem State.freeVal_lines (s : State) : s.freeVal.2.lines = s.lines := rfl
@[simp] theorem State.freeVal_paLocks (s : State) : s.freeVal.2.paLocks = s.paLocks := rfl
@[simp] theorem State.freeVal_lru (s : State) : s.freeVal.2.lru = s.lru := rfl
@[simp] theorem State.freeVal_tent (s : State) : s.freeVal.2.tent = s.tent := rfl
@[simp] theorem State.freeVal_l1 (s : State) : s.freeVal.2.l1 = s.l1 := rfl
@[simp] theorem State.freeVal_tlb (s : State) : s.freeVal.2.tlb = s.tlb := rfl
@[simp] theorem State.freeVal_icache (s : State) : s.freeVal.2.icache = s.icache := rfl
@[simp] theorem State.freeVal_loads (s : State) : s.freeVal.2.loads = s.loads := rfl
@[simp] theorem State.freeVal_stores (s : State) : s.freeVal.2.stores = s.stores := rfl
@[simp] theorem State.freeVal_reqs (s : State) : s.freeVal.2.reqs = s.reqs := rfl
@[simp] theorem State.freeVal_monitors (s : State) : s.freeVal.2.monitors = s.monitors := rfl
@[simp] theorem State.freeVal_scs (s : State) : s.freeVal.2.scs = s.scs := rfl
@[simp] theorem State.freeVal_regions (s : State) : s.freeVal.2.regions = s.regions := rfl
@[simp] theorem State.freeVal_peers (s : State) : s.freeVal.2.peers = s.peers := rfl
@[simp] theorem State.freeVal_invals (s : State) : s.freeVal.2.invals = s.invals := rfl
@[simp] theorem State.freeVal_flows (s : State) : s.freeVal.2.flows = s.flows := rfl
@[simp] theorem State.freeVal_goneTs (s : State) : s.freeVal.2.goneTs = s.goneTs := rfl
@[simp] theorem State.freeVal_mailOut (s : State) : s.freeVal.2.mailOut = s.mailOut := rfl
@[simp] theorem State.freeVal_epoch (s : State) : s.freeVal.2.epoch = s.epoch := rfl
@[simp] theorem State.freeVal_proxyTime (s : State) : s.freeVal.2.proxyTime = s.proxyTime := rfl
@[simp] theorem State.freeVal_asleep (s : State) : s.freeVal.2.asleep = s.asleep := rfl
@[simp] theorem State.freeVal_lastReq (s : State) : s.freeVal.2.lastReq = s.lastReq := rfl
@[simp] theorem State.freeVal_tensors (s : State) : s.freeVal.2.tensors = s.tensors := rfl
@[simp] theorem State.freeVal_ctxTmaps (s : State) : s.freeVal.2.ctxTmaps = s.ctxTmaps := rfl
@[simp] theorem State.freeVal_posted (s : State) : s.freeVal.2.posted = s.posted := rfl
@[simp] theorem State.freeVal_seqs (s : State) : s.freeVal.2.seqs = s.seqs := rfl
@[simp] theorem State.freeVal_shoots (s : State) : s.freeVal.2.shoots = s.shoots := rfl
@[simp] theorem State.freeVal_icinvs (s : State) : s.freeVal.2.icinvs = s.icinvs := rfl
@[simp] theorem State.freeVal_migrations (s : State) : s.freeVal.2.migrations = s.migrations := rfl
@[simp] theorem State.freeVal_moved (s : State) : s.freeVal.2.moved = s.moved := rfl
@[simp] theorem State.freeVal_sampler (s : State) : s.freeVal.2.sampler = s.sampler := rfl
@[simp] theorem State.freeVal_decayAt (s : State) : s.freeVal.2.decayAt = s.decayAt := rfl
@[simp] theorem State.freeVal_tiers (s : State) : s.freeVal.2.tiers = s.tiers := rfl
@[simp] theorem State.freeVal_events (s : State) : s.freeVal.2.events = s.events := rfl
@[simp] theorem State.freeVal_evSeq (s : State) : s.freeVal.2.evSeq = s.evSeq := rfl
@[simp] theorem State.freeVal_failedFlows (s : State) : s.freeVal.2.failedFlows = s.failedFlows := rfl
@[simp] theorem State.freeVal_failedDies (s : State) : s.freeVal.2.failedDies = s.failedDies := rfl
@[simp] theorem State.freeVal_disabledCores (s : State) : s.freeVal.2.disabledCores = s.disabledCores := rfl
@[simp] theorem State.freeVal_disabledEngines (s : State) : s.freeVal.2.disabledEngines = s.disabledEngines := rfl
@[simp] theorem State.freeVal_retiredSlices (s : State) : s.freeVal.2.retiredSlices = s.retiredSlices := rfl
@[simp] theorem State.freeVal_transients (s : State) : s.freeVal.2.transients = s.transients := rfl
@[simp] theorem State.freeVal_owed (s : State) : s.freeVal.2.owed = s.owed := rfl
@[simp] theorem State.freeVal_dirtyAt (s : State) : s.freeVal.2.dirtyAt = s.dirtyAt := rfl
@[simp] theorem State.freeVal_regs (s : State) : s.freeVal.2.regs = s.regs := rfl
@[simp] theorem State.freeVal_fw (s : State) : s.freeVal.2.fw = s.fw := rfl
@[simp] theorem State.freeVal_fwFloor (s : State) : s.freeVal.2.fwFloor = s.fwFloor := rfl
@[simp] theorem State.freeVal_fwRaises (s : State) : s.freeVal.2.fwRaises = s.fwRaises := rfl
@[simp] theorem State.freeVal_cxl (s : State) : s.freeVal.2.cxl = s.cxl := rfl

/-! ### physPut, physWrite and physPutNat change memory and the home lines alone -/

theorem State.physPut_parts (s : State) (pa : Nat) (b : Byte) : ∃ m ls, s.physPut pa b = { s with mem := m, lines := ls } := by
  unfold State.physPut; split
  · exact ⟨s.mem, _, rfl⟩
  · exact ⟨_, s.lines, rfl⟩

theorem State.physWrite_parts (s : State) (pa : Nat) (bs : List Byte) :
    ∃ m ls, s.physWrite pa bs = { s with mem := m, lines := ls } := by
  induction bs generalizing s pa with
  | nil => exact ⟨s.mem, s.lines, rfl⟩
  | cons b bs ih =>
    obtain ⟨m, ls, e⟩ := s.physPut_parts pa b
    obtain ⟨m', ls', e'⟩ := ih (s.physPut pa b) (pa + 1)
    exact ⟨m', ls', by rw [State.physWrite, e', e]⟩

/-- What a byte's write can change. -/
theorem State.physPut_eq (s : State) (pa : Nat) (b : Byte) :
    s.physPut pa b = { s with mem := (s.physPut pa b).mem, lines := (s.physPut pa b).lines } := by
  obtain ⟨m, ls, e⟩ := s.physPut_parts pa b
  rw [e]

/-- What a write of bytes can change. -/
theorem State.physWrite_eq (s : State) (pa : Nat) (bs : List Byte) :
    s.physWrite pa bs = { s with mem := (s.physWrite pa bs).mem, lines := (s.physWrite pa bs).lines } := by
  obtain ⟨m, ls, e⟩ := s.physWrite_parts pa bs
  rw [e]

@[simp] theorem State.physWrite_clock (s : State) (pa : Nat) (bs : List Byte) : (s.physWrite pa bs).clock = s.clock := by rw [State.physWrite_eq]
@[simp] theorem State.physWrite_agenda (s : State) (pa : Nat) (bs : List Byte) : (s.physWrite pa bs).agenda = s.agenda := by rw [State.physWrite_eq]
@[simp] theorem State.physWrite_cur (s : State) (pa : Nat) (bs : List Byte) : (s.physWrite pa bs).cur = s.cur := by rw [State.physWrite_eq]
@[simp] theorem State.physWrite_nextId (s : State) (pa : Nat) (bs : List Byte) : (s.physWrite pa bs).nextId = s.nextId := by rw [State.physWrite_eq]
@[simp] theorem State.physWrite_freeCtr (s : State) (pa : Nat) (bs : List Byte) : (s.physWrite pa bs).freeCtr = s.freeCtr := by rw [State.physWrite_eq]
@[simp] theorem State.physWrite_lastIssue (s : State) (pa : Nat) (bs : List Byte) : (s.physWrite pa bs).lastIssue = s.lastIssue := by rw [State.physWrite_eq]
@[simp] theorem State.physWrite_turnOf (s : State) (pa : Nat) (bs : List Byte) : (s.physWrite pa bs).turnOf = s.turnOf := by rw [State.physWrite_eq]
@[simp] theorem State.physWrite_queueTurn (s : State) (pa : Nat) (bs : List Byte) : (s.physWrite pa bs).queueTurn = s.queueTurn := by rw [State.physWrite_eq]
@[simp] theorem State.physWrite_uncorr (s : State) (pa : Nat) (bs : List Byte) : (s.physWrite pa bs).uncorr = s.uncorr := by rw [State.physWrite_eq]
@[simp] theorem State.physWrite_units (s : State) (pa : Nat) (bs : List Byte) : (s.physWrite pa bs).units = s.units := by rw [State.physWrite_eq]
@[simp] theorem State.physWrite_promised (s : State) (pa : Nat) (bs : List Byte) : (s.physWrite pa bs).promised = s.promised := by rw [State.physWrite_eq]
@[simp] theorem State.physWrite_launches (s : State) (pa : Nat) (bs : List Byte) : (s.physWrite pa bs).launches = s.launches := by rw [State.physWrite_eq]
@[simp] theorem State.physWrite_levels (s : State) (pa : Nat) (bs : List Byte) : (s.physWrite pa bs).levels = s.levels := by rw [State.physWrite_eq]
@[simp] theorem State.physWrite_swatches (s : State) (pa : Nat) (bs : List Byte) : (s.physWrite pa bs).swatches = s.swatches := by rw [State.physWrite_eq]
@[simp] theorem State.physWrite_queues (s : State) (pa : Nat) (bs : List Byte) : (s.physWrite pa bs).queues = s.queues := by rw [State.physWrite_eq]
@[simp] theorem State.physWrite_copies (s : State) (pa : Nat) (bs : List Byte) : (s.physWrite pa bs).copies = s.copies := by rw [State.physWrite_eq]
@[simp] theorem State.physWrite_deltas (s : State) (pa : Nat) (bs : List Byte) : (s.physWrite pa bs).deltas = s.deltas := by rw [State.physWrite_eq]
@[simp] theorem State.physWrite_tasks (s : State) (pa : Nat) (bs : List Byte) : (s.physWrite pa bs).tasks = s.tasks := by rw [State.physWrite_eq]
@[simp] theorem State.physWrite_engines (s : State) (pa : Nat) (bs : List Byte) : (s.physWrite pa bs).engines = s.engines := by rw [State.physWrite_eq]
@[simp] theorem State.physWrite_tc (s : State) (pa : Nat) (bs : List Byte) : (s.physWrite pa bs).tc = s.tc := by rw [State.physWrite_eq]
@[simp] theorem State.physWrite_rh (s : State) (pa : Nat) (bs : List Byte) : (s.physWrite pa bs).rh = s.rh := by rw [State.physWrite_eq]
@[simp] theorem State.physWrite_tcAt (s : State) (pa : Nat) (bs : List Byte) : (s.physWrite pa bs).tcAt = s.tcAt := by rw [State.physWrite_eq]
@[simp] theorem State.physWrite_paLocks (s : State) (pa : Nat) (bs : List Byte) : (s.physWrite pa bs).paLocks = s.paLocks := by rw [State.physWrite_eq]
@[simp] theorem State.physWrite_lru (s : State) (pa : Nat) (bs : List Byte) : (s.physWrite pa bs).lru = s.lru := by rw [State.physWrite_eq]
@[simp] theorem State.physWrite_tent (s : State) (pa : Nat) (bs : List Byte) : (s.physWrite pa bs).tent = s.tent := by rw [State.physWrite_eq]
@[simp] theorem State.physWrite_l1 (s : State) (pa : Nat) (bs : List Byte) : (s.physWrite pa bs).l1 = s.l1 := by rw [State.physWrite_eq]
@[simp] theorem State.physWrite_tlb (s : State) (pa : Nat) (bs : List Byte) : (s.physWrite pa bs).tlb = s.tlb := by rw [State.physWrite_eq]
@[simp] theorem State.physWrite_icache (s : State) (pa : Nat) (bs : List Byte) : (s.physWrite pa bs).icache = s.icache := by rw [State.physWrite_eq]
@[simp] theorem State.physWrite_loads (s : State) (pa : Nat) (bs : List Byte) : (s.physWrite pa bs).loads = s.loads := by rw [State.physWrite_eq]
@[simp] theorem State.physWrite_stores (s : State) (pa : Nat) (bs : List Byte) : (s.physWrite pa bs).stores = s.stores := by rw [State.physWrite_eq]
@[simp] theorem State.physWrite_reqs (s : State) (pa : Nat) (bs : List Byte) : (s.physWrite pa bs).reqs = s.reqs := by rw [State.physWrite_eq]
@[simp] theorem State.physWrite_monitors (s : State) (pa : Nat) (bs : List Byte) : (s.physWrite pa bs).monitors = s.monitors := by rw [State.physWrite_eq]
@[simp] theorem State.physWrite_scs (s : State) (pa : Nat) (bs : List Byte) : (s.physWrite pa bs).scs = s.scs := by rw [State.physWrite_eq]
@[simp] theorem State.physWrite_regions (s : State) (pa : Nat) (bs : List Byte) : (s.physWrite pa bs).regions = s.regions := by rw [State.physWrite_eq]
@[simp] theorem State.physWrite_peers (s : State) (pa : Nat) (bs : List Byte) : (s.physWrite pa bs).peers = s.peers := by rw [State.physWrite_eq]
@[simp] theorem State.physWrite_invals (s : State) (pa : Nat) (bs : List Byte) : (s.physWrite pa bs).invals = s.invals := by rw [State.physWrite_eq]
@[simp] theorem State.physWrite_flows (s : State) (pa : Nat) (bs : List Byte) : (s.physWrite pa bs).flows = s.flows := by rw [State.physWrite_eq]
@[simp] theorem State.physWrite_goneTs (s : State) (pa : Nat) (bs : List Byte) : (s.physWrite pa bs).goneTs = s.goneTs := by rw [State.physWrite_eq]
@[simp] theorem State.physWrite_mailOut (s : State) (pa : Nat) (bs : List Byte) : (s.physWrite pa bs).mailOut = s.mailOut := by rw [State.physWrite_eq]
@[simp] theorem State.physWrite_epoch (s : State) (pa : Nat) (bs : List Byte) : (s.physWrite pa bs).epoch = s.epoch := by rw [State.physWrite_eq]
@[simp] theorem State.physWrite_proxyTime (s : State) (pa : Nat) (bs : List Byte) : (s.physWrite pa bs).proxyTime = s.proxyTime := by rw [State.physWrite_eq]
@[simp] theorem State.physWrite_asleep (s : State) (pa : Nat) (bs : List Byte) : (s.physWrite pa bs).asleep = s.asleep := by rw [State.physWrite_eq]
@[simp] theorem State.physWrite_lastReq (s : State) (pa : Nat) (bs : List Byte) : (s.physWrite pa bs).lastReq = s.lastReq := by rw [State.physWrite_eq]
@[simp] theorem State.physWrite_tensors (s : State) (pa : Nat) (bs : List Byte) : (s.physWrite pa bs).tensors = s.tensors := by rw [State.physWrite_eq]
@[simp] theorem State.physWrite_ctxTmaps (s : State) (pa : Nat) (bs : List Byte) : (s.physWrite pa bs).ctxTmaps = s.ctxTmaps := by rw [State.physWrite_eq]
@[simp] theorem State.physWrite_posted (s : State) (pa : Nat) (bs : List Byte) : (s.physWrite pa bs).posted = s.posted := by rw [State.physWrite_eq]
@[simp] theorem State.physWrite_seqs (s : State) (pa : Nat) (bs : List Byte) : (s.physWrite pa bs).seqs = s.seqs := by rw [State.physWrite_eq]
@[simp] theorem State.physWrite_shoots (s : State) (pa : Nat) (bs : List Byte) : (s.physWrite pa bs).shoots = s.shoots := by rw [State.physWrite_eq]
@[simp] theorem State.physWrite_icinvs (s : State) (pa : Nat) (bs : List Byte) : (s.physWrite pa bs).icinvs = s.icinvs := by rw [State.physWrite_eq]
@[simp] theorem State.physWrite_migrations (s : State) (pa : Nat) (bs : List Byte) : (s.physWrite pa bs).migrations = s.migrations := by rw [State.physWrite_eq]
@[simp] theorem State.physWrite_moved (s : State) (pa : Nat) (bs : List Byte) : (s.physWrite pa bs).moved = s.moved := by rw [State.physWrite_eq]
@[simp] theorem State.physWrite_sampler (s : State) (pa : Nat) (bs : List Byte) : (s.physWrite pa bs).sampler = s.sampler := by rw [State.physWrite_eq]
@[simp] theorem State.physWrite_decayAt (s : State) (pa : Nat) (bs : List Byte) : (s.physWrite pa bs).decayAt = s.decayAt := by rw [State.physWrite_eq]
@[simp] theorem State.physWrite_tiers (s : State) (pa : Nat) (bs : List Byte) : (s.physWrite pa bs).tiers = s.tiers := by rw [State.physWrite_eq]
@[simp] theorem State.physWrite_events (s : State) (pa : Nat) (bs : List Byte) : (s.physWrite pa bs).events = s.events := by rw [State.physWrite_eq]
@[simp] theorem State.physWrite_evSeq (s : State) (pa : Nat) (bs : List Byte) : (s.physWrite pa bs).evSeq = s.evSeq := by rw [State.physWrite_eq]
@[simp] theorem State.physWrite_failedFlows (s : State) (pa : Nat) (bs : List Byte) : (s.physWrite pa bs).failedFlows = s.failedFlows := by rw [State.physWrite_eq]
@[simp] theorem State.physWrite_failedDies (s : State) (pa : Nat) (bs : List Byte) : (s.physWrite pa bs).failedDies = s.failedDies := by rw [State.physWrite_eq]
@[simp] theorem State.physWrite_disabledCores (s : State) (pa : Nat) (bs : List Byte) : (s.physWrite pa bs).disabledCores = s.disabledCores := by rw [State.physWrite_eq]
@[simp] theorem State.physWrite_disabledEngines (s : State) (pa : Nat) (bs : List Byte) : (s.physWrite pa bs).disabledEngines = s.disabledEngines := by rw [State.physWrite_eq]
@[simp] theorem State.physWrite_retiredSlices (s : State) (pa : Nat) (bs : List Byte) : (s.physWrite pa bs).retiredSlices = s.retiredSlices := by rw [State.physWrite_eq]
@[simp] theorem State.physWrite_transients (s : State) (pa : Nat) (bs : List Byte) : (s.physWrite pa bs).transients = s.transients := by rw [State.physWrite_eq]
@[simp] theorem State.physWrite_owed (s : State) (pa : Nat) (bs : List Byte) : (s.physWrite pa bs).owed = s.owed := by rw [State.physWrite_eq]
@[simp] theorem State.physWrite_dirtyAt (s : State) (pa : Nat) (bs : List Byte) : (s.physWrite pa bs).dirtyAt = s.dirtyAt := by rw [State.physWrite_eq]
@[simp] theorem State.physWrite_regs (s : State) (pa : Nat) (bs : List Byte) : (s.physWrite pa bs).regs = s.regs := by rw [State.physWrite_eq]
@[simp] theorem State.physWrite_fw (s : State) (pa : Nat) (bs : List Byte) : (s.physWrite pa bs).fw = s.fw := by rw [State.physWrite_eq]
@[simp] theorem State.physWrite_fwFloor (s : State) (pa : Nat) (bs : List Byte) : (s.physWrite pa bs).fwFloor = s.fwFloor := by rw [State.physWrite_eq]
@[simp] theorem State.physWrite_fwRaises (s : State) (pa : Nat) (bs : List Byte) : (s.physWrite pa bs).fwRaises = s.fwRaises := by rw [State.physWrite_eq]
@[simp] theorem State.physWrite_cxl (s : State) (pa : Nat) (bs : List Byte) : (s.physWrite pa bs).cxl = s.cxl := by rw [State.physWrite_eq]

@[simp] theorem State.physPut_clock (s : State) (pa : Nat) (b : Byte) : (s.physPut pa b).clock = s.clock := by rw [State.physPut_eq]
@[simp] theorem State.physPut_agenda (s : State) (pa : Nat) (b : Byte) : (s.physPut pa b).agenda = s.agenda := by rw [State.physPut_eq]
@[simp] theorem State.physPut_cur (s : State) (pa : Nat) (b : Byte) : (s.physPut pa b).cur = s.cur := by rw [State.physPut_eq]
@[simp] theorem State.physPut_nextId (s : State) (pa : Nat) (b : Byte) : (s.physPut pa b).nextId = s.nextId := by rw [State.physPut_eq]
@[simp] theorem State.physPut_freeCtr (s : State) (pa : Nat) (b : Byte) : (s.physPut pa b).freeCtr = s.freeCtr := by rw [State.physPut_eq]
@[simp] theorem State.physPut_lastIssue (s : State) (pa : Nat) (b : Byte) : (s.physPut pa b).lastIssue = s.lastIssue := by rw [State.physPut_eq]
@[simp] theorem State.physPut_turnOf (s : State) (pa : Nat) (b : Byte) : (s.physPut pa b).turnOf = s.turnOf := by rw [State.physPut_eq]
@[simp] theorem State.physPut_queueTurn (s : State) (pa : Nat) (b : Byte) : (s.physPut pa b).queueTurn = s.queueTurn := by rw [State.physPut_eq]
@[simp] theorem State.physPut_uncorr (s : State) (pa : Nat) (b : Byte) : (s.physPut pa b).uncorr = s.uncorr := by rw [State.physPut_eq]
@[simp] theorem State.physPut_units (s : State) (pa : Nat) (b : Byte) : (s.physPut pa b).units = s.units := by rw [State.physPut_eq]
@[simp] theorem State.physPut_promised (s : State) (pa : Nat) (b : Byte) : (s.physPut pa b).promised = s.promised := by rw [State.physPut_eq]
@[simp] theorem State.physPut_launches (s : State) (pa : Nat) (b : Byte) : (s.physPut pa b).launches = s.launches := by rw [State.physPut_eq]
@[simp] theorem State.physPut_levels (s : State) (pa : Nat) (b : Byte) : (s.physPut pa b).levels = s.levels := by rw [State.physPut_eq]
@[simp] theorem State.physPut_swatches (s : State) (pa : Nat) (b : Byte) : (s.physPut pa b).swatches = s.swatches := by rw [State.physPut_eq]
@[simp] theorem State.physPut_queues (s : State) (pa : Nat) (b : Byte) : (s.physPut pa b).queues = s.queues := by rw [State.physPut_eq]
@[simp] theorem State.physPut_copies (s : State) (pa : Nat) (b : Byte) : (s.physPut pa b).copies = s.copies := by rw [State.physPut_eq]
@[simp] theorem State.physPut_deltas (s : State) (pa : Nat) (b : Byte) : (s.physPut pa b).deltas = s.deltas := by rw [State.physPut_eq]
@[simp] theorem State.physPut_tasks (s : State) (pa : Nat) (b : Byte) : (s.physPut pa b).tasks = s.tasks := by rw [State.physPut_eq]
@[simp] theorem State.physPut_engines (s : State) (pa : Nat) (b : Byte) : (s.physPut pa b).engines = s.engines := by rw [State.physPut_eq]
@[simp] theorem State.physPut_tc (s : State) (pa : Nat) (b : Byte) : (s.physPut pa b).tc = s.tc := by rw [State.physPut_eq]
@[simp] theorem State.physPut_rh (s : State) (pa : Nat) (b : Byte) : (s.physPut pa b).rh = s.rh := by rw [State.physPut_eq]
@[simp] theorem State.physPut_tcAt (s : State) (pa : Nat) (b : Byte) : (s.physPut pa b).tcAt = s.tcAt := by rw [State.physPut_eq]
@[simp] theorem State.physPut_paLocks (s : State) (pa : Nat) (b : Byte) : (s.physPut pa b).paLocks = s.paLocks := by rw [State.physPut_eq]
@[simp] theorem State.physPut_lru (s : State) (pa : Nat) (b : Byte) : (s.physPut pa b).lru = s.lru := by rw [State.physPut_eq]
@[simp] theorem State.physPut_tent (s : State) (pa : Nat) (b : Byte) : (s.physPut pa b).tent = s.tent := by rw [State.physPut_eq]
@[simp] theorem State.physPut_l1 (s : State) (pa : Nat) (b : Byte) : (s.physPut pa b).l1 = s.l1 := by rw [State.physPut_eq]
@[simp] theorem State.physPut_tlb (s : State) (pa : Nat) (b : Byte) : (s.physPut pa b).tlb = s.tlb := by rw [State.physPut_eq]
@[simp] theorem State.physPut_icache (s : State) (pa : Nat) (b : Byte) : (s.physPut pa b).icache = s.icache := by rw [State.physPut_eq]
@[simp] theorem State.physPut_loads (s : State) (pa : Nat) (b : Byte) : (s.physPut pa b).loads = s.loads := by rw [State.physPut_eq]
@[simp] theorem State.physPut_stores (s : State) (pa : Nat) (b : Byte) : (s.physPut pa b).stores = s.stores := by rw [State.physPut_eq]
@[simp] theorem State.physPut_reqs (s : State) (pa : Nat) (b : Byte) : (s.physPut pa b).reqs = s.reqs := by rw [State.physPut_eq]
@[simp] theorem State.physPut_monitors (s : State) (pa : Nat) (b : Byte) : (s.physPut pa b).monitors = s.monitors := by rw [State.physPut_eq]
@[simp] theorem State.physPut_scs (s : State) (pa : Nat) (b : Byte) : (s.physPut pa b).scs = s.scs := by rw [State.physPut_eq]
@[simp] theorem State.physPut_regions (s : State) (pa : Nat) (b : Byte) : (s.physPut pa b).regions = s.regions := by rw [State.physPut_eq]
@[simp] theorem State.physPut_peers (s : State) (pa : Nat) (b : Byte) : (s.physPut pa b).peers = s.peers := by rw [State.physPut_eq]
@[simp] theorem State.physPut_invals (s : State) (pa : Nat) (b : Byte) : (s.physPut pa b).invals = s.invals := by rw [State.physPut_eq]
@[simp] theorem State.physPut_flows (s : State) (pa : Nat) (b : Byte) : (s.physPut pa b).flows = s.flows := by rw [State.physPut_eq]
@[simp] theorem State.physPut_goneTs (s : State) (pa : Nat) (b : Byte) : (s.physPut pa b).goneTs = s.goneTs := by rw [State.physPut_eq]
@[simp] theorem State.physPut_mailOut (s : State) (pa : Nat) (b : Byte) : (s.physPut pa b).mailOut = s.mailOut := by rw [State.physPut_eq]
@[simp] theorem State.physPut_epoch (s : State) (pa : Nat) (b : Byte) : (s.physPut pa b).epoch = s.epoch := by rw [State.physPut_eq]
@[simp] theorem State.physPut_proxyTime (s : State) (pa : Nat) (b : Byte) : (s.physPut pa b).proxyTime = s.proxyTime := by rw [State.physPut_eq]
@[simp] theorem State.physPut_asleep (s : State) (pa : Nat) (b : Byte) : (s.physPut pa b).asleep = s.asleep := by rw [State.physPut_eq]
@[simp] theorem State.physPut_lastReq (s : State) (pa : Nat) (b : Byte) : (s.physPut pa b).lastReq = s.lastReq := by rw [State.physPut_eq]
@[simp] theorem State.physPut_tensors (s : State) (pa : Nat) (b : Byte) : (s.physPut pa b).tensors = s.tensors := by rw [State.physPut_eq]
@[simp] theorem State.physPut_ctxTmaps (s : State) (pa : Nat) (b : Byte) : (s.physPut pa b).ctxTmaps = s.ctxTmaps := by rw [State.physPut_eq]
@[simp] theorem State.physPut_posted (s : State) (pa : Nat) (b : Byte) : (s.physPut pa b).posted = s.posted := by rw [State.physPut_eq]
@[simp] theorem State.physPut_seqs (s : State) (pa : Nat) (b : Byte) : (s.physPut pa b).seqs = s.seqs := by rw [State.physPut_eq]
@[simp] theorem State.physPut_shoots (s : State) (pa : Nat) (b : Byte) : (s.physPut pa b).shoots = s.shoots := by rw [State.physPut_eq]
@[simp] theorem State.physPut_icinvs (s : State) (pa : Nat) (b : Byte) : (s.physPut pa b).icinvs = s.icinvs := by rw [State.physPut_eq]
@[simp] theorem State.physPut_migrations (s : State) (pa : Nat) (b : Byte) : (s.physPut pa b).migrations = s.migrations := by rw [State.physPut_eq]
@[simp] theorem State.physPut_moved (s : State) (pa : Nat) (b : Byte) : (s.physPut pa b).moved = s.moved := by rw [State.physPut_eq]
@[simp] theorem State.physPut_sampler (s : State) (pa : Nat) (b : Byte) : (s.physPut pa b).sampler = s.sampler := by rw [State.physPut_eq]
@[simp] theorem State.physPut_decayAt (s : State) (pa : Nat) (b : Byte) : (s.physPut pa b).decayAt = s.decayAt := by rw [State.physPut_eq]
@[simp] theorem State.physPut_tiers (s : State) (pa : Nat) (b : Byte) : (s.physPut pa b).tiers = s.tiers := by rw [State.physPut_eq]
@[simp] theorem State.physPut_events (s : State) (pa : Nat) (b : Byte) : (s.physPut pa b).events = s.events := by rw [State.physPut_eq]
@[simp] theorem State.physPut_evSeq (s : State) (pa : Nat) (b : Byte) : (s.physPut pa b).evSeq = s.evSeq := by rw [State.physPut_eq]
@[simp] theorem State.physPut_failedFlows (s : State) (pa : Nat) (b : Byte) : (s.physPut pa b).failedFlows = s.failedFlows := by rw [State.physPut_eq]
@[simp] theorem State.physPut_failedDies (s : State) (pa : Nat) (b : Byte) : (s.physPut pa b).failedDies = s.failedDies := by rw [State.physPut_eq]
@[simp] theorem State.physPut_disabledCores (s : State) (pa : Nat) (b : Byte) : (s.physPut pa b).disabledCores = s.disabledCores := by rw [State.physPut_eq]
@[simp] theorem State.physPut_disabledEngines (s : State) (pa : Nat) (b : Byte) : (s.physPut pa b).disabledEngines = s.disabledEngines := by rw [State.physPut_eq]
@[simp] theorem State.physPut_retiredSlices (s : State) (pa : Nat) (b : Byte) : (s.physPut pa b).retiredSlices = s.retiredSlices := by rw [State.physPut_eq]
@[simp] theorem State.physPut_transients (s : State) (pa : Nat) (b : Byte) : (s.physPut pa b).transients = s.transients := by rw [State.physPut_eq]
@[simp] theorem State.physPut_owed (s : State) (pa : Nat) (b : Byte) : (s.physPut pa b).owed = s.owed := by rw [State.physPut_eq]
@[simp] theorem State.physPut_dirtyAt (s : State) (pa : Nat) (b : Byte) : (s.physPut pa b).dirtyAt = s.dirtyAt := by rw [State.physPut_eq]
@[simp] theorem State.physPut_regs (s : State) (pa : Nat) (b : Byte) : (s.physPut pa b).regs = s.regs := by rw [State.physPut_eq]
@[simp] theorem State.physPut_fw (s : State) (pa : Nat) (b : Byte) : (s.physPut pa b).fw = s.fw := by rw [State.physPut_eq]
@[simp] theorem State.physPut_fwFloor (s : State) (pa : Nat) (b : Byte) : (s.physPut pa b).fwFloor = s.fwFloor := by rw [State.physPut_eq]
@[simp] theorem State.physPut_fwRaises (s : State) (pa : Nat) (b : Byte) : (s.physPut pa b).fwRaises = s.fwRaises := by rw [State.physPut_eq]
@[simp] theorem State.physPut_cxl (s : State) (pa : Nat) (b : Byte) : (s.physPut pa b).cxl = s.cxl := by rw [State.physPut_eq]

/-! ### What ownWrite and ownPut leave alone: all but memory, lines, times, epochs, directories, flows and cached slots -/

/-- A unit without the slots its groups have fetched. -/
def Unit.noSlots (U : Unit) : Unit := { U with groups := U.groups.map fun G => { G with fbuf := [] } }

/-- The state without the parts, besides memory, that a write of the device's own can change. -/
def State.rest (s : State) : State := { s with
  lines := [], regions := [], peers := [], proxyTime := [], epoch := [], asleep := [], lastReq := [], tc := [], tcAt := [],
  flows := [], invals := [], icinvs := [], icache := [], units := s.units.map Unit.noSlots }

theorem foldl_rest {α : Type} (f : State → α → State) (h : ∀ s x, (f s x).rest = s.rest) (xs : List α) (s : State) :
    (xs.foldl f s).rest = s.rest := by
  induction xs generalizing s with
  | nil => rfl
  | cons x xs ih => rw [List.foldl_cons, ih, h]

theorem State.tcRaise_rest (s : State) (c v : Nat) : (s.tcRaise c v).rest = s.rest := rfl
theorem State.tcCatchUp_rest (s : State) (c : Nat) : (s.tcCatchUp c).rest = s.rest := rfl
theorem State.passPkts_rest (s : State) (a c : Nat) (ds : List Nat) : (s.passPkts a c ds).rest = s.rest := rfl
theorem State.backPkts_rest (s : State) (a c : Nat) (ds : List Nat) : (s.backPkts a c ds).rest = s.rest := rfl
theorem State.scrubDie_rest (s : State) (d : Nat) : (s.scrubDie d).rest = s.rest := rfl

theorem raiseCores_rest (cs : List Nat) (v : Nat) (s : State) : (raiseCores cs v s).rest = s.rest := by
  induction cs generalizing s with
  | nil => rfl
  | cons c cs ih => rw [raiseCores, ih, State.tcCatchUp_rest, State.tcRaise_rest]

theorem State.nextEpoch_rest (s : State) (d : Nat) : (s.nextEpoch d).rest = s.rest := by
  rw [State.nextEpoch, raiseCores_rest]; rfl

theorem State.fitPt_rest (s : State) (d n : Nat) : (s.fitPt d n).rest = s.rest := by
  unfold State.fitPt; split
  · rfl
  · rw [State.nextEpoch_rest, State.scrubDie_rest]

theorem State.touchSlice_rest (s : State) (sl : Nat) : (s.touchSlice sl).rest = s.rest := by
  unfold State.touchSlice
  dsimp only
  split
  · rfl
  · split <;> rfl

theorem State.dropCopies_rest (s : State) (lo n d : Nat) : (s.dropCopies lo n d).rest = s.rest := s.fitPt_rest d _

theorem dropEarlier_rest (h d : Nat) (vs : List Inval) (s : State) : (dropEarlier h d vs s).rest = s.rest := by
  induction vs generalizing s with
  | nil => rfl
  | cons v vs ih =>
    rw [dropEarlier, ih]
    split
    · rw [State.dropCopies_rest]; rfl
    · rfl

/-- Slots leave fetch buffers only. -/
theorem State.dropSlots_rest (s : State) (c : Icinv) (d : Nat) : (s.dropSlots c d).rest = s.rest := by
  have e (U : Unit) : (if dieOf U.core == d && U.ctx == c.ctx then
      { U with groups := U.groups.map fun G => { G with fbuf := G.fbuf.filter fun y => !c.covers y.1 } } else U : Unit).noSlots =
      U.noSlots := by
    split
    · simp only [Unit.noSlots, List.map_map]; rfl
    · rfl
  simp only [State.dropSlots, State.rest, List.map_map]
  congr 1
  exact List.map_congr_left fun U _ => e U

theorem icinvEarlier_rest (h d : Nat) (cs : List Icinv) (s : State) : (icinvEarlier h d cs s).rest = s.rest := by
  induction cs generalizing s with
  | nil => rfl
  | cons c cs ih =>
    rw [icinvEarlier, ih]
    split
    · exact s.dropSlots_rest c d
    · rfl

theorem ownInvals_rest (h lo n : Nat) (ds : List Nat) (s : State) : (ownInvals h lo n ds s).rest = s.rest := by
  induction ds generalizing s with
  | nil => rfl
  | cons d ds ih =>
    rw [ownInvals, ih, State.backPkts_rest, State.dropCopies_rest, State.passPkts_rest, icinvEarlier_rest, dropEarlier_rest]

theorem State.ownRegion_rest (s : State) (pa : Nat) (r : Region) : (s.ownRegion pa r).rest = s.rest := by
  rw [State.ownRegion, ownInvals_rest]; rfl

theorem State.ownSharers_rest (s : State) (p : PeerEnt) : (s.ownSharers p).rest = s.rest := rfl

theorem State.ownRound_rest (s : State) (pa : Nat) : (s.ownRound pa).rest = s.rest := by
  have h := foldl_rest State.ownSharers State.ownSharers_rest
    (((s.regions.filter fun (r : Region) => r.covers pa && !r.present.isEmpty).foldl (fun t r => t.ownRegion pa r) s).peers.filter
      fun p => p.base == pa / 2048 * 2048)
    ((s.regions.filter fun (r : Region) => r.covers pa && !r.present.isEmpty).foldl (fun t r => t.ownRegion pa r) s)
  rw [foldl_rest _ fun t r => t.ownRegion_rest pa r] at h
  exact h

theorem State.ownRounds_rest (s : State) (pa n : Nat) : (s.ownRounds pa n).rest = s.rest := by
  unfold State.ownRounds; split
  · rfl
  · exact foldl_rest _ State.ownRound_rest _ s

theorem State.ownTouch_rest (s : State) (pa n : Nat) : (s.ownTouch pa n).rest = s.rest := by
  unfold State.ownTouch; split
  · exact s.touchSlice_rest _
  · exact foldl_rest _ (fun t m => t.touchSlice_rest _) _ s

theorem State.physWrite_rest (s : State) (pa : Nat) (bs : List Byte) :
    { (s.physWrite pa bs).rest with mem := [] } = { s.rest with mem := [] } := by
  rw [State.physWrite_eq]; rfl

/-- Stamping changed home lines. -/
theorem passLeases_rest (ls : List Line) (s : State) : (passLeases ls s).rest = s.rest := by
  induction ls generalizing s with
  | nil => rfl
  | cons l ls ih => rw [passLeases, ih]; rfl

/-- What a write of the device's own leaves alone. -/
theorem State.ownWrite_rest (s : State) (pa : Nat) (bs : List Byte) :
    { (s.ownWrite pa bs).rest with mem := [] } = { s.rest with mem := [] } := by
  rw [State.ownWrite, passLeases_rest, State.physWrite_rest, State.ownRounds_rest, State.ownTouch_rest]

@[simp] theorem State.ownWrite_clock (s : State) (pa : Nat) (bs : List Byte) : (s.ownWrite pa bs).clock = s.clock := (congrArg State.clock (s.ownWrite_rest pa bs) :)
@[simp] theorem State.ownWrite_agenda (s : State) (pa : Nat) (bs : List Byte) : (s.ownWrite pa bs).agenda = s.agenda := (congrArg State.agenda (s.ownWrite_rest pa bs) :)
@[simp] theorem State.ownWrite_cur (s : State) (pa : Nat) (bs : List Byte) : (s.ownWrite pa bs).cur = s.cur := (congrArg State.cur (s.ownWrite_rest pa bs) :)
@[simp] theorem State.ownWrite_nextId (s : State) (pa : Nat) (bs : List Byte) : (s.ownWrite pa bs).nextId = s.nextId := (congrArg State.nextId (s.ownWrite_rest pa bs) :)
@[simp] theorem State.ownWrite_freeCtr (s : State) (pa : Nat) (bs : List Byte) : (s.ownWrite pa bs).freeCtr = s.freeCtr := (congrArg State.freeCtr (s.ownWrite_rest pa bs) :)
@[simp] theorem State.ownWrite_lastIssue (s : State) (pa : Nat) (bs : List Byte) : (s.ownWrite pa bs).lastIssue = s.lastIssue := (congrArg State.lastIssue (s.ownWrite_rest pa bs) :)
@[simp] theorem State.ownWrite_turnOf (s : State) (pa : Nat) (bs : List Byte) : (s.ownWrite pa bs).turnOf = s.turnOf := (congrArg State.turnOf (s.ownWrite_rest pa bs) :)
@[simp] theorem State.ownWrite_queueTurn (s : State) (pa : Nat) (bs : List Byte) : (s.ownWrite pa bs).queueTurn = s.queueTurn := (congrArg State.queueTurn (s.ownWrite_rest pa bs) :)
@[simp] theorem State.ownWrite_uncorr (s : State) (pa : Nat) (bs : List Byte) : (s.ownWrite pa bs).uncorr = s.uncorr := (congrArg State.uncorr (s.ownWrite_rest pa bs) :)
@[simp] theorem State.ownWrite_promised (s : State) (pa : Nat) (bs : List Byte) : (s.ownWrite pa bs).promised = s.promised := (congrArg State.promised (s.ownWrite_rest pa bs) :)
@[simp] theorem State.ownWrite_launches (s : State) (pa : Nat) (bs : List Byte) : (s.ownWrite pa bs).launches = s.launches := (congrArg State.launches (s.ownWrite_rest pa bs) :)
@[simp] theorem State.ownWrite_levels (s : State) (pa : Nat) (bs : List Byte) : (s.ownWrite pa bs).levels = s.levels := (congrArg State.levels (s.ownWrite_rest pa bs) :)
@[simp] theorem State.ownWrite_swatches (s : State) (pa : Nat) (bs : List Byte) : (s.ownWrite pa bs).swatches = s.swatches := (congrArg State.swatches (s.ownWrite_rest pa bs) :)
@[simp] theorem State.ownWrite_queues (s : State) (pa : Nat) (bs : List Byte) : (s.ownWrite pa bs).queues = s.queues := (congrArg State.queues (s.ownWrite_rest pa bs) :)
@[simp] theorem State.ownWrite_copies (s : State) (pa : Nat) (bs : List Byte) : (s.ownWrite pa bs).copies = s.copies := (congrArg State.copies (s.ownWrite_rest pa bs) :)
@[simp] theorem State.ownWrite_deltas (s : State) (pa : Nat) (bs : List Byte) : (s.ownWrite pa bs).deltas = s.deltas := (congrArg State.deltas (s.ownWrite_rest pa bs) :)
@[simp] theorem State.ownWrite_tasks (s : State) (pa : Nat) (bs : List Byte) : (s.ownWrite pa bs).tasks = s.tasks := (congrArg State.tasks (s.ownWrite_rest pa bs) :)
@[simp] theorem State.ownWrite_engines (s : State) (pa : Nat) (bs : List Byte) : (s.ownWrite pa bs).engines = s.engines := (congrArg State.engines (s.ownWrite_rest pa bs) :)
@[simp] theorem State.ownWrite_rh (s : State) (pa : Nat) (bs : List Byte) : (s.ownWrite pa bs).rh = s.rh := (congrArg State.rh (s.ownWrite_rest pa bs) :)
@[simp] theorem State.ownWrite_paLocks (s : State) (pa : Nat) (bs : List Byte) : (s.ownWrite pa bs).paLocks = s.paLocks := (congrArg State.paLocks (s.ownWrite_rest pa bs) :)
@[simp] theorem State.ownWrite_lru (s : State) (pa : Nat) (bs : List Byte) : (s.ownWrite pa bs).lru = s.lru := (congrArg State.lru (s.ownWrite_rest pa bs) :)
@[simp] theorem State.ownWrite_tent (s : State) (pa : Nat) (bs : List Byte) : (s.ownWrite pa bs).tent = s.tent := (congrArg State.tent (s.ownWrite_rest pa bs) :)
@[simp] theorem State.ownWrite_l1 (s : State) (pa : Nat) (bs : List Byte) : (s.ownWrite pa bs).l1 = s.l1 := (congrArg State.l1 (s.ownWrite_rest pa bs) :)
@[simp] theorem State.ownWrite_tlb (s : State) (pa : Nat) (bs : List Byte) : (s.ownWrite pa bs).tlb = s.tlb := (congrArg State.tlb (s.ownWrite_rest pa bs) :)
@[simp] theorem State.ownWrite_loads (s : State) (pa : Nat) (bs : List Byte) : (s.ownWrite pa bs).loads = s.loads := (congrArg State.loads (s.ownWrite_rest pa bs) :)
@[simp] theorem State.ownWrite_stores (s : State) (pa : Nat) (bs : List Byte) : (s.ownWrite pa bs).stores = s.stores := (congrArg State.stores (s.ownWrite_rest pa bs) :)
@[simp] theorem State.ownWrite_reqs (s : State) (pa : Nat) (bs : List Byte) : (s.ownWrite pa bs).reqs = s.reqs := (congrArg State.reqs (s.ownWrite_rest pa bs) :)
@[simp] theorem State.ownWrite_monitors (s : State) (pa : Nat) (bs : List Byte) : (s.ownWrite pa bs).monitors = s.monitors := (congrArg State.monitors (s.ownWrite_rest pa bs) :)
@[simp] theorem State.ownWrite_scs (s : State) (pa : Nat) (bs : List Byte) : (s.ownWrite pa bs).scs = s.scs := (congrArg State.scs (s.ownWrite_rest pa bs) :)
@[simp] theorem State.ownWrite_goneTs (s : State) (pa : Nat) (bs : List Byte) : (s.ownWrite pa bs).goneTs = s.goneTs := (congrArg State.goneTs (s.ownWrite_rest pa bs) :)
@[simp] theorem State.ownWrite_mailOut (s : State) (pa : Nat) (bs : List Byte) : (s.ownWrite pa bs).mailOut = s.mailOut := (congrArg State.mailOut (s.ownWrite_rest pa bs) :)
@[simp] theorem State.ownWrite_tensors (s : State) (pa : Nat) (bs : List Byte) : (s.ownWrite pa bs).tensors = s.tensors := (congrArg State.tensors (s.ownWrite_rest pa bs) :)
@[simp] theorem State.ownWrite_ctxTmaps (s : State) (pa : Nat) (bs : List Byte) : (s.ownWrite pa bs).ctxTmaps = s.ctxTmaps := (congrArg State.ctxTmaps (s.ownWrite_rest pa bs) :)
@[simp] theorem State.ownWrite_posted (s : State) (pa : Nat) (bs : List Byte) : (s.ownWrite pa bs).posted = s.posted := (congrArg State.posted (s.ownWrite_rest pa bs) :)
@[simp] theorem State.ownWrite_seqs (s : State) (pa : Nat) (bs : List Byte) : (s.ownWrite pa bs).seqs = s.seqs := (congrArg State.seqs (s.ownWrite_rest pa bs) :)
@[simp] theorem State.ownWrite_shoots (s : State) (pa : Nat) (bs : List Byte) : (s.ownWrite pa bs).shoots = s.shoots := (congrArg State.shoots (s.ownWrite_rest pa bs) :)
@[simp] theorem State.ownWrite_migrations (s : State) (pa : Nat) (bs : List Byte) : (s.ownWrite pa bs).migrations = s.migrations := (congrArg State.migrations (s.ownWrite_rest pa bs) :)
@[simp] theorem State.ownWrite_moved (s : State) (pa : Nat) (bs : List Byte) : (s.ownWrite pa bs).moved = s.moved := (congrArg State.moved (s.ownWrite_rest pa bs) :)
@[simp] theorem State.ownWrite_sampler (s : State) (pa : Nat) (bs : List Byte) : (s.ownWrite pa bs).sampler = s.sampler := (congrArg State.sampler (s.ownWrite_rest pa bs) :)
@[simp] theorem State.ownWrite_decayAt (s : State) (pa : Nat) (bs : List Byte) : (s.ownWrite pa bs).decayAt = s.decayAt := (congrArg State.decayAt (s.ownWrite_rest pa bs) :)
@[simp] theorem State.ownWrite_tiers (s : State) (pa : Nat) (bs : List Byte) : (s.ownWrite pa bs).tiers = s.tiers := (congrArg State.tiers (s.ownWrite_rest pa bs) :)
@[simp] theorem State.ownWrite_events (s : State) (pa : Nat) (bs : List Byte) : (s.ownWrite pa bs).events = s.events := (congrArg State.events (s.ownWrite_rest pa bs) :)
@[simp] theorem State.ownWrite_evSeq (s : State) (pa : Nat) (bs : List Byte) : (s.ownWrite pa bs).evSeq = s.evSeq := (congrArg State.evSeq (s.ownWrite_rest pa bs) :)
@[simp] theorem State.ownWrite_failedFlows (s : State) (pa : Nat) (bs : List Byte) : (s.ownWrite pa bs).failedFlows = s.failedFlows := (congrArg State.failedFlows (s.ownWrite_rest pa bs) :)
@[simp] theorem State.ownWrite_failedDies (s : State) (pa : Nat) (bs : List Byte) : (s.ownWrite pa bs).failedDies = s.failedDies := (congrArg State.failedDies (s.ownWrite_rest pa bs) :)
@[simp] theorem State.ownWrite_disabledCores (s : State) (pa : Nat) (bs : List Byte) : (s.ownWrite pa bs).disabledCores = s.disabledCores := (congrArg State.disabledCores (s.ownWrite_rest pa bs) :)
@[simp] theorem State.ownWrite_disabledEngines (s : State) (pa : Nat) (bs : List Byte) : (s.ownWrite pa bs).disabledEngines = s.disabledEngines := (congrArg State.disabledEngines (s.ownWrite_rest pa bs) :)
@[simp] theorem State.ownWrite_retiredSlices (s : State) (pa : Nat) (bs : List Byte) : (s.ownWrite pa bs).retiredSlices = s.retiredSlices := (congrArg State.retiredSlices (s.ownWrite_rest pa bs) :)
@[simp] theorem State.ownWrite_transients (s : State) (pa : Nat) (bs : List Byte) : (s.ownWrite pa bs).transients = s.transients := (congrArg State.transients (s.ownWrite_rest pa bs) :)
@[simp] theorem State.ownWrite_owed (s : State) (pa : Nat) (bs : List Byte) : (s.ownWrite pa bs).owed = s.owed := (congrArg State.owed (s.ownWrite_rest pa bs) :)
@[simp] theorem State.ownWrite_dirtyAt (s : State) (pa : Nat) (bs : List Byte) : (s.ownWrite pa bs).dirtyAt = s.dirtyAt := (congrArg State.dirtyAt (s.ownWrite_rest pa bs) :)
@[simp] theorem State.ownWrite_regs (s : State) (pa : Nat) (bs : List Byte) : (s.ownWrite pa bs).regs = s.regs := (congrArg State.regs (s.ownWrite_rest pa bs) :)
@[simp] theorem State.ownWrite_fw (s : State) (pa : Nat) (bs : List Byte) : (s.ownWrite pa bs).fw = s.fw := (congrArg State.fw (s.ownWrite_rest pa bs) :)
@[simp] theorem State.ownWrite_fwFloor (s : State) (pa : Nat) (bs : List Byte) : (s.ownWrite pa bs).fwFloor = s.fwFloor := (congrArg State.fwFloor (s.ownWrite_rest pa bs) :)
@[simp] theorem State.ownWrite_fwRaises (s : State) (pa : Nat) (bs : List Byte) : (s.ownWrite pa bs).fwRaises = s.fwRaises := (congrArg State.fwRaises (s.ownWrite_rest pa bs) :)
@[simp] theorem State.ownWrite_cxl (s : State) (pa : Nat) (bs : List Byte) : (s.ownWrite pa bs).cxl = s.cxl := (congrArg State.cxl (s.ownWrite_rest pa bs) :)
/-- Units keep everything but slots they have fetched. -/
theorem State.ownWrite_units (s : State) (pa : Nat) (bs : List Byte) :
    (s.ownWrite pa bs).units.map Unit.noSlots = s.units.map Unit.noSlots := (congrArg State.units (s.ownWrite_rest pa bs) :)

@[simp] theorem State.ownPut_clock (s : State) (pa n x : Nat) : (s.ownPut pa n x).clock = s.clock := s.ownWrite_clock pa _
@[simp] theorem State.ownPut_agenda (s : State) (pa n x : Nat) : (s.ownPut pa n x).agenda = s.agenda := s.ownWrite_agenda pa _
@[simp] theorem State.ownPut_cur (s : State) (pa n x : Nat) : (s.ownPut pa n x).cur = s.cur := s.ownWrite_cur pa _
@[simp] theorem State.ownPut_nextId (s : State) (pa n x : Nat) : (s.ownPut pa n x).nextId = s.nextId := s.ownWrite_nextId pa _
@[simp] theorem State.ownPut_freeCtr (s : State) (pa n x : Nat) : (s.ownPut pa n x).freeCtr = s.freeCtr := s.ownWrite_freeCtr pa _
@[simp] theorem State.ownPut_lastIssue (s : State) (pa n x : Nat) : (s.ownPut pa n x).lastIssue = s.lastIssue := s.ownWrite_lastIssue pa _
@[simp] theorem State.ownPut_turnOf (s : State) (pa n x : Nat) : (s.ownPut pa n x).turnOf = s.turnOf := s.ownWrite_turnOf pa _
@[simp] theorem State.ownPut_queueTurn (s : State) (pa n x : Nat) : (s.ownPut pa n x).queueTurn = s.queueTurn := s.ownWrite_queueTurn pa _
@[simp] theorem State.ownPut_uncorr (s : State) (pa n x : Nat) : (s.ownPut pa n x).uncorr = s.uncorr := s.ownWrite_uncorr pa _
@[simp] theorem State.ownPut_promised (s : State) (pa n x : Nat) : (s.ownPut pa n x).promised = s.promised := s.ownWrite_promised pa _
@[simp] theorem State.ownPut_launches (s : State) (pa n x : Nat) : (s.ownPut pa n x).launches = s.launches := s.ownWrite_launches pa _
@[simp] theorem State.ownPut_levels (s : State) (pa n x : Nat) : (s.ownPut pa n x).levels = s.levels := s.ownWrite_levels pa _
@[simp] theorem State.ownPut_swatches (s : State) (pa n x : Nat) : (s.ownPut pa n x).swatches = s.swatches := s.ownWrite_swatches pa _
@[simp] theorem State.ownPut_queues (s : State) (pa n x : Nat) : (s.ownPut pa n x).queues = s.queues := s.ownWrite_queues pa _
@[simp] theorem State.ownPut_copies (s : State) (pa n x : Nat) : (s.ownPut pa n x).copies = s.copies := s.ownWrite_copies pa _
@[simp] theorem State.ownPut_deltas (s : State) (pa n x : Nat) : (s.ownPut pa n x).deltas = s.deltas := s.ownWrite_deltas pa _
@[simp] theorem State.ownPut_tasks (s : State) (pa n x : Nat) : (s.ownPut pa n x).tasks = s.tasks := s.ownWrite_tasks pa _
@[simp] theorem State.ownPut_engines (s : State) (pa n x : Nat) : (s.ownPut pa n x).engines = s.engines := s.ownWrite_engines pa _
@[simp] theorem State.ownPut_rh (s : State) (pa n x : Nat) : (s.ownPut pa n x).rh = s.rh := s.ownWrite_rh pa _
@[simp] theorem State.ownPut_paLocks (s : State) (pa n x : Nat) : (s.ownPut pa n x).paLocks = s.paLocks := s.ownWrite_paLocks pa _
@[simp] theorem State.ownPut_lru (s : State) (pa n x : Nat) : (s.ownPut pa n x).lru = s.lru := s.ownWrite_lru pa _
@[simp] theorem State.ownPut_tent (s : State) (pa n x : Nat) : (s.ownPut pa n x).tent = s.tent := s.ownWrite_tent pa _
@[simp] theorem State.ownPut_l1 (s : State) (pa n x : Nat) : (s.ownPut pa n x).l1 = s.l1 := s.ownWrite_l1 pa _
@[simp] theorem State.ownPut_tlb (s : State) (pa n x : Nat) : (s.ownPut pa n x).tlb = s.tlb := s.ownWrite_tlb pa _
@[simp] theorem State.ownPut_loads (s : State) (pa n x : Nat) : (s.ownPut pa n x).loads = s.loads := s.ownWrite_loads pa _
@[simp] theorem State.ownPut_stores (s : State) (pa n x : Nat) : (s.ownPut pa n x).stores = s.stores := s.ownWrite_stores pa _
@[simp] theorem State.ownPut_reqs (s : State) (pa n x : Nat) : (s.ownPut pa n x).reqs = s.reqs := s.ownWrite_reqs pa _
@[simp] theorem State.ownPut_monitors (s : State) (pa n x : Nat) : (s.ownPut pa n x).monitors = s.monitors := s.ownWrite_monitors pa _
@[simp] theorem State.ownPut_scs (s : State) (pa n x : Nat) : (s.ownPut pa n x).scs = s.scs := s.ownWrite_scs pa _
@[simp] theorem State.ownPut_goneTs (s : State) (pa n x : Nat) : (s.ownPut pa n x).goneTs = s.goneTs := s.ownWrite_goneTs pa _
@[simp] theorem State.ownPut_mailOut (s : State) (pa n x : Nat) : (s.ownPut pa n x).mailOut = s.mailOut := s.ownWrite_mailOut pa _
@[simp] theorem State.ownPut_tensors (s : State) (pa n x : Nat) : (s.ownPut pa n x).tensors = s.tensors := s.ownWrite_tensors pa _
@[simp] theorem State.ownPut_ctxTmaps (s : State) (pa n x : Nat) : (s.ownPut pa n x).ctxTmaps = s.ctxTmaps := s.ownWrite_ctxTmaps pa _
@[simp] theorem State.ownPut_posted (s : State) (pa n x : Nat) : (s.ownPut pa n x).posted = s.posted := s.ownWrite_posted pa _
@[simp] theorem State.ownPut_seqs (s : State) (pa n x : Nat) : (s.ownPut pa n x).seqs = s.seqs := s.ownWrite_seqs pa _
@[simp] theorem State.ownPut_shoots (s : State) (pa n x : Nat) : (s.ownPut pa n x).shoots = s.shoots := s.ownWrite_shoots pa _
@[simp] theorem State.ownPut_migrations (s : State) (pa n x : Nat) : (s.ownPut pa n x).migrations = s.migrations := s.ownWrite_migrations pa _
@[simp] theorem State.ownPut_moved (s : State) (pa n x : Nat) : (s.ownPut pa n x).moved = s.moved := s.ownWrite_moved pa _
@[simp] theorem State.ownPut_sampler (s : State) (pa n x : Nat) : (s.ownPut pa n x).sampler = s.sampler := s.ownWrite_sampler pa _
@[simp] theorem State.ownPut_decayAt (s : State) (pa n x : Nat) : (s.ownPut pa n x).decayAt = s.decayAt := s.ownWrite_decayAt pa _
@[simp] theorem State.ownPut_tiers (s : State) (pa n x : Nat) : (s.ownPut pa n x).tiers = s.tiers := s.ownWrite_tiers pa _
@[simp] theorem State.ownPut_events (s : State) (pa n x : Nat) : (s.ownPut pa n x).events = s.events := s.ownWrite_events pa _
@[simp] theorem State.ownPut_evSeq (s : State) (pa n x : Nat) : (s.ownPut pa n x).evSeq = s.evSeq := s.ownWrite_evSeq pa _
@[simp] theorem State.ownPut_failedFlows (s : State) (pa n x : Nat) : (s.ownPut pa n x).failedFlows = s.failedFlows := s.ownWrite_failedFlows pa _
@[simp] theorem State.ownPut_failedDies (s : State) (pa n x : Nat) : (s.ownPut pa n x).failedDies = s.failedDies := s.ownWrite_failedDies pa _
@[simp] theorem State.ownPut_disabledCores (s : State) (pa n x : Nat) : (s.ownPut pa n x).disabledCores = s.disabledCores := s.ownWrite_disabledCores pa _
@[simp] theorem State.ownPut_disabledEngines (s : State) (pa n x : Nat) : (s.ownPut pa n x).disabledEngines = s.disabledEngines := s.ownWrite_disabledEngines pa _
@[simp] theorem State.ownPut_retiredSlices (s : State) (pa n x : Nat) : (s.ownPut pa n x).retiredSlices = s.retiredSlices := s.ownWrite_retiredSlices pa _
@[simp] theorem State.ownPut_transients (s : State) (pa n x : Nat) : (s.ownPut pa n x).transients = s.transients := s.ownWrite_transients pa _
@[simp] theorem State.ownPut_owed (s : State) (pa n x : Nat) : (s.ownPut pa n x).owed = s.owed := s.ownWrite_owed pa _
@[simp] theorem State.ownPut_dirtyAt (s : State) (pa n x : Nat) : (s.ownPut pa n x).dirtyAt = s.dirtyAt := s.ownWrite_dirtyAt pa _
@[simp] theorem State.ownPut_regs (s : State) (pa n x : Nat) : (s.ownPut pa n x).regs = s.regs := s.ownWrite_regs pa _
@[simp] theorem State.ownPut_fw (s : State) (pa n x : Nat) : (s.ownPut pa n x).fw = s.fw := s.ownWrite_fw pa _
@[simp] theorem State.ownPut_fwFloor (s : State) (pa n x : Nat) : (s.ownPut pa n x).fwFloor = s.fwFloor := s.ownWrite_fwFloor pa _
@[simp] theorem State.ownPut_fwRaises (s : State) (pa n x : Nat) : (s.ownPut pa n x).fwRaises = s.fwRaises := s.ownWrite_fwRaises pa _
@[simp] theorem State.ownPut_cxl (s : State) (pa n x : Nat) : (s.ownPut pa n x).cxl = s.cxl := s.ownWrite_cxl pa _

/-! ### Reading back a changed part -/

theorem updAt_length {α : Type} (xs : List α) (k : Nat) (f : α → α) : (updAt xs k f).length = xs.length := by
  induction xs generalizing k with
  | nil => rfl
  | cons x xs ih => cases k with
    | zero => rfl
    | succ k => exact congrArg (· + 1) (ih k)

theorem updAt_getElem? {α : Type} (xs : List α) (k : Nat) (f : α → α) (j : Nat) :
    (updAt xs k f)[j]? = if j = k then xs[j]?.map f else xs[j]? := by
  induction xs generalizing k j with
  | nil => simp [updAt]
  | cons x xs ih =>
    cases k with
    | zero => cases j <;> simp [updAt]
    | succ k => cases j with
      | zero => simp [updAt]
      | succ j => simp [updAt, ih]

theorem updAt_congr {α : Type} (xs : List α) (k : Nat) (f g : α → α) (h : ∀ x, xs[k]? = some x → f x = g x) :
    updAt xs k f = updAt xs k g := by
  induction xs generalizing k with
  | nil => rfl
  | cons x xs ih =>
    cases k with
    | zero => simp [updAt, h x rfl]
    | succ k => simp [updAt, ih k (fun y hy => h y (by simpa using hy))]

theorem updAt_updAt {α : Type} (xs : List α) (k : Nat) (f g : α → α) : updAt (updAt xs k f) k g = updAt xs k (g ∘ f) := by
  induction xs generalizing k with
  | nil => rfl
  | cons x xs ih => cases k with
    | zero => rfl
    | succ k => exact congrArg (x :: ·) (ih k)

/-- A unit after a change. -/
theorem State.modUnit_getElem? (s : State) (u : Nat) (f : Unit → Unit) (v : Nat) :
    (s.modUnit u f).units[v]? = if v = u then s.units[v]?.map f else s.units[v]? := updAt_getElem? ..

theorem State.modUnit_modUnit (s : State) (u : Nat) (f g : Unit → Unit) : (s.modUnit u f).modUnit u g = s.modUnit u (g ∘ f) := by
  simp only [State.modUnit, updAt_updAt]

theorem State.modGroup_modGroup (s : State) (u g : Nat) (f h : Group → Group) :
    (s.modGroup u g f).modGroup u g h = s.modGroup u g (h ∘ f) := by
  simp only [State.modGroup, State.modUnit_modUnit]
  congr 1; funext U; simp only [Function.comp, updAt_updAt]

/-- The unit of a group that is there. -/
theorem State.group?_unit {s : State} {u g : Nat} {U : Unit} {G : Group} (h : s.group? u g = some (U, G)) :
    s.units[u]? = some U ∧ U.groups[g]? = some G := by
  unfold State.group? at h
  split at h
  · simp at h
  · next V hV =>
    split at h
    · simp at h
    · next H hH => simp only [Option.some.injEq, Prod.mk.injEq] at h; exact ⟨by rw [hV, h.1], by rw [← h.1, hH, h.2]⟩

/-- A group after a change to it, and the unit it then stands in. -/
theorem State.modGroup_group?_same {s : State} {u g : Nat} {U : Unit} {G : Group} (f : Group → Group)
    (h : s.group? u g = some (U, G)) :
    (s.modGroup u g f).group? u g = some ({ U with groups := updAt U.groups g f }, f G) := by
  obtain ⟨h1, h2⟩ := State.group?_unit h
  simp [State.group?, State.modGroup, State.modUnit_getElem?, h1, updAt_getElem?, h2]

/-- Another unit's group after a change. -/
theorem State.modGroup_group?_unit {s : State} {u v g k : Nat} (f : Group → Group) (h : v ≠ u) :
    (s.modGroup u g f).group? v k = s.group? v k := by
  simp [State.group?, State.modGroup, State.modUnit_getElem?, h]

/-- Another group of the unit after a change. -/
theorem State.modGroup_group?_ne {s : State} {u g k : Nat} {U : Unit} {G : Group} (f : Group → Group) (h : k ≠ g)
    (hk : s.group? u k = some (U, G)) :
    (s.modGroup u g f).group? u k = some ({ U with groups := updAt U.groups g f }, G) := by
  obtain ⟨h1, h2⟩ := State.group?_unit hk
  simp [State.group?, State.modGroup, State.modUnit_getElem?, h1, updAt_getElem?, h2, h]

end Sys2Proof.Machine
end

