-- ==== Sys2Proof/Laws/Memory.lean ====
section
/-! SUPPORT. Laws of memory: every operation that writes memory keeps its canonical form, reset has it, and a byte written reads
back. -/

namespace Sys2Proof.Machine

/-! ### The canonical form (log entry 6) -/

theorem memWf_reset : memWf State.reset.mem = true := rfl

theorem memWf_spSet {m : List Host.Cell} (k : Nat) (b : Byte) (h : memWf m = true) : memWf (spSet 0 m k b) = true := spOk_spSet k b h

theorem memWf_filter {m : List Host.Cell} (p : Host.Cell → Bool) (h : memWf m = true) : memWf (m.filter p) = true := spOk_filter p h

theorem memWf_physPut {s : State} (pa : Nat) (b : Byte) (h : memWf s.mem = true) : memWf (s.physPut pa b).mem = true := by
  unfold State.physPut
  split
  · exact h
  · exact memWf_spSet _ _ h

theorem memWf_physWrite {s : State} (pa : Nat) (bs : List Byte) (h : memWf s.mem = true) : memWf (s.physWrite pa bs).mem = true := by
  induction bs generalizing s pa with
  | nil => exact h
  | cons b bs ih => exact ih (pa + 1) (memWf_physPut pa b h)

theorem memWf_physPutNat {s : State} (pa n x : Nat) (h : memWf s.mem = true) : memWf (s.physPutNat pa n x).mem = true :=
  memWf_physWrite pa _ h

@[simp] theorem State.ownRounds_mem (s : State) (pa n : Nat) : (s.ownRounds pa n).mem = s.mem := by
  exact (congrArg State.mem (s.ownRounds_rest pa n) :)

@[simp] theorem State.ownTouch_mem (s : State) (pa n : Nat) : (s.ownTouch pa n).mem = s.mem := (congrArg State.mem (s.ownTouch_rest pa n) :)

@[simp] theorem passLeases_mem (ls : List Line) (s : State) : (passLeases ls s).mem = s.mem :=
  (congrArg State.mem (passLeases_rest ls s) :)

theorem memWf_ownWrite {s : State} (pa : Nat) (bs : List Byte) (h : memWf s.mem = true) : memWf (s.ownWrite pa bs).mem = true := by
  rw [State.ownWrite, passLeases_mem]
  exact memWf_physWrite pa bs (by rwa [State.ownRounds_mem, State.ownTouch_mem])

theorem memWf_ownPut {s : State} (pa n x : Nat) (h : memWf s.mem = true) : memWf (s.ownPut pa n x).mem = true :=
  memWf_ownWrite pa _ h

theorem memWf_writeDirty {s : State} {m : List Host.Cell} (l : Line) (os : List Nat) (h : memWf m = true) :
    memWf (s.writeDirty l os m) = true := by
  induction os generalizing m with
  | nil => exact h
  | cons o os ih =>
    apply ih
    split
    · exact memWf_spSet _ _ h
    · exact h

theorem memWf_dirtyHome {s : State} {m : List Host.Cell} (ls : List Line) (h : memWf m = true) : memWf (s.dirtyHome ls m) = true := by
  induction ls generalizing m with
  | nil => exact h
  | cons l ls ih =>
    apply ih
    split
    · exact h
    · exact memWf_writeDirty _ _ h

@[simp] theorem State.linkPkt_mem (s : State) (die pa cls : Nat) : (s.linkPkt die pa cls).mem = s.mem := by
  unfold State.linkPkt
  split <;> rfl

theorem memWf_writeBack {s : State} (k : Key) (h : memWf s.mem = true) : memWf (s.writeBack k).mem = true := by
  unfold State.writeBack
  split
  · exact h
  · dsimp only
    split
    · split_ifs
      · exact memWf_writeDirty _ _ h
      · rw [State.linkPkt_mem]; exact memWf_writeDirty _ _ h
    · exact memWf_writeDirty _ _ h

theorem memWf_zeroRange {s : State} (pa n : Nat) (h : memWf s.mem = true) : memWf (s.zeroRange pa n).mem = true := by
  rw [State.zeroRange, passLeases_mem]
  exact memWf_filter _ h

theorem memWf_copyFrame {m : List Host.Cell} (old new n : Nat) (h : memWf m = true) : memWf (copyFrame old new n m) = true := by
  unfold copyFrame
  generalize m.filter (fun c => decide (old ≤ c.1 ∧ c.1 < old + n)) = xs
  have h0 := memWf_filter (fun c => !decide (new ≤ c.1 ∧ c.1 < new + n)) h
  revert h0
  generalize m.filter (fun c => !decide (new ≤ c.1 ∧ c.1 < new + n)) = m0
  intro h0
  induction xs generalizing m0 with
  | nil => exact h0
  | cons x xs ih => exact ih _ (memWf_spSet _ _ h0)

theorem memWf_putLeaves {s : State} (ps : List Nat) (pa : Nat) (h : memWf s.mem = true) : memWf (putLeaves ps pa s).mem = true := by
  induction ps generalizing s pa with
  | nil => exact h
  | cons p ps ih => exact ih _ (memWf_ownPut _ _ _ h)

theorem memWf_restart {s : State} (h : memWf s.mem = true) : memWf s.restart.mem = true := memWf_dirtyHome _ h

/-! ### Lines and writes at the home (R299, R301, R329, R439) -/

theorem memWf_memPut {s : State} {m : List Host.Cell} (xs : LineBytes) (h : memWf m = true) : memWf (s.memPut xs m) = true := by
  induction xs generalizing m with
  | nil => exact h
  | cons x xs ih => exact ih (memWf_spSet _ _ h)

theorem memWf_dropLine {s : State} (k : Key) (h : memWf s.mem = true) : memWf (s.dropLine k).mem = true := by
  unfold State.dropLine
  split <;> exact h

theorem memWf_replaceLine {s : State} (l : Line) (h : memWf s.mem = true) : memWf (s.replaceLine l).mem = true := by
  unfold State.replaceLine
  split
  · exact h
  · exact memWf_dropLine _ (memWf_writeBack _ h)

theorem memWf_makeRoom {s t : State} {sl st : Nat} (hr : s.makeRoom sl st = some t) (h : memWf s.mem = true) : memWf t.mem = true := by
  unfold State.makeRoom at hr
  split at hr
  · simp only [Option.some.injEq] at hr; exact hr ▸ h
  · obtain ⟨l, _, hl⟩ := Option.map_eq_some_iff.mp hr
    exact hl ▸ memWf_replaceLine l h

theorem memWf_touchSlice {s : State} (sl : Nat) (h : memWf s.mem = true) : memWf (s.touchSlice sl).mem = true := by
  unfold State.touchSlice
  simp only
  split
  · exact h
  · split <;> exact h

@[simp] theorem State.newLine_mem (s : State) (k : Key) (hint : Option (Nat × Nat)) : (s.newLine k hint).1.mem = s.mem := by
  unfold State.newLine
  simp only
  split
  · rfl
  · rw [State.linkPkt_mem]; rfl

theorem memWf_fill {s : State} (k : Key) (hint : Option (Nat × Nat)) (h : memWf s.mem = true) :
    memWf (s.fill k hint).1.mem = true := by
  have h0 : memWf (s.touchSlice (s.homeOf k)).mem = true := memWf_touchSlice _ h
  unfold State.fill
  simp only
  split
  · exact h0
  · split
    · rw [State.newLine_mem]; exact h0
    · next s1 hr =>
      show memWf ((s1.newLine k hint).1).mem = true
      rw [State.newLine_mem]
      exact memWf_makeRoom hr h0

@[simp] theorem State.putLine_mem (s : State) (l : Line) : (s.putLine l).mem = s.mem := rfl
@[simp] theorem State.farWrite_mem (s : State) (l : Line) (home : Nat) : (s.farWrite l home).1.mem = s.mem := rfl
@[simp] theorem State.ownProxy_mem (s : State) (k : Key) (die : Nat) (xs : LineBytes) : (s.ownProxy k die xs).1.mem = s.mem := rfl

/-- Bytes passed on to memory keep the canonical form. -/
theorem memWf_passOn {s : State} (home pa w : Nat) (kept : Bool) (xs : LineBytes) (h : memWf s.mem = true) :
    memWf (s.passOn home pa w kept xs).mem = true := by
  have h1 : memWf (({ s with mem := s.memPut xs s.mem } : State).linkPkt home pa 1).mem = true := by
    rw [State.linkPkt_mem]; exact memWf_memPut xs h
  unfold State.passOn
  simp only
  split
  · exact h1
  · exact h1

/-- A write of one line, performed at its home, keeps the canonical form. -/
theorem memWf_lineWrite {s : State} (die tc floor : Nat) (k : Key) (xs : LineBytes) (h : memWf s.mem = true) :
    memWf (s.lineWrite die tc floor k xs).1.mem = true := by
  unfold State.lineWrite
  split
  · exact h
  · next x r =>
    have h1 := memWf_fill k (some (x.1, x.2.1)) h
    revert h1
    generalize s.fill k (some (x.1, x.2.1)) = q
    intro h1
    simp only
    split_ifs <;> simp only [State.putLine_mem, State.ownProxy_mem, State.farWrite_mem] <;>
      first | exact h1 | exact memWf_passOn _ _ _ _ _ h1

theorem memWf_linesWrite {s : State} (die tc floor ctx : Nat) (xs : VaBytes) (ks : List Key) (h : memWf s.mem = true) :
    memWf (linesWrite die tc floor ctx xs ks s).1.mem = true := by
  induction ks generalizing s with
  | nil => exact h
  | cons k ks ih => exact ih (memWf_lineWrite _ _ _ _ _ h)

theorem memWf_plainWrite {s : State} (xs : VaBytes) (h : memWf s.mem = true) : memWf (s.plainWrite xs).mem = true := by
  induction xs generalizing s with
  | nil => exact h
  | cons x xs ih => exact ih (memWf_physPut _ _ h)

/-- A write of one access at its homes keeps the canonical form. -/
theorem memWf_writeList {s : State} (die ctx tc floor : Nat) (xs : VaBytes) (h : memWf s.mem = true) :
    memWf (s.writeList die ctx tc floor xs).1.mem = true :=
  memWf_plainWrite _ (memWf_linesWrite _ _ _ _ _ _ h)

/-! ### Reading a written byte (R297) -/

/-- A byte that no line holds reads from memory. -/
theorem State.physByte_of_noLine {s : State} {pa : Nat} (h : homeLineAt s.lines (pa % paMod) = none) :
    s.physByte pa = spGet 0 s.mem (s.memAt pa) := by simp [State.physByte, h]

/-- A write of a byte that no line holds goes to memory alone. -/
theorem State.physPut_of_noLine {s : State} {pa : Nat} (b : Byte) (h : homeLineAt s.lines (pa % paMod) = none) :
    s.physPut pa b = { s with mem := spSet 0 s.mem (s.memAt pa) b } := by simp [State.physPut, h]

/-- A written byte that no line holds reads back. -/
theorem State.physByte_physPut_same {s : State} {pa : Nat} (b : Byte) (hm : memWf s.mem = true)
    (h : homeLineAt s.lines (pa % paMod) = none) : (s.physPut pa b).physByte pa = b := by
  rw [State.physPut_of_noLine b h, State.physByte_of_noLine (by exact h)]
  exact spGet_spSet_same hm

/-- A write of a byte that no line holds leaves every byte kept elsewhere. -/
theorem State.physByte_physPut_ne {s : State} {pa a : Nat} (b : Byte) (hm : memWf s.mem = true)
    (h : homeLineAt s.lines (pa % paMod) = none) (e : s.memAt a ≠ s.memAt pa) : (s.physPut pa b).physByte a = s.physByte a := by
  rw [State.physPut_of_noLine b h]
  unfold State.physByte
  simp only [show ∀ m, ({ s with mem := m } : State).memAt a = s.memAt a from fun _ => rfl, spGet_spSet_ne hm e]

/-- A machine without lines reads memory. -/
theorem State.physByte_of_noLines {s : State} (h : s.lines = []) (pa : Nat) : s.physByte pa = spGet 0 s.mem (s.memAt pa) :=
  State.physByte_of_noLine (by rw [h]; rfl)

/-! ### Where memory keeps a byte (R444, R450) -/

/-- Outside the pool an address is its own place. -/
theorem State.memAt_of_lt {s : State} {pa : Nat} (h : pa < 0x2000000000000) : s.memAt pa = pa := by
  have e : pa % paMod = pa := Nat.mod_eq_of_lt (by unfold paMod; omega)
  simp [State.memAt, e, h]

/-! ### Homes (R300, R482) -/

theorem FwImage.slice_lt (f : FwImage) (n : Nat) : f.slice n < Config.slices := by
  simp only [FwImage.slice]
  split
  · exact Nat.mod_lt _ (by decide)
  · simp only [List.getD_eq_getElem?_getD]
    generalize hl : (List.range Config.slices).filter (fun i => !f.out.contains i) = l
    cases h : l[n % l.length]? with
    | none => decide
    | some v =>
      have hv := List.mem_of_getElem? h
      rw [← hl] at hv
      exact List.mem_range.mp (List.mem_filter.mp hv).1

theorem State.homeOf_lt (s : State) (k : Key) : s.homeOf k < Config.slices := by
  simp only [State.homeOf]
  split
  · decide
  · exact FwImage.slice_lt _ _

end Sys2Proof.Machine
end

