-- ==== Sys2Proof/Laws/PerInstr.lean ====
section
/-! SUPPORT. The one form each instruction has: a 96-bit word, a queue-program word, a packet, or an event. -/

namespace Sys2Proof

/-- How many of the four forms an instruction has. -/
def Instr.forms (i : Instr) : Nat :=
  i.raw.isSome.toNat + (encodeQ i).isSome.toNat + (encodePacket i).isSome.toNat + (Machine.isEvent i).toNat

end Sys2Proof

namespace Sys2Proof.Laws.OneForm

/-- An instruction has one form, and an event is one that has no encoding. -/
def Statement (i : Instr) : Prop := i.forms = 1

end Sys2Proof.Laws.OneForm


theorem Sys2Proof.Laws.OneForm.add (x0 : _) (x1 : _) (x2 : _) : Sys2Proof.Laws.OneForm.Statement (.add x0 x1 x2) := rfl
theorem Sys2Proof.Laws.OneForm.sub (x0 : _) (x1 : _) (x2 : _) : Sys2Proof.Laws.OneForm.Statement (.sub x0 x1 x2) := rfl
theorem Sys2Proof.Laws.OneForm.mul (x0 : _) (x1 : _) (x2 : _) : Sys2Proof.Laws.OneForm.Statement (.mul x0 x1 x2) := rfl
theorem Sys2Proof.Laws.OneForm.mulh (x0 : _) (x1 : _) (x2 : _) : Sys2Proof.Laws.OneForm.Statement (.mulh x0 x1 x2) := rfl
theorem Sys2Proof.Laws.OneForm.mad (x0 : _) (x1 : _) (x2 : _) : Sys2Proof.Laws.OneForm.Statement (.mad x0 x1 x2) := rfl
theorem Sys2Proof.Laws.OneForm.madw (x0 : _) (x1 : _) (x2 : _) : Sys2Proof.Laws.OneForm.Statement (.madw x0 x1 x2) := rfl
theorem Sys2Proof.Laws.OneForm.div (x0 : _) (x1 : _) (x2 : _) : Sys2Proof.Laws.OneForm.Statement (.div x0 x1 x2) := rfl
theorem Sys2Proof.Laws.OneForm.rem (x0 : _) (x1 : _) (x2 : _) : Sys2Proof.Laws.OneForm.Statement (.rem x0 x1 x2) := rfl
theorem Sys2Proof.Laws.OneForm.abs (x0 : _) (x1 : _) (x2 : _) : Sys2Proof.Laws.OneForm.Statement (.abs x0 x1 x2) := rfl
theorem Sys2Proof.Laws.OneForm.neg (x0 : _) (x1 : _) (x2 : _) : Sys2Proof.Laws.OneForm.Statement (.neg x0 x1 x2) := rfl
theorem Sys2Proof.Laws.OneForm.min (x0 : _) (x1 : _) (x2 : _) : Sys2Proof.Laws.OneForm.Statement (.min x0 x1 x2) := rfl
theorem Sys2Proof.Laws.OneForm.max (x0 : _) (x1 : _) (x2 : _) : Sys2Proof.Laws.OneForm.Statement (.max x0 x1 x2) := rfl
theorem Sys2Proof.Laws.OneForm.and (x0 : _) (x1 : _) (x2 : _) : Sys2Proof.Laws.OneForm.Statement (.and x0 x1 x2) := rfl
theorem Sys2Proof.Laws.OneForm.or (x0 : _) (x1 : _) (x2 : _) : Sys2Proof.Laws.OneForm.Statement (.or x0 x1 x2) := rfl
theorem Sys2Proof.Laws.OneForm.xor (x0 : _) (x1 : _) (x2 : _) : Sys2Proof.Laws.OneForm.Statement (.xor x0 x1 x2) := rfl
theorem Sys2Proof.Laws.OneForm.not (x0 : _) (x1 : _) (x2 : _) : Sys2Proof.Laws.OneForm.Statement (.not x0 x1 x2) := rfl
theorem Sys2Proof.Laws.OneForm.shl (x0 : _) (x1 : _) (x2 : _) : Sys2Proof.Laws.OneForm.Statement (.shl x0 x1 x2) := rfl
theorem Sys2Proof.Laws.OneForm.shr (x0 : _) (x1 : _) (x2 : _) : Sys2Proof.Laws.OneForm.Statement (.shr x0 x1 x2) := rfl
theorem Sys2Proof.Laws.OneForm.sar (x0 : _) (x1 : _) (x2 : _) : Sys2Proof.Laws.OneForm.Statement (.sar x0 x1 x2) := rfl
theorem Sys2Proof.Laws.OneForm.rot (x0 : _) (x1 : _) (x2 : _) : Sys2Proof.Laws.OneForm.Statement (.rot x0 x1 x2) := rfl
theorem Sys2Proof.Laws.OneForm.bfx (x0 : _) (x1 : _) (x2 : _) : Sys2Proof.Laws.OneForm.Statement (.bfx x0 x1 x2) := rfl
theorem Sys2Proof.Laws.OneForm.bfi (x0 : _) (x1 : _) (x2 : _) : Sys2Proof.Laws.OneForm.Statement (.bfi x0 x1 x2) := rfl
theorem Sys2Proof.Laws.OneForm.popc (x0 : _) (x1 : _) (x2 : _) : Sys2Proof.Laws.OneForm.Statement (.popc x0 x1 x2) := rfl
theorem Sys2Proof.Laws.OneForm.clz (x0 : _) (x1 : _) (x2 : _) : Sys2Proof.Laws.OneForm.Statement (.clz x0 x1 x2) := rfl
theorem Sys2Proof.Laws.OneForm.brev (x0 : _) (x1 : _) (x2 : _) : Sys2Proof.Laws.OneForm.Statement (.brev x0 x1 x2) := rfl
theorem Sys2Proof.Laws.OneForm.blut (x0 : _) (x1 : _) (x2 : _) : Sys2Proof.Laws.OneForm.Statement (.blut x0 x1 x2) := rfl
theorem Sys2Proof.Laws.OneForm.sel (x0 : _) (x1 : _) (x2 : _) : Sys2Proof.Laws.OneForm.Statement (.sel x0 x1 x2) := rfl
theorem Sys2Proof.Laws.OneForm.mov (x0 : _) (x1 : _) (x2 : _) : Sys2Proof.Laws.OneForm.Statement (.mov x0 x1 x2) := rfl
theorem Sys2Proof.Laws.OneForm.movi (x0 : _) (x1 : _) (x2 : _) : Sys2Proof.Laws.OneForm.Statement (.movi x0 x1 x2) := rfl
theorem Sys2Proof.Laws.OneForm.bperm (x0 : _) (x1 : _) (x2 : _) : Sys2Proof.Laws.OneForm.Statement (.bperm x0 x1 x2) := rfl
theorem Sys2Proof.Laws.OneForm.addc (x0 : _) (x1 : _) (x2 : _) : Sys2Proof.Laws.OneForm.Statement (.addc x0 x1 x2) := rfl
theorem Sys2Proof.Laws.OneForm.subb (x0 : _) (x1 : _) (x2 : _) : Sys2Proof.Laws.OneForm.Statement (.subb x0 x1 x2) := rfl
theorem Sys2Proof.Laws.OneForm.aadd (x0 : _) (x1 : _) (x2 : _) : Sys2Proof.Laws.OneForm.Statement (.aadd x0 x1 x2) := rfl
theorem Sys2Proof.Laws.OneForm.amad (x0 : _) (x1 : _) (x2 : _) : Sys2Proof.Laws.OneForm.Statement (.amad x0 x1 x2) := rfl
theorem Sys2Proof.Laws.OneForm.amov (x0 : _) (x1 : _) (x2 : _) : Sys2Proof.Laws.OneForm.Statement (.amov x0 x1 x2) := rfl
theorem Sys2Proof.Laws.OneForm.aget (x0 : _) (x1 : _) (x2 : _) : Sys2Proof.Laws.OneForm.Statement (.aget x0 x1 x2) := rfl
theorem Sys2Proof.Laws.OneForm.lea (x0 : _) (x1 : _) (x2 : _) : Sys2Proof.Laws.OneForm.Statement (.lea x0 x1 x2) := rfl
theorem Sys2Proof.Laws.OneForm.dp4 (x0 : _) (x1 : _) (x2 : _) : Sys2Proof.Laws.OneForm.Statement (.dp4 x0 x1 x2) := rfl
theorem Sys2Proof.Laws.OneForm.dp2 (x0 : _) (x1 : _) (x2 : _) : Sys2Proof.Laws.OneForm.Statement (.dp2 x0 x1 x2) := rfl
theorem Sys2Proof.Laws.OneForm.sad (x0 : _) (x1 : _) (x2 : _) : Sys2Proof.Laws.OneForm.Statement (.sad x0 x1 x2) := rfl
theorem Sys2Proof.Laws.OneForm.fadd (x0 : _) (x1 : _) (x2 : _) : Sys2Proof.Laws.OneForm.Statement (.fadd x0 x1 x2) := rfl
theorem Sys2Proof.Laws.OneForm.fsub (x0 : _) (x1 : _) (x2 : _) : Sys2Proof.Laws.OneForm.Statement (.fsub x0 x1 x2) := rfl
theorem Sys2Proof.Laws.OneForm.fmul (x0 : _) (x1 : _) (x2 : _) : Sys2Proof.Laws.OneForm.Statement (.fmul x0 x1 x2) := rfl
theorem Sys2Proof.Laws.OneForm.ffma (x0 : _) (x1 : _) (x2 : _) : Sys2Proof.Laws.OneForm.Statement (.ffma x0 x1 x2) := rfl
theorem Sys2Proof.Laws.OneForm.fmin (x0 : _) (x1 : _) (x2 : _) : Sys2Proof.Laws.OneForm.Statement (.fmin x0 x1 x2) := rfl
theorem Sys2Proof.Laws.OneForm.fmax (x0 : _) (x1 : _) (x2 : _) : Sys2Proof.Laws.OneForm.Statement (.fmax x0 x1 x2) := rfl
theorem Sys2Proof.Laws.OneForm.frcp (x0 : _) (x1 : _) (x2 : _) : Sys2Proof.Laws.OneForm.Statement (.frcp x0 x1 x2) := rfl
theorem Sys2Proof.Laws.OneForm.frsq (x0 : _) (x1 : _) (x2 : _) : Sys2Proof.Laws.OneForm.Statement (.frsq x0 x1 x2) := rfl
theorem Sys2Proof.Laws.OneForm.fsqrt (x0 : _) (x1 : _) (x2 : _) : Sys2Proof.Laws.OneForm.Statement (.fsqrt x0 x1 x2) := rfl
theorem Sys2Proof.Laws.OneForm.fdiv (x0 : _) (x1 : _) (x2 : _) : Sys2Proof.Laws.OneForm.Statement (.fdiv x0 x1 x2) := rfl
theorem Sys2Proof.Laws.OneForm.fex2 (x0 : _) (x1 : _) (x2 : _) : Sys2Proof.Laws.OneForm.Statement (.fex2 x0 x1 x2) := rfl
theorem Sys2Proof.Laws.OneForm.flg2 (x0 : _) (x1 : _) (x2 : _) : Sys2Proof.Laws.OneForm.Statement (.flg2 x0 x1 x2) := rfl
theorem Sys2Proof.Laws.OneForm.fsin (x0 : _) (x1 : _) (x2 : _) : Sys2Proof.Laws.OneForm.Statement (.fsin x0 x1 x2) := rfl
theorem Sys2Proof.Laws.OneForm.fcos (x0 : _) (x1 : _) (x2 : _) : Sys2Proof.Laws.OneForm.Statement (.fcos x0 x1 x2) := rfl
theorem Sys2Proof.Laws.OneForm.ftanh (x0 : _) (x1 : _) (x2 : _) : Sys2Proof.Laws.OneForm.Statement (.ftanh x0 x1 x2) := rfl
theorem Sys2Proof.Laws.OneForm.fsigm (x0 : _) (x1 : _) (x2 : _) : Sys2Proof.Laws.OneForm.Statement (.fsigm x0 x1 x2) := rfl
theorem Sys2Proof.Laws.OneForm.fdot2 (x0 : _) (x1 : _) (x2 : _) : Sys2Proof.Laws.OneForm.Statement (.fdot2 x0 x1 x2) := rfl
theorem Sys2Proof.Laws.OneForm.fdot4 (x0 : _) (x1 : _) (x2 : _) : Sys2Proof.Laws.OneForm.Statement (.fdot4 x0 x1 x2) := rfl
theorem Sys2Proof.Laws.OneForm.cvt (x0 : _) (x1 : _) (x2 : _) (x3 : _) : Sys2Proof.Laws.OneForm.Statement (.cvt x0 x1 x2 x3) := rfl
theorem Sys2Proof.Laws.OneForm.cvts (x0 : _) (x1 : _) (x2 : _) (x3 : _) : Sys2Proof.Laws.OneForm.Statement (.cvts x0 x1 x2 x3) := rfl
theorem Sys2Proof.Laws.OneForm.bfpk (x0 : _) (x1 : _) (x2 : _) (x3 : _) : Sys2Proof.Laws.OneForm.Statement (.bfpk x0 x1 x2 x3) := rfl
theorem Sys2Proof.Laws.OneForm.bfpx (x0 : _) (x1 : _) (x2 : _) (x3 : _) : Sys2Proof.Laws.OneForm.Statement (.bfpx x0 x1 x2 x3) := rfl
theorem Sys2Proof.Laws.OneForm.qscl (x0 : _) (x1 : _) (x2 : _) (x3 : _) : Sys2Proof.Laws.OneForm.Statement (.qscl x0 x1 x2 x3) := rfl
theorem Sys2Proof.Laws.OneForm.itest (x0 : _) (x1 : _) (x2 : _) (x3 : _) (x4 : _) : Sys2Proof.Laws.OneForm.Statement (.itest x0 x1 x2 x3 x4) := rfl
theorem Sys2Proof.Laws.OneForm.ftest (x0 : _) (x1 : _) (x2 : _) (x3 : _) (x4 : _) : Sys2Proof.Laws.OneForm.Statement (.ftest x0 x1 x2 x3 x4) := rfl
theorem Sys2Proof.Laws.OneForm.plut (x0 : _) (x1 : _) (x2 : _) : Sys2Proof.Laws.OneForm.Statement (.plut x0 x1 x2) := rfl
theorem Sys2Proof.Laws.OneForm.pmovPack (x0 : _) (x1 : _) : Sys2Proof.Laws.OneForm.Statement (.pmovPack x0 x1) := rfl
theorem Sys2Proof.Laws.OneForm.pmovUnpack (x0 : _) (x1 : _) : Sys2Proof.Laws.OneForm.Statement (.pmovUnpack x0 x1) := rfl
theorem Sys2Proof.Laws.OneForm.vote (x0 : _) (x1 : _) (x2 : _) : Sys2Proof.Laws.OneForm.Statement (.vote x0 x1 x2) := rfl
theorem Sys2Proof.Laws.OneForm.matchLanes (x0 : _) (x1 : _) (x2 : _) : Sys2Proof.Laws.OneForm.Statement (.matchLanes x0 x1 x2) := rfl
theorem Sys2Proof.Laws.OneForm.xlane (x0 : _) (x1 : _) (x2 : _) (x3 : _) : Sys2Proof.Laws.OneForm.Statement (.xlane x0 x1 x2 x3) := rfl
theorem Sys2Proof.Laws.OneForm.lreduce (x0 : _) (x1 : _) (x2 : _) : Sys2Proof.Laws.OneForm.Statement (.lreduce x0 x1 x2) := rfl
theorem Sys2Proof.Laws.OneForm.lscan (x0 : _) (x1 : _) (x2 : _) : Sys2Proof.Laws.OneForm.Statement (.lscan x0 x1 x2) := rfl
theorem Sys2Proof.Laws.OneForm.bcast (x0 : _) (x1 : _) : Sys2Proof.Laws.OneForm.Statement (.bcast x0 x1) := rfl
theorem Sys2Proof.Laws.OneForm.smov (x0 : _) (x1 : _) : Sys2Proof.Laws.OneForm.Statement (.smov x0 x1) := rfl
theorem Sys2Proof.Laws.OneForm.bra (x0 : _) (x1 : _) (x2 : _) : Sys2Proof.Laws.OneForm.Statement (.bra x0 x1 x2) := rfl
theorem Sys2Proof.Laws.OneForm.brx (x0 : _) (x1 : _) (x2 : _) : Sys2Proof.Laws.OneForm.Statement (.brx x0 x1 x2) := rfl
theorem Sys2Proof.Laws.OneForm.join (x0 : _) : Sys2Proof.Laws.OneForm.Statement (.join x0) := rfl
theorem Sys2Proof.Laws.OneForm.call (x0 : _) (x1 : _) (x2 : _) (x3 : _) (x4 : _) : Sys2Proof.Laws.OneForm.Statement (.call x0 x1 x2 x3 x4) := rfl
theorem Sys2Proof.Laws.OneForm.ret (x0 : _) (x1 : _) : Sys2Proof.Laws.OneForm.Statement (.ret x0 x1) := rfl
theorem Sys2Proof.Laws.OneForm.exit (x0 : _) : Sys2Proof.Laws.OneForm.Statement (.exit x0) := rfl
theorem Sys2Proof.Laws.OneForm.loop (x0 : _) (x1 : _) (x2 : _) : Sys2Proof.Laws.OneForm.Statement (.loop x0 x1 x2) := rfl
theorem Sys2Proof.Laws.OneForm.barSync (x0 : _) : Sys2Proof.Laws.OneForm.Statement (.barSync x0) := rfl
theorem Sys2Proof.Laws.OneForm.barArrive (x0 : _) : Sys2Proof.Laws.OneForm.Statement (.barArrive x0) := rfl
theorem Sys2Proof.Laws.OneForm.yield (x0 : _) : Sys2Proof.Laws.OneForm.Statement (.yield x0) := rfl
theorem Sys2Proof.Laws.OneForm.nop (x0 : _) : Sys2Proof.Laws.OneForm.Statement (.nop x0) := rfl
theorem Sys2Proof.Laws.OneForm.sleep (x0 : _) (x1 : _) : Sys2Proof.Laws.OneForm.Statement (.sleep x0 x1) := rfl
theorem Sys2Proof.Laws.OneForm.gsync (x0 : _) : Sys2Proof.Laws.OneForm.Statement (.gsync x0) := rfl
theorem Sys2Proof.Laws.OneForm.ld (x0 : _) (x1 : _) (x2 : _) : Sys2Proof.Laws.OneForm.Statement (.ld x0 x1 x2) := rfl
theorem Sys2Proof.Laws.OneForm.st (x0 : _) (x1 : _) (x2 : _) : Sys2Proof.Laws.OneForm.Statement (.st x0 x1 x2) := rfl
theorem Sys2Proof.Laws.OneForm.lds (x0 : _) (x1 : _) (x2 : _) : Sys2Proof.Laws.OneForm.Statement (.lds x0 x1 x2) := rfl
theorem Sys2Proof.Laws.OneForm.sts (x0 : _) (x1 : _) (x2 : _) : Sys2Proof.Laws.OneForm.Statement (.sts x0 x1 x2) := rfl
theorem Sys2Proof.Laws.OneForm.ldc (x0 : _) (x1 : _) (x2 : _) : Sys2Proof.Laws.OneForm.Statement (.ldc x0 x1 x2) := rfl
theorem Sys2Proof.Laws.OneForm.ldx (x0 : _) (x1 : _) (x2 : _) : Sys2Proof.Laws.OneForm.Statement (.ldx x0 x1 x2) := rfl
theorem Sys2Proof.Laws.OneForm.stx (x0 : _) (x1 : _) (x2 : _) : Sys2Proof.Laws.OneForm.Statement (.stx x0 x1 x2) := rfl
theorem Sys2Proof.Laws.OneForm.ldm (x0 : _) (x1 : _) (x2 : _) : Sys2Proof.Laws.OneForm.Statement (.ldm x0 x1 x2) := rfl
theorem Sys2Proof.Laws.OneForm.stm (x0 : _) (x1 : _) (x2 : _) : Sys2Proof.Laws.OneForm.Statement (.stm x0 x1 x2) := rfl
theorem Sys2Proof.Laws.OneForm.fence (x0 : _) (x1 : _) (x2 : _) : Sys2Proof.Laws.OneForm.Statement (.fence x0 x1 x2) := rfl
theorem Sys2Proof.Laws.OneForm.fenceAsync (x0 : _) : Sys2Proof.Laws.OneForm.Statement (.fenceAsync x0) := rfl
theorem Sys2Proof.Laws.OneForm.atom (x0 : _) (x1 : _) (x2 : _) : Sys2Proof.Laws.OneForm.Statement (.atom x0 x1 x2) := rfl
theorem Sys2Proof.Laws.OneForm.red (x0 : _) (x1 : _) (x2 : _) : Sys2Proof.Laws.OneForm.Statement (.red x0 x1 x2) := rfl
theorem Sys2Proof.Laws.OneForm.cas (x0 : _) (x1 : _) (x2 : _) : Sys2Proof.Laws.OneForm.Statement (.cas x0 x1 x2) := rfl
theorem Sys2Proof.Laws.OneForm.atomx (x0 : _) (x1 : _) (x2 : _) : Sys2Proof.Laws.OneForm.Statement (.atomx x0 x1 x2) := rfl
theorem Sys2Proof.Laws.OneForm.atoms (x0 : _) (x1 : _) (x2 : _) : Sys2Proof.Laws.OneForm.Statement (.atoms x0 x1 x2) := rfl
theorem Sys2Proof.Laws.OneForm.cass (x0 : _) (x1 : _) (x2 : _) : Sys2Proof.Laws.OneForm.Statement (.cass x0 x1 x2) := rfl
theorem Sys2Proof.Laws.OneForm.waitc (x0 : _) (x1 : _) (x2 : _) : Sys2Proof.Laws.OneForm.Statement (.waitc x0 x1 x2) := rfl
theorem Sys2Proof.Laws.OneForm.cctl (x0 : _) (x1 : _) (x2 : _) : Sys2Proof.Laws.OneForm.Statement (.cctl x0 x1 x2) := rfl
theorem Sys2Proof.Laws.OneForm.pref (x0 : _) (x1 : _) (x2 : _) : Sys2Proof.Laws.OneForm.Statement (.pref x0 x1 x2) := rfl
theorem Sys2Proof.Laws.OneForm.cpy (x0 : _) (x1 : _) (x2 : _) : Sys2Proof.Laws.OneForm.Statement (.cpy x0 x1 x2) := rfl
theorem Sys2Proof.Laws.OneForm.cpyt (x0 : _) (x1 : _) (x2 : _) : Sys2Proof.Laws.OneForm.Statement (.cpyt x0 x1 x2) := rfl
theorem Sys2Proof.Laws.OneForm.cpyg (x0 : _) (x1 : _) (x2 : _) : Sys2Proof.Laws.OneForm.Statement (.cpyg x0 x1 x2) := rfl
theorem Sys2Proof.Laws.OneForm.cpys (x0 : _) (x1 : _) (x2 : _) : Sys2Proof.Laws.OneForm.Statement (.cpys x0 x1 x2) := rfl
theorem Sys2Proof.Laws.OneForm.binit (x0 : _) (x1 : _) : Sys2Proof.Laws.OneForm.Statement (.binit x0 x1) := rfl
theorem Sys2Proof.Laws.OneForm.bexp (x0 : _) (x1 : _) : Sys2Proof.Laws.OneForm.Statement (.bexp x0 x1) := rfl
theorem Sys2Proof.Laws.OneForm.barrive (x0 : _) (x1 : _) (x2 : _) : Sys2Proof.Laws.OneForm.Statement (.barrive x0 x1 x2) := rfl
theorem Sys2Proof.Laws.OneForm.bwait (x0 : _) (x1 : _) : Sys2Proof.Laws.OneForm.Statement (.bwait x0 x1) := rfl
theorem Sys2Proof.Laws.OneForm.btest (x0 : _) (x1 : _) : Sys2Proof.Laws.OneForm.Statement (.btest x0 x1) := rfl
theorem Sys2Proof.Laws.OneForm.seal (x0 : _) (x1 : _) : Sys2Proof.Laws.OneForm.Statement (.seal x0 x1) := rfl
theorem Sys2Proof.Laws.OneForm.waitb (x0 : _) (x1 : _) : Sys2Proof.Laws.OneForm.Statement (.waitb x0 x1) := rfl
theorem Sys2Proof.Laws.OneForm.tclook (x0 : _) (x1 : _) : Sys2Proof.Laws.OneForm.Statement (.tclook x0 x1) := rfl
theorem Sys2Proof.Laws.OneForm.tcpref (x0 : _) (x1 : _) : Sys2Proof.Laws.OneForm.Statement (.tcpref x0 x1) := rfl
theorem Sys2Proof.Laws.OneForm.tchalo (x0 : _) (x1 : _) (x2 : _) : Sys2Proof.Laws.OneForm.Statement (.tchalo x0 x1 x2) := rfl
theorem Sys2Proof.Laws.OneForm.tcinv (x0 : _) (x1 : _) (x2 : _) : Sys2Proof.Laws.OneForm.Statement (.tcinv x0 x1 x2) := rfl
theorem Sys2Proof.Laws.OneForm.tcwb (x0 : _) (x1 : _) (x2 : _) : Sys2Proof.Laws.OneForm.Statement (.tcwb x0 x1 x2) := rfl
theorem Sys2Proof.Laws.OneForm.mxpost (x0 : _) (x1 : _) : Sys2Proof.Laws.OneForm.Statement (.mxpost x0 x1) := rfl
theorem Sys2Proof.Laws.OneForm.mxwait (x0 : _) (x1 : _) : Sys2Proof.Laws.OneForm.Statement (.mxwait x0 x1) := rfl
theorem Sys2Proof.Laws.OneForm.mxqry (x0 : _) (x1 : _) : Sys2Proof.Laws.OneForm.Statement (.mxqry x0 x1) := rfl
theorem Sys2Proof.Laws.OneForm.mxcan (x0 : _) (x1 : _) : Sys2Proof.Laws.OneForm.Statement (.mxcan x0 x1) := rfl
theorem Sys2Proof.Laws.OneForm.gset (x0 : _) (x1 : _) (x2 : _) (x3 : _) : Sys2Proof.Laws.OneForm.Statement (.gset x0 x1 x2 x3) := rfl
theorem Sys2Proof.Laws.OneForm.slabld (x0 : _) (x1 : _) (x2 : _) : Sys2Proof.Laws.OneForm.Statement (.slabld x0 x1 x2) := rfl
theorem Sys2Proof.Laws.OneForm.slabfree (x0 : _) (x1 : _) : Sys2Proof.Laws.OneForm.Statement (.slabfree x0 x1) := rfl
theorem Sys2Proof.Laws.OneForm.spxs (x0 : _) (x1 : _) (x2 : _) : Sys2Proof.Laws.OneForm.Statement (.spxs x0 x1 x2) := rfl
theorem Sys2Proof.Laws.OneForm.shpq (x0 : _) (x1 : _) : Sys2Proof.Laws.OneForm.Statement (.shpq x0 x1) := rfl
theorem Sys2Proof.Laws.OneForm.shpwait (x0 : _) (x1 : _) : Sys2Proof.Laws.OneForm.Statement (.shpwait x0 x1) := rfl
theorem Sys2Proof.Laws.OneForm.shpset (x0 : _) (x1 : _) (x2 : _) : Sys2Proof.Laws.OneForm.Statement (.shpset x0 x1 x2) := rfl
theorem Sys2Proof.Laws.OneForm.tmapset (x0 : _) (x1 : _) : Sys2Proof.Laws.OneForm.Statement (.tmapset x0 x1) := rfl
theorem Sys2Proof.Laws.OneForm.tmapclr (x0 : _) (x1 : _) : Sys2Proof.Laws.OneForm.Statement (.tmapclr x0 x1) := rfl
theorem Sys2Proof.Laws.OneForm.spaton (x0 : _) (x1 : _) : Sys2Proof.Laws.OneForm.Statement (.spaton x0 x1) := rfl
theorem Sys2Proof.Laws.OneForm.send (x0 : _) (x1 : _) : Sys2Proof.Laws.OneForm.Statement (.send x0 x1) := rfl
theorem Sys2Proof.Laws.OneForm.strld (x0 : _) (x1 : _) (x2 : _) : Sys2Proof.Laws.OneForm.Statement (.strld x0 x1 x2) := rfl
theorem Sys2Proof.Laws.OneForm.strst (x0 : _) (x1 : _) : Sys2Proof.Laws.OneForm.Statement (.strst x0 x1) := rfl
theorem Sys2Proof.Laws.OneForm.gtok (x0 : _) (x1 : _) : Sys2Proof.Laws.OneForm.Statement (.gtok x0 x1) := rfl
theorem Sys2Proof.Laws.OneForm.dropt (x0 : _) (x1 : _) : Sys2Proof.Laws.OneForm.Statement (.dropt x0 x1) := rfl
theorem Sys2Proof.Laws.OneForm.toki (x0 : _) (x1 : _) : Sys2Proof.Laws.OneForm.Statement (.toki x0 x1) := rfl
theorem Sys2Proof.Laws.OneForm.spatq (x0 : _) (x1 : _) : Sys2Proof.Laws.OneForm.Statement (.spatq x0 x1) := rfl
theorem Sys2Proof.Laws.OneForm.spexit (x0 : _) (x1 : _) : Sys2Proof.Laws.OneForm.Statement (.spexit x0 x1) := rfl
theorem Sys2Proof.Laws.OneForm.hpref (x0 : _) (x1 : _) : Sys2Proof.Laws.OneForm.Statement (.hpref x0 x1) := rfl
theorem Sys2Proof.Laws.OneForm.hprio (x0 : _) (x1 : _) : Sys2Proof.Laws.OneForm.Statement (.hprio x0 x1) := rfl
theorem Sys2Proof.Laws.OneForm.hnote (x0 : _) (x1 : _) : Sys2Proof.Laws.OneForm.Statement (.hnote x0 x1) := rfl
theorem Sys2Proof.Laws.OneForm.hintRegionNop (x0 : _) (x1 : _) (x2 : _) : Sys2Proof.Laws.OneForm.Statement (.hintRegionNop x0 x1 x2) := rfl
theorem Sys2Proof.Laws.OneForm.trap (x0 : _) (x1 : _) : Sys2Proof.Laws.OneForm.Statement (.trap x0 x1) := rfl
theorem Sys2Proof.Laws.OneForm.sread (x0 : _) (x1 : _) : Sys2Proof.Laws.OneForm.Statement (.sread x0 x1) := rfl
theorem Sys2Proof.Laws.OneForm.swrite (x0 : _) (x1 : _) : Sys2Proof.Laws.OneForm.Statement (.swrite x0 x1) := rfl
theorem Sys2Proof.Laws.OneForm.rte (x0 : _) (x1 : _) : Sys2Proof.Laws.OneForm.Statement (.rte x0 x1) := rfl
theorem Sys2Proof.Laws.OneForm.hrec (x0 : _) (x1 : _) : Sys2Proof.Laws.OneForm.Statement (.hrec x0 x1) := rfl
theorem Sys2Proof.Laws.OneForm.hrecW (x0 : _) (x1 : _) : Sys2Proof.Laws.OneForm.Statement (.hrecW x0 x1) := rfl
theorem Sys2Proof.Laws.OneForm.pmap (x0 : _) (x1 : _) : Sys2Proof.Laws.OneForm.Statement (.pmap x0 x1) := rfl
theorem Sys2Proof.Laws.OneForm.tlbinv (x0 : _) (x1 : _) (x2 : _) : Sys2Proof.Laws.OneForm.Statement (.tlbinv x0 x1 x2) := rfl
theorem Sys2Proof.Laws.OneForm.icinv (x0 : _) (x1 : _) (x2 : _) : Sys2Proof.Laws.OneForm.Statement (.icinv x0 x1 x2) := rfl
theorem Sys2Proof.Laws.OneForm.park (x0 : _) (x1 : _) : Sys2Proof.Laws.OneForm.Statement (.park x0 x1) := rfl
theorem Sys2Proof.Laws.OneForm.bkpt (x0 : _) (x1 : _) : Sys2Proof.Laws.OneForm.Statement (.bkpt x0 x1) := rfl
theorem Sys2Proof.Laws.OneForm.perf (x0 : _) (x1 : _) : Sys2Proof.Laws.OneForm.Statement (.perf x0 x1) := rfl
theorem Sys2Proof.Laws.OneForm.svcrmwLock (x0 : _) (x1 : _) (x2 : _) : Sys2Proof.Laws.OneForm.Statement (.svcrmwLock x0 x1 x2) := rfl
theorem Sys2Proof.Laws.OneForm.svcrmwUnlock (x0 : _) (x1 : _) (x2 : _) : Sys2Proof.Laws.OneForm.Statement (.svcrmwUnlock x0 x1 x2) := rfl
theorem Sys2Proof.Laws.OneForm.svcret (x0 : _) (x1 : _) : Sys2Proof.Laws.OneForm.Statement (.svcret x0 x1) := rfl
theorem Sys2Proof.Laws.OneForm.unassignedOpcode (x0 : _) : Sys2Proof.Laws.OneForm.Statement (.unassignedOpcode x0) := rfl
theorem Sys2Proof.Laws.OneForm.movq (x0 : _) (x1 : _) : Sys2Proof.Laws.OneForm.Statement (.movq x0 x1) := rfl
theorem Sys2Proof.Laws.OneForm.addq (x0 : _) (x1 : _) (x2 : _) : Sys2Proof.Laws.OneForm.Statement (.addq x0 x1 x2) := rfl
theorem Sys2Proof.Laws.OneForm.andq (x0 : _) (x1 : _) (x2 : _) : Sys2Proof.Laws.OneForm.Statement (.andq x0 x1 x2) := rfl
theorem Sys2Proof.Laws.OneForm.orq (x0 : _) (x1 : _) (x2 : _) : Sys2Proof.Laws.OneForm.Statement (.orq x0 x1 x2) := rfl
theorem Sys2Proof.Laws.OneForm.shlq (x0 : _) (x1 : _) (x2 : _) : Sys2Proof.Laws.OneForm.Statement (.shlq x0 x1 x2) := rfl
theorem Sys2Proof.Laws.OneForm.shrq (x0 : _) (x1 : _) (x2 : _) : Sys2Proof.Laws.OneForm.Statement (.shrq x0 x1 x2) := rfl
theorem Sys2Proof.Laws.OneForm.addr (x0 : _) (x1 : _) (x2 : _) : Sys2Proof.Laws.OneForm.Statement (.addr x0 x1 x2) := rfl
theorem Sys2Proof.Laws.OneForm.subr (x0 : _) (x1 : _) (x2 : _) : Sys2Proof.Laws.OneForm.Statement (.subr x0 x1 x2) := rfl
theorem Sys2Proof.Laws.OneForm.andr (x0 : _) (x1 : _) (x2 : _) : Sys2Proof.Laws.OneForm.Statement (.andr x0 x1 x2) := rfl
theorem Sys2Proof.Laws.OneForm.orr (x0 : _) (x1 : _) (x2 : _) : Sys2Proof.Laws.OneForm.Statement (.orr x0 x1 x2) := rfl
theorem Sys2Proof.Laws.OneForm.xorr (x0 : _) (x1 : _) (x2 : _) : Sys2Proof.Laws.OneForm.Statement (.xorr x0 x1 x2) := rfl
theorem Sys2Proof.Laws.OneForm.seqr (x0 : _) (x1 : _) (x2 : _) : Sys2Proof.Laws.OneForm.Statement (.seqr x0 x1 x2) := rfl
theorem Sys2Proof.Laws.OneForm.sltr (x0 : _) (x1 : _) (x2 : _) : Sys2Proof.Laws.OneForm.Statement (.sltr x0 x1 x2) := rfl
theorem Sys2Proof.Laws.OneForm.sltur (x0 : _) (x1 : _) (x2 : _) : Sys2Proof.Laws.OneForm.Statement (.sltur x0 x1 x2) := rfl
theorem Sys2Proof.Laws.OneForm.ldb (x0 : _) (x1 : _) (x2 : _) (x3 : _) (x4 : _) : Sys2Proof.Laws.OneForm.Statement (.ldb x0 x1 x2 x3 x4) := rfl
theorem Sys2Proof.Laws.OneForm.ldh (x0 : _) (x1 : _) (x2 : _) (x3 : _) (x4 : _) : Sys2Proof.Laws.OneForm.Statement (.ldh x0 x1 x2 x3 x4) := rfl
theorem Sys2Proof.Laws.OneForm.ldw (x0 : _) (x1 : _) (x2 : _) (x3 : _) (x4 : _) : Sys2Proof.Laws.OneForm.Statement (.ldw x0 x1 x2 x3 x4) := rfl
theorem Sys2Proof.Laws.OneForm.ldd (x0 : _) (x1 : _) (x2 : _) (x3 : _) (x4 : _) : Sys2Proof.Laws.OneForm.Statement (.ldd x0 x1 x2 x3 x4) := rfl
theorem Sys2Proof.Laws.OneForm.stb (x0 : _) (x1 : _) (x2 : _) (x3 : _) (x4 : _) : Sys2Proof.Laws.OneForm.Statement (.stb x0 x1 x2 x3 x4) := rfl
theorem Sys2Proof.Laws.OneForm.sth (x0 : _) (x1 : _) (x2 : _) (x3 : _) (x4 : _) : Sys2Proof.Laws.OneForm.Statement (.sth x0 x1 x2 x3 x4) := rfl
theorem Sys2Proof.Laws.OneForm.stw (x0 : _) (x1 : _) (x2 : _) (x3 : _) (x4 : _) : Sys2Proof.Laws.OneForm.Statement (.stw x0 x1 x2 x3 x4) := rfl
theorem Sys2Proof.Laws.OneForm.std (x0 : _) (x1 : _) (x2 : _) (x3 : _) (x4 : _) : Sys2Proof.Laws.OneForm.Statement (.std x0 x1 x2 x3 x4) := rfl
theorem Sys2Proof.Laws.OneForm.bz (x0 : _) (x1 : _) : Sys2Proof.Laws.OneForm.Statement (.bz x0 x1) := rfl
theorem Sys2Proof.Laws.OneForm.bnz (x0 : _) (x1 : _) : Sys2Proof.Laws.OneForm.Statement (.bnz x0 x1) := rfl
theorem Sys2Proof.Laws.OneForm.jmp (x0 : _) : Sys2Proof.Laws.OneForm.Statement (.jmp x0) := rfl
theorem Sys2Proof.Laws.OneForm.qprogLoop (x0 : _) (x1 : _) : Sys2Proof.Laws.OneForm.Statement (.qprogLoop x0 x1) := rfl
theorem Sys2Proof.Laws.OneForm.lnch (x0 : _) (x1 : _) (x2 : _) : Sys2Proof.Laws.OneForm.Statement (.lnch x0 x1 x2) := rfl
theorem Sys2Proof.Laws.OneForm.xfer (x0 : _) (x1 : _) (x2 : _) : Sys2Proof.Laws.OneForm.Statement (.xfer x0 x1 x2) := rfl
theorem Sys2Proof.Laws.OneForm.siga (x0 : _) (x1 : _) : Sys2Proof.Laws.OneForm.Statement (.siga x0 x1) := rfl
theorem Sys2Proof.Laws.OneForm.sigw (x0 : _) (x1 : _) : Sys2Proof.Laws.OneForm.Statement (.sigw x0 x1) := rfl
theorem Sys2Proof.Laws.OneForm.wall (x0 : _) (x1 : _) : Sys2Proof.Laws.OneForm.Statement (.wall x0 x1) := rfl
theorem Sys2Proof.Laws.OneForm.wany (x0 : _) (x1 : _) : Sys2Proof.Laws.OneForm.Statement (.wany x0 x1) := rfl
theorem Sys2Proof.Laws.OneForm.canx (x0 : _) (x1 : _) : Sys2Proof.Laws.OneForm.Statement (.canx x0 x1) := rfl
theorem Sys2Proof.Laws.OneForm.cfgd (x0 : _) : Sys2Proof.Laws.OneForm.Statement (.cfgd x0) := rfl
theorem Sys2Proof.Laws.OneForm.fin (x0 : _) : Sys2Proof.Laws.OneForm.Statement (.fin x0) := rfl
theorem Sys2Proof.Laws.OneForm.qerr (x0 : _) (x1 : _) : Sys2Proof.Laws.OneForm.Statement (.qerr x0 x1) := rfl
theorem Sys2Proof.Laws.OneForm.launch (x0 : _) : Sys2Proof.Laws.OneForm.Statement (.launch x0) := rfl
theorem Sys2Proof.Laws.OneForm.barrierAnd (x0 : _) : Sys2Proof.Laws.OneForm.Statement (.barrierAnd x0) := rfl
theorem Sys2Proof.Laws.OneForm.barrierOr (x0 : _) : Sys2Proof.Laws.OneForm.Statement (.barrierOr x0) := rfl
theorem Sys2Proof.Laws.OneForm.signal (x0 : _) : Sys2Proof.Laws.OneForm.Statement (.signal x0) := rfl
theorem Sys2Proof.Laws.OneForm.copy (x0 : _) : Sys2Proof.Laws.OneForm.Statement (.copy x0) := rfl
theorem Sys2Proof.Laws.OneForm.configDelta (x0 : _) : Sys2Proof.Laws.OneForm.Statement (.configDelta x0) := rfl
theorem Sys2Proof.Laws.OneForm.cancel (x0 : _) : Sys2Proof.Laws.OneForm.Statement (.cancel x0) := rfl
theorem Sys2Proof.Laws.OneForm.nopPacket (x0 : _) : Sys2Proof.Laws.OneForm.Statement (.nopPacket x0) := rfl
theorem Sys2Proof.Laws.OneForm.customPacket (x0 : _) (x1 : _) : Sys2Proof.Laws.OneForm.Statement (.customPacket x0 x1) := rfl
theorem Sys2Proof.Laws.OneForm.barrierReevaluate (x0 : _) : Sys2Proof.Laws.OneForm.Statement (.barrierReevaluate x0) := rfl
theorem Sys2Proof.Laws.OneForm.checksumRefetch (x0 : _) : Sys2Proof.Laws.OneForm.Statement (.checksumRefetch x0) := rfl
theorem Sys2Proof.Laws.OneForm.packetCompletion (x0 : _) (x1 : _) : Sys2Proof.Laws.OneForm.Statement (.packetCompletion x0 x1) := rfl
theorem Sys2Proof.Laws.OneForm.deltaApply (x0 : _) : Sys2Proof.Laws.OneForm.Statement (.deltaApply x0) := rfl
theorem Sys2Proof.Laws.OneForm.launchCompletion (x0 : _) : Sys2Proof.Laws.OneForm.Statement (.launchCompletion x0) := rfl
theorem Sys2Proof.Laws.OneForm.predictorAnswer (x0 : _) (x1 : _) : Sys2Proof.Laws.OneForm.Statement (.predictorAnswer x0 x1) := rfl
theorem Sys2Proof.Laws.OneForm.predictorTimeout (x0 : _) : Sys2Proof.Laws.OneForm.Statement (.predictorTimeout x0) := rfl
theorem Sys2Proof.Laws.OneForm.deadlineExpiry (x0 : _) : Sys2Proof.Laws.OneForm.Statement (.deadlineExpiry x0) := rfl
theorem Sys2Proof.Laws.OneForm.csigAbort (x0 : _) : Sys2Proof.Laws.OneForm.Statement (.csigAbort x0) := rfl
theorem Sys2Proof.Laws.OneForm.widxWake (x0 : _) : Sys2Proof.Laws.OneForm.Statement (.widxWake x0) := rfl
theorem Sys2Proof.Laws.OneForm.queueMap (x0 : _) (x1 : _) : Sys2Proof.Laws.OneForm.Statement (.queueMap x0 x1) := rfl
theorem Sys2Proof.Laws.OneForm.queueSlotReclaim (x0 : _) (x1 : _) : Sys2Proof.Laws.OneForm.Statement (.queueSlotReclaim x0 x1) := rfl
theorem Sys2Proof.Laws.OneForm.queueUnmap (x0 : _) : Sys2Proof.Laws.OneForm.Statement (.queueUnmap x0) := rfl
theorem Sys2Proof.Laws.OneForm.qcmdEnable (x0 : _) : Sys2Proof.Laws.OneForm.Statement (.qcmdEnable x0) := rfl
theorem Sys2Proof.Laws.OneForm.qcmdDisable (x0 : _) : Sys2Proof.Laws.OneForm.Statement (.qcmdDisable x0) := rfl
theorem Sys2Proof.Laws.OneForm.qcmdReset (x0 : _) : Sys2Proof.Laws.OneForm.Statement (.qcmdReset x0) := rfl
theorem Sys2Proof.Laws.OneForm.tlbcmdRange (x0 : _) : Sys2Proof.Laws.OneForm.Statement (.tlbcmdRange x0) := rfl
theorem Sys2Proof.Laws.OneForm.tlbcmdContext (x0 : _) : Sys2Proof.Laws.OneForm.Statement (.tlbcmdContext x0) := rfl
theorem Sys2Proof.Laws.OneForm.tlbcmdAll : Sys2Proof.Laws.OneForm.Statement (.tlbcmdAll) := rfl
theorem Sys2Proof.Laws.OneForm.shootdownComplete (x0 : _) : Sys2Proof.Laws.OneForm.Statement (.shootdownComplete x0) := rfl
theorem Sys2Proof.Laws.OneForm.icinvInvalidation (x0 : _) (x1 : _) : Sys2Proof.Laws.OneForm.Statement (.icinvInvalidation x0 x1) := rfl
theorem Sys2Proof.Laws.OneForm.replayRetry (x0 : _) (x1 : _) (x2 : _) : Sys2Proof.Laws.OneForm.Statement (.replayRetry x0 x1 x2) := rfl
theorem Sys2Proof.Laws.OneForm.replayFail (x0 : _) (x1 : _) (x2 : _) : Sys2Proof.Laws.OneForm.Statement (.replayFail x0 x1 x2) := rfl
theorem Sys2Proof.Laws.OneForm.replayRetryAll (x0 : _) (x1 : _) : Sys2Proof.Laws.OneForm.Statement (.replayRetryAll x0 x1) := rfl
theorem Sys2Proof.Laws.OneForm.watchdogExpiry (x0 : _) : Sys2Proof.Laws.OneForm.Statement (.watchdogExpiry x0) := rfl
theorem Sys2Proof.Laws.OneForm.fwctlLoad : Sys2Proof.Laws.OneForm.Statement (.fwctlLoad) := rfl
theorem Sys2Proof.Laws.OneForm.firmwareBootCheck (x0 : _) : Sys2Proof.Laws.OneForm.Statement (.firmwareBootCheck x0) := rfl
theorem Sys2Proof.Laws.OneForm.attcmdQuote : Sys2Proof.Laws.OneForm.Statement (.attcmdQuote) := rfl
theorem Sys2Proof.Laws.OneForm.attcmdRaiseFloor : Sys2Proof.Laws.OneForm.Statement (.attcmdRaiseFloor) := rfl
theorem Sys2Proof.Laws.OneForm.attcmdReadCertificate : Sys2Proof.Laws.OneForm.Statement (.attcmdReadCertificate) := rfl
theorem Sys2Proof.Laws.OneForm.heatctlWrite (x0 : _) : Sys2Proof.Laws.OneForm.Statement (.heatctlWrite x0) := rfl
theorem Sys2Proof.Laws.OneForm.tierbaseWrite (x0 : _) : Sys2Proof.Laws.OneForm.Statement (.tierbaseWrite x0) := rfl
theorem Sys2Proof.Laws.OneForm.pwrcapWrite (x0 : _) : Sys2Proof.Laws.OneForm.Statement (.pwrcapWrite x0) := rfl
theorem Sys2Proof.Laws.OneForm.intstatWrite (x0 : _) : Sys2Proof.Laws.OneForm.Statement (.intstatWrite x0) := rfl
theorem Sys2Proof.Laws.OneForm.intmaskWrite (x0 : _) : Sys2Proof.Laws.OneForm.Statement (.intmaskWrite x0) := rfl
theorem Sys2Proof.Laws.OneForm.registerWrite (x0 : _) (x1 : _) : Sys2Proof.Laws.OneForm.Statement (.registerWrite x0 x1) := rfl
theorem Sys2Proof.Laws.OneForm.deviceReset : Sys2Proof.Laws.OneForm.Statement (.deviceReset) := rfl
theorem Sys2Proof.Laws.OneForm.unitStart (x0 : _) (x1 : _) (x2 : _) : Sys2Proof.Laws.OneForm.Statement (.unitStart x0 x1 x2) := rfl
theorem Sys2Proof.Laws.OneForm.unitRetire (x0 : _) : Sys2Proof.Laws.OneForm.Statement (.unitRetire x0) := rfl
theorem Sys2Proof.Laws.OneForm.rotationPreempt (x0 : _) (x1 : _) : Sys2Proof.Laws.OneForm.Statement (.rotationPreempt x0 x1) := rfl
theorem Sys2Proof.Laws.OneForm.squashPreempt (x0 : _) (x1 : _) : Sys2Proof.Laws.OneForm.Statement (.squashPreempt x0 x1) := rfl
theorem Sys2Proof.Laws.OneForm.unitEvict (x0 : _) (x1 : _) : Sys2Proof.Laws.OneForm.Statement (.unitEvict x0 x1) := rfl
theorem Sys2Proof.Laws.OneForm.unitSave (x0 : _) : Sys2Proof.Laws.OneForm.Statement (.unitSave x0) := rfl
theorem Sys2Proof.Laws.OneForm.unitRestore (x0 : _) (x1 : _) (x2 : _) (x3 : _) : Sys2Proof.Laws.OneForm.Statement (.unitRestore x0 x1 x2 x3) := rfl
theorem Sys2Proof.Laws.OneForm.stageEvaluation (x0 : _) : Sys2Proof.Laws.OneForm.Statement (.stageEvaluation x0) := rfl
theorem Sys2Proof.Laws.OneForm.bindOff (x0 : _) : Sys2Proof.Laws.OneForm.Statement (.bindOff x0) := rfl
theorem Sys2Proof.Laws.OneForm.promotion (x0 : _) : Sys2Proof.Laws.OneForm.Statement (.promotion x0) := rfl
theorem Sys2Proof.Laws.OneForm.sleepExpiry (x0 : _) (x1 : _) : Sys2Proof.Laws.OneForm.Statement (.sleepExpiry x0 x1) := rfl
theorem Sys2Proof.Laws.OneForm.waitcRepoll (x0 : _) (x1 : _) : Sys2Proof.Laws.OneForm.Statement (.waitcRepoll x0 x1) := rfl
theorem Sys2Proof.Laws.OneForm.spatialLoad (x0 : _) (x1 : _) (x2 : _) : Sys2Proof.Laws.OneForm.Statement (.spatialLoad x0 x1 x2) := rfl
theorem Sys2Proof.Laws.OneForm.operatorFiring (x0 : _) (x1 : _) : Sys2Proof.Laws.OneForm.Statement (.operatorFiring x0 x1) := rfl
theorem Sys2Proof.Laws.OneForm.streamReadReturn (x0 : _) (x1 : _) : Sys2Proof.Laws.OneForm.Statement (.streamReadReturn x0 x1) := rfl
theorem Sys2Proof.Laws.OneForm.spatialExit (x0 : _) : Sys2Proof.Laws.OneForm.Statement (.spatialExit x0) := rfl
theorem Sys2Proof.Laws.OneForm.copyCommandStart (x0 : _) : Sys2Proof.Laws.OneForm.Statement (.copyCommandStart x0) := rfl
theorem Sys2Proof.Laws.OneForm.copyCommandArrival (x0 : _) (x1 : _) : Sys2Proof.Laws.OneForm.Statement (.copyCommandArrival x0 x1) := rfl
theorem Sys2Proof.Laws.OneForm.engineGrant (x0 : _) : Sys2Proof.Laws.OneForm.Statement (.engineGrant x0) := rfl
theorem Sys2Proof.Laws.OneForm.passEnd (x0 : _) : Sys2Proof.Laws.OneForm.Statement (.passEnd x0) := rfl
theorem Sys2Proof.Laws.OneForm.anyDispatch (x0 : _) (x1 : _) (x2 : _) : Sys2Proof.Laws.OneForm.Statement (.anyDispatch x0 x1 x2) := rfl
theorem Sys2Proof.Laws.OneForm.loadSectorReturn (x0 : _) (x1 : _) : Sys2Proof.Laws.OneForm.Statement (.loadSectorReturn x0 x1) := rfl
theorem Sys2Proof.Laws.OneForm.storePerformed (x0 : _) : Sys2Proof.Laws.OneForm.Statement (.storePerformed x0) := rfl
theorem Sys2Proof.Laws.OneForm.writeAcknowledgement (x0 : _) : Sys2Proof.Laws.OneForm.Statement (.writeAcknowledgement x0) := rfl
theorem Sys2Proof.Laws.OneForm.atomicReply (x0 : _) : Sys2Proof.Laws.OneForm.Statement (.atomicReply x0) := rfl
theorem Sys2Proof.Laws.OneForm.serviceRequestDelivery (x0 : _) : Sys2Proof.Laws.OneForm.Statement (.serviceRequestDelivery x0) := rfl
theorem Sys2Proof.Laws.OneForm.tcTick (x0 : _) : Sys2Proof.Laws.OneForm.Statement (.tcTick x0) := rfl
theorem Sys2Proof.Laws.OneForm.epochAdvance (x0 : _) : Sys2Proof.Laws.OneForm.Statement (.epochAdvance x0) := rfl
theorem Sys2Proof.Laws.OneForm.sliceSleep (x0 : _) : Sys2Proof.Laws.OneForm.Statement (.sliceSleep x0) := rfl
theorem Sys2Proof.Laws.OneForm.sliceWake (x0 : _) : Sys2Proof.Laws.OneForm.Statement (.sliceWake x0) := rfl
theorem Sys2Proof.Laws.OneForm.proxyFill (x0 : _) (x1 : _) (x2 : _) (x3 : _) (x4 : _) : Sys2Proof.Laws.OneForm.Statement (.proxyFill x0 x1 x2 x3 x4) := rfl
theorem Sys2Proof.Laws.OneForm.regionMerge (x0 : _) (x1 : _) (x2 : _) : Sys2Proof.Laws.OneForm.Statement (.regionMerge x0 x1 x2) := rfl
theorem Sys2Proof.Laws.OneForm.hostAccess (x0 : _) : Sys2Proof.Laws.OneForm.Statement (.hostAccess x0) := rfl
theorem Sys2Proof.Laws.OneForm.hostSnoop (x0 : _) : Sys2Proof.Laws.OneForm.Statement (.hostSnoop x0) := rfl
theorem Sys2Proof.Laws.OneForm.peerRequest (x0 : _) : Sys2Proof.Laws.OneForm.Statement (.peerRequest x0) := rfl
theorem Sys2Proof.Laws.OneForm.peerInvalidateMessage (x0 : _) : Sys2Proof.Laws.OneForm.Statement (.peerInvalidateMessage x0) := rfl
theorem Sys2Proof.Laws.OneForm.peerAcknowledgeMessage (x0 : _) : Sys2Proof.Laws.OneForm.Statement (.peerAcknowledgeMessage x0) := rfl
theorem Sys2Proof.Laws.OneForm.linkFailure (x0 : _) (x1 : _) (x2 : _) (x3 : _) : Sys2Proof.Laws.OneForm.Statement (.linkFailure x0 x1 x2 x3) := rfl
theorem Sys2Proof.Laws.OneForm.heatDecay : Sys2Proof.Laws.OneForm.Statement (.heatDecay) := rfl
theorem Sys2Proof.Laws.OneForm.migrationStart (x0 : _) (x1 : _) (x2 : _) : Sys2Proof.Laws.OneForm.Statement (.migrationStart x0 x1 x2) := rfl
theorem Sys2Proof.Laws.OneForm.migrationFinish (x0 : _) : Sys2Proof.Laws.OneForm.Statement (.migrationFinish x0) := rfl
theorem Sys2Proof.Laws.OneForm.migrationHoldTimeout (x0 : _) : Sys2Proof.Laws.OneForm.Statement (.migrationHoldTimeout x0) := rfl
theorem Sys2Proof.Laws.OneForm.recompression (x0 : _) (x1 : _) : Sys2Proof.Laws.OneForm.Statement (.recompression x0 x1) := rfl
theorem Sys2Proof.Laws.OneForm.selfTest (x0 : _) (x1 : _) : Sys2Proof.Laws.OneForm.Statement (.selfTest x0 x1) := rfl
theorem Sys2Proof.Laws.OneForm.powerClockStep (x0 : _) : Sys2Proof.Laws.OneForm.Statement (.powerClockStep x0) := rfl
theorem Sys2Proof.Laws.OneForm.copyRequestPerformed (x0 : _) (x1 : _) : Sys2Proof.Laws.OneForm.Statement (.copyRequestPerformed x0 x1) := rfl
theorem Sys2Proof.Laws.OneForm.stampScrub (x0 : _) (x1 : _) (x2 : _) (x3 : _) (x4 : _) : Sys2Proof.Laws.OneForm.Statement (.stampScrub x0 x1 x2 x3 x4) := rfl
theorem Sys2Proof.Laws.OneForm.proxyInvalidation (x0 : _) : Sys2Proof.Laws.OneForm.Statement (.proxyInvalidation x0) := rfl
theorem Sys2Proof.Laws.OneForm.backInvalidationSnoopResponse (x0 : _) : Sys2Proof.Laws.OneForm.Statement (.backInvalidationSnoopResponse x0) := rfl
theorem Sys2Proof.Laws.OneForm.msixVectorUnmask (x0 : _) : Sys2Proof.Laws.OneForm.Statement (.msixVectorUnmask x0) := rfl
end

