-- ==== Sys2Proof/Laws/Step.lean ====
section
/-! SUPPORT. What the shared frames of execution can do: one lemma per frame, so that a proof about an instruction looks only at its own
effect. -/

namespace Sys2Proof.Machine

/-! ### Instructions of a group (R20, R21) -/

/-- Everything the frame of an instruction of a group does when it answers a next state: a trap of the checks, the interlock's stall,
or the instruction's own effect. -/
theorem issueEnv_next {pre : Env → Option Nat} {uses : Env → Uses} {s t : State} {k : Nat → Nat → Unit → Group → Out}
    (h : issueEnv pre uses s k = .next t) :
    ∃ u g U G, s.cur = .group u g ∧ s.group? u g = some (U, G) ∧
      ((∃ c, pre (s.env U G) = some c ∧ t = s.takeTrap u g (groupTrap G c G.pc.toNat)) ∨
       (pre (s.env U G) = none ∧ U.usableAll (uses (s.env U G)) = false ∧ t = s.takeTrap u g (groupTrap G 2 G.pc.toNat)) ∨
       (pre (s.env U G) = none ∧ U.usableAll (uses (s.env U G)) = true ∧ s.interlocked u g (uses (s.env U G)) = true ∧
        t = s.stall u g) ∨
       (pre (s.env U G) = none ∧ U.usableAll (uses (s.env U G)) = true ∧ s.interlocked u g (uses (s.env U G)) = false ∧
        k u g U G = .next t)) := by
  unfold issueEnv at h
  split at h
  · simp at h
  · simp at h
  · simp at h
  · next u g hc =>
    split at h
    · simp at h
    · next U G hg =>
      refine ⟨u, g, U, G, hc, hg, ?_⟩
      split at h
      · next c hp => exact .inl ⟨c, hp, by simpa [State.trapGroup] using h.symm⟩
      · next hp =>
        refine .inr ?_
        split at h
        · next hu => exact .inl ⟨hp, by simpa using hu, by simpa [State.trapGroup] using h.symm⟩
        · next hu =>
          refine .inr ?_
          split at h
          · next hi => exact .inl ⟨hp, by simpa using hu, hi, by simpa using h.symm⟩
          · next hi => exact .inr ⟨hp, by simpa using hu, by simpa using hi, h⟩

/-- The instruction's own effect is what happens where the checks pass. -/
theorem issueEnv_runs {pre : Env → Option Nat} {uses : Env → Uses} {s : State} {k : Nat → Nat → Unit → Group → Out} {u g : Nat}
    {U : Unit} {G : Group} (hc : s.cur = .group u g) (hg : s.group? u g = some (U, G)) (hp : pre (s.env U G) = none)
    (hu : U.usableAll (uses (s.env U G)) = true) (hi : s.interlocked u g (uses (s.env U G)) = false) :
    issueEnv pre uses s k = k u g U G := by
  simp [issueEnv, hc, hg, hp, hu, hi]

/-- The same for checks of operands alone. -/
theorem issue_runs {uses : Uses} {s : State} {k : Nat → Nat → Unit → Group → Out} {u g : Nat} {U : Unit} {G : Group}
    (hc : s.cur = .group u g) (hg : s.group? u g = some (U, G)) (hu : U.usableAll uses = true) (hi : s.interlocked u g uses = false) :
    issue uses s k = k u g U G := issueEnv_runs hc hg rfl hu hi

/-- An operand the unit does not have traps with ILLOPND (R20). -/
theorem issue_traps {uses : Uses} {s : State} {k : Nat → Nat → Unit → Group → Out} {u g : Nat} {U : Unit} {G : Group}
    (hc : s.cur = .group u g) (hg : s.group? u g = some (U, G)) (hu : U.usableAll uses = false) :
    issue uses s k = .next (s.takeTrap u g (groupTrap G 2 G.pc.toNat)) := by
  simp [issue, issueEnv, hc, hg, hu, State.trapGroup]

/-- A register a load in flight will write makes the group wait (R19). -/
theorem issue_stalls {uses : Uses} {s : State} {k : Nat → Nat → Unit → Group → Out} {u g : Nat} {U : Unit} {G : Group}
    (hc : s.cur = .group u g) (hg : s.group? u g = some (U, G)) (hu : U.usableAll uses = true) (hi : s.interlocked u g uses = true) :
    issue uses s k = .next (s.stall u g) := by
  simp [issue, issueEnv, hc, hg, hu, hi]

/-- A privileged instruction where its state may run it (R201). -/
theorem privStep_runs {ok : Unit → Group → Bool} {uses : Uses} {s : State} {k : Nat → Nat → Unit → Group → Out} {u g : Nat}
    {U : Unit} {G : Group} (hc : s.cur = .group u g) (hg : s.group? u g = some (U, G)) (hu : U.usableAll uses = true)
    (hi : s.interlocked u g uses = false) (ho : ok U G = true) : privStep ok uses s k = k u g U G := by
  rw [privStep, issue_runs hc hg hu hi, if_pos ho]

/-- A privileged instruction elsewhere traps with PRIV (R201). -/
theorem privStep_traps {ok : Unit → Group → Bool} {uses : Uses} {s : State} {k : Nat → Nat → Unit → Group → Out} {u g : Nat}
    {U : Unit} {G : Group} (hc : s.cur = .group u g) (hg : s.group? u g = some (U, G)) (hu : U.usableAll uses = true)
    (hi : s.interlocked u g uses = false) (ho : ok U G = false) :
    privStep ok uses s k = .next (s.takeTrap u g (groupTrap G 3 G.pc.toNat)) := by
  rw [privStep, issue_runs hc hg hu hi, if_neg (by simp [ho])]; rfl

/-- Where every lane passes, the access is made. -/
theorem withLanes_ok {s s1 : State} {u g : Nat} {U : Unit} {G : Group} {align : Nat} {acc : Acc} {extra : State → Nat → Option Nat}
    {eas : List (Nat × Nat)} {oks : List LaneOk} {k : List LaneOk → State → Out}
    (h : checkLanes U G align acc extra eas s = (s1, oks, [])) : withLanes s u g U G align acc extra eas k = k oks s1 := by
  simp [withLanes, h]

/-- Where a lane fails, the trap is all that happens (R21). -/
theorem withLanes_fail {s s1 : State} {u g : Nat} {U : Unit} {G : Group} {align : Nat} {acc : Acc} {extra : State → Nat → Option Nat}
    {eas : List (Nat × Nat)} {oks : List LaneOk} {f : LaneFail} {fs : List LaneFail} {k : List LaneOk → State → Out}
    (h : checkLanes U G align acc extra eas s = (s1, oks, f :: fs)) :
    withLanes s u g U G align acc extra eas k = s.trapLanes u g U.ctx G (f :: fs) := by
  simp [withLanes, h]

/-- An instruction that works in registers alone changes its group's registers and goes on (R14, R20). -/
theorem groupAlu_runs {x : Alu} {s : State} {u g : Nat} {U : Unit} {G : Group} (hc : s.cur = .group u g)
    (hg : s.group? u g = some (U, G)) (hp : x.pre (s.env U G) = none) (hu : U.usableAll (x.uses (s.env U G)) = true)
    (hi : s.interlocked u g (x.uses (s.env U G)) = false) :
    aluStep x s = .next (s.modGroup u g fun H => ((H.putRegs (x.run (s.env U G) G.regs)).done x.h s.clock).adv) := by
  simp only [aluStep, hc, groupAlu]
  rw [issueEnv_runs hc hg hp hu hi, State.finish, State.modGroup_modGroup]
  rfl

/-! ### Queue programs and packets (R386, R401) -/

/-- A queue-program instruction runs in its queue. -/
theorem progStep_runs {s : State} {k : Queue → State} {q : Nat} {Q : Queue} (hc : s.cur = .queue q) (hq : s.queue? q = some Q) :
    progStep s k = .next (k Q) := by
  simp [progStep, hc, hq]

/-- A next state of a queue-program instruction is its effect on its queue. -/
theorem progStep_next {s t : State} {k : Queue → State} (h : progStep s k = .next t) :
    ∃ q Q, s.cur = .queue q ∧ s.queue? q = some Q ∧ t = k Q := by
  unfold progStep at h
  split at h
  · next q hc =>
    split at h
    · simp at h
    · next Q hq => exact ⟨q, Q, hc, hq, by simpa using h.symm⟩
  · simp at h
  · simp at h
  · simp at h

/-- A packet of the standard program has its effect where its header breaks no rule. -/
theorem packetStep_runs {p : Packet} {s : State} {std : Queue → State} {q : Nat} {Q : Queue} (hc : s.cur = .queue q)
    (hq : s.queue? q = some Q) (hp : Q.prog = 0) (hr : p.rsv = 0) (h1 : p.rels ≠ 3) (h2 : p.acqs ≠ 3) (hl : p.len = 0)
    (h8 : p.q38.toNat % 8 = 0) : packetStep p s std = .next (std Q) := by
  simp [packetStep, hc, hq, hp, hr, hl, h8]
  rintro (h | h)
  · exact absurd h h1
  · exact absurd h h2

/-! ### The step (log entry 2) -/

/-- Going on from an outcome answers a next state only where the outcome does. -/
theorem thenState_next {o : Out} {f : State → State} {t : State} : thenState o f = .next t ↔ ∃ s, o = .next s ∧ t = f s := by
  cases o <;> simp [thenState, eq_comm]

/-- Time passes by what is due, or by a cycle. -/
theorem passTime_next {s t : State} {r : List Entry} : s.passTime r = .next t ↔
    (∃ d, s.due = some d ∧ ({ s with cur := .front } : State).perform d = .next t) ∨
    (s.due = none ∧ t = { s with agenda := r, clock := s.clock + 1, cur := .front }) := by
  cases hd : s.due with
  | none => simpa [State.passTime, hd] using eq_comm
  | some d => simp [State.passTime, hd]

/-- A WAITC that is to read comes first in a cycle (R132, R338). -/
theorem step_first {s : State} {d : Due} (h : s.firstDue = some d) :
    step s = thenState (({ s with cur := .front } : State).perform d) State.tally := by
  simp [step, h]

/-- The turn whose time has come is taken. -/
theorem step_turn {s : State} {e : Entry} {r : List Entry} (hf : s.firstDue = none) (h : s.agenda = e :: r) (hd : e.dt = 0) :
    step s = thenState (({ s with agenda := r, cur := .front } : State).turn e.turn) State.tally := by
  simp [step, hf, h, hd]

/-- While the time of the agenda's head has not come, time passes. -/
theorem step_waits {s : State} {e : Entry} {r : List Entry} (hf : s.firstDue = none) (h : s.agenda = e :: r) (hd : e.dt ≠ 0) :
    step s = thenState (s.passTime ({ e with dt := e.dt - 1 } :: r)) State.tally := by
  simp [step, hf, h, hd]

/-- With an empty agenda and nothing due a cycle passes. -/
theorem step_idle {s : State} (hf : s.firstDue = none) (h : s.agenda = []) (hd : s.due = none) :
    step s = .next ({ s with agenda := [], clock := s.clock + 1, cur := .front } : State).tally := by
  simp [step, hf, h, State.passTime, hd, thenState]

/-- Everything a step does when it answers a next state: a turn, what is due, or a cycle; then readiness is observed. -/
theorem step_cases {s t : State} (h : step s = .next t) :
    ∃ t0, t = t0.tally ∧
      ((∃ e r, s.agenda = e :: r ∧ e.dt = 0 ∧ ({ s with agenda := r, cur := .front } : State).turn e.turn = .next t0) ∨
       (∃ d, (s.firstDue = some d ∨ s.due = some d) ∧ ({ s with cur := .front } : State).perform d = .next t0) ∨
       (s.due = none ∧ ∃ r, t0 = { s with agenda := r, clock := s.clock + 1, cur := .front })) := by
  obtain ⟨t0, h0, ht⟩ := thenState_next.mp h
  refine ⟨t0, ht, ?_⟩
  have time {r : List Entry} (h1 : s.passTime r = .next t0) :
      (∃ d, (s.firstDue = some d ∨ s.due = some d) ∧ ({ s with cur := .front } : State).perform d = .next t0) ∨
      (s.due = none ∧ ∃ r, t0 = { s with agenda := r, clock := s.clock + 1, cur := .front }) := by
    obtain ⟨d, hd, hp⟩ | ⟨hd, hp⟩ := passTime_next.mp h1
    · exact .inl ⟨d, .inr hd, hp⟩
    · exact .inr ⟨hd, _, hp⟩
  split at h0
  · next d hf => exact .inr (.inl ⟨d, .inl hf, h0⟩)
  · split at h0
    · exact .inr (time h0)
    · next e r ha =>
      split at h0
      · next hz => exact .inl ⟨e, r, ha, hz, h0⟩
      · exact .inr (time h0)

/-- A group that its quarter chooses executes the instruction it fetched. -/
theorem groupTurn_issues {s s1 : State} {u g : Nat} {U : Unit} {G : Group} {i : Instr} (hg : s.group? u g = some (U, G))
    (hf : s.fetchGroup u g = .got i s1) (hw : ∀ k, G.st ≠ .waiting k) (hp : s1.picks U g G = true) :
    s.groupTurn u g = thenState (execAs (.group u g) i s1) fun t => t.afterIssue u g U G := by
  unfold State.groupTurn
  simp only [hg, hf]
  split
  · next k hk => exact absurd hk (hw k)
  all_goals simp [hp]

/-- A queue executes what it fetched. -/
theorem queueTurnOf_runs {s s1 : State} {q : Nat} {i : Instr} (hf : s.fetchQueue q = .got i s1) :
    s.queueTurnOf q = execAs (.queue q) i s1 := by
  simp [State.queueTurnOf, hf]

@[simp] theorem turn_issue (s : State) (u g : Nat) : s.turn (.issue u g) = s.groupTurn u g := rfl
@[simp] theorem turn_qstep (s : State) (q : Nat) : s.turn (.qstep q) = s.queueTurnOf q := rfl
@[simp] theorem turn_drop (s : State) (d : DropItem) : s.turn (.drop d) = .next (s.dropItem d) := rfl
theorem turn_event (s : State) (i : Instr) : s.turn (.event i) = if isEvent i then execAs .front i s else .next s := rfl

end Sys2Proof.Machine
end

