-- ==== Sys2Proof/Tests/Slice0.lean ====
section
/-! SUPPORT. Tests: ill-formed instructions that the checks refuse, words that decode as the manual's encoding tables say, single
steps, and for every statement with hypotheses a state that meets them. -/
namespace Sys2Proof.Tests

open Sys2Proof Sys2Proof.Machine

-- One test at a time: tests that wait for one another would each hold a thread and its stack.
set_option Elab.async false

/-! ### Well-formedness: a refused term for each check (R20, steps 3 and 4) -/

/-- A header with guard PT. -/
def hd : Hd := ⟨15, false, 0, false, 0, 0⟩
/-- A header with another guard. -/
def hdP3 : Hd := ⟨3, false, 0, false, 0, 0⟩
/-- Operands. -/
def v (i : BitVec 12) : Opnd := ⟨.vec, i⟩
/-- A scalar. -/
def sc (i : BitVec 12) : Opnd := ⟨.scal, i⟩
/-- A predicate. -/
def pr (i : BitVec 12) : Opnd := ⟨.pred, i⟩
/-- An address register. -/
def ad (i : BitVec 12) : Opnd := ⟨.addr, i⟩
/-- A short immediate. -/
def im (i : BitVec 12) : Opnd := ⟨.simm, i⟩
/-- A vector pair. -/
def vp (i : BitVec 12) : Opnd := ⟨.pair, i⟩
/-- A vector quad. -/
def vq (i : BitVec 12) : Opnd := ⟨.quad, i⟩
/-- No operand. -/
def zz : Opnd := ⟨.zero, 0⟩

/-- R28: MOD values that an integer or floating-point entry does not accept. -/
theorem test_wf_mod_arith :
    (Instr.add hd ⟨.i32, true, 0⟩ ⟨v 1, v 2, .ops (v 3) zz⟩).wf = true ∧
    (Instr.add hd ⟨.i32, true, 1⟩ ⟨v 1, v 2, .ops (v 3) zz⟩).modOk = false ∧
    (Instr.rem hd ⟨.i32, true, 0⟩ ⟨v 1, v 2, .ops (v 3) zz⟩).modOk = false ∧
    (Instr.and hd ⟨.n32, false, 0⟩ ⟨v 1, v 2, .ops (v 3) zz⟩).modOk = false ∧
    (Instr.mad hd ⟨.i32, false, 0⟩ ⟨v 1, v 2, .imm 5⟩).modOk = false ∧
    (Instr.movi hd ⟨.i32, false, 0⟩ ⟨v 1, zz, .ops (v 3) zz⟩).modOk = false ∧
    (Instr.lea hd ⟨.i32, false, 5⟩ ⟨vp 2, ad 1, .imm 5⟩).modOk = false ∧
    (Instr.fmin hd ⟨.f32, .ru, false, false, false⟩ ⟨v 1, v 2, .ops (v 3) zz⟩).modOk = false ∧
    (Instr.fsqrt hd ⟨.f32, .rn, false, false, true⟩ ⟨v 1, v 2, .ops zz zz⟩).modOk = false ∧
    (Instr.fex2 hd ⟨.f64, .rn, false, false, false⟩ ⟨vp 2, vp 4, .ops zz zz⟩).modOk = false ∧
    (Instr.ffma hd ⟨.f32, .rn, false, false, false⟩ ⟨v 1, v 2, .imm 0⟩).modOk = false := by decide

/-- R29, R30, R94, R99, R110, R137: MOD values of the other families. -/
theorem test_wf_mod_other :
    (Instr.cvt hd ⟨.f16, .f16, 0, false, false, .rn⟩ (v 1) (v 2)).modOk = false ∧
    (Instr.cvt hd ⟨.f16, .f32, 3, false, false, .rn⟩ (v 1) (v 2)).modOk = false ∧
    (Instr.cvt hd ⟨.f16, .f32, 0, true, false, .rz⟩ (v 1) (v 2)).modOk = false ∧
    (Instr.cvt hd ⟨.i16, .i32, 0, false, false, .rz⟩ (v 1) (v 2)).modOk = false ∧
    (Instr.cvts hd ⟨.i64, .f32, 0, false, false, .rn⟩ (vq 4) (vq 8)).modOk = false ∧
    (Instr.bfpk hd ⟨.f16, .f32, 0, false, false, .rn⟩ (vp 2) (v 2)).modOk = false ∧
    (Instr.bfpx hd ⟨.i32, .slot, 0, false, false, .rn⟩ (v 2) (vp 2)).modOk = false ∧
    (Instr.qscl hd ⟨.i32, .f16, 0, false, false, .rn⟩ (v 2) (vp 2)).modOk = false ∧
    (Instr.lreduce hd ⟨.xor, .f32, .rn⟩ ⟨v 1, v 2, zz, zz⟩).modOk = false ∧
    (Instr.lscan hd ⟨.min, .f32, .ru⟩ ⟨v 1, v 2, zz, zz⟩).modOk = false ∧
    (Instr.join hdP3).modOk = false ∧ (Instr.rte hdP3 ⟨zz, zz, zz, zz⟩).modOk = false ∧
    (Instr.ld hd ⟨.b32, .dev, .acqrel⟩ ⟨v 1, ad 2, zz, zz⟩).modOk = false ∧
    (Instr.lds hd ⟨.b32, .dev, .rlx⟩ ⟨v 1, ad 2, zz, zz⟩).modOk = false ∧
    (Instr.ldm hd ⟨.b64, .grp, .rlx⟩ ⟨⟨.acc, 0⟩, ad 2, im 0, zz⟩).modOk = false ∧
    (Instr.red hd ⟨.b32, .dev, .sc⟩ ⟨v 1, ad 2, zz, im 0⟩).modOk = false ∧
    (Instr.cpyg hd ⟨1, false, 0⟩ ⟨ad 1, ad 2, v 3, zz⟩).modOk = false ∧
    (Instr.cpy hd ⟨0, false, 4⟩ ⟨ad 1, ad 2, im 16, zz⟩).modOk = false := by decide

/-- R22 to R24: operand classes and indices. -/
theorem test_wf_operands :
    (Instr.add hd ⟨.i32, false, 0⟩ ⟨v 256, v 2, .ops (v 3) zz⟩).opsOk = false ∧
    (Instr.add hd ⟨.i64, false, 0⟩ ⟨v 2, vp 2, .ops (vp 4) zz⟩).opsOk = false ∧
    (Instr.add hd ⟨.i64, false, 0⟩ ⟨vp 3, vp 2, .ops (vp 4) zz⟩).opsOk = false ∧
    (Instr.add hd ⟨.i64, false, 0⟩ ⟨sc 3, vp 2, .ops (vp 4) zz⟩).opsOk = false ∧
    (Instr.add hd ⟨.i32, false, 0⟩ ⟨im 3, v 2, .ops (v 4) zz⟩).opsOk = false ∧
    (Instr.add hd ⟨.i32, false, 0⟩ ⟨v 3, v 2, .ops (v 4) (v 5)⟩).opsOk = false ∧
    (Instr.add hd ⟨.i32, false, 0⟩ ⟨v 3, v 2, .ops ⟨.zero, 1⟩ zz⟩).opsOk = false ∧
    (Instr.fadd hd ⟨.f32, .rn, false, false, false⟩ ⟨v 1, v 2, .ops (im 3) zz⟩).opsOk = false ∧
    (Instr.sel hd ⟨.i32, false, 0⟩ ⟨v 1, v 2, .ops (v 3) (v 4)⟩).opsOk = false ∧
    (Instr.plut hd 3 ⟨pr 16, pr 1, pr 2, pr 3⟩).opsOk = false ∧
    (Instr.ld hd ⟨.b128, .grp, .rlx⟩ ⟨vq 2, ad 2, zz, zz⟩).opsOk = false ∧
    (Instr.ld hd ⟨.b32, .grp, .rlx⟩ ⟨sc 2, ad 2, v 1, zz⟩).opsOk = false ∧
    (Instr.ld hd ⟨.b32, .grp, .rlx⟩ ⟨v 2, sc 2, zz, zz⟩).opsOk = false ∧
    (Instr.atom hd ⟨.b32, .dev, .rlx⟩ ⟨vp 2, ad 2, zz, im 15⟩).opsOk = false ∧
    (Instr.atom hd ⟨.b64, .dev, .rlx⟩ ⟨vq 4, ad 2, zz, im 12⟩).opsOk = false ∧
    (Instr.cpyt hd ⟨0, false, 0⟩ ⟨ad 1, sc 3, zz, zz⟩).opsOk = false ∧
    (Instr.blut hd ⟨.i32, false, 0⟩ ⟨v 1, v 2, .ops (v 3) (im 256)⟩).opsOk = false ∧
    (Instr.sread hd ⟨v 1, ⟨.sreg, 15⟩, zz, zz⟩).opsOk = false ∧ (Instr.sread hd ⟨v 1, ⟨.sreg, 7⟩, zz, zz⟩).opsOk = false ∧
    (Instr.swrite hd ⟨⟨.sreg, 10⟩, sc 1, zz, zz⟩).opsOk = false ∧
    (Instr.lreduce hd ⟨.min, .i32, .rn⟩ ⟨v 1, v 2, zz, im 2⟩).opsOk = false := by decide

/-- R33, R197: a hint-region word stands under the constructor whose fields it has. -/
theorem test_wf_hint :
    (Instr.hpref hd ⟨32, 0⟩).wf = true ∧ (Instr.hpref hd ⟨33, 0⟩).wf = false ∧ (Instr.hintRegionNop hd 0 ⟨33, 0⟩).wf = true ∧
    (Instr.hintRegionNop hd 0 ⟨32, 0⟩).wf = false ∧ (Instr.hintRegionNop hd 2 ⟨0, 0⟩).wf = false ∧
    (Instr.hprio hd ⟨0, 0xF000_F000_7003_F000⟩).wf = true ∧ (Instr.hprio hd ⟨0, 0xF000_F000_7004_F000⟩).wf = false := by decide

/-! ### Decoding: words written out from the encoding tables (R9, R16, R22, R28 to R31, R383, R395) -/

/-- Floating point and conversions: FADD.RZ v1, v2, v3; CVT f16 from f32; BFPK to slot 3; FFMA.f64 with FTZ. -/
theorem test_decode_float :
    decode96 0x4008_F000_0001_0002_0003_F000 =
      .ok (.fadd hd ⟨.f32, .rz, false, false, false⟩ ⟨v 1, v 2, .ops (v 3) zz⟩) ∧
    decode96 0x5810_F000_0001_0002_0000_0000 = .ok (.cvt hd ⟨.f16, .f32, 0, false, false, .rn⟩ (v 1) (v 2)) ∧
    decode96 0x5AF0_F000_A002_0004_0000_0030 = .ok (.bfpk hd ⟨.slot, .f32, 3, false, false, .rn⟩ (vp 2) (v 4)) ∧
    decode96 0x4364_F000_A002_A004_A006_A008 =
      .ok (.ffma hd ⟨.f64, .rn, true, false, false⟩ ⟨vp 2, vp 4, .ops (vp 6) (vp 8)⟩) ∧
    decode96 0x5810_F000_0001_0002_0000_0080 = .error .illop := by decide

/-- Predicates and lane exchange: ITEST.n32.le with guard !p14; PLUT; BCAST. -/
theorem test_decode_predicates :
    decode96 0x8013_F000_200E_1000_7001_200F = .ok (.itest hd .n32 false .le ⟨pr 14, sc 0, im 1, pr 15⟩) ∧
    decode96 0x82A5_4000_2001_2002_2003_2004 = .ok (.plut ⟨4, false, 0, false, 0, 0⟩ 0xA5 ⟨pr 1, pr 2, pr 3, pr 4⟩) ∧
    decode96 0x8900_F000_0001_0002_7005_F000 = .ok (.bcast hd ⟨v 1, v 2, im 5, zz⟩) := by decide

/-- Memory and copies: a load with release order refused, ST.b64, CPY with its queue slot, BINIT. -/
theorem test_decode_memory :
    decode96 0xA160_F000_A004_3003_0007_7008 = .ok (.st hd ⟨.b64, .grp, .rlx⟩ ⟨vp 4, ad 3, v 7, im 8⟩) ∧
    decode96 0xA042_F000_0003_3002_F000_F000 = .error .illop ∧
    decode96 0xC000_F000_3001_3002_7010_F000 = .ok (.cpy hd ⟨0, false, 0⟩ ⟨ad 1, ad 2, im 16, zz⟩) ∧
    decode96 0xC400_F000_F000_3001_7004_7010 = .ok (.binit hd ⟨zz, ad 1, im 4, im 16⟩) := by decide

/-- Control, matrix, spatial and system words; a zero word and unassigned opcodes. -/
theorem test_decode_system :
    decode96 0x9000_E800_F000_0000_0000_0001 = .ok (.bra ⟨14, true, 0, false, 0, 0⟩ 0 1) ∧
    decode96 0xD000_F000_1002_3001_F000_7040 = .ok (.mxpost hd ⟨sc 2, ad 1, zz, im 64⟩) ∧
    decode96 0xE000_F000_F000_F000_7001_F000 = .ok (.spaton hd ⟨zz, zz, im 1, zz⟩) ∧
    decode96 0xF000_F000_F000_F000_7005_F000 = .ok (.trap hd ⟨zz, zz, im 5, zz⟩) ∧
    decode96 0xF100_F000_1004_8007_F000_F000 = .ok (.sread hd ⟨sc 4, ⟨.sreg, 7⟩, zz, zz⟩) ∧
    decode96 0 = .ok (.unassignedOpcode 0) ∧ opAssigned 0x26 = false ∧ opAssigned 0xFF = false ∧
    decode96 0x01F8_F000_0005_0006_0007_C000 ≠ .error .illop := by decide

/-- Queue programs and packets: JMP -1, LDW w1 from window 2, and the TYPE byte of a SIGNAL packet. -/
theorem test_decode_queue :
    decodeQ 0x8803_FFFF = some (.jmp (-1)) ∧ decodeQ 0x0000_0000 = none ∧
    decodePacket 0x0007_1004 = some (.signal ⟨0, 0, 7, 0, false, 2, 0, false, 0, 0, 0, 0, 0, 0, 0⟩) := by decide +kernel

/-- The host's numbering of a table row's word gives the row's instruction. -/
theorem test_decode_table_word : decodeTableWord 32 0x0848_0001 = some (.addq 1 2 1) := by decide

/-- What is encoded decodes again, for one word of each form. -/
theorem test_encode :
    encode96 (.cpy hd ⟨0, false, 0⟩ ⟨ad 1, ad 2, im 16, zz⟩) = some 0xC000_F000_3001_3002_7010_F000 ∧
    encodeQ (.jmp (-1)) = some 0x8803_FFFF ∧ (encode .tlbcmdAll).isSome = false := by decide

/-! ### States that meet the hypotheses of the statements -/

/-- A group at its unit's entry with no seeds. -/
def G0 : Group := newGroup 0 false [] 0
/-- The unit of `unitAt` with that group alone: 256 vector and 64 scalar registers, 9 scratchpad granules. -/
def U0 : Machine.Unit := { unitAt 0 with groups := [G0] }
/-- The machine in which group 0 of one unit executes. -/
def at0 (U : Machine.Unit) : State := { State.reset with units := [U], cur := .group 0 0 }
/-- The same with its group changed. -/
def U1 (G : Group) : Machine.Unit := { U0 with groups := [G] }
/-- The first 2 MiB of context 0 lie at physical 2 MiB. -/
def mapped (s : State) : State := { s with tlb := [⟨.last 0, 0, 0, 2097152, 2097152, true, true, false, true, false⟩] }
/-- Operands at the ends of their ranges. -/
def wArgs : Args := ⟨vp 254, vp 0, .ops (sc 62) (v 255)⟩

theorem witness_integer : Runs (at0 U0) 0 0 U0 G0 ∧ ∀ wd wa wb, Clear (at0 U0) 0 0 U0 (wArgs.uses wd wa wb false) :=
  ⟨⟨rfl, rfl⟩, fun wd wa wb => by cases wd <;> cases wa <;> cases wb <;> exact ⟨rfl, rfl⟩⟩

theorem witness_integer_wide_c : Clear (at0 U0) 0 0 U0 ((⟨vp 254, vp 0, .ops (sc 62) (vp 254)⟩ : Args).uses true true true true) :=
  ⟨rfl, rfl⟩

theorem witness_element_laws : 3 < elemN IType.n8x4 ∧ (7 : Nat) < 2 ^ 3 ∧ (3 : Nat) ≤ 3 ∧ (-1 : Int) ≠ 0 ∧ (0 : Nat) < 1 := by decide

theorem witness_conversions :
    Runs (at0 U0) 0 0 U0 G0 ∧
    (cvtOp hd ⟨.f16, .f64, 0, false, false, .rn⟩ (v 255) (vp 254)).pre ((at0 U0).env U0 G0) = none ∧
    Clear (at0 U0) 0 0 U0 ((cvtOp hd ⟨.f16, .f64, 0, false, false, .rn⟩ (v 255) (vp 254)).uses ((at0 U0).env U0 G0)) ∧
    (cvtsOp hd ⟨.e4m3, .f32, 0, false, false, .rn⟩ (v 255) (vq 252)).pre ((at0 U0).env U0 G0) = none ∧
    Clear (at0 U0) 0 0 U0 ((cvtsOp hd ⟨.e4m3, .f32, 0, false, false, .rn⟩ (v 255) (vq 252)).uses ((at0 U0).env U0 G0)) ∧
    (qsclOp hd ⟨.f32, .f16, 0, false, false, .rn⟩ (v 1) (vp 2)).pre ((at0 U0).env U0 G0) = none ∧
    Clear (at0 U0) 0 0 U0 ((qsclOp hd ⟨.f32, .f16, 0, false, false, .rn⟩ (v 1) (vp 2)).uses ((at0 U0).env U0 G0)) ∧
    (bfpkOp hd ⟨.slot, .f32, 7, false, false, .rn⟩ (vp 2) (v 4)).pre ((at0 U0).env U0 G0) = some 2 ∧
    (bfpxOp hd ⟨.f32, .slot, 7, false, false, .rn⟩ (v 2) (vp 4)).pre ((at0 U0).env U0 G0) = some 2 :=
  ⟨⟨rfl, rfl⟩, rfl, ⟨rfl, rfl⟩, rfl, ⟨rfl, rfl⟩, rfl, ⟨rfl, rfl⟩, rfl, rfl⟩

/-- A launch whose format slots hold a word. -/
def slotLaunch (w : Word) : Launch :=
  { id := 1, queue := 0, packet := 0, recAddr := 0, ctx := 0, khdr := 0, part := 0, gx := 1, gy := 1, gz := 1, shape := 0, cast := 0,
    hint := 0, maxc := 0, pmode := 0, retracts := [], fs := [w, w, w, w, w, w, w, w], banks := [], tmap := 0, graph := 0, phase := 0,
    job := 0, csig := 0, prio := 0, deadlineAt := none, stages := [], needPolicy := false, startedAt := 0, evalAt := 0, nunits := 1,
    pred := 1, trueCount := none, bound := false, boundAtStart := false, cancelled := false, aborted := false, sigAbort := false,
    uncorr := false, faulted := none, failing := none, done := false, leaves := false, status := 0, patches := [], home := some 0,
    acq := false, base := 0 }

/-- The unit's launch is there. -/
def atSlots : State := { at0 U0 with launches := [slotLaunch 0x288F] }

theorem witness_block_conversions :
    Runs atSlots 0 0 U0 G0 ∧
    (bfpkOp hd ⟨.slot, .f32, 7, false, false, .rn⟩ (vp 254) (v 255)).pre (atSlots.env U0 G0) = none ∧
    Clear atSlots 0 0 U0 ((bfpkOp hd ⟨.slot, .f32, 7, false, false, .rn⟩ (vp 254) (v 255)).uses (atSlots.env U0 G0)) ∧
    (bfpxOp hd ⟨.f32, .slot, 0, false, false, .rn⟩ (v 255) (vp 254)).pre (atSlots.env U0 G0) = none ∧
    Clear atSlots 0 0 U0 ((bfpxOp hd ⟨.f32, .slot, 0, false, false, .rn⟩ (v 255) (vp 254)).uses (atSlots.env U0 G0)) :=
  ⟨⟨rfl, rfl⟩, rfl, ⟨rfl, rfl⟩, rfl, ⟨rfl, rfl⟩⟩

/-- The block format of the slot, in units of 32 lanes and of 16. -/
theorem witness_conversion_results :
    (∀ U ∈ [U0, { U0 with cm16 := true }], let e := atSlots.env U G0
     (e.slot 7).block = true ∧ (e.slot 7).len ≤ e.lanes ∧ (e.lanes = 16 ∨ e.lanes = 32)) ∧
    (Machine.Fmt.ffmt .f16).isSome = true ∧ (Machine.Fmt.ffmt .f32).isSome = true := by decide +kernel

/-- Operands of the predicate and lane exchange instructions at the ends of their ranges. -/
theorem witness_predicates :
    Runs (at0 U0) 0 0 U0 G0 ∧ Clear (at0 U0) 0 0 U0 [(vp 254, 2), (sc 62, 2)] ∧ Clear (at0 U0) 0 0 U0 [(v 255, 1), (sc 63, 1)] ∧
    Clear (at0 U0) 0 0 U0 [] ∧ Clear (at0 U0) 0 0 U0 [(v 255, 1)] ∧ Clear (at0 U0) 0 0 U0 [(vp 254, 2), (vp 0, 2), (im 31, 1), (zz, 1)] ∧
    ((vp 2).cls == .pair) = true ∧ ((v 2).cls == .pair) = false ∧ Clear (at0 U0) 0 0 U0 [(sc 62, 2), (vp 254, 2)] :=
  ⟨⟨rfl, rfl⟩, ⟨rfl, rfl⟩, ⟨rfl, rfl⟩, ⟨rfl, rfl⟩, ⟨rfl, rfl⟩, ⟨rfl, rfl⟩, rfl, rfl, ⟨rfl, rfl⟩⟩

theorem witness_exchange_laws : (16 = 16 ∨ 16 = 32) ∧ 15 < 16 ∧ 31 < 32 ∧ XMode.xor ≠ .idx ∧
    (⟨.add, .n64, .rn⟩ : RedMod).ty.isFloat = false ∧ zz.cls ≠ .simm := by decide

/-- An environment of 32 lanes, all active. -/
def env0 : Env := (at0 U0).env U0 G0

theorem witness_write_op :
    (⟨[(5, 7)], [(0, 1)], [], [(3, 1)], [], []⟩ : Regs).ok ∧ env0.lanes ≤ 32 ∧
    (∃ ls, activeLanes env0 ⟨[], [], [], [], [], []⟩ hd = 0 :: ls) ∧
    activeLanes env0 ⟨[], [], [], [], [], []⟩ hdP3 = [] ∧ (31 : Nat) ∈ activeLanes env0 ⟨[], [], [], [], [], []⟩ hd :=
  ⟨⟨rfl, rfl, rfl, rfl, rfl⟩, by decide, ⟨_, rfl⟩, rfl, by decide⟩

theorem witness_supervisor_set :
    ({ G0 with sup := true, s := [(0, 4)] } : Group).ok ∧ (⟨[(5, 7)], [(0, 1)], [(15, 3)], [(14, 1)], [], []⟩ : Regs).ok ∧ G0.ok :=
  ⟨⟨rfl, rfl, rfl, rfl, rfl⟩, ⟨rfl, rfl, rfl, rfl, rfl⟩, ⟨rfl, rfl, rfl, rfl, rfl⟩⟩

theorem witness_register_instructions :
    Runs (at0 U0) 0 0 U0 G0 ∧ aluHd (.add hd ⟨.i32, false, 0⟩ ⟨v 1, v 2, .ops (v 3) zz⟩) = some hd ∧
    ∃ t, exec (.add hd ⟨.i32, false, 0⟩ ⟨v 1, v 2, .ops (v 3) zz⟩) (at0 U0) = .next t :=
  ⟨⟨rfl, rfl⟩, rfl, ⟨_, rfl⟩⟩

theorem witness_completing : (at0 U0).group? 0 0 = some (U0, G0) ∧ spOk 0 G0.perf = true := ⟨rfl, rfl⟩

/-- A unit of four vector registers. -/
def Unarrow : Machine.Unit := { U0 with nv := 4 }
/-- A load of register v5 in flight. -/
def atLoad : State := { at0 U0 with loads := [⟨0, 0, 0, 0, 0, [⟨5 * 32, false, 0, 0, 4⟩], false, 0, none⟩] }

theorem witness_bad_operands :
    Runs (at0 Unarrow) 0 0 Unarrow G0 ∧ Unarrow.usableAll ((⟨v 4, v 0, .ops (v 1) zz⟩ : Args).uses false false false false) = false ∧
    Runs atLoad 0 0 U0 G0 ∧ U0.usableAll ((⟨v 1, v 5, .ops (v 6) zz⟩ : Args).uses false false false false) = true ∧
    atLoad.interlocked 0 0 ((⟨v 1, v 5, .ops (v 6) zz⟩ : Args).uses false false false false) = true ∧
    (let i := Instr.bfpk hd ⟨.slot, .f32, 7, false, false, .rn⟩ (vp 2) (v 4)
     ∃ y, groupOp i = some y ∧ y.pre ((at0 U0).env U0 G0) = some 2) ∧
    (let i := Instr.cvt hd ⟨.f16, .f32, 0, false, false, .rn⟩ (v 1) (v 5)
     ∃ y, groupOp i = some y ∧ y.pre ((at0 Unarrow).env Unarrow G0) = none ∧ Unarrow.usableAll (y.uses ((at0 Unarrow).env Unarrow G0)) = false ∧
       y.pre (atLoad.env U0 G0) = none ∧ U0.usableAll (y.uses (atLoad.env U0 G0)) = true ∧
       atLoad.interlocked 0 0 (y.uses (atLoad.env U0 G0)) = true) :=
  ⟨⟨rfl, rfl⟩, rfl, ⟨rfl, rfl⟩, rfl, by decide, ⟨_, rfl, rfl⟩, ⟨_, rfl, rfl, rfl, rfl, rfl, by decide⟩⟩

theorem witness_branches :
    Runs (at0 U0) 0 0 U0 G0 ∧ Clear (at0 U0) 0 0 U0 [(v 255, 1)] ∧ activeLanes ((at0 U0).env U0 G0) G0.regs hd ≠ [] ∧
    ∀ l ∈ activeLanes ((at0 U0).env U0 G0) G0.regs hd, rd32 ((at0 U0).env U0 G0) G0.regs (v 255) l < 65536 :=
  ⟨⟨rfl, rfl⟩, ⟨rfl, rfl⟩, by decide, by decide +kernel⟩

/-- A group that has diverged: lanes 0 to 15 active, 16 to 31 waiting. -/
def Gsplit : Group := { G0 with mask := 0xFFFF, split := [⟨4, 0, 0xFFFF0000⟩] }

theorem witness_divergence :
    Runs (at0 (U1 Gsplit)) 0 0 (U1 Gsplit) Gsplit ∧ Gsplit.laneSets.Pairwise (fun a b => a &&& b = 0) ∧
    ∃ t V H, exec (.bra hdP3 3 2) (at0 (U1 Gsplit)) = .next t ∧ t.group? 0 0 = some (V, H) :=
  ⟨⟨rfl, rfl⟩, by decide, ⟨_, _, _, rfl, rfl⟩⟩

theorem witness_control_flow :
    Runs (at0 U0) 0 0 U0 G0 ∧ Clear (at0 U0) 0 0 U0 [(sc 63, 1)] ∧ U0.barArr.contains 0 = false ∧ (at0 U0).quiet 0 0 = true ∧ Clear (at0 U0) 0 0 U0 [(im 2047, 1)] ∧
    ∃ ls, activeLanes ((at0 U0).env U0 G0) G0.regs hd = 0 :: ls :=
  ⟨⟨rfl, rfl⟩, ⟨rfl, rfl⟩, rfl, rfl, ⟨rfl, rfl⟩, ⟨_, rfl⟩⟩

/-- Lane 0 alone is active; a1 is 8 bytes below the end of the mapped page, a2 is 1, a3 is 16. -/
def G1 : Group := { G0 with mask := 1, a := [(1, 2097144), (2, 1), (3, 16)] }
/-- A machine in which that group executes with its page mapped. -/
def atMem : State := mapped (at0 (U1 G1))
/-- The same in a tentative unit. -/
def Utent : Machine.Unit := { U1 G1 with firm := false }
/-- The same between an .sc access and its fence. -/
def Gmid : Group := { G1 with mid := true }
/-- The access of one doubleword at a1. -/
def mm : MemMod := ⟨.b64, .dev, .rlx⟩

/-- The lanes of a check with no failure pass. -/
theorem pass_of {s : State} {U : Machine.Unit} {G : Group} {n : Nat} {acc : Acc} {extra : State → Nat → Option Nat}
    {eas : List (Nat × Nat)} (h : (checkLanes U G n acc extra eas s).2.2.isEmpty = true) :
    LanesPass s U G n acc extra eas (checkLanes U G n acc extra eas s).2.1 (checkLanes U G n acc extra eas s).1 :=
  Prod.ext rfl (Prod.ext rfl (List.isEmpty_iff.1 h))

theorem witness_failing_lanes :
    ([⟨3, 5, 64, none, 0⟩, ⟨31, 4, 65, none, 0⟩] : List LaneFail) ≠ [] ∧
    (∀ f ∈ ([⟨3, 5, 64, none, 0⟩, ⟨31, 4, 65, none, 0⟩] : List LaneFail), f.lane < 32) ∧
    ([⟨3, 5, 64, none, 0⟩, ⟨31, 4, 65, none, 0⟩] : List LaneFail).Pairwise (fun a b => a.lane < b.lane) :=
  ⟨by simp, by decide, by decide⟩

/-- The address a2 is misaligned for every size above a byte. -/
theorem witness_lane_fails :
    Runs atMem 0 0 (U1 G1) G1 ∧ Clear atMem 0 0 (U1 G1) [(vp 254, 2), (zz, 1)] ∧ atMem.acqBlocked 0 0 = false ∧ G1.mid = false ∧
    atMem.quiet 0 0 = true ∧
    (checkLanes (U1 G1) G1 8 .read noExtra (atMem.eas (U1 G1) G1 ⟨vp 254, ad 2, zz, zz⟩ 0 8 [0]) atMem).2.2.map (·.cause) = [4] ∧
    (checkLanes (U1 G1) G1 8 .write noExtra (atMem.eas (U1 G1) G1 ⟨vp 254, ad 2, zz, zz⟩ 0 8 [0]) atMem).2.2.map (·.cause) = [4] ∧
    walksWait (checkLanes (U1 G1) G1 8 .read noExtra (atMem.eas (U1 G1) G1 ⟨vp 254, ad 2, zz, zz⟩ 0 8 [0]) atMem).2.2 = false ∧
    walksWait (checkLanes (U1 G1) G1 8 .write noExtra (atMem.eas (U1 G1) G1 ⟨vp 254, ad 2, zz, zz⟩ 0 8 [0]) atMem).2.2 = false :=
  ⟨⟨rfl, rfl⟩, ⟨rfl, rfl⟩, rfl, rfl, rfl, by decide +kernel, by decide +kernel, by decide +kernel, by decide +kernel⟩

/-- Loads and stores of each order at the end of the page, by a firm and a tentative unit, and an .sc store's second half. -/
theorem witness_loads_and_stores :
    Runs atMem 0 0 (U1 G1) G1 ∧ Clear atMem 0 0 (U1 G1) [(vp 254, 2), (zz, 1)] ∧ atMem.acqBlocked 0 0 = false ∧
    atMem.quiet 0 0 = true ∧ atMem.unacked 0 0 = 0 ∧
    accessLanes false (activeLanes (atMem.env (U1 G1) G1) G1.regs hd) = [0] ∧
    accessLanes true (activeLanes (atMem.env (U1 G1) G1) G1.regs hd) = [0] ∧
    (let eas := atMem.eas (U1 G1) G1 ⟨vp 254, ad 1, zz, zz⟩ 0 8 [0]
     let r := checkLanes (U1 G1) G1 8 .read noExtra eas atMem
     LanesPass atMem (U1 G1) G1 8 .read noExtra eas r.2.1 r.1 ∧
     (r.1.tcCatchUp 0).coreLoads 0 +
      ((sectorsOf G1 (vp 254) 8 r.2.1).filter fun q => (r.1.tcCatchUp 0).sectorMiss 0 0 (U1 G1) q).length ≤ 2048 ∧
     (r.1.tcCatchUp 0).readRoom 0 ((sectorsOf G1 (vp 254) 8 r.2.1).map (·.pa)) = true) ∧
    (let eas := atMem.eas (U1 G1) G1 ⟨vp 254, ad 1, zz, zz⟩ 0 8 [0]
     let r := checkLanes (U1 G1) G1 8 .write noExtra eas atMem
     LanesPass atMem (U1 G1) G1 8 .write noExtra eas r.2.1 r.1 ∧
     r.1.storesHeld 0 0 (U1 G1) (storeBytes (storeVal (atMem.env (U1 G1) G1) G1.regs .b64 (vp 254)) 8 r.2.1) = false ∧
     ∃ t, exec (.st hd mm ⟨vp 254, ad 1, zz, zz⟩) atMem = .next t) :=
  ⟨⟨rfl, rfl⟩, ⟨rfl, rfl⟩, rfl, rfl, rfl, by decide, by decide, ⟨pass_of (by decide +kernel), by decide +kernel, by decide +kernel⟩,
    pass_of (by decide +kernel), by decide +kernel, ⟨_, rfl⟩⟩

theorem witness_tentative_and_sc_stores :
    Runs (mapped (at0 Utent)) 0 0 Utent G1 ∧
    (let r := checkLanes Utent G1 8 .write noExtra ((mapped (at0 Utent)).eas Utent G1 ⟨vp 254, ad 1, zz, zz⟩ 0 8 [0]) (mapped (at0 Utent))
     r.2.2.isEmpty = true ∧
       r.1.storesHeld 0 0 Utent (storeBytes (storeVal ((mapped (at0 Utent)).env Utent G1) G1.regs .b64 (vp 254)) 8 r.2.1) = false) ∧
    Runs (mapped (at0 (U1 Gmid))) 0 0 (U1 Gmid) Gmid ∧ Gmid.mid = true ∧ (mapped (at0 (U1 Gmid))).quiet 0 0 = true :=
  ⟨⟨rfl, rfl⟩, by decide +kernel, ⟨rfl, rfl⟩, rfl, rfl⟩

/-- A home line that holds the last 8 bytes of the page. -/
def atLine : State := { atMem with
  lines := [⟨⟨0, 0, 0, 4194296 / 256⟩, false, 0, [(0, 256, 4194304 - 256)], [(248, 9)], [248], 0, 0, none⟩] }

theorem witness_physical_write :
    atLine.Kept ∧ 4194296 % paMod + 8 ≤ paMod ∧ (paMod - 1) % paMod + 1 ≤ paMod ∧ State.reset.Kept :=
  ⟨⟨rfl, by decide, fun l hl => by simp only [atLine, List.mem_singleton] at hl; subst hl; exact ⟨by decide, rfl⟩⟩, by decide, by decide,
    ⟨rfl, by decide, fun l hl => by cases hl⟩⟩

theorem witness_physical_bytes : ∀ i j, i < j → j < 8 → atLine.memAt (4194296 + i) ≠ atLine.memAt (4194296 + j) := fun i j _ _ => by
  rw [State.memAt_of_lt (by omega), State.memAt_of_lt (by omega)]; omega

/-- A store of two bytes on its way to the last two bytes of the page. -/
def atStore : State := { atMem with stores := [⟨5, 0, 0, 0, 0, 2097150, 4194302, [(2097150, 1), (2097151, 2)], false, 0, none, none⟩] }

theorem witness_performed_store :
    ∃ p, atStore.Kept ∧ atStore.stores.find? (fun p => p.id == 5 && p.wts.isNone) = some p ∧ atStore.storeReady p = true ∧
      atStore.uncorrIn p.pa 1 = false ∧ (∀ b ∈ p.bytes, p.va ≤ b.1 ∧ p.pa + (b.1 - p.va) < paMod) ∧
      (p.bytes.map fun b => atStore.memAt (p.pa + (b.1 - p.va))).Nodup ∧
      atStore.storeSvc p = false ∧ atStore.cutWrite (dieOf p.core) p.ctx p.va p.pa = false ∧ atStore.cached p.pa = true ∧
      (startInvals p.pa (dieOf p.core) (atStore.keysOf p.ctx p.va p.bytes.length) atStore).1 = false ∧
      (p.bytes.all fun b => decide ((atStore.keyOf p.ctx b.1).1 = (atStore.keyOf p.ctx p.va).1) &&
        atStore.cached (p.pa + (b.1 - p.va))) = true ∧ (p.bytes.map (·.1)).Nodup ∧
      (p.bytes.map fun b => (atStore.keyOf p.ctx b.1).2).Nodup :=
  ⟨_, ⟨rfl, by decide, fun l hl => by cases hl⟩, rfl, by decide +kernel, by decide +kernel, by decide, by decide, by decide +kernel,
    by decide +kernel, by decide +kernel, by decide +kernel, by decide +kernel, by decide, by decide +kernel⟩

/-- Which physical addresses are cached is asked of a store's target; host memory is not (R444, R449). -/
def hostStore : PendStore := ⟨5, 0, 0, 0, 0, 2097150, 0x1000000000000 + 2097150, [(2097150, 1), (2097151, 2)], false, 0, none, none⟩
def atHostStore : State := { atMem with stores := [hostStore] }

theorem witness_performed_uncached_store :
    atHostStore.Kept ∧ atHostStore.stores.find? (fun p => p.id == 5 && p.wts.isNone) = some hostStore ∧
      atHostStore.storeReady hostStore = true ∧ atHostStore.uncorrIn hostStore.pa 1 = false ∧ atHostStore.cached hostStore.pa = false ∧
      atHostStore.cutWrite 0 0 hostStore.va hostStore.pa = false ∧ atHostStore.heatOn = false ∧ atHostStore.storeSvc hostStore = false ∧
      ∀ b ∈ hostStore.bytes, atHostStore.cached (hostStore.pa + (b.1 - hostStore.va)) = false :=
  ⟨⟨rfl, by decide, fun l hl => by cases hl⟩, rfl, by decide +kernel, by decide +kernel, by decide +kernel, by decide +kernel, by decide +kernel,
    by decide +kernel, by decide +kernel⟩

/-- Scratchpad, window and constant accesses at the last doubleword of 9 granules. -/
def G2 : Group := { G0 with mask := 1, a := [(1, 294904), (2, 0), (3, 294912 - 256 * 32 * 4)], v := [(4 * 32, 31 * 32)] }

theorem witness_scratchpad_accesses :
    Runs (at0 (U1 G2)) 0 0 (U1 G2) G2 ∧ Clear (at0 (U1 G2)) 0 0 (U1 G2) [(vp 254, 2), (zz, 1)] ∧
    accessLanes false (activeLanes ((at0 (U1 G2)).env (U1 G2) G2) G2.regs hd) = [0] ∧ (at0 (U1 G2)).padReady 0 0 true true = true ∧
    (∃ oks, PadPasses (at0 (U1 G2)) 0 (U1 G2) false 8 ((at0 (U1 G2)).eas (U1 G2) G2 ⟨vp 254, ad 1, zz, zz⟩ 0 8 [0]) oks ∧
      ∀ o ∈ oks, (U1 G2).dstBusy o.off 8 = false ∧ (U1 G2).srcBusy o.off 8 = false) ∧
    (∃ oks, PadPasses (at0 (U1 G2)) 0 (U1 G2) true 8 ((at0 (U1 G2)).eas (U1 G2) G2 ⟨vp 254, ad 1, zz, zz⟩ 0 8 [0]) oks) ∧
    (U1 G2).svc = false ∧ (U1 G2).firm = true ∧
    (∀ y ∈ ([0] : List Nat).map fun l => (l, ldcAddr ((at0 (U1 G2)).env (U1 G2) G2) G2.regs ⟨vp 254, ⟨.const, 254⟩, zz, zz⟩ 8 l),
      y.2 % (8 : Int) = 0 ∧ 0 ≤ y.2 ∧ y.2 < 1024) :=
  ⟨⟨rfl, rfl⟩, ⟨rfl, rfl⟩, by decide, rfl, ⟨[⟨0, 0, 294904⟩], by unfold PadPasses; decide +kernel, by decide +kernel⟩,
    ⟨[⟨0, 0, 294904⟩], by unfold PadPasses; decide +kernel⟩, rfl, rfl, by decide +kernel⟩

/-- A unit with one accumulator tile as well. -/
def Uacc (G : Group) : Machine.Unit := { U1 G with part := BitVec.ofNat 32 (62 + 9 * 64 + 4096 + 2 ^ 18) }

/-- LDM and STM of all 32 rows at the end of the scratchpad; ATOMS and CASS at its last doubleword. -/
theorem witness_tile_moves_and_atomics :
    Runs (at0 (Uacc G2)) 0 0 (Uacc G2) G2 ∧
    activeLanes ((at0 (Uacc G2)).env (Uacc G2) G2) G2.regs hd = [0] ∧ Clear (at0 (Uacc G2)) 0 0 (Uacc G2) [(⟨.acc, 0⟩, 1), (v 4, 1)] ∧
    rd32 ((at0 (Uacc G2)).env (Uacc G2) G2) G2.regs (v 4) 0 / 32 % 32 + 1 = 32 ∧
    rd32 ((at0 (Uacc G2)).env (Uacc G2) G2) G2.regs (v 4) 0 % 32 = 0 ∧
    groupEa G2.regs (ad 3) zz % 16 = 0 ∧ groupEa G2.regs (ad 3) zz + 256 * 32 * 4 ≤ (Uacc G2).spadSize ∧
    (Uacc G2).dstBusy (groupEa G2.regs (ad 3) zz) (256 * 32 * 4) = false ∧ (Uacc G2).srcBusy (groupEa G2.regs (ad 3) zz) (256 * 32 * 4) = false ∧
    Clear (at0 (Uacc G2)) 0 0 (Uacc G2) [(vq 252, 4), (zz, 1)] ∧ (at0 (Uacc G2)).acqBlocked 0 0 = false ∧ (at0 (Uacc G2)).tasks = [] ∧
    (at0 (Uacc G2)).padReady 0 0 true true = true :=
  ⟨⟨rfl, rfl⟩, by decide, ⟨rfl, rfl⟩, by decide +kernel, by decide +kernel, by decide +kernel, by decide +kernel, by decide +kernel,
    by decide +kernel, ⟨rfl, rfl⟩, rfl, rfl, rfl⟩

theorem witness_fences :
    Runs (at0 U0) 0 0 U0 G0 ∧ activeLanes ((at0 U0).env U0 G0) G0.regs hd ≠ [] ∧ (at0 U0).outLoads 0 0 = 0 ∧
    (at0 U0).unacked 0 0 = 0 ∧ (at0 U0).awaitsReply 0 0 = false ∧ (at0 U0).quiet 0 0 = true := ⟨⟨rfl, rfl⟩, by decide, rfl, rfl, rfl, rfl⟩

/-- Operation 3 of ATOMX is loaded. -/
def atAtomx : State := { atMem with fw := some ⟨1, [], [], [(0, 0), (0, 0), (0, 0), (64, 3)], [], [], true⟩ }

/-- Nothing is on its way to another die or out of the device. -/
def idle (s : State) : Bool := s.loads.isEmpty && s.stores.isEmpty && s.reqs.isEmpty && s.invals.isEmpty && s.queues.isEmpty && s.icinvs.isEmpty

theorem idle_flows {s : State} (h : idle s = true) (src cls : Nat) {ds : List Nat} (hd : ds.length ≤ Config.flowWindow) :
    s.flowsRoom src cls ds = true := by
  simp only [idle, Bool.and_eq_true, List.isEmpty_iff] at h
  simp only [State.flowsRoom, State.flowRoom, State.flowOut, h, List.all_eq_true]
  intro d _
  have := List.length_filter_le (· == d) ds
  simp; omega

theorem idle_flow {s : State} (h : idle s = true) (src dst cls : Nat) : s.flowFull src dst cls = false := by
  simp only [idle, Bool.and_eq_true, List.isEmpty_iff] at h
  simp [State.flowFull, State.flowOut, h, Config.flowWindow]

theorem witness_global_atomics :
    Runs atAtomx 0 0 (U1 G1) G1 ∧
    (∀ p ∈ atomTable hd mm ⟨vq 252, ad 1, zz, im 3⟩, Clear atAtomx 0 0 (U1 G1) p.2.uses) ∧
    G1.mid = false ∧ (U1 G1).firm = true ∧ atAtomx.acqBlocked 0 0 = false ∧ atAtomx.quiet 0 0 = true ∧
    (∀ p ∈ atomTable hd mm ⟨vq 252, ad 1, zz, im 3⟩,
      accessLanes (!p.2.returns && (vq 252).cls == .scal && zz.cls == .zero) (activeLanes (atAtomx.env (U1 G1) G1) G1.regs hd) = [0]) ∧
    (∀ p ∈ (atomTable hd mm ⟨vq 252, ad 1, zz, im 3⟩).filter fun p => p.2.kind != .cas,
      let r := checkLanes (U1 G1) G1 8 .rmw (atomExtra p.2) (atAtomx.eas (U1 G1) G1 ⟨vq 252, ad 1, zz, im 3⟩ p.2.off 8 [0]) atAtomx
      r.2.2.isEmpty = true ∧ idle r.1 = true) ∧
    (let p : AtomForm := ⟨.cas, 0, 0, []⟩
     (checkLanes (U1 G1) G1 8 .rmw (atomExtra p) (atAtomx.eas (U1 G1) G1 ⟨vq 252, ad 1, zz, zz⟩ p.off 8 [0]) atAtomx).2.2.isEmpty = true) ∧
    atAtomx.atomxReady 3 .b64 = true ∧ atAtomx.sendQueue 0 + 1 ≤ 256 ∧ 1 ≤ (atAtomx.slotsFree 0).length ∧
    Runs (mapped (at0 (U1 Gmid))) 0 0 (U1 Gmid) Gmid ∧
    (let s := { atAtomx with stores := [⟨5, 0, 0, 0, 0, 64, 64, [(64, 1)], false, 0, none, none⟩] }
     Runs s 0 0 (U1 G1) G1 ∧ s.quiet 0 0 = false ∧ s.acqBlocked 0 0 = false ∧ mm.ord ≠ .sc ∧
       ∀ p ∈ atomTable hd mm ⟨vq 252, ad 1, zz, im 3⟩, atomRel p.2 mm.ord = false) :=
  ⟨⟨rfl, rfl⟩, by unfold Clear; decide +kernel, rfl, rfl, rfl, rfl, by decide +kernel, by decide +kernel, by decide +kernel,
    by decide +kernel, by decide +kernel, by decide +kernel, ⟨rfl, rfl⟩, ⟨rfl, rfl⟩, rfl, rfl, by decide, by decide +kernel⟩

/-- WAITC.any of a doubleword, cache control and prefetch at the end of the page. -/
theorem witness_waitc :
    Runs atMem 0 0 (U1 G1) G1 ∧ activeLanes (atMem.env (U1 G1) G1) G1.regs hd = [0] ∧
    Clear atMem 0 0 (U1 G1) [(vq 252, 4), (zz, 1)] ∧ G1.st ≠ .waiting .waitc ∧ atMem.acqBlocked 0 0 = false ∧
    (let r := checkLanes (U1 G1) G1 8 .read noExtra (atMem.eas (U1 G1) G1 ⟨vq 252, ad 1, zz, zz⟩ 0 8 [0]) atMem
     let s2 := r.2.1.foldl (fun t o => t.waitcFetch 0 0 (U1 G1) 8 o) (r.2.1.foldl (fun t o => t.armMon 0 0 0 o) (r.1.tcCatchUp 0))
     r.2.2.isEmpty = true ∧ (r.2.1.all fun o => !s2.waitcLost (U1 G1) 8 o) = true ∧ s2.waitcHeld 0 0 (U1 G1) r.2.1 8 = false ∧
     (match waitcRead 0 0 (U1 G1) ⟨true, .eq, false, false⟩ (fun l => G1.regs.words 254 l 2) r.2.1
        ((s2.passPkts 0 0 (s2.waitcRoutes r.2.1)).backPkts 0 0 (s2.waitcRoutes r.2.1)) with
      | some (vs, _) => vs == [(0, 0)]
      | none => false) = true) ∧
    Clear atMem 0 0 (U1 G1) [(zz, 1)] ∧ (U1 G1).firm = true ∧
    (let r := checkLanes (U1 G1) G1 1 .read noExtra (atMem.eas (U1 G1) G1 ⟨zz, ad 1, zz, zz⟩ 0 1 [0]) atMem
     r.2.2.isEmpty = true ∧ (r.2.1.all fun o => !r.1.cctlHeld (U1 G1) o.ea) = true) ∧
    ((atMem.eas (U1 G1) G1 ⟨zz, ad 1, zz, zz⟩ 0 1 [0]).all fun y => !atMem.prefWaits (U1 G1) G1 y.2) = true :=
  ⟨⟨rfl, rfl⟩, by decide, ⟨rfl, rfl⟩, by decide, rfl, by decide +kernel, ⟨rfl, rfl⟩, rfl, by decide +kernel, by decide +kernel⟩

/-- A read or write that is made, with a condition on what it gives. -/
def got {α : Type} (p : Piece α) (f : α → State → Bool) : Bool :=
  match p with
  | .ok a s => f a s
  | _ => false

theorem got_ok {α : Type} {p : Piece α} {f : α → State → Bool} (h : got p f = true) : ∃ a s, p = .ok a s ∧ f a s = true := by
  cases p with
  | ok a s => exact ⟨a, s, rfl, h⟩
  | fault va w => simp [got] at h
  | uncorr pa => simp [got] at h
  | wait s => simp [got] at h

/-- A group of one active lane may act where nothing is in flight. -/
theorem acts_at {s : State} {U : Machine.Unit} {G : Group} {xs : Uses} (h1 : s.cur = .group 0 0) (h2 : s.group? 0 0 = some (U, G))
    (h3 : U.usableAll xs = true) (h4 : s.interlocked 0 0 xs = false) (h5 : s.acqBlocked 0 0 = false)
    (h6 : (activeLanes (s.env U G) G.regs hd).head? = some 0) : Acts s 0 0 U G hd xs 0 := by
  refine ⟨⟨h1, h2⟩, ⟨h3, h4⟩, h5, ?_⟩
  cases e : activeLanes (s.env U G) G.regs hd with
  | nil => simp [e] at h6
  | cons l ls => simp only [e, List.head?_cons, Option.some.injEq] at h6; subst h6; exact ⟨ls, rfl⟩

/-- A group for the group-wide instructions: a1 is the last barrier object of the scratchpad, a2 to a5 are copy addresses. -/
def G4 : Group := { G0 with
  mask := 1, a := [(1, 294896), (2, 294912 - 16), (3, 64), (4, 4096), (5, 2 ^ 32 * 200 + 100)], s := [(0, 50331653), (2, 5), (4, 1), (5, 4194304)], v := [(32, 7)] }
/-- Its unit, with an initialised barrier object that awaits one arrival, and one slab. -/
def U4 : Machine.Unit := { (U1 G4).putBar 294896 ⟨1, 1, 1, 0⟩ with slabs := [⟨1, 1, 65536, [], true, true⟩] }
/-- Tensor 5: 64 words in one tile, at 1 MiB. -/
def t5 : Tensor := ⟨0, 5, 1048576, 4, 1, [64, 1, 1, 1], [0, 0, 0], [16, 1, 1, 1]⟩
/-- The machine in which that group executes. -/
def at4 : State := { mapped (at0 U4) with tensors := [t5], launches := [slotLaunch 2] }

theorem acts4 {xs : Uses} (h : U4.usableAll xs = true) (h2 : at4.interlocked 0 0 xs = false) : Acts at4 0 0 U4 G4 hd xs 0 :=
  acts_at rfl rfl h h2 rfl (by decide +kernel)

theorem witness_barrier_objects :
    Acts at4 0 0 U4 G4 hd [(im 1, 1)] 0 ∧ Acts at4 0 0 U4 G4 hd [(zz, 1)] 0 ∧
    groupEa G4.regs (ad 1) zz % 16 = 0 ∧ groupEa G4.regs (ad 1) zz + 16 ≤ U4.spadSize ∧
    U4.barFail (groupEa G4.regs (ad 1) zz) false = none ∧ at4.quiet 0 0 = true ∧ U4.firm = true ∧
    tokenDist (U4.barObj 294896).phase 0 = 1 ∧ tokenDist (U4.barObj 294896).phase 1 = 0 ∧
    tokenDist (U4.barObj 294896).phase (2 ^ 31 + 1) = 2 ^ 31 ∧
    at4.barTarget 0 U4 false 294896 = .ok (0, 294896) ∧ at4.barTarget 0 U4 true 294896 = .ok (0, 294896) :=
  ⟨acts4 rfl rfl, acts4 rfl rfl, by decide +kernel, by decide +kernel, by decide +kernel, rfl, rfl, by decide +kernel,
    by decide +kernel, by decide +kernel, by decide +kernel, by decide +kernel⟩

theorem witness_barrier_laws :
    (⟨5, 3, 1, 4⟩ : BarObj).pend ≤ 1 ∧ (⟨5, 3, 1, 4⟩ : BarObj).bal = 4 ∧ 4 < 2 ^ 32 ∧ (2 ^ 32 - 1 : Nat) < 2 ^ 32 ∧ ¬ ((⟨5, 3, 2, 4⟩ : BarObj).pend ≤ 1 ∧ (4 : Nat) = 4) ∧
    spOk 0 U0.spad = true ∧ 65535 < 2 ^ 16 ∧ 2 ^ 32 - 1 < 2 ^ 32 := by decide

theorem witness_batches_and_tiles :
    Acts at4 0 0 U4 G4 hd [(sc 63, 1)] 0 ∧ Acts at4 0 0 U4 G4 hd [(im 0, 1)] 0 ∧ Acts at4 0 0 U4 G4 hd [(sc 0, 2), (im 2047, 1)] 0 ∧
    (G4.sealed.filter (at4.openOps 0 0 U4).contains).length < 8 ∧ tokenDist (2 : Nat) 1 = 1 ∧ at4.openOps 0 0 U4 = [] ∧
    at4.keyTile 0 (keyOpnd G4.regs (sc 0)) = some (t5, 3) ∧
    ((3 :: (neighbours.zipIdx.filterMap fun (o, i) => if bitsAt 2047 i 1 == 1 then t5.tileAt 3 o else none)).all fun k =>
      !at4.tileWaits 0 0 t5 k) = true :=
  ⟨acts4 rfl rfl, acts4 rfl rfl, acts4 rfl rfl, by decide +kernel, by decide, by decide +kernel, by decide +kernel, by decide +kernel⟩

/-- MOD of a copy, with its SUB. -/
def cm (n : BitVec 3) : CopyMod := ⟨n, false, 0⟩

/-- A group that waits for its oldest batch, which has completed. -/
def Gclaim : Group := { G4 with claim := some (.batch, 7), sealed := [1, 2] }

theorem witness_claims :
    (∀ t, G4.claim ≠ some (.batch, t)) ∧ Acts (at0 (U1 Gclaim)) 0 0 (U1 Gclaim) Gclaim hd [(sc 63, 1)] 0 ∧
    ((at0 (U1 Gclaim)).openOps 0 0 (U1 Gclaim)).contains 1 = false :=
  ⟨(fun t h => by cases h), acts_at rfl rfl rfl rfl rfl (by decide +kernel), by decide +kernel⟩

theorem witness_copies :
    Acts at4 0 0 U4 G4 hd [(im 16, 1), (zz, 1)] 0 ∧ BarOk U4 none ∧ BarOk U4 (some 294896) ∧
    G4.regs.addr 2 % 16 = 0 ∧ G4.regs.addr 2 + 16 ≤ U4.spadSize ∧ G4.regs.addr 3 % 16 = 0 ∧
    CmdFits U4 0 G4 { newCmd at4 0 G4 (cm 0) .cpy 0 16 none with dst := 294896, src := 64, sb := sbRange 294896 16 true } ∧
    CmdFits U4 0 G4 { newCmd at4 0 G4 (cm 0) .cpys 0 16 none with dst := 64, src := 294896, sb := sbRange 294896 16 false } ∧
    at4.windowChecks 0 U4 294896 16 (some 294896) = .ok (0, 294896) ∧
    CmdFits U4 0 G4 { newCmd at4 0 G4 (cm 1) .cpysx 0 16 none with dst := 294896, src := 64, sb := sbRange 64 16 false } ∧
    at4.keyTile 0 (keyOpnd G4.regs (sc 0)) = some (t5, 3) ∧ t5.tileBytes ≤ 262144 ∧ G4.regs.addr 3 + t5.tileBytes ≤ U4.spadSize ∧
    Acts at4 0 0 U4 G4 hd [(sc 0, 2), (im 272, 1), (zz, 1)] 0 ∧ 16 ≤ (t5.dim 0).2.1 ∧ 1 ≤ (t5.dim 1).2.1 ∧ t5.esize ∈ [1, 2, 4, 8] ∧
    G4.regs.addr 3 + haloLen t5 16 1 ≤ U4.spadSize ∧ Acts at4 0 0 U4 G4 hd [(v 1, 1), (zz, 1)] 0 ∧
    gatherVa 4096 7 4 % 4 = 0 ∧ rd32 (at4.env U4 G4) G4.regs (v 1) 0 = 7 ∧ (at4.tensor? 0 5).isSome = true ∧ U4.copyq.length < 64 ∧
    Acts at4 0 0 U4 G4 hd [(sc 6, 1), (im 16, 1), (zz, 1)] 0 ∧ at4.slabUsed (quadOf 0) + 1 ≤ 64 ∧ (U4.slabs.filter (·.live)).length < 16 :=
  ⟨acts4 rfl rfl, (fun off h => by cases h), (fun off h => by cases h; decide +kernel), by decide +kernel, by decide +kernel,
    by decide +kernel, ⟨by decide, by decide +kernel, by decide +kernel⟩, ⟨by decide, by decide +kernel, by decide +kernel⟩, by decide +kernel,
    ⟨by decide, by decide +kernel, by decide +kernel⟩, by decide +kernel, by decide, by decide +kernel, acts4 rfl rfl, by decide, by decide, by decide,
    by decide +kernel, acts4 rfl rfl, by decide, by decide +kernel, by decide +kernel, by decide, acts4 rfl rfl, by decide +kernel,
    by decide +kernel⟩

/-- A dense task record: 64 values of format slot 0 from the scratchpad on both sides, into tile 0, without barriers. -/
def denseRec : Nat :=
  2 ^ 22 + 64 * 2 ^ 32 + 4096 * 2 ^ 64 + 128 * 2 ^ 128 + 128 * 2 ^ 160 + 8192 * 2 ^ 192 + 0xFFFFFFFF * 2 ^ 256
/-- A unit with that record at its offset 64, a tile, and the handle 2 next. -/
def U5 : Machine.Unit := { (Uacc G4).spadPut 64 (toBytesLE 64 denseRec) with nextHandle := 2, slabs := [⟨1, 1, 65536, [], true, true⟩] }
/-- A queued task of handle 1. -/
def task1 : Task := ⟨0, 0, 1, 1, BitVec.ofNat 512 denseRec, .queued, 0, 0, 0, some true, 0, 0, 0, 0, false, false, [], [], [], none, none, 0⟩
/-- The machine, with and without the task. -/
def at5 (ts : List Task) : State := { at0 U5 with tasks := ts, launches := [slotLaunch 2] }

theorem acts5 {ts : List Task} {xs : Uses} (h : U5.usableAll xs = true) (h2 : (at5 ts).interlocked 0 0 xs = false) :
    Acts (at5 ts) 0 0 U5 G4 hd xs 0 := 
  acts_at rfl rfl h h2 rfl (by show (activeLanes ((at5 []).env U5 G4) G4.regs hd).head? = some 0; decide +kernel)

theorem witness_tile_tasks :
    Acts (at5 []) 0 0 U5 G4 hd [(sc 63, 1)] 0 ∧ groupEa G4.regs (ad 3) zz % 64 = 0 ∧ groupEa G4.regs (ad 3) zz + 64 ≤ U5.spadSize ∧
    firstFail ((at5 []).mxChecks U5 ((at5 []).env U5 G4) 64 (TaskRec.of (U5.spadNat 64 64))) = none ∧
    (at5 []).tableFull 0 U5 G4 = false ∧ Acts (at5 [task1]) 0 0 U5 G4 hd [(sc 63, 1), (im 1, 1)] 0 ∧
    tokenDist U5.nextHandle.toNat 1 = 1 ∧ (at5 []).task? 0 1 = none ∧ (at5 [task1]).task? 0 1 = some task1 ∧
    Acts (at5 []) 0 0 U5 G4 hd [] 0 ∧ U5.setLater 15 0 0 = false ∧
    (let G := { G4 with tileFrom := some (0, 0) }
     ∀ y ∈ (at5 [task1]).tasks, y.dst = 0 ∧ y.st.live = true ∧ ∃ a b, G.tileFrom = some (a, b) ∧ b ≤ y.seq) ∧
    ∃ y ∈ U5.slabs, y.live = true ∧ y.handle.toNat = 1 :=
  ⟨acts5 rfl rfl, by decide +kernel, by decide +kernel, by decide +kernel, by decide +kernel, acts5 rfl rfl, by decide, rfl, rfl,
    acts5 rfl rfl, by decide, fun y hy => by cases List.mem_singleton.1 hy; exact ⟨by decide +kernel, rfl, 0, 0, rfl, by decide⟩,
    ⟨_, List.mem_singleton.2 rfl, rfl, rfl⟩⟩

/-- SPXS.e8.s0.s1 of the value 7 in lane 0 to value offset 100 and coordinate offset 200. -/
theorem witness_sparse_store :
    Acts at4 0 0 U4 G4 hd [(v 1, 1), (im 0, 1)] 0 ∧ G4.regs.addr 5 / 2 ^ 32 % 2 = 0 ∧ G4.regs.addr 5 % 2 ^ 32 % 1 = 0 ∧
    (spxsStores 1 0 [(0, 7)] 100 200).1 = [(100, [7]), (200, [0, 0])] ∧
    (∀ z ∈ [(100, 1), (200, 2), (202, 2), (204, 2)], z.1 + z.2 ≤ U4.spadSize ∧ U4.dstBusy z.1 z.2 = false ∧ U4.srcBusy z.1 z.2 = false) :=
  ⟨acts4 rfl rfl, by decide +kernel, by decide +kernel, by decide +kernel, by decide +kernel⟩

/-- Tensor 6 has a descriptor at address 64, and its neighbour in the map is free. -/
def desc6 : Nat := 1048576 + 4 * 2 ^ 64 + 2 ^ 80 + 64 * 2 ^ 128 + 2 ^ 160 + 2 ^ 192 + 2 ^ 224 + 16 * 2 ^ 448 + 2 ^ 464 + 2 ^ 480 + 2 ^ 496
def at6 : State := { mapped (at0 U4) with mem := spSetList 0 [] (2097152 + 64) (toBytesLE 64 desc6) }
def core0 (u : Option Nat) : Port := ⟨.core 0, 0, 0, u⟩
/-- A group that has made the checks of a TMAPSET of that descriptor and goes on with it. -/
def Gmap : Group := { G4 with mid := true, wcVals := [(0, desc6)] }

theorem witness_shapes_and_tensors :
    at4.launchOf U4 = some (slotLaunch 2) ∧ (slotLaunch 2).shape = 0 ∧ Acts at4 0 0 U4 G4 hd [(im 2047, 1)] 0 ∧ U4.firm = true ∧
    at4.quiet 0 0 = true ∧ (∃ o s1, at4.checkLane U4 G4 8 .write noExtra 0 64 = .ok (o, s1) ∧
      s1.storesHeld 0 0 U4 [(o, bytesAt 64 8 (2 ^ 63 + 2047))] = false) ∧ at6.ownPending 0 0 64 64 = false ∧
    at4.ownPending 0 0 ((at4.tmapOf 0 + 64 * 5) % 2 ^ 64) 64 = false ∧
    Acts at6 0 0 U4 G4 hd [(im 6, 1)] 0 ∧ groupEa G4.regs (ad 3) zz % 64 = 0 ∧ at6.tensor? 0 6 = none ∧
    (∃ bs s1, engRead (core0 (some 0)) ((List.range 64).map fun i => some ((64 + i) % 2 ^ 64)) at6 = .ok bs s1 ∧
      (at6.tensorOk (tensorOf 0 6 (ofBytesLE bs)) (ofBytesLE bs) &&
        (let r := s1.rhRaise 0 (s1.readTimes 0 0 ((List.range 64).map fun i => some ((64 + i) % 2 ^ 64)))
         !r.lockedKeys (tensorOf 0 6 (ofBytesLE bs)).coversKey && !r.ownPending 0 0 ((at6.tmapOf 0 + 64 * 6) % 2 ^ 64) 64 && got (engWrite (core0 none) (r.tcOf 0) 0
          ((tmapEntry (ofBytesLE bs)).zipIdx.map fun (y, i) => (((at6.tmapOf 0 + 64 * 6) % 2 ^ 64 + i) % 2 ^ 64, y)) r)
          fun w s2 => ((s2.tcRaise 0 w).installTensor (tensorOf 0 6 (ofBytesLE bs))).isSome)) = true) ∧
    (at4.tensor? 0 5).isSome = true ∧ at4.tent = [] ∧ at4.lockedKeys (fun k => k.ctx == 0 && k.tensor == 5) = false ∧
    (∃ w s1, engWrite (core0 none) (at4.tcOf 0) G4.relFloor
      ((List.replicate 64 (0 : Byte)).zipIdx.map fun (y, i) => (((at4.tmapOf 0 + 64 * 5) % 2 ^ 64 + i) % 2 ^ 64, y)) at4 = .ok w s1 ∧
      true = true) :=
  ⟨by decide +kernel, rfl, acts4 rfl rfl, rfl, rfl, ⟨_, _, rfl, by decide +kernel⟩, by decide +kernel, by decide +kernel, acts_at rfl rfl rfl rfl rfl (by decide +kernel), by decide +kernel, rfl,
    got_ok (f := fun bs s1 => _) (by decide +kernel), by decide +kernel, rfl, rfl, got_ok (f := fun _ _ => true) (by decide +kernel)⟩

theorem witness_tensor_map_goes_on :
    let s : State := { at6 with units := [{ U4 with groups := [Gmap] }] }
    let U := { U4 with groups := [Gmap] }
    let r := s.modGroup 0 0 fun H => { H with mid := false, wcVals := [] }
    Acts s 0 0 U Gmap hd [(im 6, 1)] 0 ∧ MapReady s 0 0 U Gmap 6 64 desc6 r ∧ r.lockedKeys (tensorOf 0 6 desc6).coversKey = false ∧
    r.ownPending 0 0 ((r.tmapOf 0 + 64 * 6) % 2 ^ 64) 64 = false ∧
    ∃ w s2, engWrite (core0 none) (r.tcOf 0) Gmap.relFloor
      ((tmapEntry desc6).zipIdx.map fun (y, i) => (((r.tmapOf 0 + 64 * 6) % 2 ^ 64 + i) % 2 ^ 64, y)) r = .ok w s2 ∧
      ((s2.tcRaise 0 w).installTensor (tensorOf 0 6 desc6)).isSome = true :=
  ⟨acts_at rfl rfl rfl rfl rfl (by decide +kernel), .inl ⟨rfl, ⟨_, _, rfl⟩, rfl⟩, by decide +kernel, by decide +kernel,
    got_ok (f := fun w s2 => _) (by decide +kernel)⟩

/-- Memory in which context 0 has the handler entry 64 and page tables that map its first 2 MiB to physical 2 MiB. -/
def pages : List Host.Cell :=
  [(0, 0x10000), (16, 64), (0x10000, 0x11001), (0x11000, 0x12001), (0x12000, 0x13001), (0x13000, 0x200000 + 107)].foldl
    (fun m x => spSetList 0 m x.1 (toBytesLE 8 x.2)) []
/-- The machine with that memory. -/
def paged (s : State) : State := { s with mem := pages }

/-- A trap of cause 5. -/
def trap5 : Trap := ⟨5, 4096, 1, 12, none⟩

theorem witness_trap_enters :
    (paged (at0 U0)).group? 0 0 = some (U0, G0) ∧ trap5.cause ≠ 0x0A ∧ G0.sup = false ∧ U0.svc = false ∧
    (paged (at0 U0)).handler U0.ctx ≠ 0 := ⟨rfl, by decide, rfl, rfl, by decide +kernel⟩

/-- A group in supervisor state with a record to park on. -/
def Gsup : Group := { G1 with sup := true, retpc := 24, retmask := 3, faultrec := BitVec.allOnes 64, record := some ⟨64, 0, 0, 1, 0, 1, 1, 1, 0, 0, 0, 0⟩ }
/-- The same with a record of the handler's own at 64. -/
def Gown : Group := { Gsup with faultrec := 64 }
/-- Its machine with the launch. -/
def atSup (G : Group) : State := { mapped (at0 (U1 G)) with launches := [slotLaunch 0] }

theorem witness_trap_in_supervisor :
    (atSup Gsup).group? 0 0 = some (U1 Gsup, Gsup) ∧ Gsup.sup = true ∧ (atSup Gsup).launch? (U1 Gsup).launch = some (slotLaunch 0) ∧
    (slotLaunch 0).faulted = none ∧ (atSup Gsup).fqRoom 0 = true ∧
    ({ atSup Gsup with mem := spSetList 0 [] 0 (toBytesLE 8 4096) } : State).fqRoom 0 = false :=
  ⟨rfl, rfl, by decide +kernel, rfl, by decide +kernel, by decide +kernel⟩

theorem witness_return : Runs (atSup Gsup) 0 0 (U1 Gsup) Gsup ∧ Gsup.sup = true ∧ (U1 Gsup).svc = false ∧
    (Instr.rte hd ⟨zz, zz, zz, zz⟩).wf = true ∧ (encode96 (.rte hd ⟨zz, zz, zz, zz⟩)).isSome = true := ⟨⟨rfl, rfl⟩, rfl, rfl, rfl, rfl⟩

theorem witness_privileged :
    Runs (at0 U0) 0 0 U0 G0 ∧
    (∀ p ∈ privTable hd ⟨vp 254, vp 0, zz, zz⟩ .range true, Clear (at0 U0) 0 0 U0 p.2.1 ∧ p.2.2 U0 G0 = false) ∧
    11 ≤ (⟨.sreg, 14⟩ : Opnd).idx.toNat ∧ Clear (at0 U0) 0 0 U0 [(vp 254, 2)] :=
  ⟨⟨rfl, rfl⟩, by unfold Clear; decide +kernel, by decide, ⟨rfl, rfl⟩⟩

theorem witness_trap_and_hint :
    Once atMem 0 0 (U1 G1) G1 hd [(im 2047, 1)] 0 ∧
    hintMemOk (U1 G1) (hintOps ⟨32, 0xF000_3001_F000_7FFF⟩) ⟨32, 0xF000_3001_F000_7FFF⟩ = true ∧
    Clear atMem 0 0 (U1 G1) [((hintOps ⟨32, 0xF000_3001_F000_7FFF⟩).b, 1)] ∧ hintMemOk (U1 G1) (hintOps ⟨32, 0⟩) ⟨32, 0⟩ = false ∧
    hprioFields ⟨0, 0xF000_F000_7003_F000⟩ = true ∧ hprioFields ⟨1, 0xF000_F000_7003_F000⟩ = false :=
  ⟨⟨⟨rfl, rfl⟩, ⟨rfl, rfl⟩, ⟨[], by decide +kernel⟩⟩, by decide +kernel, ⟨by decide +kernel, by decide +kernel⟩, by decide +kernel, by decide +kernel, by decide +kernel⟩

/-- A group of one active lane executes. -/
theorem once_at {s : State} {G : Group} {xs : Uses} (h1 : s.cur = .group 0 0) (h2 : s.group? 0 0 = some (U1 G, G))
    (h3 : (U1 G).usableAll xs = true) (h4 : s.interlocked 0 0 xs = false) (h6 : activeLanes (s.env (U1 G) G) G.regs hd = [0]) :
    Once s 0 0 (U1 G) G hd xs 0 := ⟨⟨h1, h2⟩, ⟨h3, h4⟩, ⟨[], h6⟩⟩

theorem witness_special_registers :
    (sregPriv 10 = false ∧ sregPriv 11 = true ∧ privileged (U1 Gsup) Gsup = true) ∧ Clear (atSup Gsup) 0 0 (U1 Gsup) [(vp 254, 2)] ∧
    Once (atSup Gsup) 0 0 (U1 Gsup) Gsup hd [(sc 62, 2)] 0 ∧ Once (atSup Gsup) 0 0 (U1 Gsup) Gsup hd [(sc 63, 1)] 0 ∧
    (atSup Gsup).launchOf (U1 Gsup) = some (slotLaunch 0) :=
  ⟨⟨rfl, rfl, rfl⟩, ⟨rfl, rfl⟩, once_at rfl rfl rfl rfl (by decide +kernel), once_at rfl rfl rfl rfl (by decide +kernel), by decide +kernel⟩

theorem witness_handler_instructions :
    Once (atSup Gsup) 0 0 (U1 Gsup) Gsup hd [(sc 63, 1)] 0 ∧ Once (atSup Gsup) 0 0 (U1 Gsup) Gsup hd [] 0 ∧
    privileged (U1 Gsup) Gsup = true ∧ Gsup.mid = false ∧ (atSup Gsup).unacked 0 0 = 0 ∧ supOnly (U1 Gsup) Gsup = true ∧
    (∀ d < 4, (atSup Gsup).flowFull (dieOf (U1 Gsup).core) d 2 = false) ∧ Gsup.faultrec = BitVec.allOnes 64 ∧ (∃ r, Gsup.record = some r ∧ ((atSup Gsup).post 0 r (.group 0 0)).isSome = true) ∧
    Runs (atSup Gown) 0 0 (U1 Gown) Gown ∧ Gown.faultrec ≠ BitVec.allOnes 64 ∧ Gown.faultrec ≠ 0 ∧ Gown.faultrec.toNat % 64 = 0 ∧
    (∃ bs s1, engRead (core0 (some 0)) ((List.range 64).map fun i => some (Gown.faultrec.toNat + i)) (atSup Gown) = .ok bs s1 ∧
      s1.fqRoom 0 = true) :=
  ⟨once_at rfl rfl rfl rfl (by decide +kernel), once_at rfl rfl rfl rfl (by decide +kernel), rfl, rfl, rfl, rfl, fun _ _ => idle_flow rfl _ _ _, rfl,
    ⟨_, rfl, by decide +kernel⟩, ⟨rfl, rfl⟩, by decide, by decide, by decide, got_ok (f := fun _ s => s.fqRoom 0) (by decide +kernel)⟩

theorem witness_page_map :
    (atSup Gsup).pmapBad 0 2097152 2 = none ∧ ({ atSup Gsup with uncorr := [0] } : State).pmapBad 0 2097152 2 = some 0 ∧
    canonical 2097151 = true ∧ ((paged (at0 U0)).walkPa 0 2097151).isSome = true ∧ ((paged (at0 U0)).pmap 0 0 2097151 2).1 = 1 ∧
    canonical 2097152 = true ∧ ((paged (at0 U0)).walkPa 0 2097152).isSome = false ∧
    (paged (at0 U0)).inFtreg 0 (2097152 / pmapSize 2 * pmapSize 2) (pmapSize 2) = false :=
  ⟨by decide +kernel, by decide +kernel, by decide +kernel, by decide +kernel, by decide +kernel, by decide +kernel, by decide +kernel,
    by decide +kernel⟩

/-- The walk of a PMAP of that page runs over no failed link and waits for nothing. -/
theorem witness_page_map_walk :
    let s := atSup Gsup
    let trail := s.walkTrail 2097152 5 (s.root 0)
    trail.find? (s.entryCut 0) = none ∧ s.walkHeld 0 trail = false := by
  refine ⟨by decide +kernel, ?_⟩
  unfold State.walkHeld
  rw [idle_flows rfl 0 0 (by decide +kernel), show (List.any _ _) = false by decide +kernel]
  rfl

/-- A service unit, whose group's a3 names physical address 64. -/
def Usvc : Machine.Unit := { U4 with svc := true }

theorem witness_service :
    Runs (at0 Usvc) 0 0 Usvc G4 ∧ Usvc.svc = true ∧ Clear (at0 Usvc) 0 0 Usvc [(vp 254, 2), (zz, 1)] ∧
    (at0 Usvc).svcLanes ((at0 Usvc).env Usvc G4) G4.regs hd ⟨vp 254, ad 3, zz, zz⟩ 8 = [(0, 64)] ∧ (at0 Usvc).svcLocked 0 0 [(0, 64)] = false ∧
    ((at0 Usvc).svcFull 0 64 0 = false ∧ (at0 Usvc).uncorrIn 64 8 = false ∧ (at0 Usvc).svcCutRead 0 64 = false) ∧
    ((at0 Usvc).heldPage 64 = false ∧ (at0 Usvc).svcFull 0 64 1 = false) ∧ (at0 Usvc).svcCutWrite 0 64 = false ∧
    (∃ s1 s2, svcInvals 0 [64] (at0 Usvc) = (false, s1) ∧ svcReserve [64] s1 = .ok s2) ∧
    Clear (at0 Usvc) 0 0 Usvc [(vp 254, 2), (v 255, 1)] :=
  ⟨⟨rfl, rfl⟩, rfl, ⟨rfl, rfl⟩, by decide +kernel, by decide +kernel, by decide +kernel, by decide +kernel, by decide +kernel,
    ⟨_, _, rfl, rfl⟩, ⟨rfl, rfl⟩⟩

/-! ### Spatial mode -/

/-- Two groups of a unit: the other one has not arrived, has arrived with B = 0, or has ended. -/
def Upair (H : Group) : Machine.Unit := { U0 with groups := [G1, H], nimg := 1 }

theorem witness_spatial_entry :
    Acts at4 0 0 U4 G4 hd [(im 5, 1), (im 2047, 1)] 0 ∧ U4.staged.length < 8 ∧ Acts at4 0 0 U4 G4 hd [(sc 63, 1)] 0 ∧
    (Once (at0 (Upair G0)) 0 0 (Upair G0) G1 hd [(im 0, 1)] 0 ∧ ∃ k H, k ≠ 0 ∧ (Upair G0).groups[k]? = some H ∧ H.st ≠ .ended ∧ H.spatB = none) ∧
    (∀ H ∈ [{ G0 with spatB := some 0 }, { G0 with st := .ended }], Runs (at0 (Upair H)) 0 0 (Upair H) G1 ∧
      ∀ (k : Nat) (K : Group), k ≠ 0 → (Upair H).groups[k]? = some K → K.st = .ended ∨ K.spatB = some 0) ∧ 0 < (Upair G0).nimg ∧
    (∀ H, (at0 (Upair H)).pendingRegs 0 0 = []) := by
  refine ⟨acts4 rfl rfl, by decide, acts4 rfl rfl, ⟨⟨⟨rfl, rfl⟩, ⟨rfl, rfl⟩, ⟨[], by decide +kernel⟩⟩, ⟨1, G0, by decide, rfl, by decide, rfl⟩⟩, ?_, by decide, fun _ => rfl⟩
  intro H hH
  refine ⟨⟨rfl, rfl⟩, ?_⟩
  intro k K hk hK
  match k, hk with
  | 1, _ =>
    simp only [Upair, List.getElem?_cons_succ, List.getElem?_cons_zero, Option.some.injEq] at hK
    subst hK
    simp only [List.mem_cons, List.not_mem_nil, or_false] at hH
    rcases hH with rfl | rfl
    · exact .inr rfl
    · exact .inl rfl
  | k + 2, _ => simp [Upair] at hK

/-- An operator of one lane that adds the token of queue 0 and 1 and gives it to queue 1: ADD q1, q0, 1. -/
def opAdd : SOper := ⟨0, 0, 1, 0, [0x0100_F000_5001_5000_7001_F000], [], [], 1, 0, 0, []⟩
/-- Queue 0 holds one token; queue 1 is empty. -/
def q0 : SQueue := ⟨0, 0, 4, 0, 1, 0, 0, 0, 0, [41], 0⟩
def q1 : SQueue := ⟨0, 1, 1, 0, 0, 0, 1, 1, 0, [], 0⟩
/-- A read port and a write port over the words at 4096. -/
def rport : SPort := ⟨0, 2, false, 4, 4096, 0, 255, 4, 8, 0, [], [], some (0, 1, 21), none⟩
def wport : SPort := { rport with port := 3, write := true }
/-- A configuration of that operator. -/
def spat0 (st : SpatStep) (p : SOper) (r : List PortRead) : Spat :=
  ⟨st, 0, none, 0, 0, 0, 1, 1, 1, [p], [q0, q1], [{ rport with reads := r }, wport], [], [], 0, none, 0, 0, false, []⟩
/-- The unit in it. -/
def Uspat (c : Spat) : Machine.Unit := { U4 with spat := some c }
/-- The operator in its firing. -/
def opBusy : SOper := { opAdd with resume := 1, toks := [(0, 41)] }
def cBusy : Spat := spat0 .run opBusy []
def atOper : State := { mapped (at0 (Uspat cBusy)) with cur := .oper 0 0 }

theorem witness_operator_instructions :
    Fires atOper 0 0 (Uspat cBusy) cBusy opBusy ∧
    (let y := addOp hd ⟨.i32, false, 0⟩ ⟨⟨.queue, 1⟩, ⟨.queue, 0⟩, .ops (im 1) zz⟩
     cBusy.waits 0 (y.uses (atOper.operEnv (Uspat cBusy) opBusy)) = false ∧ y.pre (atOper.operEnv (Uspat cBusy) opBusy) = none ∧
     ∀ t ∈ (y.run (atOper.operEnv (Uspat cBusy) opBusy) opBusy.regs).outs, cBusy.queueBusy 0 t.1 none = false) ∧
    cBusy.waits 0 [(v 255, 1), (v 0, 1)] = false ∧ cBusy.queueBusy 31 255 none = false ∧
    cBusy.portNo 0 3 true = some (1, wport) ∧ wport.pos < wport.count ∧ cBusy.portNo 0 2 false = some (0, rport) ∧ rport.pos < rport.count ∧
    rport.reads.length < 8 ∧ cBusy.queueBusy 0 0 (some (0, 2)) = false :=
  ⟨⟨rfl, rfl, by decide +kernel⟩, by decide +kernel, by decide +kernel, by decide +kernel, by decide +kernel, by decide, by decide +kernel,
    by decide, by decide, by decide +kernel⟩

theorem witness_firing :
    (spat0 .run opAdd []).ops[0]? = some opAdd ∧ (spat0 .run opAdd []).step = .run ∧ (spat0 .run opAdd []).frozen = false ∧ opAdd.resume = 0 ∧
    (spat0 .run opAdd []).rateOk opAdd = true ∧ (spat0 .run opAdd []).fires opAdd = true ∧ (spat0 .run opAdd []).drain.contains 0 = false ∧
    (Uspat (spat0 .run opAdd [])).saveAt = none ∧ (Uspat (spat0 .run opAdd [])).st = .resident := by decide +kernel

/-- A read on its way, and one a guard token skips. -/
def pread (skip : Bool) : PortRead := ⟨0, 4096, false, skip, .queue 0 0⟩
def atRead : State := mapped (at0 (Uspat (spat0 .run opAdd [pread false])))

theorem witness_stream_reads :
    atRead.units[0]? = some (Uspat (spat0 .run opAdd [pread false])) ∧ rport.fault = none ∧ atRead.retriedNow (.port 0 rport.core rport.port) = false ∧ SpatStep.run ≠ .load ∧
    (∃ be s1, portRead { (Uspat (spat0 .run opAdd [])).streamPort 0 (spat0 .run opAdd []) rport with place := .last 0 } false
      ((List.range 4).map fun i => (4096 + i) % 2 ^ 64) rport.tlb atRead = .ok be s1 ∧ be.1 = [0, 0, 0, 0]) ∧
    (spat0 .exit opAdd []).step = .exit ∧ (spat0 .exit opAdd []).readsOut = false ∧
    (spat0 .exit opAdd []).exitAt.map (·.1) ≠ some 0 ∧ (∀ p ∈ (spat0 .exit opAdd []).ops, p.owes = false) ∧
    (let s1 := (List.range 2).foldl (fun t k => t.drain 0 k) (mapped (at0 (Uspat (spat0 .exit opAdd []))))
     s1.units[0]? = some (Uspat (spat0 .exit opAdd []))) ∧ ∀ p ∈ (spat0 .exit opAdd []).ports, p.writes = [] :=
  ⟨rfl, rfl, rfl, by decide, by
    obtain ⟨be, s1, h, e⟩ := got_ok (p := portRead { (Uspat (spat0 .run opAdd [])).streamPort 0 (spat0 .run opAdd []) rport with place := .last 0 }
      false ((List.range 4).map fun i => (4096 + i) % 2 ^ 64) rport.tlb atRead) (f := fun b _ => b.1 == [0, 0, 0, 0]) (by decide +kernel)
    exact ⟨be, s1, h, by simpa using e⟩, rfl, rfl, by decide, by decide +kernel, by decide +kernel, by decide⟩

/-! ### Spatial configurations are loaded -/

/-- Memory whose fields at virtual addresses of the first 2 MiB are the given ones. -/
def fields (xs : List (Nat × Nat × Nat)) : List Host.Cell :=
  xs.foldl (fun m x => spSetList 0 m (2097152 + x.1) (toBytesLE x.2.1 x.2.2)) []

/-- A kernel header at 64 with one image at 512: one row and column, core 0 needed, one operator that executes NOP. -/
def imgMem : List Host.Cell := fields [(64, 8, 0x100 * 2 ^ 32 + 256), (64 + 256 + 64, 4, 448), (64 + 256 + 68, 4, 144), (512, 2, 0x0101),
  (516, 4, 1), (520, 2, 1), (528, 4, 40), (552 + 2, 1, 1), (552 + 4, 4, 1), (552 + 8, 12, 0x9900_F000_F000_F000_F000_F000)]
/-- The unit in its load step. -/
def Uload : Machine.Unit := { U4 with khdr := 64, nimg := 1, spat := some (.start 0) }
def atLoadStep : State := { mapped (at0 Uload) with mem := imgMem }

theorem witness_spatial_load :
    atLoadStep.units[0]? = some Uload ∧ Uload.st = .resident ∧ Uload.saveAt = none ∧ (Spat.start 0).step = .load ∧
    (match atLoadStep.readImage Uload 0 (Uload.core / 32) with
     | .got i0 sig s1 =>
       let i := { i0 with ops := patchOpers (s1.patchesOf Uload 0) i0.ops }
       !s1.spatPlace Uload i sig.isSome && (s1.findRegion 0 Uload i).isSome && (stageTokens Uload.staged i.queues matches .ok _) &&
         i.ops.length == 1
     | _ => false) = true := by decide +kernel

/-! ### Queues -/

/-- A queue whose program is at its first instruction, with registers and two windows of its program. -/
def Q0 : Queue := { queueWith 0 4096 [0] [] with w := [(1, 16), (2, 4096)], wins := [⟨2097152 - 4096, 4096, 3⟩, ⟨2 ^ 40, 4096, 3⟩] }
/-- The machine in which that queue has its turn. -/
def atQ (Q : Queue) : State := { mapped State.reset with queues := [Q], cur := .queue 0 }

/-- The queue of `atQ` executes. -/
theorem runs_queue (Q : Queue) (h : Q.n = 0) : RunsQueue (atQ Q) 0 Q := by
  refine ⟨rfl, ?_⟩
  simp [atQ, mapped, State.queue?, h]

theorem witness_queue_arithmetic :
    RunsQueue (atQ Q0) 0 Q0 ∧ (15 : BitVec 4) ≠ 0 ∧ spOk 0 Q0.w = true ∧ (encodeQ (.movq 15 131071)).isSome = true := by
  exact ⟨runs_queue Q0 rfl, by decide +kernel, rfl, rfl⟩

theorem witness_queue_accesses :
    RunsQueue (atQ Q0) 0 Q0 ∧ 2 ≤ (2 : BitVec 3).toNat ∧ Q0.wins[(2 : BitVec 3).toNat - 2]? = some ⟨2097152 - 4096, 4096, 3⟩ ∧
    (∃ bs s1, engRead Q0.port ((List.range 8).map fun k => some ((2097152 - 4096 + 4088 + k) % 2 ^ 64)) (atQ Q0) = .ok bs s1 ∧
      (bs == [0, 0, 0, 0, 0, 0, 0, 0]) = true) ∧
    (Q0.winSize 2 % 8 = 0 ∧ Q0.winSize 2 ≠ 0) ∧
    (∃ wt s1, engWrite Q0.port 0 0 ((toBytesLE 8 (Q0.getW 2).toNat).zipIdx.map fun (b, k) => ((2097152 - 4096 + 4088 + k) % 2 ^ 64, b))
      (atQ Q0) = .ok wt s1 ∧ true = true) ∧
    (∃ va wi, engWrite Q0.port 0 0 ((toBytesLE 8 (Q0.getW 2).toNat).zipIdx.map fun (b, k) => ((2 ^ 60 + k) % 2 ^ 64, b)) (atQ Q0) =
      .fault va wi) := by
  refine ⟨runs_queue Q0 rfl, by decide +kernel, rfl, got_ok (by decide +kernel), by decide +kernel, got_ok (f := fun _ _ => true) (by decide +kernel), ?_⟩
  have h : (engWrite Q0.port 0 0 ((toBytesLE 8 (Q0.getW 2).toNat).zipIdx.map fun (b, k) => ((2 ^ 60 + k) % 2 ^ 64, b)) (atQ Q0) matches
    .fault _ _) = true := by decide +kernel
  split at h
  · exact ⟨_, _, by assumption⟩
  · cases h

theorem witness_queue_branches :
    RunsQueue (atQ { Q0 with pc := 131072 }) 0 { Q0 with pc := 131072 } ∧ (0 : Int) ≤ (131072 : Int) + (131072 : BitVec 18).toInt ∧
    (encodeQ (.qprogLoop 63 0)).isSome = true ∧ (((atQ Q0).startPacket Q0 (List.replicate 64 0)).queue? 0).isSome = true :=
  ⟨runs_queue _ rfl, by decide +kernel, rfl, by decide +kernel⟩

/-- A launch record at 0, whose kernel header is at 4096. -/
def recMem : List Host.Cell := fields [(0, 8, 4096), (8, 4, 32 + 16 * 64 + 2 ^ 18), (0x10, 4, 1), (0x14, 4, 1), (0x18, 4, 1),
  (4096, 8, 0x100 * 2 ^ 32 + 256), (8192, 8, 1), (8200, 8, 0)]
/-- The machine with that record. -/
def atRec (Q : Queue) : State := { atQ Q with mem := recMem }

theorem runs_rec (Q : Queue) (h : Q.n = 0) : RunsQueue (atRec Q) 0 Q := by
  refine ⟨rfl, ?_⟩
  simp [atRec, atQ, mapped, State.queue?, h]

/-- A launch that starts without a fault. -/
def starts (r : LaunchRes) : Bool :=
  match r with
  | .started s => match s.launches with
    | [L] => L.faulted.isNone && !L.cancelled
    | _ => false
  | _ => false

theorem starts_ok {r : LaunchRes} (h : starts r = true) : ∃ s, r = .started s := by
  cases r with
  | started s => exact ⟨s, rfl⟩
  | bad s => simp [starts] at h
  | stall s => simp [starts] at h

/-- Signals: w2 holds the address of one with value 1, w3 of one with value 0. -/
def Qsig : Queue := { queueWith 0 4096 [0] [] with w := [(2, 8192), (3, 8200)] }

theorem witness_queue_actions :
    RunsQueue (atRec Q0) 0 Q0 ∧ (∃ s1, (atRec Q0).startLaunch Q0 0 0 0 = .started s1) ∧
    copyBad 4096 0 4294967280 = false ∧ (2 ^ 48 - 8 : Nat) % 8 = 0 ∧ canonical (2 ^ 47 - 8) = true ∧
    RunsQueue (atRec Qsig) 0 Qsig ∧ Qsig.maskSignals 6 = [8192, 8200] ∧ (∀ x ∈ Qsig.maskSignals 6, x.toNat % 8 = 0) ∧
    (∃ vs s1, readSignals Qsig (Qsig.maskSignals 6) (atRec Qsig) = .ok vs s1 ∧ (vs == [1, 0]) = true) ∧
    (2 ^ 32 - 1 : Nat) < 2 ^ 32 ∧ (Q0.getW 1).toNat % 16 = 0 ∧ (Q0.getW 2).toNat % 8 = 0 :=
  ⟨runs_rec Q0 rfl, starts_ok (by decide +kernel), by decide +kernel, by decide +kernel, by decide +kernel, runs_rec Qsig rfl, by decide +kernel,
    by rw [show Qsig.maskSignals 6 = [8192, 8200] from by decide +kernel]; simp, got_ok (by decide +kernel), by decide +kernel, by decide +kernel, by decide +kernel⟩

/-- A queue of the standard program with a packet in its turn. -/
def Qstd : Queue := queueWith 0 0 [] []
/-- A packet of zeros but for some words. -/
def pk (a b c sig : DWord) : Packet := ⟨0, 0, 0, 0, false, 0, 0, false, a, b, c, 0, 0, 0, sig⟩

theorem witness_packets :
    RunsQueue (atRec Qstd) 0 Qstd ∧ PacketFits (pk 0 7 0 8) Qstd ∧ (pk 0 7 0 8).q10.toNat < 8 ∧
    (∃ s1, (atRec Qstd).startLaunch Qstd 0 0 0 = .started s1) ∧
    (∀ a ∈ packetSignals (pk 8192 8200 0 8), a.toNat % 8 = 0) ∧
    (∃ vs s1, readSignals Qstd (packetSignals (pk 8192 8200 0 8)) (atRec Qstd) = .ok vs s1 ∧ (vs == [1, 0]) = true) ∧
    canonical 8192 = true ∧ copyBad 0 16 4294967280 = false ∧ (pk 3 4294967295 0 0).q10.toNat < 2 ^ 32 ∧
    { pk 0 0 0 0 with q30 := 1 }.q30 ≠ 0 ∧ PacketFits { pk 0 0 0 0 with q30 := 1 } Qstd ∧ { pk 0 0 0 0 with rsv := 63 }.rsv ≠ 0 := by
  refine ⟨runs_rec Qstd rfl, by unfold PacketFits; decide +kernel, by decide +kernel, starts_ok (by decide +kernel),
    by rw [show packetSignals (pk 8192 8200 0 8) = [8192, 8200] from by decide +kernel]; simp, got_ok (by decide +kernel), by decide +kernel, by decide +kernel, by decide +kernel, by decide +kernel, by unfold PacketFits; decide +kernel, by decide +kernel⟩

/-! ### Events of queues -/

/-- A queue that waits for a signal, and one whose packet is to be read again. -/
def Qwait : Queue := { Qsig with held := false, wait := some ⟨[8192], true, 15⟩, woken := true }
def Qagain (k : Nat) : Queue := { Qstd with held := false, refetch := k, busy := false, started := [], ring := 12288, ridx := 0, widx := 1 }
/-- The machine with that queue: its notification page holds WIDX 1, and its ring one packet with the given header. -/
def atAgain (k hdr : Nat) : State := { atQ (Qagain k) with mem := fields [(0, 8, 1), (12288, 8, hdr)] }

/-- The packet is read again, after WIDX, and has a property. -/
def reads (k hdr : Nat) (f : List Byte → Bool) : Bool :=
  let Q := Qagain k
  (atAgain k hdr).selects Q && match ((atAgain k hdr).selectQueue Q).qRead Q Q.notify.toNat 8 with
  | .ok ws s1 =>
    let W := { Q with widx := fieldAt ws 0 8 }
    decide (Q.ridx < W.widx) && decide (W.widx ≤ Q.ridx + 2 ^ Q.logn) &&
      match (s1.modQueue 0 fun (x : Queue) => { x with widx := W.widx }).readPacket W with
      | .ok (bs, _) => f bs
      | .error _ => false
  | _ => false

theorem witness_queue_waits :
    (atRec Qwait).queue? 0 = some Qwait ∧ Qwait.wait = some ⟨[8192], true, 15⟩ ∧ Qwait.fault = none ∧ Qwait.evaluates 0 = true ∧
    (∃ vs s1, readSignals Qwait [8192] ((atRec Qwait).waitLater 0) = .ok vs s1 ∧ (vs == [1]) = true) ∧
    (∀ k ∈ [3, 4], (atAgain k 0).queue? 0 = some (Qagain k) ∧ (Qagain k).refetch ≠ 0 ∧ (Qagain k).held = false ∧ (Qagain k).busy = false ∧
      (Qagain k).started.length < 64 ∧
      reads k (2 ^ 13) (fun bs => bitsAt (fieldAt bs 0 8) 13 1 == 1 && !checkPacket bs 0) = true ∧
      reads k 0 (fun bs => bitsAt (fieldAt bs 0 8) 13 1 == 0 && (decodePacket (packetWord bs)).isNone) = true ∧
      reads k 7 (fun bs => bitsAt (fieldAt bs 0 8) 13 1 == 0 && (decodePacket (packetWord bs)).isSome) = true) :=
  ⟨by decide +kernel, rfl, rfl, rfl, got_ok (by decide +kernel), by decide +kernel⟩

/-- A packet that has ended, a queue that waits for a slot, one that leaves its slot, and 512 mapped queues. -/
def Qended : Queue := { Qstd with started := [⟨5, true, 1, 8, []⟩] }
def Qasks : Queue := { Qstd with die := none, held := false, busy := false, wake := true, started := [] }
def Qgoes : Queue := { Qstd with taken := true, held := false, busy := false }
def Qidle (n : Nat) : Queue := { queueWith n 0 [] [] with held := false, busy := false, started := [] }
def atFull : State := { State.reset with clock := 2 ^ 20, queues := { Qasks with n := 9000 } :: (List.range 512).map Qidle }

theorem witness_wake_sent : (atQ Qasks).wakeHeld Qasks = false := by
  have h : ∀ d < 4, (atQ Qasks).flowFull ((atQ Qasks).wakeDie Qasks) d 3 = false ∧
      (atQ Qasks).behindWake ((atQ Qasks).nextPkt ((atQ Qasks).wakeDie Qasks) d 3) = false := by decide +kernel
  have := h (Config.schedulerDie % 4) (Nat.mod_lt _ (by decide))
  simp only [State.wakeHeld, show Qasks.wakePkt = none from rfl, this.1, this.2]; rfl

theorem witness_queue_slots :
    (Qended.started.find? fun p => p.index == 5 && p.fin) = some ⟨5, true, 1, 8, []⟩ ∧ ({ Qstd with enabled := false } : Queue).enabled = false ∧ (atQ Qended).packetWrites 0 5 = false ∧
    ((paged (atQ Qasks)).walkPa 0 Qasks.notify.toNat = some 2097152 ∧ Qasks.enabled = true ∧ Qasks.die = none ∧ Qasks.error = none ∧
      { paged (atQ { Qasks with ridx := 7 }) with mem := pages }.physNat 2097152 8 ≠ 7) ∧
    (Qasks.wake = true ∧ Qasks.fault = none ∧ (atQ Qasks).slotsUsedOn 3 < 512) ∧
    (atFull.queue? 9000 = some { Qasks with n := 9000 } ∧ atFull.queue? 511 = some (Qidle 511) ∧ (Qidle 511).die = some 0 ∧
      (Qidle 511).taken = false ∧ 512 ≤ atFull.slotsUsedOn 0 ∧ (Qidle 511).dormant atFull.clock = true) ∧
    (Qgoes.stopping = false ∧ Qgoes.die.isSome = true ∧ Qgoes.taken = true ∧ Qgoes.held = false ∧ Qgoes.busy = false) ∧
    (Qstd.enabled = true ∧ Qstd.busy = true ∧ Qstd.fault = none ∧ Qasks.busy = false ∧ Qasks.started = [] ∧ Qasks.die = none ∧ (atQ Qasks).regs.qcmd = none) ∧
    got ((atQ Qstd).qRead Qstd Qstd.notify.toNat 8) (fun bs _ => bs == [0, 0, 0, 0, 0, 0, 0, 0]) = true := by decide +kernel

/-- Running firmware, context 0 mapped by its tables, and the descriptor of queue 0 at 16 MiB: of a valid queue or not. -/
def atEnable (logn : Nat) : State :=
  { mapped State.reset with
    mem := [(8, 8, 1), (16777216, 8, 4096), (16777224, 4, logn)].foldl (fun m x => spSetList 0 m x.1 (toBytesLE x.2.1 x.2.2)) pages
    regs := { HostRegs.reset with fwstat := 2, qtbase := 16777216 } }

/-- A delta of a launch with no unit. -/
def atDelta : State := { State.reset with deltas := [⟨3, 1, 0, 0, []⟩], units := [U0, { Uspat (spat0 .run opAdd []) with launch := 1 }] }

theorem witness_queue_enable_and_delta :
    (∀ k ∈ [4, 20, 3, 21], (atEnable k).regs.qcmd = none ∧ (atEnable k).regs.fwstat = 2 ∧ (atEnable k).queue? 0 = none ∧
      (atEnable k).descOk ((atEnable k).physBytes ((atEnable k).queueDesc 0) 64) = decide (4 ≤ k ∧ k ≤ 20)) ∧
    got (((atEnable 4).setQueue (queueOf 0 ((atEnable 4).physBytes ((atEnable 4).queueDesc 0) 64))).qRead
      (queueOf 0 ((atEnable 4).physBytes ((atEnable 4).queueDesc 0) 64)) 0 8) (fun _ _ => true) = true ∧
    (atDelta.deltas.find? fun x => x.id == 3) = some ⟨3, 1, 0, 0, []⟩ ∧
    (∀ U ∈ atDelta.units, (⟨3, 1, 0, 0, []⟩ : Delta).patches U = true →
      U.st = .resident ∧ (U.spat.map fun c => c.step != .exit && c.drained []) = some true) ∧
    (⟨3, 1, 0, 0, []⟩ : Delta).patches { Uspat (spat0 .run opAdd []) with launch := 1 } = true := by decide +kernel

/-! ### Launches -/

/-- A machine with one launch, context 0's first 2 MiB mapped by its tables, and a signal of -1 at 8192. -/
def atLaunch (c : Nat) (L : Launch) : State :=
  { paged (mapped State.reset) with clock := c, launches := [L], mem := spSetList 0 pages 2105344 (List.replicate 8 0xFF) }

theorem witness_launch_course :
    (∀ L ∈ [{ slotLaunch 0 with cancelled := true }, { slotLaunch 0 with cancelled := true, status := 2, graph := 5, job := 6 },
        { slotLaunch 0 with cancelled := true, status := 2 }],
      (atLaunch 0 L).launches[0]? = some L ∧ L.done = false ∧ (atLaunch 0 L).launchOver L = true ∧
      (L.status = 0 ∨ chainOf L.graph L.phase L.job = [(1, 5), (3, 6)] ∨ chainOf L.graph L.phase L.job = [])) ∧
    { slotLaunch 0 with aborted := true }.aborted = true ∧
    ({ slotLaunch 0 with needPolicy := true }.live = true ∧ { slotLaunch 0 with needPolicy := true }.startedAt + 4096 ≤ 4096) ∧
    ({ slotLaunch 0 with deadlineAt := some 0 }.live = true ∧ (0 : Nat) ≤ (atLaunch 0 (slotLaunch 0)).clock) ∧
    (let L := { slotLaunch 0 with csig := 8192 }
     L.live = true ∧ L.csig ≠ 0 ∧ L.cancelled = false ∧ L.aborted = false ∧
       (atLaunch 0 L).walkPa L.ctx L.csig.toNat = some 2105344 ∧ 2 ^ 63 ≤ (atLaunch 0 L).physNat 2105344 8) := by decide +kernel

/-- Launches that end: one with a group that failed, before and after its last group has stopped; ones whose units have all ended, with
or without an abort in their signal; and complete ones, that leave their level or stay in it. -/
theorem witness_launch_ends :
    (let L := { slotLaunch 0 with failing := some 0 }
     (L.done = false ∧ L.failing ≠ none) ∧ (atLaunch 0 L).failDue L = true ∧ { atLaunch 0 L with units := [{ U0 with launch := 1 }] }.failDue L = false) ∧
    (∀ b ∈ [true, false], let L := { slotLaunch 0 with gx := 0, nunits := 0, csig := if b then 8192 else 0, sigAbort := true }
      L.failing = none ∧ L.status = 0 ∧ L.cancelled = false ∧ L.aborted = false ∧ (atLaunch 0 L).launchOver L = true ∧
        (atLaunch 0 L).signalled L = b) ∧
    (∀ b ∈ [true, false], let L := { slotLaunch 0 with faulted := some (4, 64), aborted := b }
      L.halted = true ∧ L.live = true ∧ (atLaunch 0 L).launch? L.id = some L) ∧
    (let L := { slotLaunch 0 with cancelled := true, status := 2, done := true, leaves := true }
     L.done = true ∧ (atLaunch 0 L).packetOver L = true ∧
       { atLaunch 0 L with queues := [{ queueWith 0 0 [] [] with started := [⟨0, false, 0, 0, []⟩] }] }.packetOver L = false) := by decide +kernel

/-- A stage of two units, with `n` tokens in its queue of depth 4. -/
def stage0 (cons prod n : Nat) : Stage :=
  ⟨4096, 32 + 16 * 64 + 2 ^ 18, cons, prod, 0, 1, 2, 4, 4, 2, 0, 0, 1, 0, List.replicate n [0, 0, 0, 0], [], []⟩
/-- A pipelined launch, whose first queue holds `n` tokens. -/
def piped (n : Nat) : Launch := { slotLaunch 0 with stages := [stage0 0 1 n, stage0 1 0 0] }
/-- A launch whose shape is known and not yet bound. -/
def shaped : Launch := { slotLaunch 0 with shape := 8, pred := 9, maxc := 9, trueCount := some 4 }
/-- A unit that is promoted, with a byte of its own. -/
def Upromo : Machine.Unit := { U0 with promoting := true }
def atPromo : State := { paged (mapped (at0 Upromo)) with tent := [⟨0, ⟨0, 0, 0, 0⟩, [(5, 7)]⟩] }

theorem witness_stages_and_shapes :
    (∀ n ∈ [0, 3], (piped n).stages ≠ [] ∧ (piped n).live = true ∧ (piped n).stopped = false ∧ (piped n).evalAt + 4096 ≤ 4096 ∧
      (piped n).home = some 0 ∧ (atLaunch 4096 (piped n)).spareCore (piped n) 0 = true ∧
      bestOf (piped n).fuller (((piped n).stages.zipIdx.filter fun x => (piped n).pressed x.2 x.1).map (·.2)) =
        if n = 3 then some 1 else none) ∧
    ((piped 3).below 1 = true ∧
      { piped 3 with stages := [stage0 0 1 3, { stage0 1 0 0 with replicas := 2 }] }.below 1 = false) ∧
    (shaped.trueCount = some 4 ∧ shaped.shape ≠ 0 ∧ shaped.bound = false ∧ shaped.stopped = false ∧ shaped.live = true ∧
      shaped.needPolicy = false) ∧
    atPromo.units[0]? = some Upromo ∧ Upromo.promoting = true ∧
    (atPromo.units.all fun V => !(V.launch == Upromo.launch && V.promoting) || decide (Upromo.idx ≤ V.idx)) = true ∧ atPromo.storesLanded 0 Upromo = true ∧
    (let p : Port := ⟨.last 0, 0, 0, none⟩
     got (promoCheck p (atPromo.tentBytes 0) atPromo) (fun xs s1 => xs == [(5, 2097157, 7)] &&
       got (engStore p (s1.tcOf 0) (s1.promoFloor 0 0 (xs.map (·.1))) xs s1) fun _ s2 => s2.physByte 2097157 == 7) = true) := by
  decide +kernel

/-! ### Units -/

/-- A launch whose kernel header is at 4096, started by queue 0. -/
def Lnew : Launch := { slotLaunch 0 with khdr := 4096 }
/-- The same with two stages. -/
def Lstg : Launch := { piped 0 with khdr := 4096 }
/-- The machine before its first unit. -/
def atStart (L : Launch) : State := { atRec Qstd with launches := [L] }

/-- The header word a unit's start reads. -/
def header (s : State) (L : Launch) (k : DWord) : Option Nat :=
  match s.readHeader L k with
  | .ok x => some x.1
  | .error _ => none

theorem witness_unit_start :
    (∀ L ∈ [Lnew, Lstg], (atStart L).launches[0]? = some L ∧ (atStart L).waiting (.pending 0 0) = true ∧
      (atStart L).coresOk (.pending 0 0) [31] = true ∧ (atStart L).savedFirst (.pending 0 0) [31] = false ∧
      (atStart L).squashed (.pending 0 0) = false) ∧
    Lstg.stages[0]? = some (stage0 0 1 0) ∧ header (atStart Lstg) Lstg (stage0 0 1 0).khdr = some (0x100 * 2 ^ 32 + 256) ∧
    Lnew.stages[0]? = none ∧ header (atStart Lnew) Lnew Lnew.khdr = some (0x100 * 2 ^ 32 + 256) := by decide +kernel

/-- A unit of no registers, whose group waits. -/
def Usmall (st : GroupSt) : Machine.Unit := { unitAt 0 with part := 0, nv := 0, groups := [{ G0 with st := st }] }
/-- A save area at 65536 of 64 KiB in context 0. -/
def poolMem : List Host.Cell := [(0x18, 8, 65536), (0x20, 8, 65536)].foldl (fun m x => spSetList 0 m x.1 (toBytesLE x.2.1 x.2.2)) []
/-- Only core 0 of cluster 0 is enabled; the unit holds it and another launch of the cluster waits. -/
def atWait (U : Machine.Unit) : State :=
  { mapped (at0 U) with
    launches := [{ slotLaunch 0 with pmode := 4 }, { slotLaunch 0 with id := 2 }], disabledCores := (List.range 31).map (· + 1)
    mem := poolMem, clock := 2 ^ 22 }

theorem witness_unit_preemption :
    (∀ U ∈ [Usmall .ready, { Usmall .ready with firm := false }], (atWait U).units[0]? = some U ∧
      (atWait U).waiting (.pending 1 0) = true ∧ (atWait U).placeable (.pending 1 0) = false ∧
      (atWait U).wants (.pending 1 0) = true ∧ (atWait U).victimFor (.pending 1 0) 0 U = true ∧ (atWait U).rotates (.pending 1 0) 0 U = true ∧
      (atWait U).unitPrio U ≤ (atWait U).waiterPrio (.pending 1 0) ∧
      (atWait U).waiters.all ((atWait U).ahead (.pending 1 0)) = true ∧ U.since + 2 ^ 22 ≤ (atWait U).clock ∧
      (atWait U).waiterFirm (.pending 1 0) = true) ∧
    (let s := atWait (Usmall .ready)
     s.squashed (.pending 1 0) = false ∧ s.squashDue = false ∧
       (s.units.zipIdx.all fun x => !s.rotates (.pending 1 0) x.2 x.1 || decide ((Usmall .ready).since ≤ x.1.since)) = true) ∧
    (let U := { Usmall .ready with firm := false }
     (atWait U).makesRoom ((atWait U).maySquash (.pending 1 0)) (.pending 1 0) 0 U = true) ∧
    (Usmall .ready).promoting = false ∧ ((atWait (Usmall .ready)).launchOf (Usmall .ready)).map Launch.squash = some true ∧
    (let U := { Usmall .ready with spat := some (.start 0), seek := some 0 }
     U.holds = true ∧ U.seeks = true ∧ (markSave true [0] (atWait U)).isSome = true) ∧
    (let U := Usmall (.waiting .sleep)
     U.holds = true ∧ U.seeks = false ∧ U.evictable = true ∧ (atWait U).cohortOf 0 U = [0] ∧ (atWait U).waiting (.pending 1 0) = true ∧
       (atWait U).placeable (.pending 1 0) = false ∧ (markSave false [0] (atWait U)).isSome = true) ∧
    (let U := Usmall .ended
     U.st = .resident ∧ U.svc = false ∧ U.saveAt = none ∧ (atWait U).cohortOf 0 U = [0] ∧ (atWait U).unitDone 0 U = true) := by
  decide +kernel

/-- The unit with its save area at 65536. -/
def Usave (st : UnitSt) : Machine.Unit := { Usmall .ready with st := st, saveAt := some (65536, 1), eligible := true, core := 31 }
/-- Context 0's first 2 MiB lie in host memory, at the bottom of its window. -/
def hosted (s : State) : State := { s with tlb := [⟨.last 0, 0, 0, 2097152, 0x1000000000000, true, true, false, true, false⟩] }
/-- The unit is saved, and its area, whose first fields are those of R250, is in memory. -/
def atSaved : State := { hosted (at0 (Usave .saved)) with
  launches := [slotLaunch 0], mem := spSetList 0 (spSetList 0 [] 0x1000000010000 (toBytesLE 4 0x53565341)) 0x1000000010008 [1] }

theorem witness_unit_save :
    (at0 (Usave .resident)).units[0]? = some (Usave .resident) ∧ (Usave .resident).svc = false ∧
    (at0 (Usave .resident)).cohortOf 0 (Usave .resident) = [0] ∧ (at0 (Usave .resident)).saveReady 0 (Usave .resident) = true ∧
    (saveAll [0] (hosted (at0 (Usave .resident)))).isSome = true := by decide +kernel

theorem witness_unit_restore :
    atSaved.units[0]? = some (Usave .saved) ∧ atSaved.waiting (.saved 0) = true ∧ atSaved.waiterNeed (.saved 0) = 1 ∧
    atSaved.coresOk (.saved 0) [0] = true ∧ (Usave .saved).spat = none ∧
    regionsFor [(0, 0)] (atSaved.seated [(0, 0)]) = some [(0, 0)] ∧ atSaved.squashed (.saved 0) = false ∧
    ((List.range atSaved.units.length).filter fun v => match atSaved.units[v]? with
      | some V => (Usave .saved).mate V && V.st == .saved
      | none => false) = [0] := by decide +kernel

/-- That machine after some packets. -/
def atFlows (fl : List Flow) : State := { atSaved with flows := fl }

/-- Reads of the hosted pages: each travels in the flow to the host. -/
theorem hosted_read (l : List Nat) (h : ∀ v ∈ l, v < 2097152) (fl : List Flow) : ∃ fl',
    engRead ⟨.last 0, 0, 0, none⟩ (l.map some) (atFlows fl) = .ok (l.map fun v => atSaved.physByte (0x1000000000000 + v)) (atFlows fl') := by
  induction l generalizing fl with
  | nil => exact ⟨fl, rfl⟩
  | cons v l ih =>
    have hv : v < 2097152 := h v (by simp)
    have hc : canonical v = true := by simp [canonical, bitsAt]; omega
    have ht : (atFlows fl).translate (.last 0) 0 0 v .read false = .ok (0x1000000000000 + v, atFlows fl) := by
      simp [State.translate, tlbFind, atFlows, atSaved, hosted, TlbEnt.permits, TlbEnt.target, Nat.div_eq_of_lt hv, Nat.mod_eq_of_lt hv]
    have hk : ∀ fl, (atFlows fl).paKind (0x1000000000000 + v) = .host := fun fl => by
      simp only [State.paKind]; rw [if_neg (by omega), if_neg (by omega), if_pos (by omega)]
    have hd : ∀ fl, (atFlows fl).cached (0x1000000000000 + v) = false := fun fl => by simp only [State.cached, hk]; rfl
    have hr : (atFlows fl).engReadable ⟨.last 0, 0, 0, none⟩ v (0x1000000000000 + v) = true := by
      simp only [State.engReadable, State.readReady, hd, State.outPort, State.outside, hk]
      simp [State.flowRoom, State.flowOut, State.behindRead, atFlows, atSaved, hosted, at0, State.reset, Config.flowWindow]
    obtain ⟨fl1, hs⟩ : ∃ fl1, (atFlows fl).sentRead ⟨.last 0, 0, 0, none⟩ (0x1000000000000 + v) (lineEnds v (l.map some)) = atFlows fl1 := by
      simp only [State.sentRead, hd, State.outPort, State.outside, hk]
      cases lineEnds v (l.map some)
      · exact ⟨fl, rfl⟩
      · exact ⟨_, rfl⟩
    have hp : (atFlows fl1).readPage 0 0 none v (0x1000000000000 + v) 1 = ([atSaved.physByte (0x1000000000000 + v)], atFlows fl1) := by
      have hl : (atFlows fl1).pieceLen 0 v 1 = 1 := by
        simp only [State.pieceLen]; split
        · rfl
        · exact Nat.min_eq_left (by omega)
      simp [State.readPage, spanRead, hl, State.homeRead, hd, State.overlay, State.physBytes]; rfl
    obtain ⟨fl', he⟩ := ih (fun w hw => h w (by simp [hw])) fl1
    have hu : ((atFlows fl).uncorrIn (0x1000000000000 + v) 1 || (atFlows fl).cutRead 0 0 v (0x1000000000000 + v)) = false := rfl
    exact ⟨fl', by simp [engRead, hc, ht, hu, hr, hs, hp, he]⟩

/-- A field that lies in the first bytes. -/
theorem fieldAt_append (x y : List Byte) (a n : Nat) (h : a + n ≤ x.length) : fieldAt (x ++ y) a n = fieldAt x a n := by
  unfold fieldAt
  rw [List.drop_append_of_le_length (by omega), List.take_append_of_le_length (by simp; omega)]

/-- A unit whose area reads back is restored. -/
theorem restore_some {s s1 : State} {u c len : Nat} {o : Nat × Nat} {U : Machine.Unit} {a : DWord} {n : Nat} {bs : List Byte}
    (hu : s.units[u]? = some U) (hs : U.saveAt = some (a, n)) (hq : s.quadFits u U c = true) (hc : s.coreFree c = true)
    (hl : min (65536 * n) (s.saveSize u U) = len)
    (hr : engRead ⟨.last (dieOf c), dieOf c, U.ctx, none⟩ ((List.range len).map fun i => some ((a.toNat + i) % 2 ^ 64)) s = .ok bs s1)
    (ho : U.areaOk bs = true) : (restoreAll [((u, c), o)] s).isSome = true := by
  subst hl
  simp only [restoreAll, State.restoreOne, hu, hs, hq, hc, hr, ho, Bool.not_true, Bool.or_self, Bool.false_eq_true, if_false, Option.isSome_some]

/-- The addresses of the area. -/
def areaVas : List Nat := (List.range 16384).map fun i => 65536 + i

theorem witness_area_reads : ∃ fl, engRead ⟨.last 0, 0, 0, none⟩ (areaVas.map some) atSaved =
    .ok (areaVas.map fun v => atSaved.physByte (0x1000000000000 + v)) (atFlows fl) := hosted_read _ (by simp [areaVas]; omega) []

theorem witness_area_ok : (Usave .saved).areaOk (areaVas.map fun v => atSaved.physByte (0x1000000000000 + v)) = true := by
  rw [areaVas, show 16384 = 24 + 16360 from rfl, List.range_add, List.map_append, List.map_append, Unit.areaOk,
    fieldAt_append _ _ _ _ (by simp), fieldAt_append _ _ _ _ (by simp), fieldAt_append _ _ _ _ (by simp), fieldAt_append _ _ _ _ (by simp)]
  decide +kernel

theorem witness_unit_restored : (restoreAll [((0, 0), (0, 0))] atSaved).isSome = true := by
  have hm : ((List.range 16384).map fun i => some ((65536 + i) % 2 ^ 64)) = areaVas.map some := by
    rw [areaVas, List.map_map]
    refine List.map_congr_left fun i hi => ?_
    have := List.mem_range.1 hi
    simp only [Function.comp]; congr 1; omega
  obtain ⟨fl, hr⟩ := witness_area_reads
  refine restore_some (s1 := atFlows fl) (len := 16384) (U := Usave .saved) (a := 65536) (n := 1) (by decide +kernel) rfl (by decide +kernel) (by decide +kernel)
    (by decide +kernel) ?_ witness_area_ok
  exact (congrArg (fun l => engRead ⟨.last 0, 0, 0, none⟩ l atSaved) hm).trans hr

theorem witness_wait_ends :
    ({ G0 with st := .waiting .sleep }.st = .waiting .sleep ∧ { G0 with st := .waiting .sleep }.sleepUntil ≤ State.reset.clock) ∧
    (let G := { G0 with st := .waiting .waitc, sleepUntil := 1 }
     G.st = .waiting .waitc ∧ G.sleepUntil ≠ 0 ∧ G.sleepUntil ≤ (atWait (U1 G)).clock ∧ (atWait (U1 G)).group? 0 0 = some (U1 G, G)) := by
  decide +kernel

/-! ### Faults, shootdowns, the memory path and the engines -/

/-- A record of group 0 that is pending since cycle 0 on die 3, with the largest SEQ. -/
def posted0 : Posted := ⟨3, 2 ^ 48 - 1, 4095, ⟨64, 0, 0, 1, 0, 1, 1, 1, 0, 0, 0, 0⟩, .group 0 0, 0⟩
/-- A host's shootdown, and an ICINV that two dies still owe. -/
def shoot0 : Shootdown := ⟨1, true, 0, 0, some 0, 0, none⟩
def icinv0 (ds : List Nat) : Icinv := ⟨2, 0, 0, 0, 0, none, ds, ds.map fun d => ⟨1, d, 2, 7⟩⟩
/-- WDLIM of context 0 is 1, and its first supervisor group has been in its handler since cycle 0. -/
def atWatch : State :=
  { at0 (U1 { Gsup with supSince := 0 }) with
    clock := 2 ^ 24 + 1, mem := spSetList 0 [] 12 [1], posted := [posted0], shoots := [shoot0, { shoot0 with id := 3, host := false }]
    icinvs := [icinv0 [0, 3]] }

theorem witness_faults_and_shootdowns :
    atWatch.regs.tlbcmd.getLsbD 63 = false ∧
    ((atWatch.shoots.find? fun d => d.id == 1) = some shoot0 ∧ (atWatch.shoots.find? fun d => d.id == 3) = some { shoot0 with id := 3, host := false } ∧
      atWatch.shootBusy shoot0 = false ∧ atWatch.shootMoves shoot0 = false ∧ shoot0.host = true) ∧
    ((atWatch.icinvs.find? fun c => c.id == 2 && c.dies.contains 3) = some (icinv0 [0, 3]) ∧ atWatch.behindIcinv (icinv0 [0, 3]) 3 = false ∧ ((icinv0 [0, 3]).acked 3).dies ≠ [] ∧
      (({ atWatch with icinvs := [icinv0 [3]] } : State).icinvs.find? fun c => c.id == 2 && c.dies.contains 3) = some (icinv0 [3]) ∧
      ((icinv0 [3]).acked 3).dies = [] ∧ ({ atWatch with icinvs := [icinv0 [3]] } : State).behindIcinv (icinv0 [3]) 3 = false) ∧
    (atWatch.pendingRec 3 (2 ^ 48 - 1) = some posted0 ∧ atWatch.pendingRec 0 0 = none ∧ atWatch.wdLim 0 ≠ 0 ∧
      posted0.since + atWatch.wdLim 0 < atWatch.clock) ∧
    (let G := { Gsup with supSince := 0 }
     atWatch.group? 0 0 = some (U1 G, G) ∧ G.sup = true ∧ (U1 G).svc = false ∧ (U1 G).st = .resident ∧ G.st ≠ .ended ∧
       G.supSince + atWatch.wdLim (U1 G).ctx < atWatch.clock ∧
       ({ atWatch with units := [{ U1 G with st := .saved }] } : State).group? 0 0 = some ({ U1 G with st := .saved }, G)) := by decide +kernel

/-- A load and a store on their way, to HBM or to host memory that is not cached; a written store; an atomic that has its answer. -/
def load0 (pa : Nat) : PendLoad := ⟨7, 0, 0, 0, pa, [⟨0, false, 0, 0, 4⟩], false, 0, none⟩
def store0 (pa : Nat) (w : Option Nat) : PendStore := ⟨8, 0, 0, 0, 0, 64, pa, [(64, 1), (67, 2)], false, 0, w, none⟩
def req0 (p : Bool) : Req :=
  ⟨9, .atom, 0, 3, 0, 0, 0, 0, 1, 0, 0, 2097144, 0, 0, 31, 4, 0, 0, none, p, if p then some 5 else none, 0, 6, 0, false, none, false, false, none⟩
def atPath (pa : Nat) (w : Option Nat) (p : Bool) : State :=
  { mapped (at0 U0) with loads := [load0 pa], stores := [store0 pa w], reqs := [req0 p] }

theorem witness_memory_path :
    (∀ pa ∈ [2097152, 0x1000000000000], let s := { atPath pa none false with stores := [], reqs := [] }
      (s.loads.find? fun p => p.id == 7) = some (load0 pa) ∧ s.units[0]? = some U0 ∧ s.loadReady (load0 pa) U0 = true ∧
      s.cutRead (dieOf U0.core) U0.ctx 0 pa = false ∧ s.uncorrIn pa 32 = false ∧ U0.svc = false ∧ s.cached pa = decide (pa = 2097152)) ∧
    (∀ pa ∈ [2097152 + 64, 0x1000000000040], let s := { atPath pa none false with loads := [], reqs := [] }
      (s.stores.find? fun p => p.id == 8 && p.wts.isNone) = some (store0 pa none) ∧ s.storeReady (store0 pa none) = true ∧ s.storeSvc (store0 pa none) = false ∧
      s.cutWrite (dieOf 0) 0 64 pa = false ∧ s.uncorrIn pa 1 = false ∧
      (s.cached pa = false ∨ (startInvals pa (dieOf 0) (s.keysOf 0 64 2) s).1 = false)) ∧
    ((atPath 64 (some 9) false).stores.find? fun p => p.id == 8) = some (store0 64 (some 9)) ∧
    ((atPath 64 none true).reqs.find? fun q => q.id == 9 && !q.replied && !q.half) = some (req0 true) ∧ (req0 true).reply = some 5 ∧
    (let s := { atPath 64 none false with loads := [], stores := [] }
     let q := { req0 false with cluster := sliceCluster (s.homeOf (s.keyOf 0 2097144).1) }
     (s.reqs.find? fun q => q.id == 9 && q.index.isNone && !q.performed && q.fault.isNone && !s.retriedNow (.req 9)) = some (req0 false) ∧
       s.reqPhys (req0 false) = false ∧ s.unsent q = false ∧ s.reqBlocked q = false ∧ s.behindWrite q.pkt q.ctx q.va = false ∧ s.behindFault q = false ∧ canonical q.va = true ∧
       (s.translate (.last (q.cluster / 4 % 4)) (q.cluster / 4 % 4) 0 2097144 .rmw false matches .ok _) = true) := by decide +kernel

/-- A copy command. -/
def cmd0 (k : CmdKind) (res : Option Bool) (started : Bool) (todo : List (Nat × Nat)) : Cmd :=
  ⟨1, k, 0, 1, none, res, 256, 0, 64, 0, none, 0, [], none, 0, started, false, todo, none, 0⟩
/-- A unit with that command. -/
def Ucmd (c : Cmd) : Machine.Unit := { U4 with copyq := [c] }

theorem witness_copy_engine :
    (∀ r ∈ [true, false], ∀ k ∈ [CmdKind.cpy, .cpys], (let c := cmd0 k (some r) false []
      ((Ucmd c).copyq.find? fun c => !c.started) = some c ∧ (Ucmd c).st = .resident ∧ (Ucmd c).saveAt = none ∧
        ((Ucmd c).copyq.filter (·.started)).length < 8 ∧ (Ucmd c).firm = true)) ∧
    (∀ k ∈ [CmdKind.cpy, .cpyt, .cpyg 8, .tchalo, .slabld, .cpys, .cpysx, .tcinv true, .tcwb], (let c := cmd0 k (some true) true [(0, 256)]
      ((Ucmd c).copyq.find? fun c => c.id == 1 && c.started && c.fault.isNone && !(at0 (Ucmd c)).retriedNow (.cmd 0 c.id)) = some c ∧
        (at0 (Ucmd c)).tensorLocked 0 c.src.toNat = false)) ∧
    (let c := cmd0 .cpy (some true) true []
     ((Ucmd c).copyq.find? fun c => c.id == 1 && c.started && c.todo.isEmpty) = some c) := by decide +kernel

/-- A task that any engine of the cluster may take, and one whose pass is under way. -/
def taskAny : Task := { task1 with desc := task1.desc ||| BitVec.ofNat 512 (2 ^ 19), eligAt := some 768 }
def taskDue : Task := { task1 with eligAt := some 0 }
def taskPass : Task := { task1 with st := .running, pass := true, granted := true }
/-- The machine with a task, late enough for it to move. -/
def atTask (t : Task) : State := { at5 [t] with clock := 1024 }

theorem witness_matrix_engines :
    (let s := settle (atTask taskDue).tasks (atTask taskDue)
     let el := s.tasks.filter fun t => t.engine == 0 && s.eligible t
     s.grantDue 0 = true ∧ bestTask el = some taskDue ∧ s.units[taskDue.unit]? = some U5 ∧ taskDue.rcd.opk ≠ 1) ∧
    ((atTask taskPass).tasks.find? fun t => t.engine == 0 && t.pass && t.fault.isNone && !(atTask taskPass).retriedNow (.task 0 1)) = some taskPass ∧ (atTask taskPass).units[taskPass.unit]? = some U5 ∧
    (let s := atTask taskAny
     s.task? 0 1 = some taskAny ∧ s.movable taskAny = true ∧ 7 / 8 = taskAny.home / 8 ∧ 7 ≠ taskAny.home ∧ s.disabledEngines.contains 7 = false ∧
       (s.tasks.all fun y => !(y.engine == 7 && s.eligible y)) = true ∧ (s.engineOf 7).busyAt + 64 ≤ s.clock ∧ (s.engineOf 7).lastMove + 256 ≤ s.clock ∧
       bestTask (s.tasks.filter fun y => y.home / 8 == taskAny.home / 8 && s.movable y) = some taskAny) := by decide +kernel

/-! ### Time, proxies, the host, peers and the fleet -/

/-- A home line of 64 bytes in the first page, and a proxy copy of it on die 3. -/
def line0 (proxy : Bool) : Line := ⟨⟨0, 0, 0, 0⟩, proxy, if proxy then 3 else 0, [(0, 64, 2097152)], [(3, 9)], [], 0, 0, none⟩
/-- The machine with those lines, an invalidation for die 3, two regions that may merge, and a sleeping slice. -/
def atLines (ls : List Line) : State :=
  { mapped State.reset with
    lines := ls, clock := 2 ^ 20, invals := [⟨1, .die 3, 2097152, 256, none⟩, ⟨2, .host, 4096, 64, none⟩], asleep := [(2047, 0)]
    regions := [⟨1, 65536, 7, [0], 0⟩, ⟨1, 98304, 7, [2], 0⟩] }
/-- Locked copies that take every way of a set of die 3. -/
def fullSet : List Line := (List.range 16).map fun i => { line0 true with key := ⟨i + 1, 0, 0, 0⟩, lock := some (0, 0) }
/-- Die 0's time has come to its next epoch. -/
def atEpoch : State := { State.reset with tc := spSet 0 [] 0 (2 ^ 24 - 2 ^ 12) }

/-- A copy of a line of the home comes to die 3, or finds no room there. -/
def copied (full : Bool) : Bool :=
  let s : State := { atLines (line0 false :: if full then fullSet else []) with invals := [] }
  let k : Key := ⟨0, 0, 0, 0⟩
  let r := (s.askHome k 3 [(0, 64, 2097152)]).fill k none
  let m := markSegs (sliceDie (s.homeOf k)) 3 r.2.segs r.1
  let pt := m.2.ptAfter 3 1
  (s.line? k).map (·.segs) == some [(0, 64, 2097152)] && sliceDie (s.homeOf k) != 3 && (s.proxy? k 3).isNone &&
    !s.cutDies 3 (sliceDie (s.homeOf k)) && !s.proxyWaits k 3 [(0, 64, 2097152)] && m.1 &&
    (m.2.addProxy { r.2 with proxy := true, die := 3, dirty := [], rts := pt, wts := pt, lock := none }).isNone == full

theorem witness_proxy_fill : copied true = true ∧ copied false = true := by decide +kernel

theorem witness_time_and_proxies :
    spOk 0 State.reset.tc = true ∧ State.reset.tcOf 527 ≤ tcHold (State.reset.epochOf (dieOf 527)) ∧
    (atEpoch.advanceDue 0 = true ∧ atEpoch.scrubbed 0 = true) ∧
    ((atLines []).asleep.all fun x => x.1 != 2046) = true ∧ spGet 0 (atLines []).lastReq 2046 + 2 ^ 20 ≤ (atLines []).clock ∧
    { atLines [] with invals := [] }.sliceHeld 2046 = false ∧ (2047, 0) ∈ (atLines []).asleep ∧
    (let s := atLines [line0 false, line0 true]
     (s.invals.find? fun v => v.id == 1) = some ⟨1, .die 3, 2097152, 256, none⟩ ∧
       s.behindInval ⟨1, .die 3, 2097152, 256, none⟩ = false ∧
       s.ptFits 3 (s.ptAfter 3 (s.lines.filter fun l => l.proxy && l.die == 3 && l.within 2097152 256).length) = true) ∧
    (let s := atLines []
     65536 % (256 * 2 ^ 8) = 0 ∧ (s.regions.find? fun r => r.die == 1 && r.base == 65536 && r.k + 1 == 8) = some ⟨1, 65536, 7, [0], 0⟩ ∧
       (s.regions.find? fun r => r.die == 1 && r.base == 65536 + 256 * 2 ^ (8 - 1) && r.k + 1 == 8) = some ⟨1, 98304, 7, [2], 0⟩ ∧
       2 ^ 20 ≤ s.clock) := by decide +kernel

/-- Peer mode with two devices, this one 0; `cxl` in CXL mode. -/
def atPeers : State :=
  { State.reset with regs := { HostRegs.reset with peercfg := 0x8000000200000000 }, cxl := (true, false) }
/-- A message of device 1 about 2 KiB at 0. -/
def mail (k : BitVec 8) (z : BitVec 32) : MailMsg := ⟨1, k, 11, z, 0, 7, 0⟩

theorem witness_host_and_peers :
    ((hostRange (.cas 16 16 0 0)).2 ≠ 0 ∧ State.reset.hostMay 16 16 = true ∧ State.reset.hostMay 0x1000000000000 16 = true ∧
      State.reset.hostMay 0xC000000000 8 = false) ∧
    (atPeers.paKind 0x1000000000040 = .host ∧ atPeers.cxlMode = true ∧ (atPeers.giveUp 0x1000000000040 64).isSome = true) ∧
    (0x8000000000000 + 1 * 2 ^ 40 + hbmEnd - 2 + 2 ≤ 0x8000000000000 + 1 * 2 ^ 40 + hbmEnd ∧ atPeers.lines = []) ∧
    (atPeers.isPeer 1 = true ∧ atPeers.extBusy 64 1 = false ∧ mailBase < mailBase - 1 + 2 ∧ mailBase - 1 + 2 < hbmEnd) ∧
    (atPeers.mailOk (mail 1 0) 1 = true ∧ (atPeers.giveUp (0x8000000000000 + 2 ^ 40) (2 ^ 11)).isSome = true ∧
      atPeers.mailOk (mail 1 1) 1 = false ∧ atPeers.mailOk (mail 2 0) 2 = true ∧ atPeers.mailOk (mail 3 0) 2 = false) ∧
    ([(⟨7, .host, 0, 2048, none⟩ : Inval)].find? fun v => v.id == 7 && v.target == .host) = some ⟨7, .host, 0, 2048, none⟩ ∧
    (let m := mail 2 0
     let v : Inval := ⟨m.seq.toNat, .peer m.home.toNat, m.pa.toNat, 2 ^ m.logsz.toNat, none⟩
     ([v].find? fun v => v.target == .peer m.home.toNat && v.base == m.pa.toNat && v.size == 2 ^ m.logsz.toNat && v.id == m.seq.toNat) =
       some v) := by decide +kernel

/-- An image of no more than its sections table: sections 1, 3, 6 and 7, of no bytes. -/
def image0 : List Byte :=
  toBytesLE 16 (0x56574D46 + 2 ^ 32 + 64 * 2 ^ 64 + 4 * 2 ^ 96) ++ List.replicate (0x1500 - 16) 0 ++
    [1, 3, 6, 7].flatMap fun t => toBytesLE 16 t

/-- An image that the signature's check accepts passes the boot checks. -/
theorem witness_boot_accepts (h : Config.shake256 32 (imageKey image0) = Config.rootKeyDigest)
    (hv : Config.sigVerifies (imageKey image0) (imageDigest image0) (imageBytes image0 0x7B0 3309) = true) : bootFailure image0 1 = none := by
  have ho : imageOk image0 = true := by decide +kernel
  have hf : ¬ fieldAt image0 4 4 < 1 := by decide +kernel
  rw [bootFailure, if_neg (by simp [ho]), if_neg (by simp [h]), if_neg (by simp [hv]), if_neg hf]

/-- An image runs, the attestation buffer is at 0, and the host may ask for a floor of 2. -/
def fw0 : FwImage := ⟨3, [], [], [], [], [], true⟩
def atFw (raises : Nat) : State :=
  { State.reset with fw := some fw0, fwFloor := 1, fwRaises := raises, regs := { HostRegs.reset with fwstat := 2 },
                     mem := spSetList 0 [] 16 [2] }

/-- A request that names this device and that its signature authorizes is one the floor may follow. -/
theorem witness_floor_may_rise (h : imageBytes ((atFw 62).physBytes 0 0x20) 0 16 = fixLen 16 Config.devId)
    (hv : Config.sigVerifies [] (Config.shake256 64 ((atFw 62).physBytes 0 0x20)) ((atFw 62).physBytes 0x20 3309) = true) :
    (atFw 62).fw = some fw0 ∧ (atFw 62).regs.fwstat = 2 ∧ (atFw 62).fwRaises < 63 ∧ (atFw 62).floorOk fw0 = true := by
  refine ⟨rfl, rfl, by decide, ?_⟩
  have hb : (atFw 62).attBase = 0 := by decide +kernel
  have hw : decide ((atFw 62).fwFloor < fieldAt ((atFw 62).physBytes 0 0x20) 0x10 4 ∧ fieldAt ((atFw 62).physBytes 0 0x20) 0x10 4 ≤ fw0.svn) = true := by
    decide +kernel
  simp only [State.floorOk, hb, Nat.zero_add]
  rw [h, hw, show fw0.pubkey = [] from rfl, hv]
  simp

theorem witness_host_registers :
    ((0x8000000000002808 : DWord).getLsbD 63 = true ∧ bitsAt (0x8000000000002808 : DWord).toNat 0 4 ≤ 8 ∧
      20 ≤ bitsAt (0x8000000000002808 : DWord).toNat 8 6 ∧ bitsAt (0x8000000000002808 : DWord).toNat 8 6 ≤ 40) ∧
    8 < bitsAt (0x8000000000001409 : DWord).toNat 0 4 ∧ (∃ Q ∈ (atQ Qstd).queues, Q.enabled = true) ∧
    (∀ Q ∈ State.reset.queues, Q.enabled = false) ∧
    (let s := { State.reset with regs := { HostRegs.reset with fwstat := 1 } }
     s.regs.fwstat = 1 ∧ bootFailure (s.physBytes 0 (imageLen 0)) 0 = some 0x10) ∧
    ((atFw 63).fw = some fw0 ∧ (atFw 63).regs.fwstat = 2 ∧ 63 ≤ (atFw 63).fwRaises) ∧ State.reset.fw = none := by decide +kernel

theorem witness_floor_stays : (atFw 0).fwRaises < 63 ∧ { atFw 0 with fwFloor := 2 }.floorOk fw0 = false := by
  refine ⟨by decide, ?_⟩
  have hb : ({ atFw 0 with fwFloor := 2 } : State).attBase = 0 := by decide +kernel
  have hw : decide (({ atFw 0 with fwFloor := 2 } : State).fwFloor < fieldAt (({ atFw 0 with fwFloor := 2 } : State).physBytes 0 0x20) 0x10 4 ∧
      fieldAt (({ atFw 0 with fwFloor := 2 } : State).physBytes 0 0x20) 0x10 4 ≤ fw0.svn) = false := by decide +kernel
  simp only [State.floorOk, hb]
  rw [hw]; simp

/-- A tier of two 64 KiB frames at 16 MiB, whose first frame holds context 0's page at 64 KiB; rings with one free frame each. -/
def tier0 : Tier := ⟨0, 16777216, 131072, 8192, true, true, true, 12288, 20480, 0, 0⟩
/-- Running firmware, the tier, page tables that map that page to the frame, and the rings at 4096. -/
def atTier (ms : List Migration) : State :=
  { State.reset with
    tiers := [tier0], migrations := ms, clock := 2 ^ 21, fw := some fw0
    regs := { HostRegs.reset with fwstat := 2, tierbase := 4097, heatctl := 0x8000000000001408 }
    mem := ((List.range 16).map (fun i : Nat => ((0x14080 + 8 * i, 16777216 + 4096 * i + 0xEB) : Nat × Nat)) ++
      [(0, 0x10000), (0x10000, 0x11001), (0x11000, 0x12001), (0x12000, 0x13001), (0x13000, 0x14001), (12288, 4096),
        (4096, 0x15000), (4104, 0), (4112, 0), (4120, 1), (0x15000, 0x2000000), (20480 + 0x10, 128)]).foldl
      (fun m (x : Nat × Nat) => spSetList 0 m x.1 (toBytesLE 8 x.2)) [] }

/-- The migration of that frame. -/
def mig0 : Migration := ⟨5, 0, false, 16777216, 0x2000000, 0, 65536, 2 ^ 21 - 1⟩

theorem witness_fleet_events :
    ((atTier []).heatOn = true ∧ (atTier []).decayAt + (atTier []).decayPeriod ≤ (atTier []).clock) ∧
    (atTier []).tiers.find? (fun t => t.idx == 0) = some tier0 ∧ (atTier []).ownerOf tier0 16777216 = 4096 ∧
    ((atTier []).tiering = true ∧ (atTier []).migratable tier0 16777216 false = true ∧ ((atTier []).migrations.filter fun m => m.die == 0).length < 4 ∧
      (takeRing ((atTier []).frameRing tier0 false) 1 (atTier [])).map (·.1) = some [0x2000000]) ∧
    (let s := atTier [mig0]
     s.migrations.find? (fun m => m.id == 5) = some mig0 ∧ s.clock < mig0.startedAt + 2 ^ 16 ∧ s.migHolds mig0 = true ∧
       s.invalPending mig0.old = false ∧ (s.migLeaves mig0.ctx mig0.va mig0.old mig0.large).map List.length = some 16 ∧ (markMoved mig0 s.lines s).1 = true ∧
       { s with mem := spSetList 0 s.mem 12288 [0, 0] }.migHolds mig0 = false ∧ ({ mig0 with startedAt := 0 } : Migration).startedAt + 2 ^ 16 ≤ s.clock) ∧
    (let s := atTier []
     16777216 + 4096 ≤ tier0.base + tier0.size ∧ tier0.comp = true ∧ bitsAt (s.physNat (tier0.mapAddr 16777216 + 0x10) 1) 7 1 = 1 ∧
       s.inFlight 16777216 4096 = false ∧ s.dirtyIn 16777216 4096 = false ∧ spGet 0 s.dirtyAt 4096 = 0 ∧ s.uncorr = [] ∧
       ({ s with lines := [⟨⟨0, 0, 16, 0⟩, false, 0, [(0, 256, 16777216)], [(0, 1)], [0], 0, 0, none⟩] } : State).dirtyIn 16777216 4096 = true ∧
       (let t : State := { s with dirtyAt := spSet 0 [] 4096 1 }
        spGet 0 t.dirtyAt 4096 ≠ 0 ∧ spGet 0 t.dirtyAt 4096 + 2 ^ 20 ≤ t.clock + 1) ∧
       ([16777216 / 32].find? fun x => decide (16777216 ≤ 32 * x ∧ 32 * x < 16777216 + 4096)) = some 524288) ∧
    (∀ b ∈ [Block.core 511, .engine 127, .sramRow 0 0, .hbmRow 0 0, .linkLane 0], ({ State.reset with owed := [b] } : State).testable b = true) ∧
    { at0 U0 with owed := [.core 0] }.testable (.core 0) = false ∧ State.reset.owed = [] := by decide +kernel

/-! ### Steps -/

/-- ADD v5, v6, -2 as its slot word. -/
def addWord : Nat := 0x0180_F000_0005_0006_FFFF_FFFE
/-- The machine after reset with a word where its next step fetches it. -/
def placed (n w : Nat) : State := State.reset.withFetchWord n w

/-- The unit that is placed, and its group. -/
def Up : Machine.Unit := unitAt 0
def Gp : Group := Up.groups.headD G0

/-- The word a fetch gives. -/
def fetched (s : State) (U : Machine.Unit) (G : Group) : Option Slot :=
  match s.fetchWord 0 0 U G with
  | .ok x => some x.1
  | .error _ => none

/-- The same machine without the slot in its cache: the word is in memory. -/
def uncached (s : State) : State :=
  { mapped s with icache := [], mem := spSetList 0 [] 2097152 (toBytesLE 12 addWord) }

theorem witness_kept : (paged (at0 U0)).Kept ∧ ∃ t, step (placed 32 0xE0040000) = .next t :=
  ⟨⟨by decide +kernel, by decide +kernel, by intro l hl; cases hl⟩, ⟨_, rfl⟩⟩

theorem witness_round_trips :
    queueFieldsOk (.ldd 15 0 false 7 8191) = true ∧ (encodeQ (.ldd 15 0 false 7 8191)).isSome = true ∧
    (decodeQ 0xE0040000).isSome = true ∧ (encodePacket (.customPacket 128 (pk 1 2 3 4))).isSome = true ∧ 128 ≤ (128 : BitVec 8).toNat ∧
    (encodePacket (.cancel (pk 3 0 0 0))).isSome = true ∧ (decodePacket 0x08).isSome = true := by decide +kernel

/-- A turn of a group waits for the bytes of its slot. -/
def fetchWaits (s : State) : Bool :=
  match s.fetchGroup 0 0 with
  | .wait _ => true
  | .stop _ | .got _ _ => false
/-- A turn of a group fetches an instruction. -/
def fetches (s : State) (i : Instr) (f : State → Bool) : Bool :=
  match s.fetchGroup 0 0 with
  | .got j s1 => decide (j = i) && f s1
  | .stop _ | .wait _ => false
/-- ADD v5, v6, -2. -/
def addInstr : Instr := .add hd ⟨.i32, false, 0⟩ ⟨v 5, v 6, .imm 0xFFFFFFFE⟩
/-- The group waits at its slot for a barrier object. -/
def atBwait : State := (placed 96 addWord).modGroup 0 0 fun G => { G with st := .waiting .bwait }

/-- A service group has locked the line of the group's slot. -/
def atLockedSlot : State :=
  { uncached (placed 96 addWord) with lines := [⟨⟨0, 0, 0, 0⟩, false, 0, [(0, 256, 2097152)], [], [], 0, 0, some (7, 0)⟩] }

theorem witness_fetch_waits : fetchWaits atLockedSlot = true := by decide +kernel

/-- A group issues, a waiting one tests its wait again, a queue goes on, and a launch whose predictor is late is due. -/
theorem witness_step :
    fetches (placed 96 addWord) addInstr (fun s1 => s1.picks Up 0 Gp) = true ∧ (∀ k, Gp.st ≠ .waiting k) ∧
    fetches atBwait addInstr (fun _ => true) = true ∧ (atBwait.group? 0 0).map (·.2.st) = some (.waiting .bwait) ∧
    ((placed 32 0xE0040000).queue? 0).map (fun Q => Q.open && Q.held && Q.busy && Q.prog != 0 && decide (Q.steps < 256) &&
      Q.code[Q.pc]? == some 0xE0040000) = some true ∧ decodeQ 0xE0040000 = some (.fin 1) ∧
    (let s := { State.reset with clock := 4096, launches := [{ slotLaunch 0 with needPolicy := true }] }
     s.firstDue = none ∧ s.due = some (.predictor 0)) ∧ State.reset.due = none ∧ State.reset.agenda = [] ∧
    ((placed 96 addWord).firstDue = none ∧ (placed 32 0xE0040000).firstDue = none ∧ atBwait.firstDue = none ∧ State.reset.firstDue = none) ∧
    (atWait (U1 { G0 with st := .waiting .waitc, sleepUntil := 1 })).firstDue = some (.poll 0 0) := by
  refine ⟨by decide +kernel, (fun k h => by cases h), by decide +kernel, by decide +kernel, by decide +kernel, by decide +kernel,
    by decide +kernel, by decide +kernel, rfl, by decide +kernel, by decide +kernel⟩

/-- Two READY groups of one quarter: the second one is of a higher class, or has been READY for 48 cycles. -/
def Gready (n : Nat) (p : BitVec 2) : Group := { G0 with readyFrom := some n, hprio := p }
def Uready (a b : Group) : Machine.Unit := { U0 with groups := [a, G0, G0, G0, b] }
def atReady (a b : Group) : State :=
  { at0 (Uready a b) with clock := 100, icache := [⟨0, 0, 0, BitVec.ofNat 96 addWord, false⟩] }

theorem witness_quarter :
    (∀ x ∈ [(Gready 100 0, Gready 100 1), (Gready 90 3, Gready 52 0)], let s := atReady x.1 x.2
      let U := Uready x.1 x.2
      spOk 0 s.lastIssue = true ∧ quarterOf U 0 = quarterOf U 4 ∧ spGet 0 s.lastIssue 0 ≤ s.clock ∧ s.isReady U x.1 = true ∧
        s.picks U 4 x.2 = true ∧ s.picks U 0 x.1 = false) ∧
    (Gready 100 0).age 100 < 48 ∧ (Gready 100 0).passed 100 = false ∧ 48 ≤ (Gready 52 0).age 100 := by decide +kernel

theorem witness_issue_step :
    (placed 96 addWord).agenda = [⟨0, .issue 0 0⟩] ∧ (placed 96 addWord).group? 0 0 = some (Up, Gp) ∧
    mayIssue Up Gp (placed 96 addWord).clock = true ∧ fetched (placed 96 addWord) Up Gp = some (BitVec.ofNat 96 addWord) ∧
    spatialOnlyOp ((BitVec.ofNat 96 addWord).extractLsb' 88 8) = false ∧ Gp.pc.toNat % 4 = 0 ∧ decode96 (BitVec.ofNat 96 addWord) = .ok addInstr ∧
    (placed 96 addWord).slotHeld Up Gp = some (BitVec.ofNat 96 addWord, false) := by decide +kernel

theorem witness_issue_step_from_memory :
    (uncached (placed 96 addWord)).slotHeld Up Gp = none ∧ Up.svc = false ∧
    canonical 0 = true ∧ canonical 11 = true ∧
    (match fetchBytes 0 0 false 3 0 12 (uncached (placed 96 addWord)) with
     | .ok (bs, sup) _ => bs == toBytesLE 12 addWord && !sup
     | _ => false) = true ∧
    fetched (uncached (placed 96 addWord)) Up Gp = some (BitVec.ofNat 96 addWord) := by decide +kernel

theorem witness_queue_step :
    (placed 32 0xE0040000).agenda = [⟨0, .qstep 0⟩] ∧
    ((placed 32 0xE0040000).queue? 0).map (fun Q =>
      Q.enabled && Q.error.isNone && Q.fault.isNone && Q.refetch == 0 && Q.busy && Q.steps == 0) = some true ∧ isEvent (.hostAccess (.read 0 8)) = true := by decide +kernel

/-- A group at a PC that is no multiple of 4, and groups at words that decode to nothing. -/
theorem witness_undecodable :
    (let G := { G0 with pc := 2 }
     (at0 (U1 G)).group? 0 0 = some (U1 G, G) ∧ mayIssue (U1 G) G 0 = true ∧ G.pc.toNat % 4 ≠ 0) ∧
    decode96 0xA0A0_F000_0003_3002_F000_F000 = .error .illop ∧ fetched (placed 96 0xA0A0_F000_0003_3002_F000_F000) Up Gp =
      some 0xA0A0_F000_0003_3002_F000_F000 ∧
    decode96 0x0100_F000_0005_0006_0007_C000 = .error .illopnd ∧ spatialOnlyOp 0x01 = false ∧ spatialOnlyOp 0xE2 = true := by decide +kernel

/-- What a next state holds. -/
def nextIs (r : Out) (f : State → Bool) : Bool :=
  match r with
  | .next s => f s
  | _ => false

/-- R67: v6 is 0 after reset, so ADD v5, v6, -2 leaves -2 in every lane of v5, and the PC 12 further (R15). -/
theorem test_step_add : nextIs (step (placed 96 addWord)) (fun s => match s.group? 0 0 with
    | some (_, G) => G.regs.vec 5 0 == 0xFFFFFFFE && G.regs.vec 5 31 == 0xFFFFFFFE && G.regs.vec 6 0 == 0 && G.pc == 12
    | none => false) = true := by decide +kernel

/-- R396: MOVQ w1, -1. -/
theorem test_step_movq : nextIs (step (placed 32 0x0443FFFF)) (fun s => match s.queue? 0 with
    | some Q => Q.pc == 1
    | none => false) = true := by decide +kernel

/-- R201, R20: a word that decodes to no instruction raises ILLOP; without a handler the launch ends. -/
theorem test_step_illop : nextIs (step (placed 96 0xA0A0_F000_0003_3002_F000_F000)) (fun s => match s.group? 0 0 with
    | some (_, G) => G.regs.vec 3 0 == 0 && G.pc != 12
    | none => false) = true := by decide +kernel

end Sys2Proof.Tests
end

section
/-! PROOFS. What a write at a byte's home does (R297, R301, R450): the byte reads back, every byte kept elsewhere stands, and `State.Kept`
is kept; then the same of a write of bytes. -/

namespace Sys2Proof.Machine

open Sys2Proof

/-! ### Where a line holds a physical byte -/

/-- Two stretches of a line share no offset. -/
def SegsApart (segs : List (Nat × Nat × Nat)) : Prop := segs.Pairwise fun x y => x.1 + x.2.1 ≤ y.1 ∨ y.1 + y.2.1 ≤ x.1

/-- An offset that holds a byte lies in one of the line's stretches. -/
theorem exists_seg_of_segOff {segs : List (Nat × Nat × Nat)} {p o : Nat} (h : segOff segs p = some o) :
    ∃ x ∈ segs, x.1 ≤ o ∧ o < x.1 + x.2.1 := by
  induction segs with
  | nil => cases h
  | cons x r ih =>
    obtain ⟨base, len, addr⟩ := x
    rw [segOff] at h
    split at h
    · cases h; exact ⟨_, List.mem_cons_self, by dsimp only; omega, by dsimp only; omega⟩
    · obtain ⟨y, hy, hlo⟩ := ih h
      exact ⟨y, List.mem_cons_of_mem _ hy, hlo⟩

/-- An offset of a line holds one physical byte alone. -/
theorem segOff_inj {segs : List (Nat × Nat × Nat)} {p q o : Nat} (hs : SegsApart segs) (hp : segOff segs p = some o)
    (hq : segOff segs q = some o) : p = q := by
  induction segs with
  | nil => cases hp
  | cons x r ih =>
    obtain ⟨base, len, addr⟩ := x
    obtain ⟨hx, hr⟩ := List.pairwise_cons.1 hs
    have outside : ∀ {a}, segOff r a = some o → ¬ (base ≤ o ∧ o < base + len) := fun ha => by
      obtain ⟨y, hy, hlo⟩ := exists_seg_of_segOff ha
      have : base + len ≤ y.1 ∨ y.1 + y.2.1 ≤ base := hx y hy
      omega
    rw [segOff] at hp hq
    split at hp <;> split at hq
    · cases hp; injection hq; omega
    · cases hp; exact absurd ⟨by omega, by omega⟩ (outside hq)
    · cases hq; exact absurd ⟨by omega, by omega⟩ (outside hp)
    · exact ih hr hp hq

/-- The line that holds a byte is a home line that lists it. -/
theorem homeLineAt_some {ls : List Line} {p o : Nat} {l : Line} (h : homeLineAt ls p = some (l, o)) :
    l ∈ ls ∧ l.proxy = false ∧ segOff l.segs p = some o := by
  induction ls with
  | nil => cases h
  | cons m r ih =>
    rw [homeLineAt] at h
    split at h
    · obtain ⟨hl, rest⟩ := ih h
      exact ⟨List.mem_cons_of_mem _ hl, rest⟩
    · next hm =>
      split at h
      · next ho => cases h; exact ⟨List.mem_cons_self, by simpa using hm, ho⟩
      · obtain ⟨hl, rest⟩ := ih h
        exact ⟨List.mem_cons_of_mem _ hl, rest⟩

/-- A change of lines that leaves their kind and their stretches leaves where each byte is held. -/
theorem homeLineAt_map {f : Line → Line} (hproxy : ∀ l, (f l).proxy = l.proxy) (hsegs : ∀ l, (f l).segs = l.segs) (ls : List Line)
    (p : Nat) : homeLineAt (ls.map f) p = (homeLineAt ls p).map fun x => (f x.1, x.2) := by
  induction ls with
  | nil => rfl
  | cons m r ih =>
    rw [List.map_cons, homeLineAt, homeLineAt, hproxy, hsegs]
    split
    · exact ih
    · cases segOff m.segs p with
      | none => exact ih
      | some o => rfl

/-! ### A byte put into the home line of a key -/

/-- The byte is put into the home line of a key; every other line stands. -/
def Line.putIfHome (k : Key) (o : Nat) (b : Byte) (m : Line) : Line := if m.key == k && !m.proxy then m.put o b else m

theorem Line.putIfHome_of_home {k : Key} {m : Line} (o : Nat) (b : Byte) (hk : m.key = k) (hp : m.proxy = false) :
    m.putIfHome k o b = m.put o b := by simp [Line.putIfHome, hk, hp]

theorem Line.putIfHome_of_ne {k : Key} {m : Line} (o : Nat) (b : Byte) (h : m.key ≠ k) : m.putIfHome k o b = m := by
  simp [Line.putIfHome, h]

@[simp] theorem Line.putIfHome_key (k : Key) (o : Nat) (b : Byte) (m : Line) : (m.putIfHome k o b).key = m.key := by
  unfold Line.putIfHome; split <;> rfl

@[simp] theorem Line.putIfHome_proxy (k : Key) (o : Nat) (b : Byte) (m : Line) : (m.putIfHome k o b).proxy = m.proxy := by
  unfold Line.putIfHome; split <;> rfl

@[simp] theorem Line.putIfHome_segs (k : Key) (o : Nat) (b : Byte) (m : Line) : (m.putIfHome k o b).segs = m.segs := by
  unfold Line.putIfHome; split <;> rfl

theorem Line.spOk_putIfHome {m : Line} (k : Key) (o : Nat) (b : Byte) (h : spOk 0 m.data = true) :
    spOk 0 (m.putIfHome k o b).data = true := by
  unfold Line.putIfHome
  split
  · exact spOk_spSet o b h
  · exact h

/-- A write of a byte that a home line holds goes to that line alone. -/
theorem State.physPut_of_line {s : State} {pa o : Nat} {l : Line} (b : Byte) (h : homeLineAt s.lines (pa % paMod) = some (l, o)) :
    s.physPut pa b = { s with lines := s.lines.map (Line.putIfHome l.key o b) } := by
  rw [State.physPut, h]; rfl

/-- A byte that a home line holds reads from it. -/
theorem State.physByte_of_line {s : State} {pa o : Nat} {l : Line} (h : homeLineAt s.lines (pa % paMod) = some (l, o)) :
    s.physByte pa = spGet 0 l.data o := by
  rw [State.physByte, h]

/-- After such a write each byte is held where it was. -/
theorem homeLineAt_map_putIfHome (k : Key) (o : Nat) (b : Byte) (ls : List Line) (p : Nat) :
    homeLineAt (ls.map (Line.putIfHome k o b)) p = (homeLineAt ls p).map fun x => (x.1.putIfHome k o b, x.2) :=
  homeLineAt_map (Line.putIfHome_proxy k o b) (Line.putIfHome_segs k o b) ls p

/-! ### A byte written at its home -/

/-- A write at the home moves no byte's place in memory. -/
@[simp] theorem State.physPut_memAt (s : State) (pa : Nat) (b : Byte) (a : Nat) : (s.physPut pa b).memAt a = s.memAt a := by
  simp only [State.memAt, State.physPut_regs]

/-- Addresses of one 52-bit value have one place in memory (R444). -/
theorem State.memAt_congr (s : State) {a b : Nat} (h : a % paMod = b % paMod) : s.memAt a = s.memAt b := by
  simp only [State.memAt, h]

theorem State.Kept.memWf {s : State} (hs : s.Kept) : memWf s.mem = true := hs.1

theorem State.Kept.keys_nodup {s : State} (hs : s.Kept) : ((s.lines.filter fun l => !l.proxy).map (·.key)).Nodup := hs.2.1

theorem State.Kept.segsApart {s : State} (hs : s.Kept) {l : Line} (hl : l ∈ s.lines) : SegsApart l.segs := (hs.2.2 l hl).1

theorem State.Kept.spOk_data {s : State} (hs : s.Kept) {l : Line} (hl : l ∈ s.lines) : spOk 0 l.data = true := (hs.2.2 l hl).2

/-- A key has one home line (R301). -/
theorem State.Kept.home_unique {s : State} (hs : s.Kept) {l m : Line} (hl : l ∈ s.lines) (hm : m ∈ s.lines) (pl : l.proxy = false)
    (pm : m.proxy = false) (e : l.key = m.key) : l = m :=
  List.inj_on_of_nodup_map hs.keys_nodup (List.mem_filter.2 ⟨hl, by simp [pl]⟩) (List.mem_filter.2 ⟨hm, by simp [pm]⟩) e

theorem State.Kept.physPut {s : State} (hs : s.Kept) (pa : Nat) (b : Byte) : (s.physPut pa b).Kept := by
  obtain ⟨hmem, hkeys, hlines⟩ := hs
  cases h : homeLineAt s.lines (pa % paMod) with
  | none => rw [State.physPut_of_noLine b h]; exact ⟨memWf_spSet _ _ hmem, hkeys, hlines⟩
  | some x =>
    rw [State.physPut_of_line b h]
    refine ⟨hmem, ?_, fun m hm => ?_⟩
    · simpa [List.filter_map, Function.comp_def] using hkeys
    · obtain ⟨l, hl, rfl⟩ := List.mem_map.1 hm
      obtain ⟨hsegs, hdata⟩ := hlines l hl
      exact ⟨by rwa [Line.putIfHome_segs], Line.spOk_putIfHome _ _ _ hdata⟩

/-- A byte written at its home reads back (R297, R301). -/
theorem State.Kept.physByte_physPut {s : State} (hs : s.Kept) (pa : Nat) (b : Byte) : (s.physPut pa b).physByte pa = b := by
  cases h : homeLineAt s.lines (pa % paMod) with
  | none => exact State.physByte_physPut_same b hs.memWf h
  | some x =>
    obtain ⟨hl, hp, _⟩ := homeLineAt_some h
    rw [State.physPut_of_line b h, State.physByte_of_line ((homeLineAt_map_putIfHome ..).trans (congrArg _ h)),
      Line.putIfHome_of_home x.2 b rfl hp]
    exact spGet_spSet_same (hs.spOk_data hl)

/-- A byte kept elsewhere stands: a home line that holds both holds them at two offsets. -/
theorem State.Kept.physByte_physPut_ne {s : State} (hs : s.Kept) {pa a : Nat} (b : Byte) (e : s.memAt a ≠ s.memAt pa) :
    (s.physPut pa b).physByte a = s.physByte a := by
  cases h : homeLineAt s.lines (pa % paMod) with
  | none => exact State.physByte_physPut_ne b hs.memWf h e
  | some x =>
    rw [State.physPut_of_line b h]
    cases ha : homeLineAt s.lines (a % paMod) with
    | none =>
      rw [State.physByte_of_noLine ha, State.physByte_of_noLine ((homeLineAt_map_putIfHome ..).trans (congrArg _ ha))]
      rfl
    | some y =>
      rw [State.physByte_of_line ha, State.physByte_of_line ((homeLineAt_map_putIfHome ..).trans (congrArg _ ha))]
      obtain ⟨hx, px, ox⟩ := homeLineAt_some h
      obtain ⟨hy, py, oy⟩ := homeLineAt_some ha
      by_cases ek : y.1.key = x.1.key
      · have el : y.1 = x.1 := hs.home_unique hy hx py px ek
        have ho : y.2 ≠ x.2 := fun eo =>
          e (s.memAt_congr (segOff_inj (hs.segsApart hx) (by rwa [el, eo] at oy) ox))
        rw [Line.putIfHome_of_home x.2 b ek py]
        exact spGet_spSet_ne (hs.spOk_data hy) ho
      · rw [Line.putIfHome_of_ne x.2 b ek]

/-! ### Bytes written at their homes -/

theorem State.Kept.physWrite {s : State} (hs : s.Kept) (pa : Nat) (bs : List Byte) : (s.physWrite pa bs).Kept := by
  induction bs generalizing s pa with
  | nil => exact hs
  | cons b bs ih => exact ih (hs.physPut pa b) (pa + 1)

/-- A byte that is none of those written stands. -/
theorem State.Kept.physByte_physWrite_ne {s : State} (hs : s.Kept) (pa : Nat) (bs : List Byte) {a : Nat}
    (h : ∀ i, i < bs.length → s.memAt a ≠ s.memAt (pa + i)) : (s.physWrite pa bs).physByte a = s.physByte a := by
  induction bs generalizing s pa with
  | nil => rfl
  | cons b bs ih =>
    rw [State.physWrite, ih (hs.physPut pa b) (pa + 1) fun i hi => ?_, hs.physByte_physPut_ne b (by exact h 0 (Nat.succ_pos _))]
    simpa [Nat.add_comm, Nat.add_left_comm] using h (i + 1) (Nat.succ_lt_succ hi)

/-- Each byte written reads back, where no two of them have one place. -/
theorem State.Kept.physByte_physWrite {s : State} (hs : s.Kept) (pa : Nat) (bs : List Byte)
    (hd : ∀ i j, i < j → j < bs.length → s.memAt (pa + i) ≠ s.memAt (pa + j)) (i : Nat) (hi : i < bs.length) :
    (s.physWrite pa bs).physByte (pa + i) = bs[i] := by
  induction bs generalizing s pa i with
  | nil => cases hi
  | cons b bs ih =>
    have next : ∀ j, pa + 1 + j = pa + (j + 1) := fun j => by omega
    cases i with
    | zero =>
      rw [State.physWrite, (hs.physPut pa b).physByte_physWrite_ne (pa + 1) bs fun j hj => ?_]
      · exact hs.physByte_physPut pa b
      · rw [State.physPut_memAt, State.physPut_memAt, next]
        exact hd 0 (j + 1) (Nat.succ_pos j) (Nat.succ_lt_succ hj)
    | succ i =>
      rw [State.physWrite, ← next i]
      refine ih (hs.physPut pa b) (pa + 1) (fun j k hjk hk => ?_) i (Nat.lt_of_succ_lt_succ hi)
      rw [State.physPut_memAt, State.physPut_memAt, next, next]
      exact hd (j + 1) (k + 1) (Nat.succ_lt_succ hjk) (Nat.succ_lt_succ hk)

theorem State.Kept.physBytes_physWrite {s : State} (hs : s.Kept) (pa : Nat) (bs : List Byte)
    (hd : ∀ i j, i < j → j < bs.length → s.memAt (pa + i) ≠ s.memAt (pa + j)) :
    (s.physWrite pa bs).physBytes pa bs.length = bs :=
  List.ext_getElem (by simp [State.physBytes]) fun i _ hi => by
    simpa [State.physBytes] using hs.physByte_physWrite pa bs hd i hi

/-- Settles O22: the laws of one byte written at its home, carried along the bytes written. -/
theorem physicalWriteReadsBack : Obligations.PhysicalWriteReadsBack := by
  intro s pa bs hs _ hd
  exact ⟨hs.physBytes_physWrite pa bs hd, hs.physWrite pa bs, fun _ ha => hs.physByte_physWrite_ne pa bs ha⟩

end Sys2Proof.Machine
end

section
/-! PROOFS. The events of the host's registers (R10, R446, R457, R459, R473, R474, R484 to R487): one lemma for each event, over the frames
of the operations that the events share. -/

namespace Sys2Proof.Machine

open Sys2Proof

/-! ### What an interrupt, a value of STATE and the end of a command leave unchanged (R446) -/

@[simp] theorem HostRegs.send_fwstat (r : HostRegs) (k : Nat) : (r.send k).fwstat = r.fwstat := by unfold HostRegs.send; split <;> rfl
@[simp] theorem HostRegs.send_fwstage (r : HostRegs) (k : Nat) : (r.send k).fwstage = r.fwstage := by unfold HostRegs.send; split <;> rfl

/-- An interrupt changes the host's registers alone. -/
theorem State.raiseInt_eq (s : State) (k : Nat) : s.raiseInt k = { s with regs := (s.raiseInt k).regs } := by
  unfold State.raiseInt; split <;> rfl

@[simp] theorem State.raiseInt_fwstat (s : State) (k : Nat) : (s.raiseInt k).regs.fwstat = s.regs.fwstat := by
  unfold State.raiseInt
  dsimp only
  split_ifs
  · rfl
  · exact HostRegs.send_fwstat _ k
  · rfl

@[simp] theorem State.raiseInt_fwstage (s : State) (k : Nat) : (s.raiseInt k).regs.fwstage = s.regs.fwstage := by
  unfold State.raiseInt
  dsimp only
  split_ifs
  · rfl
  · exact HostRegs.send_fwstage _ k
  · rfl

/-- A value of STATE changes the host's registers alone. -/
theorem State.setFwstat_eq (s : State) (v : BitVec 8) : s.setFwstat v = { s with regs := (s.setFwstat v).regs } := by
  unfold State.setFwstat
  split
  · rfl
  · rw [State.raiseInt_eq]

@[simp] theorem State.setFwstat_fwstat (s : State) (v : BitVec 8) : (s.setFwstat v).regs.fwstat = v := by
  unfold State.setFwstat
  split
  · next h => exact eq_of_beq h
  · rw [State.raiseInt_fwstat]

@[simp] theorem State.setFwstat_fwstage (s : State) (v : BitVec 8) : (s.setFwstat v).regs.fwstage = s.regs.fwstage := by
  unfold State.setFwstat
  split
  · rfl
  · rw [State.raiseInt_fwstage]

/-- The end of an attestation command changes the host's registers alone. -/
theorem State.attEnd_eq (s : State) (r : Nat) : s.attEnd r = { s with regs := (s.attEnd r).regs } := by
  rw [State.attEnd, State.raiseInt_eq]

/-! ### The registers that are read and written (R10, R446, R474, R487) -/

/-- R10: a write-only field reads as zero, and QCMD shows BUSY. -/
theorem State.hostRegister_reads (s : State) :
    s.hostRegister 0 0x08 = some (if s.regs.qcmd = none then 0 else 0x8000000000000000) ∧ s.hostRegister 0 0x40 = some 0 ∧
      s.hostRegister 0 0x48 = some 0 ∧ s.hostRegister 0 0x50 = some (s.regs.fwstat.setWidth 64) ∧
      s.hostRegister 0 0x68 = some (s.regs.intstat.setWidth 64) ∧ s.hostRegister 0 0x70 = some (s.regs.intmask.setWidth 64) := by
  refine ⟨?_, rfl, rfl, rfl, rfl, rfl⟩
  show some (if s.regs.qcmd.isSome then (0x8000000000000000 : DWord) else 0) = _
  cases s.regs.qcmd <;> rfl

/-- A bit of a field that stands at its place in the register. -/
theorem testBit_field (v : DWord) (lo n k : Nat) : (field v lo n).testBit k = (v.getLsbD k && decide (lo ≤ k ∧ k < lo + n)) := by
  rw [field, bitsAt, Nat.testBit_mul_two_pow, Nat.testBit_mod_two_pow, Nat.testBit_div_two_pow]
  by_cases h : lo ≤ k
  · have hk : k - lo < n ↔ k < lo + n := by omega
    simp [h, hk, BitVec.testBit_toNat, Bool.and_comm]
  · simp [h]

/-- Fields added, the upper above the lower's bits, read as the one or the other. -/
theorem testBit_field_add (v : DWord) (lo n x k : Nat) (hx : x < 2 ^ lo) :
    (field v lo n + x).testBit k = ((field v lo n).testBit k || x.testBit k) := by
  rw [field, Nat.mul_comm, Nat.two_pow_add_eq_or_of_lt hx, Nat.testBit_or]

/-- A field's value lies below its end. -/
theorem field_lt (v : DWord) (lo n : Nat) : field v lo n < 2 ^ (lo + n) := by
  rw [field, bitsAt, Nat.add_comm, Nat.pow_add]
  exact Nat.mul_lt_mul_of_pos_right (Nat.mod_lt _ (by positivity)) (by positivity)

/-- R474: HEATCTL holds EN, DECAY and SHIFT of the value written, and its other bits stay zero. -/
theorem getLsbD_heatctl (v : DWord) (k : Nat) :
    (BitVec.ofNat 64 (field v 63 1 + field v 8 6 + field v 0 4)).getLsbD k =
      (v.getLsbD k && decide (k = 63 ∨ (8 ≤ k ∧ k ≤ 13) ∨ k ≤ 3)) := by
  have hshift : field v 0 4 < 2 ^ 8 := (field_lt v 0 4).trans (by decide)
  have hlow : field v 8 6 + field v 0 4 < 2 ^ 63 := by
    have := field_lt v 8 6
    omega
  rw [BitVec.getLsbD_ofNat, Nat.add_assoc, testBit_field_add v 63 1 _ k hlow, testBit_field_add v 8 6 _ k hshift]
  simp only [testBit_field]
  by_cases hk : k < 64
  · cases v.getLsbD k
    · simp
    · simp only [Bool.true_and, ← Bool.decide_or, ← Bool.decide_and, decide_eq_decide]
      omega
  · simp [BitVec.getLsbD_of_ge v k (by omega), hk]

theorem exec_heatctlWrite_of_fits (s : State) (v : DWord)
    (h : v.getLsbD 63 = false ∨ (bitsAt v.toNat 0 4 ≤ 8 ∧ 20 ≤ bitsAt v.toNat 8 6 ∧ bitsAt v.toNat 8 6 ≤ 40)) :
    ∃ t, exec (.heatctlWrite v) s = .next t ∧ (∀ k, t.regs.heatctl.getLsbD k =
        (v.getLsbD k && decide (k = 63 ∨ (8 ≤ k ∧ k ≤ 13) ∨ k ≤ 3))) ∧
      t = { s with regs := { s.regs with heatctl := t.regs.heatctl }, decayAt := t.decayAt } := by
  have hfits : ¬ (v.getLsbD 63 && (decide (8 < bitsAt v.toNat 0 4) || decide (bitsAt v.toNat 8 6 < 20) ||
      decide (40 < bitsAt v.toNat 8 6))) = true := by
    rw [Bool.and_eq_true, Bool.or_eq_true, Bool.or_eq_true, decide_eq_true_eq, decide_eq_true_eq, decide_eq_true_eq]
    rintro ⟨hen, hbad⟩
    rcases h with hoff | hok
    · rw [hoff] at hen; cases hen
    · omega
  exact ⟨_, if_neg hfits, getLsbD_heatctl v, rfl⟩

theorem exec_heatctlWrite_of_not_fits (s : State) (v : DWord) (hen : v.getLsbD 63 = true)
    (h : 8 < bitsAt v.toNat 0 4 ∨ bitsAt v.toNat 8 6 < 20 ∨ 40 < bitsAt v.toNat 8 6) : exec (.heatctlWrite v) s = .next s :=
  if_pos (by simpa [hen, or_assoc] using h)

/-- R487: LIMIT is the low 16 bits, clamped. -/
theorem exec_pwrcapWrite (s : State) (v : DWord) : exec (.pwrcapWrite v) s = .next
    { s with regs := { s.regs with pwrcap := BitVec.ofNat 16 (Nat.max 400 (Nat.min 2800 (v.toNat % 65536))) } } := by
  have h : bitsAt v.toNat 0 16 = v.toNat % 65536 := by simp [bitsAt]
  rw [← h]; rfl

/-- R472, R473, R489: the entries of the new table are checked, and each that is ignored is reported. -/
theorem exec_tierbaseWrite (s : State) (v : DWord) :
    let s1 := { s with regs := { s.regs with tierbase := BitVec.ofNat 64 (field v 12 40 + field v 0 7) } }
    let k := takeTiers s1 (List.range (Nat.min 64 (v.toNat % 128)))
    exec (.tierbaseWrite v) s = .next (k.2.foldl (fun t i => t.event ⟨12, 4, k.2.length, BitVec.ofNat 64 i, 0, none⟩)
      { s1 with tiers := k.1, mem := s1.mem.filter fun c => !s1.zeroCell k.1 c.1 }) := by
  have h : bitsAt v.toNat 0 7 = v.toNat % 128 := by simp [bitsAt]
  rw [← h]; intro s1 k; rfl

/-! ### Reset and the loading of an image (R457, R459) -/

theorem exec_deviceReset (s : State) :
    ∃ t, exec .deviceReset s = .next t ∧ t.regs = HostRegs.reset ∧ t.fw = none ∧ t.units = [] ∧ t.queues = [] ∧ t.launches = [] ∧
      t.lines = [] ∧ t.fwFloor = s.fwFloor ∧ t.fwRaises = s.fwRaises ∧ t.mem = s.dirtyHome s.lines s.mem :=
  ⟨s.restart, rfl, rfl, rfl, rfl, rfl, rfl, rfl, rfl, rfl, rfl⟩

theorem exec_fwctlLoad_of_enabled (s : State) (h : ∃ q ∈ s.queues, q.enabled = true) : exec .fwctlLoad s = .next s :=
  if_pos (List.any_eq_true.2 h)

theorem exec_fwctlLoad_of_disabled (s : State) (h : ∀ q ∈ s.queues, q.enabled = false) :
    ∃ t, exec .fwctlLoad s = .next t ∧ t.regs.fwstat = 1 ∧ t.fw = none ∧ t.regs.fwstage = s.regs.fwstage ∧ t.units = [] ∧
      t.queues = [] ∧ t.mem = s.dirtyHome s.lines s.mem := by
  have hq : ¬ (s.queues.any fun q => q.enabled) = true := fun hany => by
    obtain ⟨q, hmem, hen⟩ := List.any_eq_true.1 hany
    simp [h q hmem] at hen
  refine ⟨_, if_neg hq, State.setFwstat_fwstat _ 1, ?_, State.setFwstat_fwstage _ 1, ?_, ?_, ?_⟩ <;>
    rw [State.setFwstat_eq] <;> rfl

/-- R459: where the boot processors read the staged image, what they report is the first check that fails, or the digests'. -/
theorem exec_firmwareBootCheck (s : State) (r : BootResult) (hstate : s.regs.fwstat = 1)
    (himage : r.image = s.physBytes s.regs.fwstage.toNat (imageLen (s.physNat (s.regs.fwstage.toNat + 8) 4)))
    (hdigests : r.digests.length = 4) :
    (∀ v, bootFailure r.image s.fwFloor = some v → exec (.firmwareBootCheck r) s = .next (s.setFwstat v)) ∧
    (bootFailure r.image s.fwFloor = none → exec (.firmwareBootCheck r) s = .next
      (if sameDigests r.digests then (s.runImage r.image).setFwstat 2 else s.setFwstat 0x14)) := by
  have hread : (s.regs.fwstat != 1 || r.image != s.physBytes s.regs.fwstage.toNat
      (imageLen (s.physNat (s.regs.fwstage.toNat + 8) 4)) || r.digests.length != 4) = false := by
    rw [hstate, ← himage, hdigests]; simp
  have hexec : exec (.firmwareBootCheck r) s = execFirmwareBootCheck r s := rfl
  simp only [hexec, execFirmwareBootCheck, hread, Bool.false_eq_true, if_false]
  refine ⟨fun v hv => by rw [hv], fun hv => ?_⟩
  rw [hv]
  exact (apply_ite Host.Outcome.next ..).symm

/-! ### Attestation (R484 to R486) -/

/-- R484: a command on a running image is carried out. -/
theorem State.withImage_of_running {s : State} {f : FwImage} (hf : s.fw = some f) (hrun : s.regs.fwstat = 2) (k : FwImage → Out) :
    s.withImage k = k f := by
  simp [State.withImage, hf, hrun]

/-- R484: without an image a command ends with result 3. -/
theorem State.withImage_of_none {s : State} (hf : s.fw = none) (k : FwImage → Out) : s.withImage k = .next (s.attEnd 3) := by
  simp [State.withImage, hf]

/-- A field of bytes read at an address is the number that stands there. -/
theorem fieldAt_physBytes (s : State) (pa : Nat) {n off len : Nat} (h : off + len ≤ n) :
    fieldAt (s.physBytes pa n) off len = s.physNat (pa + off) len := by
  rw [fieldAt, State.physNat]
  congr 1
  refine List.ext_getElem (by simp [State.physBytes]; omega) fun i _ _ => ?_
  simp [State.physBytes, Nat.add_assoc]

/-- R486: an authorized request names a floor above the present one and no higher than the image's own version. -/
theorem State.floorOk_bounds {s : State} {f : FwImage} (h : s.floorOk f = true) :
    s.fwFloor < s.physNat (s.attBase + 0x10) 4 ∧ s.physNat (s.attBase + 0x10) 4 ≤ f.svn := by
  rw [← fieldAt_physBytes s s.attBase (n := 0x20) (by decide)]
  simp only [State.floorOk, Bool.and_eq_true, decide_eq_true_eq] at h
  obtain ⟨⟨_, hbounds⟩, _⟩ := h
  exact hbounds

/-- R486: the fuses count the raise, and the floor is the one that the request names. -/
theorem exec_attcmdRaiseFloor_of_floorOk {s : State} {f : FwImage} (hf : s.fw = some f) (hrun : s.regs.fwstat = 2)
    (hfuses : s.fwRaises < 63) (hok : s.floorOk f = true) :
    ∃ t, exec .attcmdRaiseFloor s = .next t ∧ s.fwFloor < t.fwFloor ∧ t.fwFloor ≤ f.svn ∧
      t.fwFloor = s.physNat (s.attBase + 0x10) 4 ∧ t.fwRaises = s.fwRaises + 1 ∧ t.mem = s.mem := by
  obtain ⟨habove, hbelow⟩ := State.floorOk_bounds hok
  refine ⟨({ s with fwFloor := s.physNat (s.attBase + 0x10) 4, fwRaises := s.fwRaises + 1 } : State).attEnd 0, ?_, ?_⟩
  · show execAttcmdRaiseFloor s = _
    rw [execAttcmdRaiseFloor, State.withImage_of_running hf hrun, if_neg (by omega), if_neg (by simp [hok])]
  · rw [State.attEnd_eq]
    exact ⟨habove, hbelow, rfl, rfl, rfl⟩

/-- R484 to R486: the commands on a running image. -/
theorem exec_attcmd_of_running {s : State} {f : FwImage} (hf : s.fw = some f) (hrun : s.regs.fwstat = 2) :
    let body := s.report f (s.physBytes s.attBase 32)
    exec .attcmdQuote s = .next
      ((s.ownWrite s.attBase (body ++ fixLen 3309 (Config.identitySign (Config.shake256 64 body)))).attEnd 0) ∧
    exec .attcmdReadCertificate s = .next ((s.ownWrite s.attBase (Config.identityCert.take 8192)).attEnd 0) ∧
    (63 ≤ s.fwRaises → exec .attcmdRaiseFloor s = .next (s.attEnd 2)) ∧
    (s.fwRaises < 63 → s.floorOk f = false → exec .attcmdRaiseFloor s = .next (s.attEnd 1)) ∧
    (s.fwRaises < 63 → s.floorOk f = true → ∃ t, exec .attcmdRaiseFloor s = .next t ∧ s.fwFloor < t.fwFloor ∧
      t.fwFloor ≤ f.svn ∧ t.fwFloor = s.physNat (s.attBase + 0x10) 4 ∧ t.fwRaises = s.fwRaises + 1 ∧ t.mem = s.mem) := by
  refine ⟨State.withImage_of_running hf hrun _, State.withImage_of_running hf hrun _, fun hspent => ?_, fun hfuses hno => ?_,
    exec_attcmdRaiseFloor_of_floorOk hf hrun⟩
  · exact (State.withImage_of_running hf hrun _).trans (if_pos hspent)
  · exact (State.withImage_of_running hf hrun _).trans ((if_neg (by omega)).trans (if_pos (by simp [hno])))

/-- R484: without an image every command ends with result 3. -/
theorem exec_attcmd_of_none {s : State} (hf : s.fw = none) : exec .attcmdQuote s = .next (s.attEnd 3) ∧
    exec .attcmdReadCertificate s = .next (s.attEnd 3) ∧ exec .attcmdRaiseFloor s = .next (s.attEnd 3) :=
  ⟨State.withImage_of_none hf _, State.withImage_of_none hf _, State.withImage_of_none hf _⟩

/-- Settles O53: each clause is the lemma of its event; a write of a plain register or of the interrupts is its own definition. -/
theorem hostRegisterEventsComplete : Obligations.HostRegisterEventsComplete := by
  intro s
  exact ⟨fun _ _ => rfl, s.hostRegister_reads, fun _ => rfl, fun _ => rfl, fun _ => rfl, exec_heatctlWrite_of_fits s,
    exec_heatctlWrite_of_not_fits s, exec_pwrcapWrite s, exec_tierbaseWrite s, exec_deviceReset s, exec_fwctlLoad_of_enabled s,
    exec_fwctlLoad_of_disabled s, exec_firmwareBootCheck s, fun _ => exec_attcmd_of_running, exec_attcmd_of_none⟩

end Sys2Proof.Machine
end

section
/-! PROOFS. Conversions (R50, R55, R56, R82 to R86): what `n` draws leave of a lane's stochastic state, how the states of the active lanes
are written, and one lemma for each conversion. -/

namespace Sys2Proof.Machine

open Sys2Proof

/-! ### Draws of Rand16 (R49, R50) -/

/-- The state of a lane after `n` elements: stepped once for each where the rounding is stochastic, else as it was (R50). -/
def CvtRnd.after (c : CvtRnd) (n : Nat) (g : Word) : Word := if c.stoch then randAfter n g else g

@[simp] theorem CvtRnd.after_zero (c : CvtRnd) (g : Word) : c.after 0 g = g := ite_self _

/-- The draw that follows `k` draws rounds the element `k`. -/
theorem CvtRnd.draw_after (c : CvtRnd) (k : Nat) (g : Word) :
    c.draw (c.after k g) = (elemMode c.stoch c.rnd k g, c.after (k + 1) g) := by
  obtain ⟨rnd, stoch, sat⟩ := c
  cases stoch <;> rfl

/-- The first draw of a lane rounds its element 0. -/
theorem CvtRnd.draw_eq (c : CvtRnd) (g : Word) : c.draw g = (elemMode c.stoch c.rnd 0 g, c.after 1 g) := by
  simpa using c.draw_after 0 g

/-- An element converted after `k` others takes the mode of the element `k`. -/
theorem cvtElem_after (dst src : Fmt) (c : CvtRnd) (k : Nat) (g : Word) (x : Nat) :
    cvtElem dst src c (c.after k g) x = (convert dst src (elemMode c.stoch c.rnd k g) c.sat x, c.after (k + 1) g) := by
  rw [cvtElem, c.draw_after]

/-- Elements converted in order take the modes of their positions, and the lane's state steps once for each. -/
theorem cvtsElems_after (dst src : Fmt) (c : CvtRnd) (x : Nat → Nat) (g : Word) (n k : Nat) :
    cvtsElems dst src c ((List.range' k n).map x) (c.after k g) =
      ((List.range' k n).map fun i => convert dst src (elemMode c.stoch c.rnd i g) c.sat (x i), c.after (k + n) g) := by
  induction n generalizing k with
  | zero => rfl
  | succ n ih =>
    simp only [List.range'_succ, List.map_cons, cvtsElems, cvtElem_after, ih]
    rw [Nat.add_assoc, Nat.add_comm 1 n]

/-- The elements of a container, from the lane's own state. -/
theorem cvtsElems_range (dst src : Fmt) (c : CvtRnd) (x : Nat → Nat) (g : Word) (n : Nat) :
    cvtsElems dst src c ((List.range n).map x) g =
      ((List.range n).map fun i => convert dst src (elemMode c.stoch c.rnd i g) c.sat (x i), c.after n g) := by
  simpa [List.range_eq_range'] using cvtsElems_after dst src c x g n 0

/-! ### Writing results and states (R25, R50) -/

/-- The states of the active lanes after `n` elements, written where the rounding is stochastic. -/
theorem Regs.putRand_after (r1 r : Regs) (e : Env) (h : Hd) (c : CvtRnd) (n : Nat) :
    r1.putRand c ((activeLanes e r h).map fun l => (l, c.after n (r.rand l))) = r1.drawn r e h c.stoch n := by
  unfold Regs.putRand Regs.drawn
  split
  · next hs => simp [List.foldl_map, CvtRnd.after, hs, Regs.rand]
  · rfl

/-- Results of the active lanes and their states after `n` elements each. -/
theorem cvtWrite_after (e : Env) (r : Regs) (h : Hd) (c : CvtRnd) (d : Opnd) (wide : Bool) (y : Nat → Nat) (n : Nat) :
    cvtWrite e r h c d wide (fun l => (y l, c.after n (r.rand l))) = (lanewise e r h d wide y).drawn r e h c.stoch n := by
  rw [← Regs.putRand_after, lanewise, cvtWrite]
  simp [Function.comp_def]

/-! ### The lanes of a block (R84) -/

/-- A block's lanes give one code and header each, all of one scale, and each lane draws once. -/
theorem packBlock_map (s : FSlot) (c : CvtRnd) (r : Regs) (v : Nat → FVal) (ls : List Nat) :
    packBlock s (ls.map v) (blockDraws c r ls) = ls.map fun l =>
      (l, blockElem s (blockScale s (ls.map v)) (elemMode c.stoch c.rnd 0 (r.rand l)) (v l) +
        2 ^ 32 * (blockScale s (ls.map v) + 2 ^ 8 * s.blog), c.after 1 (r.rand l)) := by
  simp [packBlock, blockDraws, List.zip_map', CvtRnd.draw_eq]

/-- The blocks of rising lane positions, one after the other, are those positions. -/
theorem flatMap_filter_div {xs : List Nat} {k n : Nat} (hs : xs.Pairwise (· < ·)) (hn : ∀ l ∈ xs, l / k < n) :
    ((List.range n).flatMap fun b => xs.filter fun l => l / k == b) = xs := by
  refine List.Pairwise.eq_of_mem_iff (r := (· < ·)) (List.pairwise_flatMap.2 ⟨fun b _ => hs.filter _, ?_⟩) hs fun l => ?_
  · refine List.pairwise_lt_range.imp fun hab x hx y hy => ?_
    have hxa := (List.mem_filter.1 hx).2
    have hyb := (List.mem_filter.1 hy).2
    rw [beq_iff_eq] at hxa hyb
    exact lt_of_not_ge fun hyx => absurd (Nat.div_le_div_right (c := k) hyx) (by omega)
  · simpa using hn l

/-- What each block gives its own lanes, over all blocks, is what each lane has from its block. -/
theorem flatMap_map_filter_div {α : Type} {xs : List Nat} {k n : Nat} (f : Nat → Nat → α) (hs : xs.Pairwise (· < ·))
    (hn : ∀ l ∈ xs, l / k < n) :
    ((List.range n).flatMap fun b => (xs.filter fun l => l / k == b).map (f b)) = xs.map fun l => f (l / k) l := by
  calc _ = (List.range n).flatMap fun b => (xs.filter fun l => l / k == b).map fun l => f (l / k) l :=
        List.flatMap_congr fun b _ => List.map_congr_left fun l hl => by rw [beq_iff_eq.1 (List.mem_filter.1 hl).2]
    _ = _ := by rw [← List.map_flatMap, flatMap_filter_div hs hn]

theorem activeLanes_pairwise (e : Env) (r : Regs) (h : Hd) : (activeLanes e r h).Pairwise (· < ·) :=
  List.pairwise_lt_range.filter _

theorem lt_lanes_of_mem_activeLanes {e : Env} {r : Regs} {h : Hd} {l : Nat} (hl : l ∈ activeLanes e r h) : l < e.lanes :=
  List.mem_range.1 (List.mem_filter.1 hl).1

/-- A block no longer than the lanes of a group divides them (R84). -/
theorem FSlot.len_dvd {k : FSlot} {n : Nat} (hk : k.len ≤ n) (hn : n = 16 ∨ n = 32) : k.len ∣ n := by
  obtain ⟨p, rfl⟩ : ∃ p, n = 2 ^ p := hn.elim (fun h => ⟨4, h⟩) fun h => ⟨5, h⟩
  exact Nat.pow_dvd_pow 2 ((Nat.pow_le_pow_iff_right (by decide)).1 hk)

/-! ### The conversions -/

/-- R82: one element in each active lane. -/
theorem cvtOp_run (e : Env) (r : Regs) (h : Hd) (m : CvtMod) (d a : Opnd) :
    let c := cvtRnd e m
    let dst := cvtFmt e m m.dst
    let src := cvtFmt e m m.src
    (cvtOp h m d a).run e r = (lanewise e r h d dst.wide fun l =>
      widenDst dst (convert dst src (elemMode c.stoch c.rnd 0 (r.rand l)) c.sat (rd e r src.wide a l))).drawn r e h c.stoch 1 := by
  simp only [cvtOp, cvtElem, CvtRnd.draw_eq, cvtWrite_after]

/-- R83: four elements in each active lane, in order. -/
theorem cvtsOp_run (e : Env) (r : Regs) (h : Hd) (m : CvtMod) (d a : Opnd) :
    let c := cvtRnd e m
    (cvtsOp h m d a).run e r = (lanewise e r h d (m.dst.width == 16) fun l =>
      joinElems m.dst.width ((List.range 4).map fun i => convert m.dst m.src (elemMode c.stoch c.rnd i (r.rand l)) c.sat
        (bitsAt (rdPack e r m.src a l) (m.src.width * i) m.src.width))).drawn r e h c.stoch 4 := by
  simp only [cvtsOp, cvtsElems_range, cvtWrite_after]

/-- R84: each active lane has its code and header from the active lanes of its block. -/
theorem bfpkOp_run {e : Env} (r : Regs) (h : Hd) {m : CvtMod} (d a : Opnd) {f : FFmt} (hf : Fmt.ffmt m.src = some f)
    (hdvd : (e.slot m.slot.toNat).len ∣ e.lanes) :
    let k := e.slot m.slot.toNat
    let c := cvtRnd e m
    let val := fun l => f.decode (rd32 e r a l % 2 ^ f.bits)
    let scale := fun l => blockScale k (((activeLanes e r h).filter fun i => i / k.len == l / k.len).map val)
    (bfpkOp h m d a).run e r = (lanewise e r h d true fun l =>
      blockElem k (scale l) (elemMode c.stoch c.rnd 0 (r.rand l)) (val l) + 2 ^ 32 * (scale l + 2 ^ 8 * k.blog)).drawn
        r e h c.stoch 1 := by
  have hblocks : ∀ l ∈ activeLanes e r h, l / (e.slot m.slot.toNat).len < e.lanes / (e.slot m.slot.toNat).len := fun l hl =>
    Nat.div_lt_div_of_lt_of_dvd hdvd (lt_lanes_of_mem_activeLanes hl)
  simp only [bfpkOp, hf, Option.getD_some, packBlock_map]
  rw [flatMap_map_filter_div (fun b l => (l, _, _)) (activeLanes_pairwise e r h) hblocks, ← Regs.putRand_after, lanewise]
  simp [Function.comp_def]

/-- R85: each active lane has the value of its code under its header, or NaN. -/
theorem bfpxOp_run (e : Env) (r : Regs) (h : Hd) {m : CvtMod} (d a : Opnd) {fd : FFmt} (hfd : Fmt.ffmt m.dst = some fd) :
    let k := e.slot m.slot.toNat
    let c := cvtRnd e m
    (bfpxOp h m d a).run e r = (lanewise e r h d false fun l =>
      let y := rd64 e r a l
      roundTo fd (elemMode c.stoch c.rnd 0 (r.rand l)) false c.sat
        (if headerOk k (y / 2 ^ 32) then blockVal k (y / 2 ^ 32 % 256) (y % 2 ^ k.elemW) else .nan)).drawn r e h c.stoch 1 := by
  simp only [bfpxOp, hfd, Option.getD_some, CvtRnd.draw_eq, cvtWrite_after]

/-- R86: each active lane has its value times its scale, or NaN. -/
theorem qsclOp_run (e : Env) (r : Regs) (h : Hd) {m : CvtMod} (d a : Opnd) {fs fd : FFmt} (hfs : Fmt.ffmt m.src = some fs)
    (hfd : Fmt.ffmt m.dst = some fd) :
    let c := cvtRnd e m
    (qsclOp h m d a).run e r = (lanewise e r h d false fun l =>
      let y := rd64 e r a l
      roundTo fd (elemMode c.stoch c.rnd 0 (r.rand l)) false c.sat
        (if y / 2 ^ 32 % 256 = 255 then .nan
          else (fs.decode (y % 2 ^ fs.bits)).scale ((y / 2 ^ 32 % 256 : Nat) - 127))).drawn r e h c.stoch 1 := by
  simp only [qsclOp, hfs, hfd, Option.getD_some, CvtRnd.draw_eq, cvtWrite_after, bitsAt, beq_iff_eq, Nat.reducePow]

/-- How a conversion rounds: as its slot says where the destination is a slot, else as its immediate word says (R59). -/
theorem cvtRnd_eq (e : Env) (m : CvtMod) :
    let k := e.slot m.slot.toNat
    let own := m.dst == .slot
    cvtRnd e m = ⟨if own then (if k.rnd == 1 then .rz else .rn) else m.rnd, if own then k.rnd == 2 else m.stoch,
      if own then k.sat else m.sat⟩ := by
  dsimp only [cvtRnd]
  split <;> rfl

/-- Settles O9: each clause is the lemma of its conversion, at the rounding that the code or the slot names. -/
theorem conversionResults : Obligations.ConversionResults := by
  intro e r h m d a k own sr rnd sat dst src g
  have hc : cvtRnd e m = ⟨rnd, sr, sat⟩ := cvtRnd_eq e m
  have hcvt := cvtOp_run e r h m d a
  have hcvts := cvtsOp_run e r h m d a
  rw [hc] at hcvt hcvts
  refine ⟨hcvt, hcvts, fun f hf _ hlen hlanes => ?_, fun fd hfd => ?_, fun fs fd hfs hfd => ?_⟩
  · have hbfpk := bfpkOp_run r h d a hf (FSlot.len_dvd hlen hlanes)
    rwa [hc] at hbfpk
  · have hbfpx := bfpxOp_run e r h d a hfd
    rwa [hc] at hbfpx
  · have hqscl := qsclOp_run e r h d a hfs hfd
    rwa [hc] at hqscl

end Sys2Proof.Machine
end

section
/-! PROOFS. An instruction that works in registers alone runs in its group (R14, R20): it leaves the registers its effect gives, or takes
the trap its check names; then what each integer, conversion, compare and lane instruction leaves (R67 to R94). -/

namespace Sys2Proof.Machine

open Sys2Proof

/-! ### One frame for all register instructions -/

/-- Where its checks pass, the instruction leaves its registers and the group goes on to the next slot. -/
theorem Runs.aluStep_left {s : State} {u g : Nat} {U : Unit} {G : Group} {x : Alu} (hr : Runs s u g U G)
    (hp : x.pre (s.env U G) = none) (hc : Clear s u g U (x.uses (s.env U G))) :
    aluStep x s = .next (s.left u g x.h (x.run (s.env U G) G.regs)) := by
  rw [groupAlu_runs hr.1 hr.2 hp hc.1 hc.2, State.left, State.finish, State.modGroup_modGroup]
  rfl

/-- A check that fails traps at the group's slot, in all its lanes. -/
theorem Runs.aluStep_traps {s : State} {u g : Nat} {U : Unit} {G : Group} {x : Alu} {c : Nat} (hr : Runs s u g U G)
    (hp : x.pre (s.env U G) = some c) : aluStep x s = .next (s.takeTrap u g ⟨c, G.pc, G.mask, G.pc, none⟩) := by
  simp [aluStep, hr.1, groupAlu, issueEnv, hr.2, hp, State.trapGroup, groupTrap]

/-! ### Integer and address instructions (R67 to R77) -/

/-- The instructions of R67 are those of its scheme. -/
theorem exec_of_mem_exactTable {h : Hd} {m : IntMod} {x : Args} {p : Instr × (Int → Int → Int → Int)} (hp : p ∈ exactTable h m x)
    (s : State) : exec p.1 s = aluStep (intAlu h m x (intScheme m p.2)) s := by
  simp only [exactTable, List.mem_cons, List.not_mem_nil, or_false] at hp
  rcases hp with rfl | rfl | rfl | rfl | rfl | rfl | rfl | rfl | rfl <;> rfl

/-- The instructions of the table compute their function of the patterns in each lane. -/
theorem exec_of_mem_patternTable {h : Hd} {m : IntMod} {x : Args} {p : Instr × (Nat → Nat → Nat → Nat)}
    (hp : p ∈ patternTable h m x) (s : State) : exec p.1 s = aluStep (intAlu h m x p.2) s := by
  simp only [patternTable, List.mem_cons, List.not_mem_nil, or_false] at hp
  rcases hp with rfl | rfl | rfl | rfl | rfl | rfl | rfl | rfl | rfl | rfl | rfl | rfl | rfl | rfl | rfl | rfl | rfl <;> rfl

/-- Settles O1: each instruction of the two tables runs its function of the operands' patterns. -/
theorem integerArithmeticCompletes : Obligations.IntegerArithmeticCompletes := by
  refine ⟨fun s u g U G h m x hr hc p hp => ?_, fun s u g U G h m x hr hc p hp => ?_⟩
  · rw [exec_of_mem_exactTable hp]
    exact hr.aluStep_left rfl hc
  · rw [exec_of_mem_patternTable hp]
    exact hr.aluStep_left rfl hc

/-- R71, R73, R74: each instruction is a register instruction of its own operands. -/
theorem bitInstructionsComplete : Statements.BitInstructionsComplete := by
  intro s u g U G h m x hr w W e
  refine ⟨fun hc => ⟨?popc, ?clz⟩, fun hc => ⟨?sel, ?bfi, ?blut⟩, ?bfx⟩
  case popc => exact hr.aluStep_left (x := popcOp h m x) rfl hc
  case clz => exact hr.aluStep_left (x := clzOp h m x) rfl hc
  case sel => exact hr.aluStep_left (x := selOp h m x) rfl hc
  case bfi => exact hr.aluStep_left (x := bfiOp h m x) rfl hc
  case blut => exact hr.aluStep_left (x := blutOp h m x) rfl hc
  case bfx => exact hr.aluStep_left (x := bfxOp h m x) rfl

/-- R69, R70, R76: each instruction is a register instruction of its own operands. -/
theorem wideIntegerAndAddressComplete : Statements.WideIntegerAndAddressComplete := by
  intro s u g U G h m x hr w W e a64
  refine ⟨?madw, fun hc => ⟨?addc, ?subb⟩, ?aadd, fun hc => ⟨?amad, ?amov, ?aget, ?lea⟩⟩
  case madw => exact hr.aluStep_left (x := madwOp h m x) rfl
  case addc => exact hr.aluStep_left (x := addcOp h m x) rfl hc
  case subb => exact hr.aluStep_left (x := subbOp h m x) rfl hc
  case aadd => exact hr.aluStep_left (x := aaddOp h m x) rfl
  case amad => exact hr.aluStep_left (x := amadOp h m x) rfl hc
  case amov => exact hr.aluStep_left (x := amovOp h m x) rfl hc
  case aget => exact hr.aluStep_left (x := agetOp h m x) rfl hc
  case lea => exact hr.aluStep_left (x := leaOp h m x) rfl hc

/-- Settles O2, by its two families of instructions. -/
theorem bitAndAddressInstructionsComplete : Obligations.BitAndAddressInstructionsComplete :=
  ⟨bitInstructionsComplete, wideIntegerAndAddressComplete⟩

/-! ### Conversions (R81 to R86) -/

/-- The conversions are register instructions with the check of their format slot. -/
theorem exec_of_mem_convertTable {h : Hd} {m : CvtMod} {d a : Opnd} {p : Instr × Alu} (hp : p ∈ convertTable h m d a) (s : State) :
    exec p.1 s = aluStep p.2 s ∧ p.2.h = h := by
  simp only [convertTable, List.mem_cons, List.not_mem_nil, or_false] at hp
  rcases hp with rfl | rfl | rfl | rfl | rfl <;> exact ⟨rfl, rfl⟩

/-- Settles O8: each conversion runs in the frame of the register instructions, its check first. -/
theorem conversionsComplete : Obligations.ConversionsComplete := by
  intro s u g U G h m d a hr p hp
  obtain ⟨he, hh⟩ := exec_of_mem_convertTable hp s
  exact ⟨fun hpre hc => by rw [he, hr.aluStep_left hpre hc, hh], fun c hpre => by rw [he, hr.aluStep_traps hpre]⟩

/-! ### Compares, predicates and lanes (R87 to R94) -/

/-- R88: the bits of a table's index are the three predicates. -/
theorem plutBit_eq (lut : BitVec 8) (a b c : Bool) : plutBit lut a b c = lut.getLsbD (a.toNat + 2 * b.toNat + 4 * c.toNat) := by
  cases a <;> cases b <;> cases c <;> rfl

/-- R90: what each vote over the active lanes gives. -/
theorem voteVal_eq (e : Env) (r : Regs) (h : Hd) (x : Ops4) :
    let act := activeLanes e r h
    let holds := fun l => r.pred x.a.idx.toNat l
    voteVal e r h .all x = (if ∀ l ∈ act, holds l then 1 else 0) ∧
    voteVal e r h .any x = (if ∃ l ∈ act, holds l then 1 else 0) ∧
    voteVal e r h .uni x = (if (∀ l ∈ act, holds l) ∨ (∀ l ∈ act, ¬ holds l) then 1 else 0) := by
  simp [voteVal, voteAll, voteAny, voteUni]

/-- R87 to R89: each instruction is a register instruction whose results are the rule's predicates. -/
theorem compareAndPredicateComplete : Statements.CompareAndPredicateComplete := by
  intro s u g U G h x hr e r pc
  refine ⟨fun ty nc c hc => ?itest, fun d nc c hc => ?ftest, fun lut hc => ?plut, ?pack, ?unpack⟩
  case itest => exact hr.aluStep_left (x := itestOp h ty nc c x) rfl hc
  case ftest => exact hr.aluStep_left (x := ftestOp h d nc c x) rfl hc
  case plut =>
    simp only [pc, ← plutBit_eq]
    exact hr.aluStep_left (x := plutOp h lut x) rfl hc
  case pack => exact hr.aluStep_left (x := pmovPackOp h x) rfl
  case unpack => exact hr.aluStep_left (x := pmovUnpackOp h x) rfl

/-- R90 to R94: each instruction is a register instruction whose results are the rule's values. -/
theorem laneExchangeAndReductionComplete : Statements.LaneExchangeAndReductionComplete := by
  intro s u g U G h x hr e r act holds
  obtain ⟨hall, hany, huni⟩ := voteVal_eq e r h x
  refine ⟨fun hc => ⟨?all, ?any, ?uni, ?ballot⟩, fun b hc => ?matchLanes, fun b m hc => ?xlane, fun m hc => ⟨?lreduce, ?lscan⟩,
    ?bcast, fun b hb hc => ?smov⟩
  case all => rw [← hall]; exact hr.aluStep_left (x := voteOp h .all x) rfl hc
  case any => rw [← hany]; exact hr.aluStep_left (x := voteOp h .any x) rfl hc
  case uni => rw [← huni]; exact hr.aluStep_left (x := voteOp h .uni x) rfl hc
  case ballot => exact hr.aluStep_left (x := voteOp h .ballot x) rfl hc
  case matchLanes => exact hr.aluStep_left (x := matchLanesOp h b x) rfl hc
  case xlane => exact hr.aluStep_left (x := xlaneOp h b m x) rfl hc
  case lreduce => exact hr.aluStep_left (x := lreduceOp h m x) rfl hc
  case lscan => exact hr.aluStep_left (x := lscanOp h m x) rfl hc
  case bcast => exact hr.aluStep_left (x := bcastOp h x) rfl
  case smov => subst hb; exact hr.aluStep_left (x := smovOp h x) rfl hc

/-- Settles O10, by its two families of instructions. -/
theorem predicatesAndLaneExchangeComplete : Obligations.PredicatesAndLaneExchangeComplete :=
  ⟨compareAndPredicateComplete, laneExchangeAndReductionComplete⟩

end Sys2Proof.Machine
end

section
/-! PROOFS. What the integer functions mean as numbers (R35, R68, R70, R72): patterns and their values, then division, carry chains and
shifts. -/

namespace Sys2Proof.Machine

open Sys2Proof

/-! ### Patterns and their values (R9, R35) -/

/-- A pattern is its integer modulo 2^W. -/
theorem natCast_patOf (w : Nat) (x : Int) : (patOf w x : Int) = x % (2 ^ w : Int) :=
  Int.toNat_of_nonneg (Int.emod_nonneg x (by positivity))

@[simp] theorem patOf_zero (w : Nat) : patOf w 0 = 0 := by simp [patOf]

/-- An integer that fits is its pattern. -/
theorem patOf_natCast_of_lt {w n : Nat} (h : n < 2 ^ w) : patOf w n = n := by
  rw [← Nat.mod_eq_of_lt h]
  zify
  rw [natCast_patOf, Int.emod_emod]

/-- The pattern of -1 is all ones. -/
theorem patOf_neg_one (w : Nat) : patOf w (-1) = 2 ^ w - 1 := by
  have hpos : (1 : Int) ≤ 2 ^ w := one_le_pow₀ (by decide)
  zify [Nat.one_le_two_pow (n := w)]
  rw [natCast_patOf, Int.emod_eq_add_self_emod, Int.emod_eq_of_lt] <;> omega

/-- The value of a pattern: the upper half of the patterns is negative. -/
theorem sext_eq_ite {w x : Nat} (h : x < 2 ^ w) : sext w x = if x < 2 ^ (w - 1) then (x : Int) else x - 2 ^ w := by
  have hx : (x : Int) % 2 ^ w = x := by exact_mod_cast Nat.mod_eq_of_lt h
  rw [sext, hx, Nat.mod_eq_of_lt h]

/-- The most negative value is the pattern of the sign bit alone. -/
theorem sext_two_pow_pred {w : Nat} (h : 0 < w) : sext w (2 ^ (w - 1)) = -(2 ^ (w - 1) : Int) := by
  have hw : (2 : Int) ^ w = 2 * 2 ^ (w - 1) := (mul_pow_sub_one h.ne' 2).symm
  rw [sext_eq_ite (Nat.pow_lt_pow_right (by decide) (by omega)), if_neg (lt_irrefl _), hw]
  push_cast
  ring

/-! ### Division (R68) -/

/-- R68: the remainder takes up what the quotient, rounded toward zero, leaves of the dividend. -/
theorem remElem_eq (w : Nat) (a b : Int) : remElem w a b = if b = 0 then patOf w a else patOf w (a - Int.tdiv a b * b) := by
  rw [remElem, Int.tmod_def, mul_comm]

/-- Modulo 2^W, quotient times divisor and remainder make the dividend. -/
theorem divElem_mul_add_remElem (w : Nat) (sg : Bool) (a : Int) {b : Int} (hb : b ≠ 0) :
    ((divElem w sg false a b : Int) * b + (remElem w a b : Int)) % (2 ^ w : Int) = a % (2 ^ w : Int) := by
  have hq : (divElem w sg false a b : Int) = Int.tdiv a b % 2 ^ w := by
    rw [divElem, if_neg hb, narrow, if_neg (by decide), natCast_patOf]
  have hr : (remElem w a b : Int) = Int.tmod a b % 2 ^ w := by rw [remElem, if_neg hb, natCast_patOf]
  have hsum := ((Int.mod_modEq (a.tdiv b) (2 ^ w)).mul_right b).add (Int.mod_modEq (a.tmod b) (2 ^ w))
  rw [hq, hr, hsum, Int.tdiv_mul_add_tmod]

/-! ### Carry chains (R70) -/

/-- The sum and its carry are exact. -/
theorem addCarry_exact (w u v : Nat) (c : Bool) :
    (addCarry w u v c).1 + 2 ^ w * ((u + v + c.toNat) / 2 ^ w) = u + v + c.toNat ∧
    ((addCarry w u v c).2 = true ↔ 2 ^ w ≤ u + v + c.toNat) := by
  have hc : (if c then 1 else 0) = c.toNat := by cases c <;> rfl
  simp [addCarry, hc, Nat.mod_add_div]

/-- The difference and its borrow are exact. -/
theorem subBorrow_exact {w u v : Nat} (c : Bool) (hu : u < 2 ^ w) (hv : v < 2 ^ w) :
    ((subBorrow w u v c).1 : Int) = (u : Int) - v - c.toNat + (if (subBorrow w u v c).2 then (2 ^ w : Int) else 0) := by
  have hc : (if c then 1 else 0) = c.toNat := by cases c <;> rfl
  have hle : c.toNat ≤ 1 := c.toNat_le
  have hw : ((2 ^ w : Nat) : Int) = 2 ^ w := by push_cast; rfl
  simp only [subBorrow, hc, decide_eq_true_eq, ← hw, pow_succ]
  generalize 2 ^ w = m at hu hv
  split
  · next hb =>
    rw [show u + m * 2 - v - c.toNat = (u + m - v - c.toNat) + m by omega, Nat.add_mod_right, Nat.mod_eq_of_lt] <;> omega
  · next hb =>
    rw [show u + m * 2 - v - c.toNat = (u - v - c.toNat) + m * 2 by omega, Nat.add_mul_mod_self_left, Nat.mod_eq_of_lt] <;> omega

/-! ### Shifts (R72) -/

/-- A left shift by the width or more leaves zeros. -/
theorem shlElem_of_width_le {w s : Nat} (sg : Bool) (a : Int) (h : w ≤ s) : shlElem w sg false a s = 0 := by
  rw [shlElem, min_eq_right h, narrow, if_neg (by decide), patOf]
  simp

/-- An arithmetic right shift by the width or more leaves copies of the sign. -/
theorem patOf_sext_shift_of_width_le {w a : Nat} (ha : a < 2 ^ w) :
    patOf w (sext w a / (2 ^ w : Int)) = if a < 2 ^ (w - 1) then 0 else 2 ^ w - 1 := by
  have haw : (a : Int) < 2 ^ w := by exact_mod_cast ha
  rw [sext_eq_ite ha]
  split
  · rw [Int.ediv_eq_zero_of_lt (by omega) haw, patOf_zero]
  · rw [← patOf_neg_one, show (a : Int) - 2 ^ w = a + 2 ^ w * -1 by ring, Int.add_mul_ediv_left _ _ (by positivity),
      Int.ediv_eq_zero_of_lt (by omega) haw, zero_add]

/-- Settles O4: one law for each clause. -/
theorem divisionCarryAndShiftLaws : Obligations.DivisionCarryAndShiftLaws := by
  refine ⟨fun w sg sat a => ⟨if_pos rfl, if_pos rfl⟩, fun w sg a b hb => divElem_mul_add_remElem w sg a hb, addCarry_exact,
    fun w u v c hu hv => subBorrow_exact c hu hv, fun w s sg a h => shlElem_of_width_le sg a h, fun w a s ha h => ?_,
    fun w a s _ ha h => ?_⟩
  · rw [show Nat.min s w = w from min_eq_right h, Nat.div_eq_of_lt ha]
  · rw [show Nat.min s w = w from min_eq_right h, patOf_sext_shift_of_width_le ha]

/-! ### Truncation toward zero (R68) -/

/-- The most negative value divided by -1 is one more than the greatest value. -/
theorem tdiv_mostNegative (w : Nat) : Int.tdiv (-(2 ^ (w - 1) : Int)) (-1) = (2 ^ (w - 1) : Nat) := by simp

/-- R68: the most negative value divided by -1 wraps to itself, or saturates to the greatest value. -/
theorem sext_narrow_mostNegative {w : Nat} (hw : 0 < w) :
    sext w (narrow w true false (2 ^ (w - 1) : Nat)) = -(2 ^ (w - 1) : Int) ∧
    sext w (narrow w true true (2 ^ (w - 1) : Nat)) = (2 ^ (w - 1) : Int) - 1 := by
  have hpos : 0 < 2 ^ (w - 1) := Nat.two_pow_pos _
  have hlt : 2 ^ (w - 1) < 2 ^ w := Nat.pow_lt_pow_right (by decide) (by omega)
  have hsat : satInt w true (2 ^ (w - 1) : Nat) = (2 ^ (w - 1) - 1 : Nat) := by
    simp only [satInt, intRange, if_true]
    zify [Nat.one_le_two_pow (n := w - 1)]
    have hpow : (0 : Int) < 2 ^ (w - 1) := by positivity
    rw [min_eq_left (by omega), max_eq_right (by omega)]
  rw [narrow, if_neg (by decide), patOf_natCast_of_lt hlt, narrow, if_pos rfl, hsat, patOf_natCast_of_lt (by omega),
    sext_two_pow_pred hw, sext_eq_ite (by omega), if_pos (by omega)]
  refine ⟨rfl, ?_⟩
  push_cast [Nat.one_le_two_pow]
  rfl

/-- All ones is -1. -/
theorem sext_allOnes {w : Nat} (hw : 0 < w) : sext w (2 ^ w - 1) = -1 := by
  have hlt : 2 ^ (w - 1) < 2 ^ w := Nat.pow_lt_pow_right (by decide) (by omega)
  have hw2 : 2 ^ w = 2 * 2 ^ (w - 1) := (mul_pow_sub_one hw.ne' 2).symm
  have hpos : 0 < 2 ^ (w - 1) := Nat.two_pow_pos _
  rw [sext_eq_ite (by omega), if_neg (by omega)]
  push_cast [Nat.one_le_two_pow]
  ring

/-- R68: the remainder has the dividend's sign and is smaller than the divisor. -/
theorem remainder_bounds (a : Int) {b : Int} (hb : b ≠ 0) :
    let r := a - Int.tdiv a b * b
    (0 ≤ a → 0 ≤ r) ∧ (a ≤ 0 → r ≤ 0) ∧ r.natAbs < b.natAbs := by
  have hr : a - Int.tdiv a b * b = a.tmod b := by rw [Int.tmod_def, mul_comm]
  simp only [hr]
  refine ⟨Int.tmod_nonneg b, fun h => ?_, ?_⟩
  · have hneg := Int.tmod_nonneg b (neg_nonneg.2 h)
    rw [Int.neg_tmod] at hneg
    omega
  · rw [Int.natAbs_tmod]
    exact Nat.mod_lt _ (Int.natAbs_pos.2 hb)

/-- Settles O5: the instructions by their tables' functions, then the laws of truncation. -/
theorem divisionTruncatesTowardZero : Obligations.DivisionTruncatesTowardZero := by
  refine ⟨?_, fun w hw => ?_, fun a b hb => remainder_bounds a hb⟩
  · intro s u g U G h m x hr hc W each
    refine ⟨hr.aluStep_left (x := divOp h m x) rfl hc, ?_⟩
    simp only [each, W, ← remElem_eq]
    exact hr.aluStep_left (x := remOp h m x) rfl hc
  · rw [tdiv_mostNegative]
    obtain ⟨hwrap, hsat⟩ := sext_narrow_mostNegative hw
    exact ⟨hwrap, hsat, by simp, sext_allOnes hw⟩

end Sys2Proof.Machine
end

section
/-! PROOFS. What the bit functions mean, bit by bit (R71 to R74). -/

namespace Sys2Proof.Machine

open Sys2Proof

/-! ### Counts and reversal (R71) -/

/-- A field of one bit is that bit. -/
theorem bitsAt_one (x i : Nat) : bitsAt x i 1 = (x.testBit i).toNat := by
  rw [bitsAt, pow_one, Nat.toNat_testBit]

/-- POPC counts the positions that hold a one bit. -/
theorem popcount_eq_length (w x : Nat) : popcount x w = ((List.range w).filter fun i => x.testBit i).length := by
  induction w with
  | zero => rfl
  | succ n ih =>
    rw [popcount, ih, bitsAt_one, List.range_succ, List.filter_append, List.length_append]
    cases h : x.testBit n <;> simp [h]

/-- CLZ leaves the number between the two powers that its highest one bit gives. -/
theorem leadingZeros_spec {w x : Nat} (hx : x < 2 ^ w) : leadingZeros w x ≤ w ∧ x < 2 ^ (w - leadingZeros w x) ∧
    (x ≠ 0 → 2 ^ (w - 1 - leadingZeros w x) ≤ x) := by
  rcases eq_or_ne x 0 with rfl | h0
  · simp [leadingZeros]
  · have hlog : x.log2 < w := (Nat.log2_lt h0).2 hx
    rw [leadingZeros, if_neg h0, show w - (w - 1 - x.log2) = x.log2 + 1 by omega, show w - 1 - (w - 1 - x.log2) = x.log2 by omega]
    exact ⟨by omega, Nat.lt_log2_self, fun _ => Nat.log2_self_le h0⟩

/-- BREV moves bit `w - 1 - i` to bit `i`. -/
theorem testBit_revBits {w i : Nat} (x : Nat) (hi : i < w) : (revBits x w).testBit i = x.testBit (w - 1 - i) := by
  induction w generalizing i with
  | zero => omega
  | succ n ih =>
    rw [revBits, bitsAt_one, ← pow_one 2, Nat.testBit_two_pow_mul_add _ (Bool.toNat_lt _)]
    cases i with
    | zero => simp [Nat.testBit_bool_toNat, -Nat.testBit_zero]
    | succ i => simp [ih (show i < n by omega), show n - 1 - i = n - (i + 1) by omega]

/-! ### Tables and inserted fields (R73, R74) -/

theorem blut_lt (lut a b d w : Nat) : blut lut a b d w < 2 ^ w := by
  induction w with
  | zero => simp [blut]
  | succ n ih =>
    have hbit := Bool.toNat_le (lut.testBit (bitsAt a n 1 + 2 * bitsAt b n 1 + 4 * bitsAt d n 1))
    rw [blut, bitsAt_one lut, pow_succ]
    nlinarith

/-- BLUT looks up each bit of the result by the three bits of its inputs. -/
theorem testBit_blut {w i : Nat} (lut a b d : Nat) (hi : i < w) : (blut lut a b d w).testBit i =
    lut.testBit ((a.testBit i).toNat + 2 * (b.testBit i).toNat + 4 * (d.testBit i).toNat) := by
  induction w with
  | zero => omega
  | succ n ih =>
    rw [blut, Nat.add_comm, Nat.testBit_two_pow_mul_add _ (blut_lt ..)]
    split
    · next h => exact ih h
    · next h =>
      obtain rfl : i = n := by omega
      simp [bitsAt_one, Nat.testBit_bool_toNat, -Nat.testBit_zero]

/-- BFI takes the field's bits from B and the others from A. -/
theorem testBit_bfi {w i : Nat} (a b ctl : Nat) (hi : i < w) :
    let p := min (ctl % 256) w
    let len := min (ctl / 256 % 256) w
    (bfi w a b ctl).testBit i = if p ≤ i ∧ i < p + len then b.testBit (i - p) else a.testBit i := by
  intro p len
  have hbfi : bfi w a b ctl = (a &&& (2 ^ w - ((2 ^ len - 1) * 2 ^ p % 2 ^ w + 1))) |||
      (b * 2 ^ p % 2 ^ w &&& (2 ^ len - 1) * 2 ^ p % 2 ^ w) := by
    simp [bfi, bitsAt, p, len, Nat.sub_sub, Nat.add_comm]
  have hmask : ((2 ^ len - 1) * 2 ^ p % 2 ^ w).testBit i = decide (p ≤ i ∧ i < p + len) := by
    rw [Nat.testBit_mod_two_pow, Nat.testBit_mul_two_pow, Nat.testBit_two_pow_sub_one]
    simp only [hi, ← Bool.decide_and, decide_true, Bool.true_and, decide_eq_decide]
    omega
  rw [hbfi, Nat.testBit_or, Nat.testBit_and, Nat.testBit_and, Nat.testBit_two_pow_sub_succ (Nat.mod_lt _ (by positivity)), hmask,
    Nat.testBit_mod_two_pow, Nat.testBit_mul_two_pow]
  split
  · next h => simp [h, hi]
  · next h => simp [h, hi]

/-! ### Extracted fields (R73) -/

/-- The unsigned BFX is the field's bits. -/
theorem testBit_bfx_unsigned {w a : Nat} (ctl i : Nat) (ha : a < 2 ^ w) : (bfx w false a ctl).testBit i =
    (decide (i < min (ctl / 256 % 256) w) && a.testBit (i + min (ctl % 256) w)) := by
  have hbfx : bfx w false a ctl = a / 2 ^ min (ctl % 256) w % 2 ^ min (ctl / 256 % 256) w := by
    have hctl : bitsAt ctl 8 8 = ctl / 256 % 256 ∧ bitsAt ctl 0 8 = ctl % 256 := by simp [bitsAt]
    simp only [bfx, hctl, intOf, Bool.false_eq_true, if_false, Nat.mod_eq_of_lt ha]
    split
    · next h => rw [h, pow_zero, Nat.mod_one]
    · exact_mod_cast Int.toNat_natCast _
  rw [hbfx, Nat.testBit_mod_two_pow, Nat.testBit_div_two_pow]

/-- The value of a pattern is that of its bit vector. -/
theorem sext_eq_toInt (w x : Nat) : sext w x = (BitVec.ofNat w x).toInt := by
  rw [BitVec.toInt_eq_toNat_cond, BitVec.toNat_ofNat, sext]
  cases w with
  | zero => simp [Nat.mod_one]
  | succ n => simp [pow_succ, mul_comm]

theorem patOf_eq_toNat (w : Nat) (x : Int) : patOf w x = (BitVec.ofInt w x).toNat := by
  simp [patOf]

/-- The signed BFX as bit vectors: an arithmetic shift, cut to the length, and extended by its sign. -/
theorem bfx_signed_eq {w a ctl : Nat} (hlen : 0 < min (ctl / 256 % 256) w) : bfx w true a ctl =
    ((((BitVec.ofNat w a).sshiftRight (min (ctl % 256) w)).signExtend (min (ctl / 256 % 256) w)).signExtend w).toNat := by
  have hctl : bitsAt ctl 8 8 = ctl / 256 % 256 ∧ bitsAt ctl 0 8 = ctl % 256 := by simp [bitsAt]
  simp only [bfx, hctl, intOf, if_true, if_neg hlen.ne']
  have hfield : (sext w a / 2 ^ min (ctl % 256) w % 2 ^ min (ctl / 256 % 256) w).toNat =
      (((BitVec.ofNat w a).sshiftRight (min (ctl % 256) w)).signExtend (min (ctl / 256 % 256) w)).toNat := by
    rw [BitVec.signExtend, BitVec.toInt_sshiftRight, Int.shiftRight_eq_div_pow, ← sext_eq_toInt, ← patOf_eq_toNat, patOf]
    norm_cast
  rw [hfield, sext_eq_toInt, BitVec.ofNat_toNat, BitVec.setWidth_eq, patOf_eq_toNat]
  rfl

/-- A sign extension repeats the highest bit. -/
theorem getLsbD_signExtend_min {w : Nat} (x : BitVec w) (v i : Nat) (hw : 0 < w) :
    (x.signExtend v).getLsbD i = (decide (i < v) && x.getLsbD (min i (w - 1))) := by
  rw [BitVec.getLsbD_signExtend, BitVec.msb_eq_getLsbD_last]
  split
  · rw [min_eq_left (by omega)]
  · rw [min_eq_right (by omega)]

/-- An arithmetic right shift repeats the highest bit. -/
theorem getLsbD_sshiftRight_min {w : Nat} (x : BitVec w) (p i : Nat) :
    (x.sshiftRight p).getLsbD i = (decide (i < w) && x.getLsbD (min (p + i) (w - 1))) := by
  simp only [BitVec.getLsbD_sshiftRight, BitVec.msb_eq_getLsbD_last, ← decide_not, not_le]
  split
  · rw [min_eq_left (by omega)]
  · rw [min_eq_right (by omega)]

/-- The signed BFX is the field's bits, then copies of the field's highest bit; the operand itself is extended by its sign. -/
theorem testBit_bfx_signed {w i : Nat} (a ctl : Nat) (hi : i < w) (hlen : 0 < min (ctl / 256 % 256) w) :
    (bfx w true a ctl).testBit i = a.testBit (min (min (ctl % 256) w + min i (min (ctl / 256 % 256) w - 1)) (w - 1)) := by
  have hlenw : min (ctl / 256 % 256) w ≤ w := min_le_right ..
  rw [bfx_signed_eq hlen, BitVec.testBit_toNat]
  generalize min (ctl / 256 % 256) w = len at hlen hlenw ⊢
  generalize min (ctl % 256) w = p
  have hbit : min i (len - 1) < len := by omega
  rw [getLsbD_signExtend_min _ _ _ hlen, getLsbD_signExtend_min _ _ _ (by omega), getLsbD_sshiftRight_min,
    min_eq_left (show min i (len - 1) ≤ w - 1 by omega), BitVec.getLsbD_ofNat, decide_eq_true hi, decide_eq_true hbit,
    decide_eq_true (hbit.trans_le hlenw), decide_eq_true (show min (p + min i (len - 1)) (w - 1) < w by omega)]
  simp only [Bool.true_and]

/-- Settles O6: one law for each function. -/
theorem bitFunctionsBitByBit : Obligations.BitFunctionsBitByBit := by
  refine ⟨popcount_eq_length, fun w x hx => leadingZeros_spec hx, fun w x i hi => testBit_revBits x hi,
    fun lut a b d w i hi => testBit_blut lut a b d hi, fun w a b ctl i hi _ _ => testBit_bfi a b ctl hi,
    fun w a ctl i _ ha => testBit_bfx_unsigned ctl i ha, fun w a ctl i hi _ hlen => testBit_bfx_signed a ctl hi hlen,
    fun w a ctl hlen => ?_⟩
  simp only [bfx, bitsAt, Nat.reducePow, pow_zero, Nat.div_one]
  exact if_pos hlen

end Sys2Proof.Machine
end

section
/-! PROOFS. Exchange and reductions (R92, R94): an exchange stays within its segment, and an integer sum is exact modulo 2^W. -/

namespace Sys2Proof.Machine

open Sys2Proof

/-! ### Exchange (R92) -/

/-- The width of a segment is a power of two that divides the lane positions. -/
theorem xlaneWidth_eq_two_pow {lanes : Nat} (c : Nat) (hl : lanes = 16 ∨ lanes = 32) :
    ∃ k, xlaneWidth lanes c = 2 ^ k ∧ 2 ^ k ∣ lanes := by
  obtain ⟨n, rfl⟩ : ∃ n, lanes = 2 ^ n := hl.elim (fun h => ⟨4, h⟩) fun h => ⟨5, h⟩
  simp only [xlaneWidth]
  split
  · exact ⟨n, rfl, dvd_rfl⟩
  · next hw =>
    have hlog : 2 ^ (c % 64).log2 ≤ 2 ^ n := (Nat.log2_self_le (by omega)).trans (by omega)
    exact ⟨_, rfl, Nat.pow_dvd_pow 2 ((Nat.pow_le_pow_iff_right (by decide)).1 hlog)⟩

/-- The source is a position of the lane's own segment. -/
theorem xlaneSrc_eq {lanes c k : Nat} (m : XMode) (b l : Nat) (hw : xlaneWidth lanes c = 2 ^ k) :
    ∃ o < 2 ^ k, xlaneSrc m lanes c b l = 2 ^ k * (l / 2 ^ k) + o := by
  have hpos : 0 < 2 ^ k := Nat.two_pow_pos k
  have hlt : l % 2 ^ k < 2 ^ k := Nat.mod_lt _ hpos
  have hl : 2 ^ k * (l / 2 ^ k) + l % 2 ^ k = l := Nat.div_add_mod ..
  have hbase : l - l % 2 ^ k = 2 ^ k * (l / 2 ^ k) := by omega
  have hoff : l - 2 ^ k * (l / 2 ^ k) = l % 2 ^ k := by omega
  cases m <;> simp only [xlaneSrc, hw, hbase, hoff]
  case idx => exact ⟨_, Nat.mod_lt b hpos, rfl⟩
  case up =>
    split
    · exact ⟨_, hlt, hl.symm⟩
    · exact ⟨l % 2 ^ k - b, by omega, by omega⟩
  case down =>
    split
    · exact ⟨_, hlt, hl.symm⟩
    · exact ⟨l % 2 ^ k + b, by omega, by omega⟩
  case xor => exact ⟨_, Nat.xor_lt_two_pow hlt (Nat.mod_lt b hpos), rfl⟩

/-- R92: a lane reads from its own segment. -/
theorem xlaneSrc_in_segment {lanes l : Nat} (m : XMode) (c b : Nat) (hlanes : lanes = 16 ∨ lanes = 32) (hl : l < lanes) :
    xlaneSrc m lanes c b l / xlaneWidth lanes c = l / xlaneWidth lanes c ∧ xlaneSrc m lanes c b l < lanes := by
  obtain ⟨k, hw, hdvd⟩ := xlaneWidth_eq_two_pow c hlanes
  obtain ⟨o, ho, hsrc⟩ := xlaneSrc_eq m b l hw
  have hseg : xlaneSrc m lanes c b l / 2 ^ k = l / 2 ^ k := by
    rw [hsrc, Nat.mul_add_div (Nat.two_pow_pos k), Nat.div_eq_of_lt ho, Nat.add_zero]
  rw [hw]
  exact ⟨hseg, Nat.lt_of_div_lt_div (hseg ▸ Nat.div_lt_div_of_lt_of_dvd hdvd hl)⟩

/-- R92: a lane that is not moved reads itself. -/
theorem xlaneSrc_zero {m : XMode} (lanes c l : Nat) (hm : m ≠ .idx) : xlaneSrc m lanes c 0 l = l := by
  have hle : l % xlaneWidth lanes c ≤ l := Nat.mod_le ..
  cases m with
  | idx => exact absurd rfl hm
  | up => simp [xlaneSrc]
  | down => simp only [xlaneSrc, Nat.add_zero, ite_self]
  | xor => simp only [xlaneSrc, Nat.zero_mod, Nat.xor_zero]; omega

/-! ### Reductions (R94) -/

/-- R94: an integer sum without SAT is exact modulo 2^W. -/
theorem redInt_add_emod {m : RedMod} (xs : List Nat) (hm : m.red = .add) :
    (redInt m false xs : Int) % (2 ^ (rtypeOf m.ty).1 : Int) =
      ((xs.map (intOf (rtypeOf m.ty).1 (rtypeOf m.ty).2)).sum) % (2 ^ (rtypeOf m.ty).1 : Int) := by
  cases xs with
  | nil => rfl
  | cons x r => simp only [redInt, hm, narrow, Bool.false_eq_true, if_false, natCast_patOf, Int.emod_emod]

/-- Without an option of C neither FTZ nor SAT is set. -/
theorem redOpts_of_ne_simm {c : Opnd} (h : c.cls ≠ .simm) : redOpts c = (false, false) := if_neg (by simpa using h)

/-- Settles O11: the exchange by its segments, a sum by its exact value, and an integer scan by its own definition. -/
theorem exchangeAndReductionLaws : Obligations.ExchangeAndReductionLaws := by
  refine ⟨fun m lanes c b l hlanes hl => xlaneSrc_in_segment m c b hlanes hl, fun m lanes c l _ _ hm => xlaneSrc_zero lanes c l hm,
    fun m c lanes xs hf hm hc => ?_, fun m c lanes xs hf => ?_⟩
  · simpa [reduceVals, redOpts_of_ne_simm hc, hf, Function.comp_def] using redInt_add_emod (xs.map (·.2)) hm
  · simp [reduceVals, scanVals, hf, Function.comp_def]

end Sys2Proof.Machine
end

section
/-! PROOFS. Control flow (R95 to R105): what each branch, barrier, wait and no-op leaves. -/

namespace Sys2Proof.Machine

open Sys2Proof

/-! ### The frame, and a change of the group that is there -/

/-- An instruction whose operands are clear has its own effect. -/
theorem Runs.issue_of_clear {s : State} {u g : Nat} {U : Unit} {G : Group} {xs : Uses} (hr : Runs s u g U G) (hc : Clear s u g U xs)
    (k : Nat → Nat → Unit → Group → Out) : issue xs s k = k u g U G := issue_runs hr.1 hr.2 hc.1 hc.2

/-- An instruction that names no register is clear. -/
theorem Clear.nil (s : State) (u g : Nat) (U : Unit) : Clear s u g U [] := ⟨rfl, rfl⟩

/-- Two changes of a group agree where they agree on the group that is there. -/
theorem State.modGroup_congr {s : State} {u g : Nat} {U : Unit} {G : Group} {f k : Group → Group} (hg : s.group? u g = some (U, G))
    (h : f G = k G) : s.modGroup u g f = s.modGroup u g k := by
  obtain ⟨hU, hG⟩ := State.group?_unit hg
  refine congrArg (fun us => { s with units := us }) (updAt_congr _ _ _ _ fun V hV => ?_)
  obtain rfl : U = V := Option.some.inj (hU.symm.trans hV)
  refine congrArg (fun gs => { U with groups := gs }) (updAt_congr _ _ _ _ fun H hH => ?_)
  obtain rfl : G = H := Option.some.inj (hG.symm.trans hH)
  exact h

/-! ### What branches do to a group (R96 to R99, R254) -/

/-- No lane takes the branch. -/
theorem Group.bra_of_none (G : Group) (base target join : DWord) {taken : Word} (h : taken = 0) :
    G.bra base taken target join = G.adv := if_pos (beq_iff_eq.2 h)

/-- Every lane takes the branch. -/
theorem Group.bra_of_all (G : Group) (base target join : DWord) {taken : Word} (h0 : taken ≠ 0) (h : G.mask &&& ~~~taken = 0) :
    G.bra base taken target join = { G with pc := target } := by
  rw [Group.bra, if_neg (mt beq_iff_eq.1 h0), if_pos (beq_iff_eq.2 h)]

/-- The lanes that take the branch wait in the split table. -/
theorem Group.bra_of_some (G : Group) (base target join : DWord) {taken : Word} (h0 : taken ≠ 0) (h : G.mask &&& ~~~taken ≠ 0) :
    G.bra base taken target join = { G with
      pc := G.pc + 12, mask := G.mask &&& ~~~taken, split := ⟨slotIdx base join, slotIdx base target, taken⟩ :: G.split } := by
  rw [Group.bra, if_neg (mt beq_iff_eq.1 h0), if_neg (mt beq_iff_eq.1 h)]
  rfl

/-- JOIN with an empty table goes on. -/
theorem Group.joinAt_of_nil {G : Group} (base : DWord) (h : G.split = []) : G.joinAt base = G.adv := by
  simp only [Group.joinAt, h]

/-- JOIN at a slot that is not the latest entry's, or whose entry is the interrupted code's, goes on. -/
theorem Group.joinAt_of_other {G : Group} {base : DWord} {x : SplitEntry} {r : List SplitEntry} (hs : G.split = x :: r)
    (h : x.join ≠ slotIdx base G.pc ∨ (G.sup = true ∧ G.split.length ≤ G.tdepth)) : G.joinAt base = G.adv := by
  have hgo : (G.noEntry || x.join != slotIdx base G.pc) = true := by
    rcases h with h | ⟨hsup, hlen⟩
    · simp [h]
    · simp [Group.noEntry, hsup, hlen]
  simp only [Group.joinAt, hs, hgo, if_true]

/-- JOIN at the latest entry's slot is governed by the entry's target. -/
theorem Group.joinAt_of_entry {G : Group} {base : DWord} {x : SplitEntry} {r : List SplitEntry} (hs : G.split = x :: r)
    (h : ¬ (x.join ≠ slotIdx base G.pc ∨ (G.sup = true ∧ G.split.length ≤ G.tdepth))) :
    G.joinAt base = if x.target ≠ slotIdx base G.pc then
        { G with split := ⟨slotIdx base G.pc, slotIdx base G.pc, G.mask⟩ :: r, mask := x.mask, pc := slotAddr base x.target }
      else { G with split := r, mask := G.mask ||| x.mask } := by
  rw [not_or, not_not] at h
  have hgo : (G.noEntry || x.join != slotIdx base G.pc) = false := by
    cases hsup : G.sup <;> simp_all [Group.noEntry]
  simp only [Group.joinAt, hs, hgo, Bool.false_eq_true, if_false, bne_iff_ne]

/-- EXIT with lanes left goes on without those that exit. -/
theorem Group.exitLanes_of_left {G : Group} (base : DWord) {gone : Word} (h : G.mask &&& ~~~gone ≠ 0) :
    G.exitLanes base gone = { G.adv with mask := G.mask &&& ~~~gone } := if_pos (bne_iff_ne.2 h)

/-- EXIT of the last lanes pops the table, and ends the group where it is empty. -/
theorem Group.exitLanes_of_none {G : Group} (base : DWord) {gone : Word} (h : G.mask &&& ~~~gone = 0) :
    G.exitLanes base gone = match G.split with
      | [] => { G with mask := 0, st := .ended }
      | x :: r => { G with split := r, mask := x.mask, pc := slotAddr base x.target } := if_neg (by simpa using h)

/-! ### BRA, BRX, JOIN and EXIT (R96 to R99) -/

section
variable {s : State} {u g : Nat} {U : Unit} {G : Group} (hr : Runs s u g U G) (h : Hd)
include hr

/-- R96: BRA changes its group by `Group.bra`. -/
theorem Runs.exec_bra (join : BitVec 16) (off : Word) : exec (.bra h join off) s = .next (s.modGroup u g fun H =>
    (H.done h s.clock).bra (s.textBase U G) (maskOf (activeLanes (s.env U G) G.regs h)) (branchTo G.pc off.toInt)
      (branchTo G.pc join.toInt)) := hr.issue_of_clear (.nil ..) _

/-- R97: JOIN changes its group by `Group.joinAt`. -/
theorem Runs.exec_join : exec (.join h) s = .next (s.modGroup u g fun H => (H.done h s.clock).joinAt (s.textBase U G)) :=
  hr.issue_of_clear (.nil ..) _

/-- R99: EXIT changes its group by `Group.exitLanes`, and may complete a barrier. -/
theorem Runs.exec_exit : exec (.exit h) s = .next ((s.modGroup u g fun H =>
    (H.done h s.clock).exitLanes (s.textBase U G) (maskOf (activeLanes (s.env U G) G.regs h))).barCheck u) :=
  hr.issue_of_clear (.nil ..) _

/-- R98: BRX with slot indices in range changes its group by `Group.brx`. -/
theorem Runs.exec_brx (a : Opnd) (join : Word) (hc : Clear s u g U [(a, 1)])
    (hin : ∀ l ∈ activeLanes (s.env U G) G.regs h, rd32 (s.env U G) G.regs a l < 65536)
    (hact : activeLanes (s.env U G) G.regs h ≠ []) :
    exec (.brx h a join) s = .next (s.modGroup u g fun H => (H.done h s.clock).brx (s.textBase U G) (branchTo G.pc join.toInt)
      (brxSets (s.env U G).lanes (((List.range (s.env U G).lanes).filter fun l => (s.env U G).mask.getLsbD l).map fun l =>
        (l, if (activeLanes (s.env U G) G.regs h).contains l then rd32 (s.env U G) G.regs a l
          else (slotIdx (s.textBase U G) (G.pc + 12)).toNat)))) := by
  have hbad : (activeLanes (s.env U G) G.regs h).filter (fun l => 65536 ≤ rd32 (s.env U G) G.regs a l) = [] :=
    List.filter_eq_nil_iff.2 fun l hl => by simpa using hin l hl
  refine (hr.issue_of_clear hc _).trans ?_
  simp only [hbad]

end

/-- R96 to R99, each by what it does to its group. -/
theorem branchesComplete : Statements.BranchesComplete := by
  intro s u g U G h hr e base act J
  have hmask : (G.done h s.clock).mask = G.mask := rfl
  refine ⟨fun join off => ?bra, fun a join hc hin hact => hr.exec_brx h a join hc hin hact, ?join, ?exit⟩
  case bra =>
    intro target
    rw [hr.exec_bra]
    split
    · next h0 => exact congrArg _ (State.modGroup_congr hr.2 (Group.bra_of_none _ _ _ _ h0))
    · next h0 =>
      split
      · next h1 => exact congrArg _ (State.modGroup_congr hr.2 (Group.bra_of_all _ _ _ _ h0 (hmask ▸ h1)))
      · next h1 => exact congrArg _ (State.modGroup_congr hr.2 (Group.bra_of_some _ _ _ _ h0 (hmask ▸ h1)))
  case join =>
    rw [hr.exec_join]
    refine congrArg _ (State.modGroup_congr hr.2 ?_)
    dsimp only
    split
    · next hs => exact Group.joinAt_of_nil _ hs
    · next x r hs =>
      split
      · next hj => exact Group.joinAt_of_other hs hj
      · next hj => exact Group.joinAt_of_entry hs hj
  case exit =>
    rw [hr.exec_exit]
    refine congrArg (fun t : State => Host.Outcome.next (t.barCheck u)) (State.modGroup_congr hr.2 ?_)
    dsimp only
    split
    · next hl => exact Group.exitLanes_of_left _ hl
    · next hl => exact Group.exitLanes_of_none _ (not_not.1 hl)

/-! ### Calls, loops, barriers and waits (R100 to R105) -/

/-- R100 to R105: each instruction has its own effect on its group; a call's link and a barrier's arrival come first. -/
theorem controlFlowAndWaitsComplete : Statements.ControlFlowAndWaitsComplete := by
  intro s u g U G h hr e r
  have harrives (hb : U.barArr.contains g = false) (hq : s.quiet u g = true) : ¬ (U.barArr.contains g || !s.quiet u g) = true := by
    rw [hb, hq]; decide
  refine ⟨fun d a off => ?call, fun x => ?ret, fun d off hc => ?loop, fun hb hq => ⟨?sync, ?arrive⟩, ?yield, ?nop,
    fun x hc l ls hact => ?sleep, fun hq => ?gsync⟩
  case call =>
    intro link
    have hlink : link = s.modGroup u g fun H => H.putRegs (H.regs.putAddr d.idx.toNat (H.pc + 12).toNat) :=
      State.modGroup_congr hr.2 rfl
    rw [hlink]
    exact ⟨hr.issue_of_clear (.nil ..) _, hr.issue_of_clear (.nil ..) _⟩
  case ret => exact hr.issue_of_clear (.nil ..) _
  case loop =>
    intro n
    refine (hr.issue_of_clear hc _).trans ?_
    simp only [beq_iff_eq]
    rfl
  case sync => exact (hr.issue_of_clear (.nil ..) _).trans (if_neg (harrives hb hq))
  case arrive => exact (hr.issue_of_clear (.nil ..) _).trans (if_neg (harrives hb hq))
  case yield => exact hr.issue_of_clear (.nil ..) _
  case nop => exact hr.issue_of_clear (.nil ..) _
  case sleep => exact (hr.issue_of_clear hc _).trans (by simp only [show activeLanes (s.env U G) G.regs h = l :: ls from hact]; rfl)
  case gsync => exact (hr.issue_of_clear (.nil ..) _).trans (if_pos hq)

/-- Settles O18, by its two families of instructions. -/
theorem controlFlowCompletes : Obligations.ControlFlowCompletes := ⟨branchesComplete, controlFlowAndWaitsComplete⟩

end Sys2Proof.Machine
end

section
/-! PROOFS. Traps that are not delivered (R200, R420, R425): posting a record leaves launches, time and groups, a barrier check leaves
every group that does not wait at the barrier, and the launch is marked once. -/

namespace Sys2Proof.Machine

open Sys2Proof

/-! ### Posting a record (R420) -/

@[simp] theorem State.raiseInt_launches (s : State) (k : Nat) : (s.raiseInt k).launches = s.launches := by
  rw [State.raiseInt_eq]

@[simp] theorem State.raiseInt_clock (s : State) (k : Nat) : (s.raiseInt k).clock = s.clock := by
  rw [State.raiseInt_eq]

@[simp] theorem State.raiseInt_units (s : State) (k : Nat) : (s.raiseInt k).units = s.units := by
  rw [State.raiseInt_eq]

/-- Putting a record into a ring leaves launches, time, and units but for the slots they have fetched. -/
theorem State.ringPut_frame (s : State) (die : Nat) (bs : List Byte) : (s.ringPut die bs).launches = s.launches ∧
    (s.ringPut die bs).clock = s.clock ∧ (s.ringPut die bs).units.map Unit.noSlots = s.units.map Unit.noSlots := by
  simp only [State.ringPut, State.raiseInt_launches, State.raiseInt_clock, State.raiseInt_units,
    State.ownWrite_launches, State.ownWrite_clock, State.ownPut, State.ownWrite_units, and_self]

/-- A posted record takes the die's next SEQ; launches and time are left, and units but for the slots they have fetched. -/
theorem State.post_of_room {s : State} {die : Nat} (r : FaultRec) (a : FaultAgent) (h : s.fqRoom die = true) :
    ∃ s1, s.post die r a = some (s1, spGet 0 s.seqs die) ∧ s1.launches = s.launches ∧ s1.clock = s.clock ∧
      s1.units.map Unit.noSlots = s.units.map Unit.noSlots :=
  ⟨_, if_pos h, s.ringPut_frame die (r.bytes (spGet 0 s.seqs die))⟩

/-- While the queue is full nothing is posted. -/
theorem State.post_of_full {s : State} {die : Nat} (r : FaultRec) (a : FaultAgent) (h : s.fqRoom die = false) :
    s.post die r a = none := if_neg (by simp [h])

/-- States whose units differ in fetched slots alone have the same groups but for those slots. -/
theorem State.group?_of_noSlots {s t : State} {u g : Nat} {U : Unit} {G : Group}
    (h : t.units.map Unit.noSlots = s.units.map Unit.noSlots) (hg : s.group? u g = some (U, G)) :
    ∃ V H, t.group? u g = some (V, H) ∧ { H with fbuf := [] } = { G with fbuf := [] } := by
  obtain ⟨hU, hG⟩ := State.group?_unit hg
  have hu : t.units[u]?.map Unit.noSlots = some U.noSlots := by
    rw [← List.getElem?_map, h, List.getElem?_map, hU, Option.map_some]
  obtain ⟨V, hV, hVU⟩ := Option.map_eq_some_iff.1 hu
  have hgr : V.groups[g]?.map (fun G => { G with fbuf := [] }) = some { G with fbuf := [] } := by
    have hmap := congrArg Unit.groups hVU
    simp only [Unit.noSlots] at hmap
    rw [← List.getElem?_map, hmap, List.getElem?_map, hG, Option.map_some]
  obtain ⟨H, hH, hHG⟩ := Option.map_eq_some_iff.1 hgr
  exact ⟨V, H, by simp [State.group?, hV, hH], hHG⟩

/-! ### The barrier's check (R102) -/

/-- A group that waits at the unit barrier goes on. -/
def Group.pastBarrier (G : Group) : Group := if G.st == .waiting .barSync then { G.adv with st := .ready } else G

/-- The barrier of a unit is complete. -/
def Unit.barDone (U : Unit) : Unit := { U with barArr := [], groups := U.groups.map Group.pastBarrier }

/-- A barrier's check does nothing, or completes the barrier and acquires. -/
theorem State.barCheck_cases (s : State) (u : Nat) :
    s.barCheck u = s ∨ ∃ core, s.barCheck u = (s.modUnit u Unit.barDone).acqFence core := by
  unfold State.barCheck
  split
  · exact .inl rfl
  · split
    · exact .inr ⟨_, rfl⟩
    · exact .inl rfl

@[simp] theorem State.barCheck_launches (s : State) (u : Nat) : (s.barCheck u).launches = s.launches := by
  obtain h | ⟨core, h⟩ := s.barCheck_cases u
  · rw [h]
  · rw [h]; rfl

@[simp] theorem State.barCheck_clock (s : State) (u : Nat) : (s.barCheck u).clock = s.clock := by
  obtain h | ⟨core, h⟩ := s.barCheck_cases u
  · rw [h]
  · rw [h]; rfl

@[simp] theorem State.acqFence_group? (s : State) (core u g : Nat) : (s.acqFence core).group? u g = s.group? u g := rfl

/-- A group after a barrier's check: it is left, or it waited at the barrier and goes on. -/
theorem State.barCheck_group? {s : State} {u g : Nat} {U : Unit} {G : Group} (v : Nat) (hg : s.group? u g = some (U, G)) :
    ∃ V H, (s.barCheck v).group? u g = some (V, H) ∧ (H = G ∨ H = G.pastBarrier) := by
  obtain ⟨hU, hG⟩ := State.group?_unit hg
  obtain h | ⟨core, h⟩ := s.barCheck_cases v
  · exact ⟨U, G, by rw [h, hg], .inl rfl⟩
  · rw [h, State.acqFence_group?]
    by_cases hv : u = v
    · subst hv
      exact ⟨U.barDone, G.pastBarrier, by simp [State.group?, State.modUnit_getElem?, hU, Unit.barDone, hG], .inr rfl⟩
    · exact ⟨U, G, by simp [State.group?, State.modUnit_getElem?, hv, hU, hG], .inl rfl⟩

/-- A group that does not wait at the barrier is left by its check. -/
theorem Group.pastBarrier_of_ne {G : Group} (h : G.st ≠ .waiting .barSync) : G.pastBarrier = G := if_neg (mt beq_iff_eq.1 h)

/-! ### A trap in supervisor state (R200, R425) -/

/-- A trap in supervisor or service state is not delivered. -/
theorem State.takeTrap_of_privileged {s : State} {u g : Nat} {U : Unit} {G : Group} {t : Trap} (hg : s.group? u g = some (U, G))
    (hc : t.cause ≠ 0x0A) (hp : (G.sup || U.svc) = true) : s.takeTrap u g t = s.trapFail u g U t := by
  simp only [State.takeTrap, hg, beq_iff_eq, if_neg hc, if_pos hp]

/-- A group ends, and a barrier that the others have reached is complete. -/
def State.endGroup (s : State) (u g : Nat) : State := (s.modGroup u g fun G => { G with st := .ended }).barCheck u

@[simp] theorem State.endGroup_launches (s : State) (u g : Nat) : (s.endGroup u g).launches = s.launches := State.barCheck_launches ..

@[simp] theorem State.endGroup_clock (s : State) (u g : Nat) : (s.endGroup u g).clock = s.clock := State.barCheck_clock ..

/-- The group that ends is left but for its state. -/
theorem State.endGroup_group? {s : State} {u g : Nat} {U : Unit} {G : Group} (hg : s.group? u g = some (U, G)) :
    ∃ V, (s.endGroup u g).group? u g = some (V, { G with st := .ended }) := by
  obtain ⟨V, H, hH, hend⟩ := State.barCheck_group? u (State.modGroup_group?_same (fun H => { H with st := .ended }) hg)
  rw [Group.pastBarrier_of_ne (by exact GroupSt.noConfusion), or_self] at hend
  exact ⟨V, by rw [State.endGroup, hH, hend]⟩

/-- A trap that is not delivered, by what its post answers. The definition is unfolded before it is applied: of an applied one the kernel
would evaluate the post. -/
theorem State.trapFail_eq (s : State) (u g : Nat) (U : Unit) (t : Trap) : s.trapFail u g U t =
    (s.post (dieOf U.core) (trapRecord U g t 3) (.group u g)).elim (s.modGroup u g fun H => { H with st := .stalled }) fun p =>
      if U.svc then p.1.endGroup u g else (p.1.endGroup u g).groupFails U.launch p.2 := by
  have hdef : @State.trapFail = @State.trapFail := rfl
  conv at hdef => rhs; delta State.trapFail
  rw [hdef]
  beta_reduce
  generalize s.post (dieOf U.core) (trapRecord U g t 3) (.group u g) = posted
  cases posted <;> rfl

/-- Where the record is posted, the group ends, and the launch of a unit is marked. -/
theorem State.trapFail_of_posted {s s1 : State} {u g seq : Nat} {U : Unit} {t : Trap}
    (hp : s.post (dieOf U.core) (trapRecord U g t 3) (.group u g) = some (s1, seq)) :
    s.trapFail u g U t = if U.svc then s1.endGroup u g else (s1.endGroup u g).groupFails U.launch seq := by
  rw [State.trapFail_eq, hp, Option.elim_some]

/-- While the queue is full the group stalls. -/
theorem State.trapFail_of_full {s : State} {u g : Nat} {U : Unit} {t : Trap}
    (hp : s.post (dieOf U.core) (trapRecord U g t 3) (.group u g) = none) :
    s.trapFail u g U t = s.modGroup u g fun H => { H with st := .stalled } := by
  rw [State.trapFail_eq, hp, Option.elim_none]

/-- A look at a launch sees the launches alone. -/
theorem State.launch?_congr {s t : State} (h : t.launches = s.launches) (id : DWord) : t.launch? id = s.launch? id := by
  simp only [State.launch?, h]

/-- A change of a launch that keeps its name and leaves it open is what a look at the launch finds. -/
theorem State.modLaunch_launch? {s : State} {id : DWord} {f : Launch → Launch} {L : Launch} (h : s.launch? id = some L)
    (hid : ∀ l, (f l).id = l.id) (hdone : ∀ l, (f l).done = l.done) : (s.modLaunch id f).launch? id = some (f L) := by
  have hp : (fun l : Launch => l.id == id && !l.done) ∘ (fun l => if l.id == id && !l.done then f l else l) =
      fun l => l.id == id && !l.done := by
    funext l
    simp only [Function.comp]
    split <;> simp_all
  have hL := List.find?_some h
  simp only [State.launch?] at h
  simp only [State.launch?, State.modLaunch, List.find?_map, hp, h, Option.map_some, hL, if_true]

/-- The launch a group has failed is marked: with the first record, and from this cycle where it had not stopped. -/
theorem State.groupFails_launch? {s : State} {id : DWord} {L : Launch} (seq : Nat) (h : s.launch? id = some L) :
    (s.groupFails id seq).launch? id = some { L with
      faulted := L.faulted <|> some (6, seq % 65536)
      failing := if L.stopped then L.failing else some s.clock } :=
  State.modLaunch_launch? h (fun _ => rfl) fun _ => rfl

@[simp] theorem State.groupFails_group? (s : State) (id : DWord) (seq u g : Nat) : (s.groupFails id seq).group? u g = s.group? u g := rfl

/-- Settles O33: the record is posted, the group ends, and the launch is marked; a barrier's check changes none of the three. -/
theorem trapInSupervisorStateEndsTheLaunch : Obligations.TrapInSupervisorStateEndsTheLaunch := by
  intro s u g U G t L hg hc hsup hsvc hL hf
  rw [State.takeTrap_of_privileged hg hc (by rw [hsup]; rfl)]
  refine ⟨fun hfull => State.trapFail_of_full (State.post_of_full _ _ hfull), fun hroom => ?_⟩
  intro seq
  obtain ⟨s1, hpost, hlaunches, hclock, hunits⟩ := State.post_of_room (trapRecord U g t 3) (.group u g) hroom
  rw [State.trapFail_of_posted hpost, if_neg (by rw [hsvc]; decide)]
  refine ⟨⟨s1, hpost, rfl⟩, ?launch, ?group⟩
  case launch =>
    have hL1 : (s1.endGroup u g).launch? U.launch = some L :=
      (State.launch?_congr (by rw [State.endGroup_launches, hlaunches]) _).trans hL
    refine ⟨_, State.groupFails_launch? seq hL1, by rw [hf]; rfl, fun hs => ?_⟩
    simp only [hs, State.endGroup_clock, hclock, Bool.false_eq_true, if_false]
  case group =>
    obtain ⟨V, H, hH, -⟩ := State.group?_of_noSlots hunits hg
    obtain ⟨W, hW⟩ := State.endGroup_group? hH
    exact ⟨W, _, hW, rfl⟩

end Sys2Proof.Machine
end

section
/-! PROOFS. Divergence (R95, R254): whatever a branch, a join or an exit does, the lane sets of the split table stay disjoint from one
another and from the active mask. -/

namespace Sys2Proof.Machine

open Sys2Proof

/-! ### Sets of lanes as words -/

/-- Two sets of lanes share none. -/
theorem and_eq_zero_iff {a b : Word} : a &&& b = 0 ↔ ∀ i, a.getLsbD i = true → b.getLsbD i = false := by
  constructor
  · intro h i ha
    have hi := congrArg (fun x : Word => x.getLsbD i) h
    simpa [ha] using hi
  · intro h
    refine BitVec.eq_of_getLsbD_eq fun i _ => ?_
    cases ha : a.getLsbD i
    · simp [ha]
    · simp [ha, h i ha]

theorem and_eq_zero_comm {a b : Word} (h : a &&& b = 0) : b &&& a = 0 := by rwa [BitVec.and_comm]

/-- Lanes of a set that is disjoint from another are disjoint from it. -/
theorem and_eq_zero_of_subset {a b c : Word} (h : b &&& c = 0) (hab : ∀ i, a.getLsbD i = true → b.getLsbD i = true) : a &&& c = 0 :=
  and_eq_zero_iff.2 fun i ha => and_eq_zero_iff.1 h i (hab i ha)

/-- A mask holds the lanes of its list. -/
theorem getLsbD_maskOf (ls : List Nat) (i : Nat) : (maskOf ls).getLsbD i = (decide (i < 32) && decide (i ∈ ls)) := by
  induction ls with
  | nil => simp [maskOf]
  | cons l ls ih =>
    rw [maskOf, BitVec.getLsbD_or, ih, BitVec.getLsbD_ofNat, Nat.testBit_two_pow]
    simp only [List.mem_cons, Bool.decide_or, Bool.and_or_distrib_left, @eq_comm _ i l]

/-- Lists that share no lane have disjoint masks. -/
theorem maskOf_and_maskOf {xs ys : List Nat} (h : List.Disjoint xs ys) : maskOf xs &&& maskOf ys = 0 := by
  refine and_eq_zero_iff.2 fun i hi => ?_
  rw [getLsbD_maskOf, Bool.and_eq_true, decide_eq_true_eq, decide_eq_true_eq] at hi
  rw [getLsbD_maskOf, decide_eq_false (h hi.2), Bool.and_false]

/-- Lanes of a set, as a mask, are lanes of the set. -/
theorem maskOf_subset {ls : List Nat} {m : Word} (h : ∀ l ∈ ls, m.getLsbD l = true) (i : Nat) (hi : (maskOf ls).getLsbD i = true) :
    m.getLsbD i = true := by
  rw [getLsbD_maskOf, Bool.and_eq_true, decide_eq_true_eq, decide_eq_true_eq] at hi
  exact h i hi.2

/-! ### Lane sets that are cut, swapped or merged -/

section
variable {m x : Word} {r : List Word}

/-- Lanes of the first set may go, or be fewer. -/
theorem disjoint_of_subset {a : Word} (h : (m :: r).Pairwise (fun a b => a &&& b = 0))
    (ha : ∀ i, a.getLsbD i = true → m.getLsbD i = true) : (a :: r).Pairwise (fun a b => a &&& b = 0) :=
  let ⟨hm, hr⟩ := List.pairwise_cons.1 h
  List.pairwise_cons.2 ⟨fun y hy => and_eq_zero_of_subset (hm y hy) ha, hr⟩

/-- The first set may be parted in two. -/
theorem disjoint_of_parted {t : Word} (h : (m :: r).Pairwise (fun a b => a &&& b = 0))
    (ht : ∀ i, t.getLsbD i = true → m.getLsbD i = true) : ((m &&& ~~~t) :: t :: r).Pairwise (fun a b => a &&& b = 0) := by
  have hrest : ((m &&& ~~~t) :: r).Pairwise (fun a b => a &&& b = 0) := disjoint_of_subset h fun i hi => by
    simp only [BitVec.getLsbD_and, Bool.and_eq_true] at hi
    exact hi.1
  have hmt : (m &&& ~~~t) &&& t = 0 := by rw [BitVec.and_assoc, BitVec.and_comm (~~~t)]; simp
  refine List.pairwise_cons.2 ⟨fun y hy => ?_, disjoint_of_subset h ht⟩
  obtain rfl | hy := List.mem_cons.1 hy
  · exact hmt
  · exact (List.pairwise_cons.1 hrest).1 y hy

/-- The first two sets may be swapped. -/
theorem disjoint_of_swapped (h : (m :: x :: r).Pairwise (fun a b => a &&& b = 0)) :
    (x :: m :: r).Pairwise (fun a b => a &&& b = 0) :=
  (List.Perm.swap x m r).pairwise h fun hab => and_eq_zero_comm hab

/-- The first two sets may be merged. -/
theorem disjoint_of_merged (h : (m :: x :: r).Pairwise (fun a b => a &&& b = 0)) :
    ((m ||| x) :: r).Pairwise (fun a b => a &&& b = 0) := by
  obtain ⟨hm, hxr⟩ := List.pairwise_cons.1 h
  obtain ⟨hx, hr⟩ := List.pairwise_cons.1 hxr
  refine List.pairwise_cons.2 ⟨fun y hy => and_eq_zero_iff.2 fun i hi => ?_, hr⟩
  rw [BitVec.getLsbD_or, Bool.or_eq_true] at hi
  exact hi.elim (and_eq_zero_iff.1 (hm y (List.mem_cons_of_mem _ hy)) i) (and_eq_zero_iff.1 (hx y hy) i)

end

/-! ### The sets of BRX (R98) -/

/-- Every set of lanes has its lanes from the list. -/
theorem mem_of_mem_brxSets {n : Nat} {xs : List (Nat × Nat)} {y : Nat × List Nat} (h : y ∈ brxSets n xs) :
    ∀ l ∈ y.2, l ∈ xs.map (·.1) := by
  induction n generalizing xs with
  | zero => cases h
  | succ n ih =>
    match xs with
    | [] => cases h
    | (l, t) :: r =>
      rw [brxSets] at h
      obtain rfl | h := List.mem_cons.1 h
      · exact List.cons_subset_cons _ (List.map_subset _ (List.filter_subset_self _))
      · exact fun k hk => List.mem_cons_of_mem _ (List.map_subset _ (List.filter_subset_self _) (ih h k hk))

/-- Lanes that go to different slots are in different sets. -/
theorem brxSets_pairwise {n : Nat} {xs : List (Nat × Nat)} (h : (xs.map (·.1)).Nodup) :
    (brxSets n xs).Pairwise fun a b => List.Disjoint a.2 b.2 := by
  induction n generalizing xs with
  | zero => exact .nil
  | succ n ih =>
    match xs with
    | [] => exact .nil
    | (l, t) :: r =>
      rw [brxSets]
      obtain ⟨hl, hr⟩ := List.nodup_cons.1 h
      refine List.pairwise_cons.2 ⟨fun y hy k hk hky => ?_, ih (hr.sublist (List.filter_sublist.map _))⟩
      obtain ⟨b, hb, hbk⟩ := List.mem_map.1 (mem_of_mem_brxSets hy k hky)
      obtain ⟨hbr, hbt⟩ := List.mem_filter.1 hb
      obtain rfl | hk := List.mem_cons.1 hk
      · exact hl (List.mem_map.2 ⟨b, hbr, hbk⟩)
      · obtain ⟨a, ha, hak⟩ := List.mem_map.1 hk
        obtain ⟨har, hat⟩ := List.mem_filter.1 ha
        obtain rfl : a = b := List.inj_on_of_nodup_map hr har hbr (hak.trans hbk.symm)
        simp_all

/-- The group's lane sets after BRX are those it was parted into, and those that wait. -/
theorem Group.brx_laneSets (G : Group) (base join : DWord) {sets : List (Nat × List Nat)} (h : sets ≠ []) :
    (G.brx base join sets).laneSets = sets.map (fun y => maskOf y.2) ++ G.split.map (·.mask) := by
  match sets with
  | [] => exact absurd rfl h
  | (t, ls) :: rest =>
    have hpush : (rest.foldr (fun y H => H.splitPush (maskOf y.2) (BitVec.ofNat 16 y.1) (slotIdx base join)) G).split.map (·.mask) =
        rest.map (fun y => maskOf y.2) ++ G.split.map (·.mask) := by
      induction rest with
      | nil => rfl
      | cons y rest ih => exact congrArg (maskOf y.2 :: ·) (ih (by simp))
    exact congrArg (maskOf ls :: ·) hpush

/-- BRX parts lanes of the active mask. -/
theorem Group.brx_disjoint {G : Group} (base join : DWord) {n : Nat} {xs : List (Nat × Nat)}
    (h : G.laneSets.Pairwise fun a b => a &&& b = 0) (hx : (xs.map (·.1)).Nodup) (hm : ∀ l ∈ xs.map (·.1), G.mask.getLsbD l = true) :
    (G.brx base join (brxSets n xs)).laneSets.Pairwise fun a b => a &&& b = 0 := by
  by_cases hs : brxSets n xs = []
  · rw [hs]; exact h
  · obtain ⟨hmask, hsplit⟩ := List.pairwise_cons.1 h
    rw [Group.brx_laneSets G base join hs, List.pairwise_append, List.pairwise_map]
    refine ⟨(brxSets_pairwise hx).imp maskOf_and_maskOf, hsplit, fun a ha b hb => ?_⟩
    obtain ⟨y, hy, rfl⟩ := List.mem_map.1 ha
    exact and_eq_zero_of_subset (hmask b hb) (maskOf_subset fun l hl => hm l (mem_of_mem_brxSets hy l hl))

/-! ### The other branches (R96, R97, R99) -/

section
variable {G : Group}

/-- BRA parts the lanes that take it from the others, and loses none. -/
theorem Group.bra_laneSets (base target join : DWord) {taken : Word} (h : G.laneSets.Pairwise fun a b => a &&& b = 0)
    (ht : ∀ i, taken.getLsbD i = true → G.mask.getLsbD i = true) :
    (G.bra base taken target join).laneSets.Pairwise (fun a b => a &&& b = 0) ∧
      (G.bra base taken target join).laneSets.foldl (· ||| ·) 0 = G.laneSets.foldl (· ||| ·) 0 := by
  by_cases h0 : taken = 0
  · rw [Group.bra_of_none _ _ _ _ h0]; exact ⟨h, rfl⟩
  · by_cases h1 : G.mask &&& ~~~taken = 0
    · rw [Group.bra_of_all _ _ _ _ h0 h1]; exact ⟨h, rfl⟩
    · rw [Group.bra_of_some _ _ _ _ h0 h1]
      refine ⟨disjoint_of_parted h ht, ?_⟩
      have hor : (0 ||| (G.mask &&& ~~~taken)) ||| taken = 0 ||| G.mask := by
        refine BitVec.eq_of_getLsbD_eq fun i hi => ?_
        have hti := ht i
        cases hb : taken.getLsbD i <;> simp_all
      simp only [Group.laneSets, List.map_cons, List.foldl_cons, hor]

/-- JOIN swaps or merges the first two sets, or goes on: it loses no lane. -/
theorem Group.joinAt_laneSets (base : DWord) (h : G.laneSets.Pairwise fun a b => a &&& b = 0) :
    (G.joinAt base).laneSets.Pairwise (fun a b => a &&& b = 0) ∧
      (G.joinAt base).laneSets.foldl (· ||| ·) 0 = G.laneSets.foldl (· ||| ·) 0 := by
  match hs : G.split with
  | [] => rw [Group.joinAt_of_nil base hs]; exact ⟨h, rfl⟩
  | x :: r =>
    by_cases hj : x.join ≠ slotIdx base G.pc ∨ (G.sup = true ∧ G.split.length ≤ G.tdepth)
    · rw [Group.joinAt_of_other hs hj]; exact ⟨h, rfl⟩
    · rw [Group.joinAt_of_entry hs hj]
      have hsets : G.laneSets = G.mask :: x.mask :: r.map (·.mask) := by rw [Group.laneSets, hs, List.map_cons]
      rw [hsets] at h ⊢
      split
      · refine ⟨disjoint_of_swapped h, ?_⟩
        simp only [Group.laneSets, List.map_cons, List.foldl_cons, BitVec.or_assoc, BitVec.or_comm x.mask]
      · refine ⟨disjoint_of_merged h, ?_⟩
        simp only [Group.laneSets, List.foldl_cons, BitVec.or_assoc]

/-- EXIT drops lanes, or takes the latest set of the table. -/
theorem Group.exitLanes_laneSets (base : DWord) (gone : Word) (h : G.laneSets.Pairwise fun a b => a &&& b = 0) :
    (G.exitLanes base gone).laneSets.Pairwise (fun a b => a &&& b = 0) := by
  by_cases h1 : G.mask &&& ~~~gone = 0
  · rw [Group.exitLanes_of_none base h1]
    split
    · next hs => simp [Group.laneSets, hs]
    · next x r hs =>
      rw [Group.laneSets, hs] at h
      exact (List.pairwise_cons.1 h).2
  · rw [Group.exitLanes_of_left base h1]
    refine disjoint_of_subset h fun i hi => ?_
    simp only [BitVec.getLsbD_and, Bool.and_eq_true] at hi
    exact hi.1

end

/-! ### The lane sets that stand at a group (R254) -/

/-- The group is there, and its lane sets satisfy a property. -/
def State.laneSetsAt (s : State) (u g : Nat) (P : List Word → Prop) : Prop := ∃ V H, s.group? u g = some (V, H) ∧ P H.laneSets

section
variable {s : State} {u g : Nat} {U : Unit} {G : Group} {P : List Word → Prop}

theorem State.laneSetsAt.of_group? (h : s.laneSetsAt u g P) (hg : s.group? u g = some (U, G)) : P G.laneSets := by
  obtain ⟨V, H, hH, hP⟩ := h
  obtain ⟨rfl, rfl⟩ : V = U ∧ H = G := by simpa using hH.symm.trans hg
  exact hP

theorem State.laneSetsAt_modGroup {f : Group → Group} (hg : s.group? u g = some (U, G)) (h : P (f G).laneSets) :
    (s.modGroup u g f).laneSetsAt u g P :=
  ⟨_, _, State.modGroup_group?_same f hg, h⟩

@[simp] theorem Group.pastBarrier_laneSets (G : Group) : G.pastBarrier.laneSets = G.laneSets := by
  unfold Group.pastBarrier; split <;> rfl

/-- A barrier's check leaves every lane set. -/
theorem State.laneSetsAt.barCheck (h : s.laneSetsAt u g P) (v : Nat) : (s.barCheck v).laneSetsAt u g P := by
  obtain ⟨V, H, hH, hP⟩ := h
  obtain ⟨W, K, hK, rfl | rfl⟩ := State.barCheck_group? v hH
  · exact ⟨W, _, hK, hP⟩
  · exact ⟨W, _, hK, by rwa [Group.pastBarrier_laneSets]⟩

/-- A trap that is not delivered leaves the lane sets. -/
theorem State.trapFail_laneSetsAt (t : Trap) (hg : s.group? u g = some (U, G)) (h : P G.laneSets) :
    (s.trapFail u g U t).laneSetsAt u g P := by
  cases hroom : s.fqRoom (dieOf U.core) with
  | false =>
    rw [State.trapFail_of_full (State.post_of_full _ _ hroom)]
    exact State.laneSetsAt_modGroup hg h
  | true =>
    obtain ⟨s1, hpost, -, -, hunits⟩ := State.post_of_room (trapRecord U g t 3) (.group u g) hroom
    obtain ⟨V, H, hH, hHG⟩ := State.group?_of_noSlots hunits hg
    have hsets : H.laneSets = G.laneSets := (congrArg Group.laneSets hHG :)
    obtain ⟨W, hW⟩ := State.endGroup_group? hH
    rw [State.trapFail_of_posted hpost]
    split
    · exact ⟨W, _, hW, hsets ▸ h⟩
    · exact ⟨W, _, (State.groupFails_group? ..).trans hW, hsets ▸ h⟩

/-- A trap that no walk raised leaves the split table, and the active mask or the lanes that raised it. -/
theorem State.takeTrap_laneSetsAt {t : Trap} (hg : s.group? u g = some (U, G)) (hc : t.cause ≠ 0x0A) (hw : t.walk = none)
    (h : P G.laneSets) (ht : P (t.mask :: G.split.map (·.mask))) : (s.takeTrap u g t).laneSetsAt u g P := by
  cases hp : G.sup || U.svc with
  | true =>
    rw [State.takeTrap_of_privileged hg hc hp]
    exact State.trapFail_laneSetsAt t hg h
  | false =>
    have htrap : s.takeTrap u g t = if s.handler U.ctx == 0 then s.trapFail u g U t
        else s.modGroup u g fun H => H.enter U g t (s.handler U.ctx) s.clock := by
      simp only [State.takeTrap, hg, beq_iff_eq, if_neg hc, hp, hw, Option.isSome_none, Bool.false_eq_true, if_false]
    rw [htrap]
    split
    · exact State.trapFail_laneSetsAt t hg h
    · exact State.laneSetsAt_modGroup hg ht

end

/-! ### What each branch leaves (R95) -/

@[simp] theorem State.env_mask (s : State) (U : Unit) (G : Group) : (s.env U G).mask = G.mask := by
  unfold State.env; split <;> rfl

/-- Active lanes are lanes of the active mask. -/
theorem mask_of_mem_activeLanes {s : State} {U : Unit} {G : Group} {h : Hd} {l : Nat}
    (hl : l ∈ activeLanes (s.env U G) G.regs h) : G.mask.getLsbD l = true := by
  have hact := (List.mem_filter.1 hl).2
  rw [Bool.and_eq_true, State.env_mask] at hact
  exact hact.1

/-- An instruction of the group traps for its operands, stalls, or has its own effect. -/
theorem Runs.issue_next {s t : State} {u g : Nat} {U : Unit} {G : Group} {xs : Uses} {k : Nat → Nat → Unit → Group → Out}
    (hr : Runs s u g U G) (h : issue xs s k = .next t) :
    t = s.takeTrap u g (groupTrap G 2 G.pc.toNat) ∨ t = s.stall u g ∨ k u g U G = .next t := by
  obtain ⟨u', g', U', G', hcur, hgrp, hcases⟩ := issueEnv_next h
  obtain ⟨rfl, rfl⟩ : u = u' ∧ g = g' := by simpa using hr.1.symm.trans hcur
  obtain ⟨rfl, rfl⟩ : U = U' ∧ G = G' := by simpa using hr.2.symm.trans hgrp
  obtain ⟨c, hc, -⟩ | ⟨-, -, ht⟩ | ⟨-, -, -, ht⟩ | ⟨-, -, -, hk⟩ := hcases
  · cases hc
  · exact .inl ht
  · exact .inr (.inl ht)
  · exact .inr (.inr hk)

section
variable {s t : State} {u g : Nat} {U : Unit} {G : Group} (hr : Runs s u g U G) {h : Hd}
  (hd : G.laneSets.Pairwise fun a b => a &&& b = 0)
include hr hd

theorem Runs.bra_laneSetsAt {join : BitVec 16} {off : Word} (ht : exec (.bra h join off) s = .next t) : t.laneSetsAt u g fun ls =>
    ls.Pairwise (fun a b => a &&& b = 0) ∧ ls.foldl (· ||| ·) 0 = G.laneSets.foldl (· ||| ·) 0 := by
  rw [hr.exec_bra] at ht
  cases ht
  exact State.laneSetsAt_modGroup hr.2 (Group.bra_laneSets (G := G.done h s.clock) _ _ _ hd
    (maskOf_subset fun l hl => mask_of_mem_activeLanes hl))

theorem Runs.join_laneSetsAt (ht : exec (.join h) s = .next t) : t.laneSetsAt u g fun ls =>
    ls.Pairwise (fun a b => a &&& b = 0) ∧ ls.foldl (· ||| ·) 0 = G.laneSets.foldl (· ||| ·) 0 := by
  rw [hr.exec_join] at ht
  cases ht
  exact State.laneSetsAt_modGroup hr.2 (Group.joinAt_laneSets (G := G.done h s.clock) _ hd)

theorem Runs.exit_laneSetsAt (ht : exec (.exit h) s = .next t) :
    t.laneSetsAt u g (List.Pairwise fun a b => a &&& b = 0) := by
  rw [hr.exec_exit] at ht
  cases ht
  exact (State.laneSetsAt_modGroup hr.2 (Group.exitLanes_laneSets (G := G.done h s.clock) _ _ hd)).barCheck u

/-- R98: BRX parts the active lanes, or traps, stalls or goes on. -/
theorem Runs.brx_laneSetsAt {a : Opnd} {join : Word} (ht : exec (.brx h a join) s = .next t) :
    t.laneSetsAt u g (List.Pairwise fun a b => a &&& b = 0) := by
  change execBrx h a join s = .next t at ht
  obtain rfl | rfl | hnext := hr.issue_next ht
  · exact State.takeTrap_laneSetsAt hr.2 (by simp [groupTrap]) rfl hd hd
  · exact State.laneSetsAt_modGroup hr.2 hd
  · dsimp only at hnext
    split at hnext
    · cases hnext
      exact State.laneSetsAt_modGroup hr.2 hd
    · cases hnext
      refine State.takeTrap_laneSetsAt hr.2 (by simp) rfl hd (disjoint_of_subset hd (maskOf_subset fun l hl => ?_))
      exact mask_of_mem_activeLanes (List.mem_filter.1 hl).1
    · cases hnext
      refine State.laneSetsAt_modGroup hr.2 (Group.brx_disjoint (G := G.done h s.clock) _ _ hd ?_ ?_)
      · simpa [Function.comp_def] using (List.nodup_range).filter _
      · intro l hl
        have hlm : l < (s.env U G).lanes ∧ G.mask.getLsbD l = true := by simpa [Function.comp_def] using hl
        exact hlm.2

end

/-- Settles O17: by what each of the four leaves. -/
theorem divergenceKeepsLaneSetsDisjoint : Obligations.DivergenceKeepsLaneSetsDisjoint := by
  intro s t u g U V G H h i hr hi hd ht hg
  obtain ⟨j, o, rfl⟩ | ⟨a, j, rfl⟩ | rfl | rfl := hi
  · obtain ⟨hdis, hor⟩ := (hr.bra_laneSetsAt hd ht).of_group? hg
    exact ⟨hdis, fun _ => hor⟩
  · exact ⟨(hr.brx_laneSetsAt hd ht).of_group? hg, fun hbad => by simp at hbad⟩
  · obtain ⟨hdis, hor⟩ := (hr.join_laneSetsAt hd ht).of_group? hg
    exact ⟨hdis, fun _ => hor⟩
  · exact ⟨(hr.exit_laneSetsAt hd ht).of_group? hg, fun hbad => by simp at hbad⟩

end Sys2Proof.Machine
end

section
/-! PROOFS. The placer's events (R105, R132, R243 to R252, R279, R430, R431): units start, retire, are pre-empted, evicted, saved and
restored, and waits end. -/

namespace Sys2Proof.Machine

open Sys2Proof

/-! ### Starting and retiring (R243, R245, R251, R273) -/

section
variable {s s1 : State} {launch stage hdr : Nat} {cs : List Nat} {L : Launch} (hL : s.launches[launch]? = some L)
  (hwait : s.waiting (.pending launch stage) = true) (hcores : s.coresOk (.pending launch stage) cs = true)
  (hsaved : s.savedFirst (.pending launch stage) cs = false) (hsq : s.squashed (.pending launch stage) = false)
include hL hwait hcores hsaved hsq

/-- A unit of a stage starts. -/
theorem exec_unitStart_of_stage {st : Stage} (hst : L.stages[stage]? = some st) (hh : s.readHeader L st.khdr = .ok (hdr, s1)) :
    exec (.unitStart launch stage cs) s = .next ((s1.startStage L stage st hdr (cs.headD 0)).takeCores cs) := by
  change execUnitStart launch stage cs s = _
  simp only [execUnitStart, hL, hwait, hcores, hsaved, hsq, hst, hh]
  rfl

/-- A cohort of a launch without stages starts. -/
theorem exec_unitStart_of_launch (hst : L.stages[stage]? = none) (hh : s.readHeader L L.khdr = .ok (hdr, s1)) :
    exec (.unitStart launch stage cs) s = .next ((startUnits L hdr (s.startedOf L) cs s1).takeCores cs) := by
  change execUnitStart launch stage cs s = _
  simp only [execUnitStart, hL, hwait, hcores, hsaved, hsq, hst, hh]
  rfl

end

section
variable {s : State} {u : Nat} {U : Unit} (hU : s.units[u]? = some U)
include hU

/-- A cohort that is done retires. -/
theorem exec_unitRetire_of_done (hres : U.st = .resident) (hsvc : U.svc = false)
    (hdone : ∀ v ∈ s.cohortOf u U, ∃ V, s.units[v]? = some V ∧ s.unitDone v V = true ∧ V.saveAt = none) :
    exec (.unitRetire u) s = .next ((s.cohortOf u U).foldl State.retireUnit s) := by
  change execUnitRetire u s = _
  simp only [execUnitRetire, hU]
  refine if_neg ?_
  simp only [hres, hsvc, bne_self_eq_false, Bool.false_or, Bool.not_eq_true', Bool.not_eq_false, List.all_eq_true]
  intro v hv
  obtain ⟨V, hV, hd, hs⟩ := hdone v hv
  simp only [hV, hd, hs]
  rfl

/-! ### Pre-emption (R252, R279) -/

omit hU in
/-- A rule that makes room for a waiter lets the unit go. -/
theorem State.may_of_makesRoom {may : Unit → Bool} {w : Waiter} {V : Unit} {v : Nat} (h : s.makesRoom may w v V = true) :
    may V = true := (Bool.and_eq_true_iff.1 h).1

omit hU in
/-- A unit that alone makes room is one that the rule lets make room. -/
theorem State.makesRoom_of_victimFor {may : Unit → Bool} {w : Waiter} {V : Unit} {v : Nat} (hmay : may V = true)
    (h : s.victimFor w v V = true) : s.makesRoom may w v V = true := by
  rw [State.makesRoom, hmay, h]; rfl

omit hU in
/-- R252: a unit may go that is of no higher priority and has had its time. -/
theorem State.mayRotate_iff {w : Waiter} {V : Unit} :
    s.mayRotate w V = true ↔ s.unitPrio V ≤ s.waiterPrio w ∧ V.since + 2 ^ 22 ≤ s.clock := by
  rw [State.mayRotate, Bool.and_eq_true, decide_eq_true_eq, decide_eq_true_eq]

omit hU in
/-- R279: a unit may go that is tentative, under squash policy 1, and of no higher priority. -/
theorem State.maySquash_iff {w : Waiter} {V : Unit} : s.maySquash w V = true ↔
    V.firm = false ∧ V.promoting = false ∧ (∃ L, s.launchOf V = some L ∧ L.squash = true) ∧ s.unitPrio V ≤ s.waiterPrio w := by
  rw [State.maySquash]
  cases s.launchOf V <;> simp [and_assoc]

/-- The rotation of R252 pre-empts. -/
theorem exec_rotationPreempt_of_due {w : Waiter} (hw : s.waiting w = true) (hp : s.placeable w = false) (hwant : s.wants w = true)
    (hsq : s.squashed w = false) (hdue : s.squashDue = false) (hfirst : ∀ v ∈ s.waiters, s.squashed v = true ∨ s.ahead w v = true)
    (hrot : s.rotates w u U = true) (hlong : ∀ x ∈ s.units.zipIdx, s.rotates w x.2 x.1 = true → U.since ≤ x.1.since) :
    exec (.rotationPreempt u w) s = .next (s.preempt w u U) := by
  have hfirst' : (s.waiters.all fun v => s.squashed v || s.ahead w v) = true :=
    List.all_eq_true.2 fun v hv => Bool.or_eq_true_iff.2 (hfirst v hv)
  have hlong' : (s.units.zipIdx.all fun x => !s.rotates w x.2 x.1 || decide (U.since ≤ x.1.since)) = true := by
    refine List.all_eq_true.2 fun x hx => ?_
    cases hx2 : s.rotates w x.2 x.1
    · rfl
    · exact decide_eq_true (hlong x hx hx2)
  change execRotationPreempt u w s = _
  simp only [execRotationPreempt, hU]
  exact if_pos (by rw [hw, hp, hsq, hdue, hfirst', hrot, hlong', hwant]; rfl)

/-- The squash of R279 pre-empts. -/
theorem exec_squashPreempt_of_due {w : Waiter} (hw : s.waiting w = true) (hp : s.placeable w = false) (hwant : s.wants w = true)
    (hfirm : s.waiterFirm w = true) (hroom : s.makesRoom (s.maySquash w) w u U = true) :
    exec (.squashPreempt u w) s = .next (s.preempt w u U) := by
  change execSquashPreempt u w s = _
  simp only [execSquashPreempt, hU]
  exact congrArg _ (if_pos (by rw [State.squashes, hw, hp, hfirm, hwant, hroom]; rfl))

/-! ### Eviction and save (R248, R267, R430) -/

/-- A unit in load that finds no region is pre-empted. -/
theorem exec_unitEvict_of_seeks {w : Waiter} {s1 : State} (hholds : s.allUnits (s.cohortOf u U) Unit.holds = true)
    (hseeks : U.seeks = true) (hm : markSave true (s.cohortOf u U) s = some s1) : exec (.unitEvict u w) s = .next s1 := by
  change execUnitEvict u w s = _
  simp only [execUnitEvict, hU, hholds, hseeks, hm]
  rfl

/-- A unit whose groups wait is evicted for a waiter. -/
theorem exec_unitEvict_of_waits {w : Waiter} {s1 : State} (hholds : s.allUnits (s.cohortOf u U) Unit.holds = true)
    (hseeks : U.seeks = false) (hev : s.allUnits (s.cohortOf u U) Unit.evictable = true) (hw : s.waiting w = true)
    (hp : s.placeable w = false) (hm : markSave false (s.cohortOf u U) s = some s1) : exec (.unitEvict u w) s = .next s1 := by
  change execUnitEvict u w s = _
  simp only [execUnitEvict, hU, hholds, hseeks, hev, hw, hp, hm]
  rfl

/-- A cohort whose waits are over is saved. -/
theorem exec_unitSave_of_ready {s1 : State} (hsvc : U.svc = false)
    (hready : ∀ v ∈ s.cohortOf u U, ∃ V, s.units[v]? = some V ∧ s.saveReady v V = true)
    (hs : saveAll (s.cohortOf u U) s = some s1) : exec (.unitSave u) s = .next s1 := by
  change execUnitSave u s = _
  simp only [execUnitSave, hU]
  refine (if_neg ?_).trans (by rw [hs]; rfl)
  simp only [hsvc, Bool.false_or, Bool.not_eq_true', Bool.not_eq_false, List.all_eq_true]
  intro v hv
  obtain ⟨V, hV, hr⟩ := hready v hv
  simp only [hV, hr]

/-! ### Restore (R249, R252, R269, R431) -/

/-- A saved unit, alone or with all the saved members of its cohort, is restored onto its cores and regions. -/
theorem exec_unitRestore_of_fits {us cs : List Nat} {row col : Nat} {os : List (Nat × Nat)} {s1 : State}
    (hw : s.waiting (.saved u) = true)
    (hmates : us = [] ∨ u :: us = ((List.range s.units.length).filter fun v => match s.units[v]? with
      | some V => U.mate V && V.st == .saved
      | none => false)) (hneed : (u :: us).length = s.waiterNeed (.saved u)) (hcores : s.coresOk (.saved u) cs = true)
    (hsq : s.squashed (.saved u) = false) (hos : regionsFor ((u :: us).zip cs) (s.seated ((u :: us).zip cs)) = some os)
    (hspat : U.spat = none ∨ os.head? = some (row, col)) (hr : restoreAll (((u :: us).zip cs).zip os) s = some s1) :
    exec (.unitRestore (u :: us) cs row col) s = .next (s1.takeCores cs) := by
  change execUnitRestore (u :: us) cs row col s = _
  simp only [execUnitRestore, List.head?_cons, Option.bind_some, hU]
  refine (if_neg ?_).trans ?_
  · simp only [hw, hneed, hcores, hsq, bne_self_eq_false, Bool.not_true, Bool.false_or, Bool.or_false, Bool.and_eq_true, bne_iff_ne]
    exact fun hne => hmates.elim (fun h => hne.2 (by rw [h])) fun h => hne.1 h
  · simp only [hos, hr]
    refine if_neg fun hbad => ?_
    obtain ⟨hsome, hne⟩ := Bool.and_eq_true_iff.1 hbad
    obtain h | h := hspat
    · rw [h] at hsome; cases hsome
    · exact (bne_iff_ne.1 hne) h

end

/-! ### Waits that end (R105, R132) -/

section
variable {s : State} {u g : Nat} {U : Unit} {G : Group} (hg : s.group? u g = some (U, G))
include hg

/-- A sleep that is over makes the group ready, or its saved unit eligible. -/
theorem exec_sleepExpiry_of_over (hst : G.st = .waiting .sleep) (hc : G.sleepUntil ≤ s.clock) : exec (.sleepExpiry u g) s = .next
    (if U.st = .saved then s.modUnit u fun V => { V with eligible := true }
     else s.modGroup u g fun H => { H with st := .ready, sleepUntil := 0 }) := by
  change execSleepExpiry u g s = _
  simp only [execSleepExpiry, hg]
  rw [if_neg (by simp [hst, hc])]
  simp only [beq_iff_eq]
  split <;> rfl

/-- A WAITC whose time has come is to read again, and its saved unit is eligible. -/
theorem exec_waitcRepoll_of_due (hst : G.st = .waiting .waitc) (h0 : G.sleepUntil ≠ 0) (hc : G.sleepUntil ≤ s.clock) :
    exec (.waitcRepoll u g) s = .next
      ((s.modUnit u fun V => if U.st = .saved then { V with eligible := true } else V).modGroup u g fun H =>
        { H with wcPoll := true, sleepUntil := G.sleepUntil + 1024, wakeBy := s.clock }) := by
  change execWaitcRepoll u g s = _
  simp only [execWaitcRepoll, hg]
  rw [if_pos (by simp [hst, h0, hc])]
  simp only [beq_iff_eq]

end

/-- Settles O49, clause by clause. -/
theorem placementEventsComplete : Obligations.PlacementEventsComplete := by
  refine ⟨fun s s1 launch stage hdr cs L hL hwait hcores hsaved hsq => ?start, fun s u U hU => ?unit, fun s u g U G hg => ?wait⟩
  case start =>
    exact ⟨fun st hst hh => exec_unitStart_of_stage hL hwait hcores hsaved hsq hst hh,
      fun hst hh => exec_unitStart_of_launch hL hwait hcores hsaved hsq hst hh⟩
  case unit =>
    refine ⟨fun hres hsvc hdone => exec_unitRetire_of_done hU hres hsvc hdone, fun w hw hp hwant => ⟨?rotate, ?squash⟩,
      fun w hv => ⟨fun hprio hsince => ?_, fun L hfirm hprom hL hsquash hprio => ?_⟩, fun w hholds => ⟨?seek, ?evict⟩,
      fun s1 hsvc hready hs => exec_unitSave_of_ready hU hsvc hready hs,
      fun us cs row col os s1 hw hmates hneed hcores hsq hos hspat hr =>
        exec_unitRestore_of_fits hU hw hmates hneed hcores hsq hos hspat hr⟩
    case rotate =>
      intro hsq hdue hfirst hrot hlong
      exact ⟨exec_rotationPreempt_of_due hU hw hp hwant hsq hdue hfirst hrot hlong,
        State.mayRotate_iff.1 (State.may_of_makesRoom hrot)⟩
    case squash =>
      intro hfirm hroom
      obtain ⟨htent, hprom, -, hprio⟩ := State.maySquash_iff.1 (State.may_of_makesRoom hroom)
      exact ⟨exec_squashPreempt_of_due hU hw hp hwant hfirm hroom, htent, hprom, hprio⟩
    · exact State.makesRoom_of_victimFor (State.mayRotate_iff.2 ⟨hprio, hsince⟩) hv
    · exact State.makesRoom_of_victimFor (State.maySquash_iff.2 ⟨hfirm, hprom, ⟨L, hL, hsquash⟩, hprio⟩) hv
    case seek => exact fun s1 hseeks hm => exec_unitEvict_of_seeks hU hholds hseeks hm
    case evict => exact fun s1 hseeks hev hw hp hm => exec_unitEvict_of_waits hU hholds hseeks hev hw hp hm
  case wait =>
    exact ⟨fun hst hc => exec_sleepExpiry_of_over hg hst hc, fun hst h0 hc => exec_waitcRepoll_of_due hg hst h0 hc⟩

end Sys2Proof.Machine
end

section
/-! PROOFS. Loads and stores of global memory (R111 to R115, R296, R324). -/

namespace Sys2Proof.Machine

open Sys2Proof

section
variable {s s1 : State} {u g : Nat} {U : Unit} {G : Group} {h : Hd} {m : MemMod} {x : Ops4} {oks : List LaneOk} {l : Nat} {ls : List Nat}

/-- An .sc access that has waited for its own part brings its fence and goes on (R324). -/
theorem State.scTail_of_quiet (h : Hd) (scope : Nat) (hq : s.quiet u g = true) : s.scTail u g U h scope =
    ((s.scFence u g U.core scope).modGroup u g fun H => { H with mid := false }).finish u g h := if_pos hq

/-- R296: a load for whose sectors there is room is served or asks for them. -/
theorem State.loadGo_of_room (s : State) {secs : List SectorReq} :
    let s2 := if m.ord = .sc then (s1.tcCatchUp U.core).scFence u g U.core (scopeCode m.scope) else s1.tcCatchUp U.core
    s2.coreLoads U.core + (secs.filter fun q => s2.sectorMiss u g U q).length ≤ 2048 →
    s2.readRoom (dieOf U.core) (secs.map (·.pa)) = true →
    s.loadGo u g U h m secs s1 = (secs.foldl (fun t q => t.serveSector u g U (ordAcq m.ord) q) s2).finish u g h := by
  intro s2 hn hroom
  simp only [State.loadGo, beq_iff_eq]
  exact if_neg (by simp only [s2] at hn hroom; simp [hroom]; omega)

/-- R114: a load whose lanes all pass. -/
theorem Runs.exec_ld (hr : Runs s u g U G) (hc : Clear s u g U [(x.d, sizeRegs m.size), (x.b, 1)]) (ha : s.acqBlocked u g = false)
    (hsc : m.ord = .sc → s.quiet u g = true)
    (hl : accessLanes (x.d.cls == .scal) (activeLanes (s.env U G) G.regs h) = l :: ls)
    (hp : LanesPass s U G (sizeBytes m.size) .read noExtra (s.eas U G x (offOf x.c) (sizeBytes m.size) (l :: ls)) oks s1) :
    exec (.ld h m x) s = .next (s.loadGo u g U h m (sectorsOf G x.d (sizeBytes m.size) oks) s1) := by
  refine (hr.issue_of_clear hc _).trans ?_
  have hwait : (s.acqBlocked u g || (m.ord == .sc && !s.quiet u g)) = false := by
    rw [ha]
    cases hq : s.quiet u g
    · simpa [hq] using hsc
    · simp
  simp only [hl, hwait]
  exact withLanes_ok hp

/-- R114, R324: a store that has been made and is .sc waits for its own part, then brings its fence. -/
theorem Runs.exec_st_of_mid (hr : Runs s u g U G) (hc : Clear s u g U [(x.d, sizeRegs m.size), (x.b, 1)]) (hm : G.mid = true) :
    exec (.st h m x) s = .next (s.scTail u g U h (scopeCode m.scope)) :=
  (hr.issue_of_clear hc _).trans (if_pos hm)

/-- A store's own wait: for an acquire, and, where it releases, for the group's earlier writes (R319). -/
theorem Runs.exec_st_of_wait (hr : Runs s u g U G) (hc : Clear s u g U [(x.d, sizeRegs m.size), (x.b, 1)]) (hm : G.mid = false)
    (hl : accessLanes (x.d.cls == .scal && x.b.cls == .zero) (activeLanes (s.env U G) G.regs h) = l :: ls)
    (hw : (s.acqBlocked u g || (m.ord != .rlx && !s.quiet u g)) = true) : exec (.st h m x) s = .next (s.stall u g) := by
  refine (hr.issue_of_clear hc _).trans ?_
  simp only [hm, hl, hw]
  rfl

/-- R114, R115, R277: a store whose lanes all pass puts its bytes on their way, unless they have to wait. -/
theorem Runs.exec_st (hr : Runs s u g U G) (hc : Clear s u g U [(x.d, sizeRegs m.size), (x.b, 1)]) (hm : G.mid = false)
    (hl : accessLanes (x.d.cls == .scal && x.b.cls == .zero) (activeLanes (s.env U G) G.regs h) = l :: ls)
    (hw : (s.acqBlocked u g || (m.ord != .rlx && !s.quiet u g)) = false)
    (hp : LanesPass s U G (sizeBytes m.size) .write noExtra (s.eas U G x (offOf x.c) (sizeBytes m.size) (l :: ls)) oks s1) :
    let xs := storeBytes (storeVal (s.env U G) G.regs m.size x.d) (sizeBytes m.size) oks
    let t := s1.putStores u g U (m.ord != .rlx) (s1.writeFloor U G (m.ord != .rlx)) xs
    exec (.st h m x) s = .next (if s1.storesHeld u g U xs then s.stall u g
      else if m.ord = .sc then (t.modGroup u g fun H => { H with mid := true }).stall u g else t.finish u g h) := by
  intro xs t
  refine (hr.issue_of_clear hc _).trans ?_
  simp only [hm, hl, hw]
  refine (withLanes_ok hp).trans ?_
  simp only [beq_iff_eq]
  rw [apply_ite Host.Outcome.next, apply_ite Host.Outcome.next]

/-- R114: a store with no lane that accesses goes on. -/
theorem Runs.exec_st_of_nil (hr : Runs s u g U G) (hc : Clear s u g U [(x.d, sizeRegs m.size), (x.b, 1)]) (hm : G.mid = false)
    (hl : accessLanes (x.d.cls == .scal && x.b.cls == .zero) (activeLanes (s.env U G) G.regs h) = []) :
    exec (.st h m x) s = .next (s.finish u g h) := by
  refine (hr.issue_of_clear hc _).trans ?_
  simp only [hm, hl]
  rfl

end

/-- Settles O21: a load that passes is served, a store that passes is on its way, and an .sc store ends with its fence. -/
theorem loadsAndStoresComplete : Obligations.LoadsAndStoresComplete := by
  intro s s1 u g U G h m x oks hr hc ha hsc n e act
  refine ⟨fun l ls hl hp hn hroom => ?load, fun hm hq l ls hl hp hheld => ?store, fun hm hq => ?tail⟩
  case load => rw [hr.exec_ld hc ha hsc hl hp, State.loadGo_of_room s hn hroom]
  case store =>
    have hw : (s.acqBlocked u g || (m.ord != .rlx && !s.quiet u g)) = false := by
      by_cases ho : m.ord = .rlx
      · simp [ha, ho]
      · simp [ha, hq ho]
    rw [hr.exec_st hc hm hl hw hp, if_neg (by rw [hheld]; decide)]
  case tail => rw [hr.exec_st_of_mid hc hm, State.scTail_of_quiet h _ hq]

end Sys2Proof.Machine
end

section
/-! PROOFS. Global atomics at their issue (R122, R124 to R128, R324, R332). -/

namespace Sys2Proof.Machine

open Sys2Proof

section
variable {s s1 : State} {u g : Nat} {U : Unit} {G : Group} {f : AtomForm} {h : Hd} {m : MemMod} {x : Ops4} {oks : List LaneOk}
  {l : Nat} {ls : List Nat}

/-- Each atomic is the step of its form (R124, R125, R127, R128). -/
theorem exec_of_mem_atomTable {p : Instr × AtomForm} (hp : p ∈ atomTable h m x) (s : State) : exec p.1 s = atomStep p.2 h m x s := by
  obtain rfl | rfl | rfl | rfl : p = _ ∨ p = _ ∨ p = _ ∨ p = _ := by simpa [atomTable] using hp
  all_goals rfl

/-- The room that an atomic's requests need: in the core's queue and return slots, and in the flows (R332, R442). -/
def State.atomRoom (s s1 : State) (U : Unit) (f : AtomForm) (oks : List LaneOk) : Prop :=
  s.sendQueue U.core + oks.length ≤ 256 ∧ (f.returns = true → oks.length ≤ (s.slotsFree U.core).length) ∧
    s1.flowsRoom (dieOf U.core) 1 (oks.map fun o => s1.routeOf U.ctx o.ea o.pa) = true

/-- R324: an .sc atomic whose replies are in brings its fence. -/
theorem Runs.atomStep_of_mid (hr : Runs s u g U G) (hc : Clear s u g U f.uses) (hm : G.mid = true) :
    atomStep f h m x s = .next (s.scTail u g U h (scopeCode m.scope)) :=
  (hr.issue_of_clear hc _).trans (if_pos hm)

/-- R122, R332: an atomic that need not wait, whose lanes pass and find room, sends a request for each of them. -/
theorem Runs.atomStep_of_room (hr : Runs s u g U G) (hc : Clear s u g U f.uses) (hm : G.mid = false) (hfirm : U.firm = true)
    (ha : s.acqBlocked u g = false) (hq : atomRel f m.ord = true ∨ m.ord = .sc → s.quiet u g = true)
    (hl : accessLanes (!f.returns && x.d.cls == .scal && x.b.cls == .zero) (activeLanes (s.env U G) G.regs h) = l :: ls)
    (hp : LanesPass s U G (sizeBytes m.size) .rmw (atomExtra f) (s.eas U G x f.off (sizeBytes m.size) (l :: ls)) oks s1)
    (hx : f.kind = .atomx → s.atomxReady f.code m.size = true) (hroom : s.atomRoom s1 U f oks) :
    let s2 := if m.ord = .sc then (s1.tcCatchUp U.core).scFence u g U.core (scopeCode m.scope) else s1
    let t := sendReqs u g U G f m x.d (atomOps f (s.env U G) G.regs m x.d) (s2.writeFloor U G (atomRel f m.ord))
      (s2.slotsFree U.core) oks s2
    atomStep f h m x s = .next (if m.ord = .sc then (t.modGroup u g fun H => { H with mid := true }).stall u g
      else t.finish u g h) := by
  obtain ⟨hqueue, hslots, hflows⟩ := hroom
  intro s2 t
  have hwait : (!U.firm || s.acqBlocked u g || ((atomRel f m.ord || m.ord == .sc) && !s.quiet u g)) = false := by
    rw [hfirm, ha]
    cases hquiet : s.quiet u g
    · simpa [hquiet] using hq
    · simp
  have hfw : (f.kind == .atomx && !s.atomxReady f.code m.size) = false := by
    by_cases hk : f.kind = .atomx
    · simp [hx hk]
    · simp [hk]
  have hfull : (decide (256 < s.sendQueue U.core + oks.length) ||
      (f.returns && decide ((s.slotsFree U.core).length < oks.length)) ||
      !s1.flowsRoom (dieOf U.core) 1 (oks.map fun o => s1.routeOf U.ctx o.ea o.pa)) = false := by
    rw [hflows]
    simp only [Bool.not_true, Bool.or_false, Bool.or_eq_false_iff, Bool.and_eq_false_imp, decide_eq_false_iff_not, not_lt]
    exact ⟨hqueue, hslots⟩
  refine (hr.issue_of_clear hc _).trans ?_
  simp only [hm, hl, hwait]
  refine (withLanes_ok hp).trans ?_
  simp only [hfw, hfull, beq_iff_eq]
  rw [apply_ite Host.Outcome.next]
  rfl

end

/-- Settles O25: each of the four is the step of its form, which goes on after its fence or sends its requests. -/
theorem globalAtomicsComplete : Obligations.GlobalAtomicsComplete := by
  intro s s1 u g U G h m x oks l ls hr p hp hc
  rw [exec_of_mem_atomTable hp]
  refine ⟨fun hm hq => ?_, fun hm hfirm ha hq hl hpass hx hqueue hslots hflows => ?_⟩
  · rw [hr.atomStep_of_mid hc hm, State.scTail_of_quiet h _ hq]
  · exact hr.atomStep_of_room hc hm hfirm ha hq hl hpass hx ⟨hqueue, hslots, hflows⟩

end Sys2Proof.Machine
end

section
/-! PROOFS. Barrier objects as data (R141, R144): what an arrival does to one, and that one written to the scratchpad reads back. -/

namespace Sys2Proof.Machine

open Sys2Proof

/-! ### Numbers as bytes (R9) -/

@[simp] theorem length_toBytesLE (n x : Nat) : (toBytesLE n x).length = n := by
  induction n generalizing x with
  | zero => rfl
  | succ n ih => exact congrArg (· + 1) (ih (x / 256))

/-- The low `n` bytes of a number give it back modulo 256^n. -/
theorem ofBytesLE_toBytesLE (n x : Nat) : ofBytesLE (toBytesLE n x) = x % 256 ^ n := by
  induction n generalizing x with
  | zero => simp [toBytesLE, ofBytesLE, Nat.mod_one]
  | succ n ih =>
    have hbyte : (BitVec.ofNat 8 (x % 256)).toNat = x % 256 := by simp
    rw [toBytesLE, ofBytesLE, ih, hbyte, Nat.pow_succ', Nat.mod_mul]

/-- A number that fits its bytes reads back. -/
theorem ofBytesLE_toBytesLE_of_lt {n x : Nat} (h : x < 256 ^ n) : ofBytesLE (toBytesLE n x) = x := by
  rw [ofBytesLE_toBytesLE, Nat.mod_eq_of_lt h]

/-! ### The scratchpad after a write (R291) -/

section
variable {U : Unit} {off : Nat} {bs : List Byte}

theorem Unit.spOk_spadPut (off : Nat) (bs : List Byte) (h : spOk 0 U.spad = true) : spOk 0 (U.spadPut off bs).spad = true :=
  spOk_spSetList off bs h

/-- A byte outside the written range stands. -/
theorem Unit.spadPut_spad_of_outside (h : spOk 0 U.spad = true) {a : Nat} (ha : a < off ∨ off + bs.length ≤ a) :
    spGet 0 (U.spadPut off bs).spad a = spGet 0 U.spad a :=
  (spGet_spSetList off bs h a).trans (dif_neg (by omega))

/-- A number outside the written range stands. -/
theorem Unit.spadNat_spadPut_of_outside (h : spOk 0 U.spad = true) {a n : Nat} (ha : a + n ≤ off ∨ off + bs.length ≤ a) :
    (U.spadPut off bs).spadNat a n = U.spadNat a n := by
  refine congrArg ofBytesLE (List.map_congr_left fun i hi => Unit.spadPut_spad_of_outside h ?_)
  have := List.mem_range.1 hi
  omega

/-- A number among the written bytes reads back. -/
theorem Unit.spadNat_spadPut (h : spOk 0 U.spad = true) {pre post : List Byte} {n x : Nat}
    (hbs : bs = pre ++ (toBytesLE n x ++ post)) (hx : x < 256 ^ n) {a : Nat} (ha : a = off + pre.length) :
    (U.spadPut off bs).spadNat a n = x := by
  subst hbs ha
  refine (congrArg ofBytesLE (List.ext_getElem (by simp [spGetList]) fun i hi _ => ?_)).trans (ofBytesLE_toBytesLE_of_lt hx)
  have hn : i < n := by simpa [spGetList] using hi
  simp only [spGetList, List.getElem_map, List.getElem_range, Unit.spadPut, spGet_spSetList off _ h]
  rw [dif_pos ⟨by omega, by simp; omega⟩]
  simp only [show off + pre.length + i - off = pre.length + i by omega]
  rw [List.getElem_append_right (by omega), List.getElem_append_left (by simp; omega)]
  simp

end

/-! ### What an arrival does (R141) -/

/-- The phase advances where no arrival is pending and the bytes balance. -/
theorem BarObj.test_of_done {b : BarObj} (h : b.pend = 0 ∧ b.bal = 0) :
    b.test = { b with phase := (b.phase + 1) % 2 ^ 32, pend := b.count } := if_pos h

theorem BarObj.test_of_not_done {b : BarObj} (h : ¬ (b.pend = 0 ∧ b.bal = 0)) : b.test = b := if_neg h

@[simp] theorem BarObj.test_count (b : BarObj) : b.test.count = b.count := by unfold BarObj.test; split <;> rfl

/-- The arrival is the last of the phase. -/
def BarObj.lastArrival (b : BarObj) (n : Nat) : Prop := b.pend ≤ 1 ∧ b.bal = n

section
variable {b : BarObj} {n : Nat} (hb : b.bal < 2 ^ 32) (hn : n < 2 ^ 32)
include hb hn

/-- After an arrival nothing is pending and the bytes balance just where it was the last. -/
theorem BarObj.done_iff_lastArrival : b.pend - 1 = 0 ∧ (b.bal + 2 ^ 32 - n % 2 ^ 32) % 2 ^ 32 = 0 ↔ b.lastArrival n := by
  unfold BarObj.lastArrival
  omega

theorem BarObj.arrive_of_last (h : b.lastArrival n) :
    (b.arrive n).phase = (b.phase + 1) % 2 ^ 32 ∧ (b.arrive n).pend = b.count ∧ (b.arrive n).bal = 0 := by
  have hdone := (BarObj.done_iff_lastArrival hb hn).2 h
  rw [BarObj.arrive, BarObj.test_of_done hdone]
  exact ⟨rfl, rfl, hdone.2⟩

theorem BarObj.arrive_of_not_last (h : ¬ b.lastArrival n) :
    (b.arrive n).phase = b.phase ∧ (b.arrive n).pend = b.pend - 1 ∧ ((b.arrive n).bal + n) % 2 ^ 32 = b.bal := by
  rw [BarObj.arrive, BarObj.test_of_not_done (mt (BarObj.done_iff_lastArrival hb hn).1 h)]
  refine ⟨rfl, rfl, ?_⟩
  dsimp only
  omega

end

/-! ### An object in the scratchpad (R141, R144) -/

/-- The fields of an object fit their places. -/
def BarObj.Fits (b : BarObj) : Prop := b.phase < 2 ^ 32 ∧ b.count < 2 ^ 16 ∧ b.pend < 2 ^ 16 ∧ b.bal < 2 ^ 32

/-- An object written reads back. -/
theorem Unit.barObj_putBar {U : Unit} {b : BarObj} (off : Nat) (hU : spOk 0 U.spad = true) (hb : b.Fits) :
    (U.putBar off b).barObj off = b := by
  obtain ⟨hphase, hcount, hpend, hbal⟩ := hb
  obtain ⟨phase, count, pend, bal⟩ := b
  have h4 : (2 : Nat) ^ 32 = 256 ^ 4 := by decide
  have h2 : (2 : Nat) ^ 16 = 256 ^ 2 := by decide
  simp only [Unit.barObj, Unit.putBar, BarObj.mk.injEq]
  refine ⟨Unit.spadNat_spadPut hU (pre := []) (post := toBytesLE 2 count ++ toBytesLE 2 pend ++ toBytesLE 4 bal) (by simp)
      (h4 ▸ hphase) rfl,
    Unit.spadNat_spadPut hU (pre := toBytesLE 4 phase) (post := toBytesLE 2 pend ++ toBytesLE 4 bal) (by simp)
      (h2 ▸ hcount) (by simp),
    Unit.spadNat_spadPut hU (pre := toBytesLE 4 phase ++ toBytesLE 2 count) (post := toBytesLE 4 bal) (by simp)
      (h2 ▸ hpend) (by simp),
    Unit.spadNat_spadPut hU (pre := toBytesLE 4 phase ++ toBytesLE 2 count ++ toBytesLE 2 pend) (post := []) (by simp)
      (h4 ▸ hbal) (by simp)⟩

/-- A byte outside the object's 12 stands, its reserved bits among them. -/
theorem Unit.putBar_spad_of_outside {U : Unit} {off a : Nat} (b : BarObj) (hU : spOk 0 U.spad = true) (ha : a < off ∨ off + 12 ≤ a) :
    spGet 0 (U.putBar off b).spad a = spGet 0 U.spad a :=
  Unit.spadPut_spad_of_outside hU (by simpa using ha)

section
variable {U : Unit} {off b : Nat} (hU : spOk 0 U.spad = true)
include hU

/-- A new object starts with all its arrivals pending. -/
theorem Unit.barObj_initBar (hb : b < 2 ^ 16) : (U.initBar off b).barObj off = ⟨0, b, b, 0⟩ := by
  have hput := Unit.barObj_putBar off hU (b := ⟨0, b, b, 0⟩) ⟨Nat.two_pow_pos 32, hb, hb, Nat.two_pow_pos 32⟩
  have hok : spOk 0 (U.putBar off ⟨0, b, b, 0⟩).spad = true := Unit.spOk_spadPut off _ hU
  rw [← hput]
  simp only [Unit.initBar, Unit.barObj, BarObj.mk.injEq]
  exact ⟨Unit.spadNat_spadPut_of_outside hok (by omega), Unit.spadNat_spadPut_of_outside hok (by omega),
    Unit.spadNat_spadPut_of_outside hok (by omega), Unit.spadNat_spadPut_of_outside hok (by omega)⟩

/-- The reserved bits of a new object are clear. -/
theorem Unit.initBar_reserved : (U.initBar off b).spadNat (off + 12) 4 = 0 :=
  Unit.spadNat_spadPut (Unit.spOk_spadPut off _ hU) (pre := []) (post := []) (by simp) (by decide) rfl

theorem Unit.initBar_spad_of_outside {a : Nat} (ha : a < off ∨ off + 16 ≤ a) :
    spGet 0 (U.initBar off b).spad a = spGet 0 U.spad a :=
  (Unit.spadPut_spad_of_outside (Unit.spOk_spadPut off _ hU) (by simp; omega)).trans
    (Unit.putBar_spad_of_outside _ hU (by omega))

end

/-- Settles O27: the arrival by whether it is the last of its phase, the object and BINIT's by the scratchpad's laws. -/
theorem barrierObjectLaws : Obligations.BarrierObjectLaws := by
  refine ⟨fun b n hb hn => ⟨BarObj.arrive_of_last hb hn, BarObj.arrive_of_not_last hb hn, BarObj.test_count _⟩,
    fun U off b hU hphase hcount hpend hbal => ?object, fun U off b hU hb => ?init⟩
  case object =>
    exact ⟨Unit.barObj_putBar off hU ⟨hphase, hcount, hpend, hbal⟩, fun _ ha => Unit.putBar_spad_of_outside b hU ha⟩
  case init => exact ⟨Unit.barObj_initBar hU hb, Unit.initBar_reserved hU, fun _ ha => Unit.initBar_spad_of_outside hU ha⟩

end Sys2Proof.Machine
end

section
/-! PROOFS. Group-wide instructions on uniform operands (R18, R136): barrier objects (R141 to R145), batches (R147 to R149) and the
tile-cache queries (R155, R156). -/

namespace Sys2Proof.Machine

open Sys2Proof

/-- A group-wide instruction that may act has its own effect. -/
theorem Acts.uniformStep_runs {s : State} {u g : Nat} {U : Unit} {G : Group} {h : Hd} {xs : Uses} {l : Nat}
    (ha : Acts s u g U G h xs l) (k : Nat → Nat → Unit → Group → Nat → Out) : uniformStep h xs s k = k u g U G l := by
  obtain ⟨hr, hc, hacq, ls, hact⟩ := ha
  refine (hr.issue_of_clear hc _).trans ?_
  simp only [hact, hacq]
  rfl

/-! ### Barrier objects (R143 to R145) -/

/-- A place for an object is aligned and lies in the scratchpad. -/
theorem Unit.barFail_init_of_fits {U : Unit} {off : Nat} (h16 : off % 16 = 0) (hfit : off + 16 ≤ U.spadSize) :
    U.barFail off true = none := by
  rw [Unit.barFail, if_neg (by simp [h16]), if_neg (by omega)]
  rfl

section
variable {s : State} {u g : Nat} {U : Unit} {G : Group} {h : Hd} {x : Ops4} {l : Nat} (ha : Acts s u g U G h [(x.b, 1)] l)
  (hok : U.barFail (groupEa G.regs x.a x.c) false = none) {d : Nat}
  (hd : tokenDist (U.barObj (groupEa G.regs x.a x.c)).phase (rd32 (s.env U G) G.regs x.b l) = d) (hpast : d ≤ 2 ^ 31)
include ha hok hd hpast

/-- R143, R145: a wait for a phase that has passed goes on, and acquires what it carries. -/
theorem Acts.exec_bwait (hne : d ≠ 0) :
    exec (.bwait h x) s = .next ((s.barAcquire u (groupEa G.regs x.a x.c) U.core).finish u g h) := by
  refine (ha.uniformStep_runs _).trans ?_
  simp only [hok, hd]
  rw [if_neg hne, if_neg (by omega)]

/-- R143, R145: a test tells whether the phase has passed, and then acquires what it carries. -/
theorem Acts.exec_btest : exec (.btest h x) s = .next (((if d = 0 then s else
    s.barAcquire u (groupEa G.regs x.a x.c) U.core).putPredD u g h x.d U.lanes (decide (d ≠ 0))).finish u g h) := by
  refine (ha.uniformStep_runs _).trans ?_
  simp only [hok, hd]
  rw [if_neg (by omega)]

end

/-- R141, R143 to R145: each instruction, on an object that may be used. -/
theorem barrierObjectsComplete : Statements.BarrierObjectsComplete := by
  intro s u g U G h x l
  refine ⟨fun ha h16 hfit h1 h2 => ?init, fun ha hok => ⟨?expect, fun hpos hpast => ⟨?wait, ?test⟩, fun hd => ?current⟩,
    fun ext v o ha hfirm hq ht => ?arrive⟩
  case init =>
    refine (ha.uniformStep_runs _).trans ?_
    simp only [Unit.barFail_init_of_fits h16 hfit]
    exact if_neg (by omega)
  case expect =>
    refine (ha.uniformStep_runs _).trans ?_
    simp only [hok]
  case wait => exact ha.exec_bwait hok rfl hpast (Nat.ne_of_gt hpos)
  case test =>
    have hne := Nat.ne_of_gt hpos
    rw [ha.exec_btest hok rfl hpast, if_neg hne, decide_eq_true hne]
  case current =>
    rw [ha.exec_btest hok hd (Nat.zero_le _)]
    rfl
  case arrive =>
    have hwait : ¬ (ext && !U.firm || !s.quiet u g) = true := by
      rw [hq]
      cases ext
      · simp
      · simp [hfirm]
    refine (ha.uniformStep_runs _).trans ?_
    simp only [ht]
    exact if_neg hwait

/-! ### Batches (R147 to R149) -/

section
variable {G : Group} {live : List Word}

/-- A SEAL that has made no ninth batch goes on where its batch is empty or fewer than eight others are incomplete (R148). -/
theorem Group.sealWaits_of_room (hc : ∀ t, G.claim ≠ some (.batch, t))
    (h : live.contains G.openB = false ∨ (G.sealed.filter live.contains).length < 8) : G.sealWaits live = false := by
  unfold Group.sealWaits
  split
  · next t _ _ hclaim _ => exact absurd hclaim (hc t)
  · obtain h | h := h
    · rw [h]; rfl
    · rw [decide_eq_false (by omega), Bool.and_false]

/-- One that has made it goes on where the oldest of them is complete (R148). -/
theorem Group.sealWaits_of_oldest {t : Nat} {n : Word} {r : List Word} (hc : G.claim = some (.batch, t)) (hs : G.sealed = n :: r)
    (hn : live.contains n = false) : G.sealWaits live = false := by
  simp only [Group.sealWaits, hc, hs, hn]

end

/-- R147 to R149, R155, R156: each instruction. -/
theorem batchAndTileCacheQueriesComplete : Statements.BatchAndTileCacheQueriesComplete := by
  intro s u g U G h x l
  refine ⟨fun ha hroom => ?sealed, fun ha => ⟨fun hdone => ?past, fun hb hpos hpast hops => ?waitb⟩,
    fun t tile hkey => ⟨fun ha => ?look, fun ha hwait => ?pref⟩⟩
  case sealed =>
    have hgo : G.sealWaits (s.openOps u g U) = false := by
      obtain ⟨hc, hr⟩ | ⟨t, n, r, hc, hs, hn⟩ := hroom
      · exact Group.sealWaits_of_room hc hr
      · exact Group.sealWaits_of_oldest hc hs hn
    exact (ha.uniformStep_runs _).trans (if_neg (by rw [hgo]; decide))
  case past => exact (ha.uniformStep_runs _).trans (if_pos hdone)
  case waitb =>
    refine (ha.uniformStep_runs _).trans ((if_neg (by omega)).trans ((if_neg (by omega)).trans (if_neg fun hany => ?_)))
    obtain ⟨n, hn, hle⟩ := List.any_eq_true.1 hany
    exact absurd (hops n hn) (not_lt.2 (of_decide_eq_true hle))
  case look =>
    refine (ha.uniformStep_runs _).trans ?_
    simp only [hkey]
  case pref =>
    refine (ha.uniformStep_runs _).trans ?_
    simp only [hkey]
    refine if_neg fun hany => ?_
    obtain ⟨k, hk, hw⟩ := List.any_eq_true.1 hany
    rw [hwait k hk] at hw
    cases hw

/-- Settles O28, by its two families of instructions. -/
theorem barrierAndTileCacheInstructionsComplete : Obligations.BarrierAndTileCacheInstructionsComplete :=
  ⟨barrierObjectsComplete, batchAndTileCacheQueriesComplete⟩

end Sys2Proof.Machine
end

section
/-! PROOFS. Copies (R136 to R139, R142, R150 to R158, R173): the checks pass, and the command joins the unit's queue or arrives at once. -/

namespace Sys2Proof.Machine

open Sys2Proof

section
variable {s : State} {u g : Nat} {U : Unit} {G : Group} {h : Hd}

/-! ### Checks and the queue -/

/-- No check of a list fails where none of its conditions holds. -/
theorem firstFail_eq_none {xs : List (Bool × Nat × Nat)} (hx : ∀ y ∈ xs, y.1 = false) : firstFail xs = none := by
  induction xs with
  | nil => rfl
  | cons y ys ih =>
    obtain ⟨bad, c, va⟩ := y
    obtain ⟨hy, hys⟩ := List.forall_mem_cons.1 hx
    rw [firstFail, if_neg (by rw [show bad = false from hy]; decide)]
    exact ih hys

/-- R144, R150: a barrier operand that may be used raises nothing. -/
theorem BarOk.barOpndFail {bar : Option Nat} (hb : BarOk U bar) : U.barOpndFail bar = none := by
  cases bar with
  | none => rfl
  | some off => rw [Unit.barOpndFail, hb off rfl]; rfl

/-- A copy whose checks pass goes on. -/
theorem State.copyChecks_pass {xs : List (Bool × Nat × Nat)} {bar : Option Nat} (k : Out) (hx : ∀ y ∈ xs, y.1 = false)
    (hb : BarOk U bar) : s.copyChecks u g U G xs bar k = k := by
  simp only [State.copyChecks, firstFail_eq_none hx, hb.barOpndFail]

/-- No barrier operand may be used. -/
theorem BarOk.none (U : Unit) : BarOk U .none := fun _ h => nomatch h

/-- A command without a scratchpad range fits wherever the queue has room (R136, R139). -/
theorem CmdFits.of_noRange {c : Cmd} (hq : U.copyq.length < 64) (hc : c.sb = .none) : CmdFits U g G c :=
  ⟨hq, by rw [hc]; rfl, by rw [hc]; rfl⟩

/-- A command that fits joins the queue, unless it is one that may arrive at once (R136, R139, R150). -/
theorem State.postCmd_of_fits (s : State) (h : Hd) {c : Cmd} (hf : CmdFits U g G c) (now : Bool) :
    s.postCmd u g U G h c now = .next (if now then s.copied u g U h c else s.queued u g h c) := by
  obtain ⟨hqueue, hconflict, hfull⟩ := hf
  rw [State.postCmd, if_neg (by rw [hconflict]; simp [hqueue]), if_neg (by rw [hfull]; decide)]
  cases now
  · rfl
  · simp only [State.copied, Bool.true_and, Bool.and_eq_true, beq_iff_eq, Option.isNone_iff_eq_none, if_true]
    split <;> rfl

/-- A copy that may act, whose checks pass and whose command fits, becomes that command. -/
theorem State.copyChecks_post {xs : List (Bool × Nat × Nat)} {bar : Option Nat} {c : Cmd} (now : Bool) (hx : ∀ y ∈ xs, y.1 = false)
    (hb : BarOk U bar) (hf : CmdFits U g G c) : s.copyChecks u g U G xs bar (s.postCmd u g U G h c now) =
      .next (if now then s.copied u g U h c else s.queued u g h c) :=
  (State.copyChecks_pass _ hx hb).trans (s.postCmd_of_fits h hf now)

end

/-! ### Each copy (R150 to R158, R173) -/

section
variable {s : State} {u g : Nat} {U : Unit} {G : Group} {h : Hd} {m : CopyMod} {x : Ops4} {l : Nat}

/-- R158: TCINV and TCWB of a firm unit, on a tensor that is registered or on all of them. -/
theorem Acts.tensorCmd_runs {kind : CmdKind} (ha : Acts s u g U G h [(x.a, 1), (x.c, 1)] l)
    (hb : BarOk U (barOpnd (s.env U G) G.regs x.c l)) (hfirm : U.firm = true)
    (hid : rd32 (s.env U G) G.regs x.a l < 2 ^ 24)
    (ht : rd32 (s.env U G) G.regs x.a l ≠ 0 → (s.tensor? U.ctx (rd32 (s.env U G) G.regs x.a l)).isSome = true)
    (hq : U.copyq.length < 64) : tensorCmd kind h m x s = .next (s.queued u g h
      { newCmd s g G m kind u 0 (barOpnd (s.env U G) G.regs x.c l) with
        src := BitVec.ofNat 64 (rd32 (s.env U G) G.regs x.a l) }) := by
  refine (ha.uniformStep_runs _).trans ((if_neg (by rw [hfirm]; decide)).trans (State.copyChecks_post false ?_ hb (.of_noRange hq rfl)))
  have hreg : (decide (rd32 (s.env U G) G.regs x.a l ≠ 0) && (s.tensor? U.ctx (rd32 (s.env U G) G.regs x.a l)).isNone) = false := by
    by_cases h0 : rd32 (s.env U G) G.regs x.a l = 0
    · simp [h0]
    · obtain ⟨t, he⟩ := Option.isSome_iff_exists.1 (ht h0)
      simp [he]
  simpa using ⟨hid, by simpa using hreg⟩

end

/-- Settles O29: each copy's conditions are those of its checks. -/
theorem copyInstructionsComplete : Obligations.CopyInstructionsComplete := by
  intro s u g U G h m x l
  refine ⟨fun ha hb hdst hsrc hlen hmax hfit hf => ?cpy, fun ha hb hdst hsrc hlen hmax hfit hsub hf => ?cpys,
    fun v boff ha hdst hsrc hlen hmax hfit hsub hwin hf => ?cpysx,
    fun t tile hkey => ⟨fun ha hb hdst hmax hfit hf => ?cpyt, fun ha hb h0 h1 hesize hdst hfit hf => ?tchalo⟩,
    fun ha hb hdst hsrcs hfit hf => ?cpyg, fun ha hb hfirm hid ht hq => ⟨?tcinv, ?tcwb⟩,
    fun ha hb hsrc hlen hlen0 hmax hroom hlive hq => ?slabld⟩
  case cpy =>
    exact (ha.uniformStep_runs _).trans (State.copyChecks_post true (by simp [hdst, hsrc, hlen, hmax, hfit]) hb hf)
  case cpys =>
    refine (ha.uniformStep_runs _).trans ((if_pos (by simp [hsub])).trans ?_)
    exact State.copyChecks_post true (by simp [hdst, hsrc, hlen, hmax, hfit]) hb hf
  case cpysx =>
    refine (ha.uniformStep_runs _).trans ((if_neg (by simpa using hsub)).trans ?_)
    refine (State.copyChecks_pass _ (by simp [hdst, hsrc, hlen, hmax, hfit]) (.none U)).trans ?_
    simp only [hwin]
    exact s.postCmd_of_fits h hf true
  case cpyt =>
    refine (ha.uniformStep_runs _).trans ?_
    simp only [hkey]
    exact State.copyChecks_post true (by simp [hdst, hmax, hfit]) hb hf
  case tchalo =>
    refine (ha.uniformStep_runs _).trans ?_
    have hbits : ∀ b, bitsAt b 0 8 = b % 256 ∧ bitsAt b 8 8 = b / 256 % 256 := fun b => by simp [bitsAt]
    simp only [hkey, hbits]
    refine State.copyChecks_post true ?_ hb hf
    have hcontains : [1, 2, 4, 8].contains t.esize = true := by simpa using hesize
    simp only [List.forall_mem_cons, hcontains]
    simp [h0, h1, hdst, hfit]
  case cpyg =>
    refine (ha.uniformStep_runs _).trans (State.copyChecks_post true ?_ hb hf)
    simp only [List.cons_append, List.forall_mem_cons, List.forall_mem_append, List.forall_mem_map]
    exact ⟨by simp [hdst], fun y hy => by simpa using hsrcs _ (List.mem_map_of_mem hy), by simpa using hfit, by simp⟩
  case tcinv => exact ha.tensorCmd_runs hb hfirm hid ht hq
  case tcwb => exact ha.tensorCmd_runs hb hfirm hid ht hq
  case slabld =>
    refine (ha.uniformStep_runs _).trans ((State.copyChecks_pass _ (by simp [hsrc, hlen, hlen0, hmax]) hb).trans ?_)
    refine (if_neg ?_).trans ((if_neg (by omega)).trans (State.postCmd_of_fits _ h (.of_noRange hq rfl) false))
    simp [hlive, hroom]

end Sys2Proof.Machine
end

section
/-! PROOFS. Scratchpad, window, constant banks and accumulator tiles (R113 to R119, R129, R293). -/

namespace Sys2Proof.Machine

open Sys2Proof

section
variable {s : State} {u g : Nat} {U : Unit} {G : Group} {h : Hd} {m : MemMod} {x : Ops4} {oks : List PadLane} {l : Nat} {ls : List Nat}

/-! ### Lanes of an access (R116, R117) -/

/-- Where every lane passes, the access is made. -/
theorem PadPasses.withPad_runs {win : Bool} {n : Nat} {eas : List (Nat × Nat)} (hp : PadPasses s u U win n eas oks)
    (k : List PadLane → Out) : withPad s u g U G win n eas k = k oks := by
  rw [withPad, show splitLanes (eas.map fun y => s.padLane u U win n y.1 y.2) = (oks, []) from hp]

/-- R116, R117: a load whose lanes all pass and that no copy in flight holds back. -/
theorem Runs.padLoad_runs {win : Bool} (hr : Runs s u g U G) (hc : Clear s u g U [(x.d, sizeRegs m.size), (x.b, 1)])
    (hl : accessLanes (x.d.cls == .scal) (activeLanes (s.env U G) G.regs h) = l :: ls)
    (hready : s.padReady u g false (m.ord == .sc) = true)
    (hp : PadPasses s u U win (sizeBytes m.size) (s.eas U G x (offOf x.c) (sizeBytes m.size) (l :: ls)) oks)
    (hbusy : ∀ o ∈ oks, o.unit = u → U.dstBusy o.off (sizeBytes m.size) = false) :
    padLoad win h m x s = .next ((((s.padFence u g U (m.ord == .sc) m.scope).padRead U.core (ordAcq m.ord) (oks.map (·.unit))).modGroup u g
      fun H => H.putRegs (H.regs.write x.d (m.size == .b64) (oks.map fun o => (o.lane, s.spadNat o.unit o.off (sizeBytes m.size))))).finish
        u g h) := by
  have hfree : ¬ (oks.any fun o => o.unit == u && U.dstBusy o.off (sizeBytes m.size)) = true := by
    simpa [List.any_eq_true] using hbusy
  refine (hr.issue_of_clear hc _).trans ?_
  simp only [hl, hready]
  exact (hp.withPad_runs _).trans (if_neg hfree)

/-- R116, R117: a store whose lanes all pass and that no copy in flight holds back. -/
theorem Runs.padStore_runs {win : Bool} (hr : Runs s u g U G) (hc : Clear s u g U [(x.d, sizeRegs m.size), (x.b, 1)])
    (hl : accessLanes (x.d.cls == .scal && x.b.cls == .zero) (activeLanes (s.env U G) G.regs h) = l :: ls)
    (hready : s.padReady u g (m.ord != .rlx) (m.ord == .sc) = true) (hfirm : win = true → U.firm = true)
    (hp : PadPasses s u U win (sizeBytes m.size) (s.eas U G x (offOf x.c) (sizeBytes m.size) (l :: ls)) oks)
    (hbusy : ∀ o ∈ oks, o.unit = u → U.dstBusy o.off (sizeBytes m.size) = false ∧ U.srcBusy o.off (sizeBytes m.size) = false) :
    padStore win h m x s = .next ((((putPad (sizeBytes m.size) (storeVal (s.env U G) G.regs m.size x.d) oks
      (s.padWrote U G (m.ord != .rlx) (oks.map (·.unit)))).tailMoved u U).padFence u g U (m.ord == .sc) m.scope).finish u g h) := by
  have hwait : (win && !U.firm || !s.padReady u g (m.ord != .rlx) (m.ord == .sc)) = false := by
    rw [hready]
    cases win
    · rfl
    · rw [hfirm rfl]; rfl
  have hfree : ¬ (oks.any fun o => o.unit == u && (U.dstBusy o.off (sizeBytes m.size) || U.srcBusy o.off (sizeBytes m.size))) = true := by
    simpa [List.any_eq_true] using hbusy
  refine (hr.issue_of_clear hc _).trans ?_
  simp only [hl, hwait]
  exact (hp.withPad_runs _).trans (if_neg hfree)

/-- R118: a lane whose address lies in its bank, aligned, reads. -/
theorem ldcFail_of_fits {n : Nat} {y : Nat × Int} (h : y.2 % (n : Int) = 0 ∧ 0 ≤ y.2 ∧ y.2 < 1024) : ldcFail n y = none := by
  obtain ⟨halign, hlo, hhi⟩ := h
  rw [ldcFail, if_neg (by simpa using halign), if_neg (by omega)]

/-- R114, R116 to R118, R293: loads, stores and constant loads. -/
theorem scratchpadAndConstantAccessesComplete : Statements.ScratchpadAndConstantAccessesComplete := by
  intro s u g U G h m x oks hr hc
  refine ⟨fun win l ls hl hready hp hbusy => ?load, fun win l ls hl hready hfirm hp hbusy => ?store, fun hfits => ?bank⟩
  case load => cases win <;> exact hr.padLoad_runs hc hl hready hp hbusy
  case store => cases win <;> exact hr.padStore_runs hc hl hready hfirm hp hbusy
  case bank =>
    refine (hr.issue_of_clear hc _).trans ?_
    simp only [List.filterMap_eq_nil_iff.2 fun y hy => ldcFail_of_fits (hfits y hy)]

/-! ### Tiles and scratchpad atomics (R119, R129) -/

/-- R119: an LDM or STM whose rows fit, with no task on its tile before it and no copy in flight on its range. -/
theorem Runs.tileMove_runs {wr : Bool} {busy : Unit → Nat → Nat → Bool} {act : Unit → Nat → Nat → Nat → Nat → Nat → Unit}
    (hr : Runs s u g U G) (hc : Clear s u g U [(x.d, 1), (x.b, 1)]) (hl : activeLanes (s.env U G) G.regs h = l :: ls)
    {n base row rows t : Nat} (hn : sizeBytes m.size = n) (hbase : groupEa G.regs x.a x.c = base)
    (hrow : rd32 (s.env U G) G.regs x.b l % 32 = row) (hrows : rd32 (s.env U G) G.regs x.b l / 32 % 32 + 1 = rows)
    (ht : x.d.idx.toNat = t) (halign : base % 16 = 0) (hfit : row + rows ≤ 32) (hend : base + 256 * rows * n ≤ U.spadSize)
    (ha : s.acqBlocked u g = false)
    (htask : ∀ y ∈ s.tasks, y.unit = u → y.dst = t → y.st.live = true → ∃ a b, G.tileFrom = some (a, b) ∧ b ≤ y.seq)
    (hbusy : busy U base (256 * rows * n) = false) :
    tileMove wr busy act h m x s = .next ((((s.padWrote U G false (if wr then [u] else [])).tcRaise U.core U.engTime).modUnit u
      fun V => act V t row n base rows).finish u g h) := by
  subst hn hbase hrow hrows ht
  have hahead : ¬ (s.tasks.any fun y => y.aheadOf u x.d.idx.toNat G.tileFrom) = true := fun hany => by
    obtain ⟨y, hy, hahead⟩ := List.any_eq_true.1 hany
    simp only [Task.aheadOf, Bool.and_eq_true, beq_iff_eq] at hahead
    obtain ⟨⟨⟨hu, hlive⟩, hdst⟩, hmark⟩ := hahead
    obtain ⟨a, b, hfrom, hle⟩ := htask y hy hu hdst hlive
    simp only [hfrom, decide_eq_true_eq] at hmark
    omega
  have hbits : bitsAt (rd32 (s.env U G) G.regs x.b l) 0 5 = rd32 (s.env U G) G.regs x.b l % 32 ∧
      bitsAt (rd32 (s.env U G) G.regs x.b l) 5 5 = rd32 (s.env U G) G.regs x.b l / 32 % 32 := by simp [bitsAt]
  refine (hr.issue_of_clear hc _).trans ?_
  simp only [hl, hbits]
  rw [if_neg (by simp [halign]), if_neg (by omega), if_neg (by rw [ha]; decide), if_neg hahead, if_neg (by rw [hbusy]; decide)]

/-- R129: an atomic on the unit's scratchpad whose lanes all pass and that no copy in flight holds back. -/
theorem Runs.padRmw_runs {off : Int} (f : Regs → Nat → Nat → Nat) (hr : Runs s u g U G)
    (hc : Clear s u g U [(x.d, 2 * sizeRegs m.size), (x.b, 1)]) (hl : activeLanes (s.env U G) G.regs h = l :: ls)
    (hready : s.padReady u g (m.ord == .acqrel || m.ord == .sc) (m.ord == .sc) = true)
    (hp : PadPasses s u U false (sizeBytes m.size) (s.eas U G x off (sizeBytes m.size) (l :: ls)) oks)
    (hbusy : ∀ o ∈ oks, U.dstBusy o.off (sizeBytes m.size) = false ∧ U.srcBusy o.off (sizeBytes m.size) = false) :
    let n := sizeBytes m.size
    let sc := m.ord == .sc
    let s1 := ((s.padFence u g U sc m.scope).padRead U.core (m.ord != .rlx) [u]).padWrote U G (m.ord == .acqrel || sc) [u]
    let s2 := s1.modUnit u fun V => (padRmwLanes n (f G.regs) oks V).2
    let s3 := s2.modGroup u g fun H => H.putRegs ((padRmwLanes n (f G.regs) oks U).1.foldl
      (fun r y => r.putVec x.d.idx.toNat y.1 (sizeRegs m.size) y.2) H.regs)
    padRmw h m x off f s = .next (((s3.tailMoved u U).padFence u g U sc m.scope).finish u g h) := by
  have hfree : ¬ (oks.any fun o => U.dstBusy o.off (sizeBytes m.size) || U.srcBusy o.off (sizeBytes m.size)) = true := by
    simpa [List.any_eq_true] using hbusy
  refine (hr.issue_of_clear hc _).trans ?_
  simp only [hl, hready]
  exact (hp.withPad_runs _).trans (if_neg hfree)

/-- R113, R119, R129: the four instructions. -/
theorem tileMovesAndScratchpadAtomicsComplete : Statements.TileMovesAndScratchpadAtomicsComplete := by
  intro s u g U G h m x oks l ls hr
  refine fun hl => ⟨fun hc halign hfit hend ha htask hbusy => ⟨?store, fun hsrc => ?load⟩,
    fun hc hready hbusy => ⟨fun hp => ?atoms, fun hp => ?cass⟩⟩
  case store =>
    exact hr.tileMove_runs (wr := true) (act := Unit.tileStore) hc hl rfl rfl rfl rfl rfl halign hfit hend ha htask hbusy
  case load =>
    exact hr.tileMove_runs (wr := false) (busy := fun U lo n => U.dstBusy lo n || U.srcBusy lo n) (act := Unit.tileLoad) hc hl
      rfl rfl rfl rfl rfl halign hfit hend ha htask (by rw [hbusy, hsrc]; rfl)
  case atoms =>
    exact hr.padRmw_runs (fun r l old => rmwVal x.c.idx.toNat (8 * sizeBytes m.size) old
      (r.words (x.d.idx.toNat + sizeRegs m.size) l (sizeRegs m.size))) hc hl hready hp hbusy
  case cass =>
    exact hr.padRmw_runs (fun r l old => if old = r.words x.d.idx.toNat l (sizeRegs m.size) then
      r.words (x.d.idx.toNat + sizeRegs m.size) l (sizeRegs m.size) else old) hc hl hready hp hbusy

end

/-- Settles O24, by its two families of accesses. -/
theorem scratchpadConstantAndTileAccessesComplete : Obligations.ScratchpadConstantAndTileAccessesComplete :=
  ⟨scratchpadAndConstantAccessesComplete, tileMovesAndScratchpadAtomicsComplete⟩

end Sys2Proof.Machine
end

section
/-! PROOFS. Fences (R120, R121), WAITC (R130 to R132), CCTL (R133) and PREF (R134). -/

namespace Sys2Proof.Machine

open Sys2Proof

section
variable {s s1 : State} {u g : Nat} {U : Unit} {G : Group} {h : Hd}

/-! ### Fences (R120, R121) -/

/-- A fence of a group with active lanes acts once its condition holds. -/
theorem Runs.fenceStep_of_ready {ready : Nat → Nat → Bool} {act : Nat → Nat → Nat → State → State} (hr : Runs s u g U G)
    (hl : activeLanes (s.env U G) G.regs h ≠ []) (hready : ready u g = true) :
    fenceStep h s ready act = .next ((act u g U.core s).finish u g h) :=
  (hr.issue_of_clear (.nil ..) _).trans ((if_neg (mt List.isEmpty_iff.1 hl)).trans (if_pos hready))

/-- R120, R121, R319, R329: each kind of fence. -/
theorem fencesComplete : Statements.FencesComplete := by
  intro s u g U G h sc hr hl
  refine ⟨fun hload hreply => ?acq, fun hack => ?async, fun hq => ⟨?rel, ?acqrel, ?scFence⟩⟩
  case acq =>
    exact hr.fenceStep_of_ready (ready := fun u g => s.outLoads u g == 0 && !s.awaitsReply u g)
      (act := fun _ _ core t => t.acqFence core) hl (by simp [hload, hreply])
  case async =>
    exact hr.fenceStep_of_ready (ready := fun u g => s.unacked u g == 0) (act := fun _ _ _ t => t) hl (by simp [hack])
  case rel => exact hr.fenceStep_of_ready (act := fun u g core t => t.relFence u g core) hl hq
  case acqrel => exact hr.fenceStep_of_ready (act := fun u g core t => (t.acqFence core).relFence u g core) hl hq
  case scFence => exact hr.fenceStep_of_ready (act := fun u g core t => t.scFence u g core (scopeCode sc)) hl hq

/-! ### WAITC (R130 to R132) -/

/-- A reading that need not wait and resolves every lane resumes the group. -/
theorem State.waitcTry_of_all {m : WaitMod} {x : Ops4} {all : List Nat} {ref : Nat → Nat} {oks : List LaneOk}
    {held r : List (Nat × Nat)} {s3 : State} (hlost : ∀ o ∈ oks, s.waitcLost U (if m.b64 then 8 else 4) o = false)
    (hheld : s.waitcHeld u g U oks (if m.b64 then 8 else 4) = false)
    (hread : waitcRead u g U m ref oks ((s.passPkts (dieOf U.core) 0 (s.waitcRoutes oks)).backPkts (dieOf U.core) 0
      (s.waitcRoutes oks)) = some (r, s3)) (hall : ∀ k ∈ all, ∃ v ∈ held ++ r, v.1 = k) :
    s.waitcTry u g U h m x all ref oks held = ((s3.disarm u g).modGroup u g fun H =>
      { H.putRegs ((held ++ r).foldl (fun q v => q.putVec x.d.idx.toNat v.1 ((if m.b64 then 8 else 4) / 4) v.2) H.regs) with
        wcVals := [], wcPoll := false, wakeBy := 0 }).finish u g h := by
  have hnone : oks.find? (s.waitcLost U (if m.b64 then 8 else 4)) = none :=
    List.find?_eq_none.2 fun o ho => by simp [hlost o ho]
  have hall' : (all.all fun l => (held ++ r).any fun v => v.1 == l) = true :=
    List.all_eq_true.2 fun k hk => by
      obtain ⟨v, hv, hvk⟩ := hall k hk
      exact List.any_eq_true.2 ⟨v, hv, beq_iff_eq.2 hvk⟩
  simp only [State.waitcTry, hnone, hheld, hread, hall', if_true, Bool.false_eq_true, if_false]

/-- The first execution of a WAITC whose lanes pass arms its monitors and reads. -/
theorem Runs.exec_waitc_of_first {m : WaitMod} {x : Ops4} {oks : List LaneOk} {l : Nat} {ls : List Nat} (hr : Runs s u g U G)
    (hc : Clear s u g U [(x.d, (if m.b64 then 8 else 4) / 2), (x.b, 1)]) (hl : activeLanes (s.env U G) G.regs h = l :: ls)
    (hst : G.st ≠ .waiting .waitc) (ha : s.acqBlocked u g = false)
    (hp : LanesPass s U G (if m.b64 then 8 else 4) .read noExtra
      (s.eas U G x (offOf x.c) (if m.b64 then 8 else 4) (l :: ls)) oks s1) :
    exec (.waitc h m x) s = .next ((oks.foldl (fun t o => t.waitcFetch u g U (if m.b64 then 8 else 4) o)
      (oks.foldl (fun t o => t.armMon u g U.ctx o) (s1.tcCatchUp U.core))).waitcTry u g U h m x (l :: ls)
        (fun l => G.regs.words (x.d.idx.toNat + (if m.b64 then 8 else 4) / 4) l ((if m.b64 then 8 else 4) / 4)) oks []) := by
  have hfirst : (G.st != .waiting .waitc) = true := bne_iff_ne.2 hst
  refine (hr.issue_of_clear hc _).trans ?_
  have hopen : (l :: ls).filter (fun l => !([] : List (Nat × Nat)).any fun v => v.1 == l) = l :: ls := by simp
  simp only [hl, hfirst, ha, if_true, hopen]
  simp only [show checkLanes U G (if m.b64 then 8 else 4) .read noExtra
    ((l :: ls).map fun l => (l, laneEa (s.env U G) G.regs x.a x.b (offOf x.c) (if m.b64 then 8 else 4) l)) s = (s1, oks, []) from hp]
  rfl

/-! ### CCTL and PREF (R133, R134) -/

/-- R133: cache control whose lanes pass acts on each lane's line; a write-back must not have to wait. -/
theorem Runs.exec_cctl {op : CctlOp} {x : Ops4} {oks : List LaneOk} {l : Nat} {ls : List Nat} (hr : Runs s u g U G)
    (hc : Clear s u g U [(x.b, 1)]) (hl : activeLanes (s.env U G) G.regs h = l :: ls)
    (hwb : op = .wb ∨ op = .wbinv → U.firm = true ∧ ∀ o ∈ oks, s1.cctlHeld U o.ea = false) (ha : s.acqBlocked u g = false)
    (hp : LanesPass s U G 1 .read noExtra (s.eas U G x (offOf x.c) 1 (l :: ls)) oks s1) :
    exec (.cctl h op x) s = .next ((oks.foldl (fun t o => t.cctlLane U op o.ea) s1).finish u g h) := by
  have hgo : ((op == .wb || op == .wbinv) && !U.firm) = false ∧
      ((op == .wb || op == .wbinv) && oks.any fun o => s1.cctlHeld U o.ea) = false := by
    cases hop : op == .wb || op == .wbinv with
    | false => exact ⟨rfl, rfl⟩
    | true =>
      obtain ⟨hfirm, hheld⟩ := hwb (by simpa using hop)
      exact ⟨by rw [hfirm]; rfl, by simpa using hheld⟩
  obtain ⟨hwait, hheld⟩ := hgo
  refine (hr.issue_of_clear hc _).trans ?_
  simp only [hl, hwait, ha]
  exact (withLanes_ok hp).trans (if_neg (by rw [hheld]; decide))

/-- R134: a prefetch none of whose walks has to wait is made. -/
theorem Runs.exec_pref {tc : Bool} {x : Ops4} (hr : Runs s u g U G) (hc : Clear s u g U [(x.b, 1)])
    (hw : ∀ y ∈ s.eas U G x (offOf x.c) 1 (activeLanes (s.env U G) G.regs h), s.prefWaits U G y.2 = false) :
    exec (.pref h tc x) s = .next (((s.eas U G x (offOf x.c) 1 (activeLanes (s.env U G) G.regs h)).foldl
      (fun t y => t.prefLane U G false tc y.2) (s.tcCatchUp U.core)).finish u g h) := by
  refine (hr.issue_of_clear hc _).trans ((if_neg fun hany => ?_).trans ?_)
  · obtain ⟨ea, hea, hwait⟩ := List.any_eq_true.1 hany
    obtain ⟨l, hl, rfl⟩ := List.mem_map.1 hea
    rw [hw _ (List.mem_map_of_mem hl)] at hwait
    cases hwait
  · simp only [State.eas, List.foldl_map]

end

/-- R130 to R134: each instruction. -/
theorem waitCacheControlAndPrefetchComplete : Statements.WaitCacheControlAndPrefetchComplete := by
  intro s s1 u g U G h x oks l ls hr hl
  refine ⟨fun m s3 r hc hst ha hp hlost hheld hread hall => ?waitc, fun op hc hwb ha hp => hr.exec_cctl hc hl hwb ha hp,
    fun tc hc hw => ?pref⟩
  case waitc =>
    rw [hr.exec_waitc_of_first hc hl hst ha hp, State.waitcTry_of_all hlost hheld hread hall]
    rfl
  case pref =>
    rw [← hl] at hw ⊢
    exact hr.exec_pref hc hw

/-- Settles O26, by its two families of instructions. -/
theorem fencesWaitsAndCacheControlComplete : Obligations.FencesWaitsAndCacheControlComplete :=
  ⟨fencesComplete, waitCacheControlAndPrefetchComplete⟩

end Sys2Proof.Machine
end

section
/-! PROOFS. The events of the memory path (R296, R297, R329, R333), of the copy engine (R136, R138, R142, R309) and of the matrix engines
(R340, R344, R346): one lemma for each event, by the conditions that it tests. -/

namespace Sys2Proof.Machine

open Sys2Proof

/-! ### Loads, stores and atomics (R296, R297, R329, R333) -/

section
variable {s : State} {id : Nat}

/-- R296, R329: the sector of a load that may return comes with its lease, or from a target that is not cached. -/
theorem exec_loadSectorReturn {lease : Nat} {p : PendLoad} {U : Unit} (hp : (s.loads.find? fun p => p.id == id) = some p)
    (hU : s.units[p.unit]? = some U) (hlo : 1 ≤ lease) (hhi : lease ≤ 256) (hready : s.loadReady p U = true)
    (hcut : s.cutRead (dieOf U.core) U.ctx p.va p.pa = false) (hdata : s.uncorrIn p.pa 32 = false) (hsvc : U.svc = false) :
    exec (.loadSectorReturn id lease) s = .next (if s.cached p.pa then (s.tcCatchUp U.core).returnCached p U lease
      else (s.tcCatchUp U.core).returnPlain p U) := by
  have hway : s.loadCut p U = false := by rw [State.loadCut, hsvc]; exact hcut
  change execLoadSectorReturn id lease s = _
  simp only [execLoadSectorReturn, hp, hU, hway, hready, hdata, hsvc]
  rw [if_neg (by simp; omega), if_neg (by decide), if_neg (by decide)]
  cases s.cached p.pa <;> rfl

/-- R297: a store that may be performed is, where no invalidation has to come first. -/
theorem exec_storePerformed {p : PendStore} (hp : (s.stores.find? fun p => p.id == id && p.wts.isNone) = some p)
    (hcut : s.cutWrite (dieOf p.core) p.ctx p.va p.pa = false) (hsvc : s.storeSvc p = false) (hready : s.storeReady p = true)
    (hdata : s.uncorrIn p.pa 1 = false) (hinv : s.cached p.pa = false ∨
      (startInvals p.pa (dieOf p.core) (s.keysOf p.ctx p.va p.bytes.length) s).1 = false) :
    exec (.storePerformed id) s = .next (s.performStore p) := by
  have hway : s.storeCut p = false := by rw [State.storeCut, hsvc]; exact hcut
  change execStorePerformed id s = _
  simp only [execStorePerformed, hp, hway, hready, hdata, hsvc]
  rw [if_neg (by decide), if_neg (by decide), if_neg (by decide)]
  cases hc : s.cached p.pa with
  | false => rfl
  | true =>
    obtain hno | hdone := hinv
    · rw [hc] at hno; cases hno
    · rw [if_neg (by decide), hdone]; rfl

/-- R115, R329: the acknowledgement of a performed store brings its stamp. -/
theorem exec_writeAcknowledgement {p : PendStore} {w : Nat} (hp : (s.stores.find? fun p => p.id == id) = some p)
    (hw : p.wts = some w) : exec (.writeAcknowledgement id) s =
      .next ((({ s with stores := s.stores.filter (·.id != id) } : State).ackPkt p.pkt).tcRaise p.core w) := by
  change execWriteAcknowledgement id s = _
  simp only [execWriteAcknowledgement, hp, hw]

/-- R124, R329, R462: a reply brings the lane its value and the core its stamp. -/
theorem exec_atomicReply {q : Req} {v : BitVec 128} (hq : (s.reqs.find? fun q => q.id == id && !q.replied && !q.half) = some q)
    (hv : q.reply = some v) : exec (.atomicReply id) s = .next
      (((((s.replyDone q).ackPkt q.pkt).l1Drop q.core q.ctx q.va (2 ^ q.size)).ackCore q.core
          (if q.performed then q.wts else s.reqTime q)).modGroup q.unit q.grp fun G =>
        { G with v := (Regs.putVec ⟨G.v, [], [], [], [], []⟩ q.reg q.lane (2 ^ (q.size - 2)) v.toNat).v }) := by
  change execAtomicReply id s = _
  simp only [execAtomicReply, hq, hv]

/-- R332, R333: a request that need not wait is translated and goes on. -/
theorem exec_serviceRequestDelivery {s1 : State} {pa : Nat} {p : Req}
    (hp : (s.reqs.find? fun q => q.id == id && q.index.isNone && !q.performed && q.fault.isNone && !s.retriedNow (.req id)) = some p) :
    let q := { p with cluster := sliceCluster (s.homeOf (s.keyOf p.ctx p.va).1) }
    s.reqPhys p = false → s.unsent q = false → s.reqBlocked q = false → s.behindWrite q.pkt q.ctx q.va = false →
    s.behindFault q = false → canonical q.va = true →
    s.translate (.last (q.cluster / 4 % 4)) (q.cluster / 4 % 4) q.ctx q.va (if q.kind == .store then .write else .rmw) false =
      .ok (pa, s1) →
    exec (.serviceRequestDelivery id) s = .next (s1.reqReserve q pa) := by
  intro q hphys hsent hblocked hwrite hfault hcanon ht
  have hphys' : s.reqPhys q = false := hphys
  change execServiceRequestDelivery id s = _
  simp only [q] at hphys' hsent hblocked hwrite hfault hcanon ht
  simp only [execServiceRequestDelivery, hp, hphys, hphys', hsent, hblocked, hwrite, hfault, hcanon, ht, q, Bool.false_eq_true, if_false,
    Bool.or_self, Bool.not_true]

end

/-- R296, R297, R329, R333: the events of the memory path. -/
theorem memoryPathCompletes : Statements.MemoryPathCompletes := by
  refine ⟨fun s id lease p U hp hU hlo hhi hready hcut hdata hsvc => ⟨fun hc => ?cached, fun hc => ?plain⟩,
    fun s id p => ⟨fun hp hcut hsvc hready hdata hinv => exec_storePerformed hp hcut hsvc hready hdata hinv,
      fun w hp hw => exec_writeAcknowledgement hp hw⟩,
    fun s id q hq v hv => exec_atomicReply hq hv, fun s s1 id pa p hp => exec_serviceRequestDelivery hp⟩
  case cached => rw [exec_loadSectorReturn hp hU hlo hhi hready hcut hdata hsvc, if_pos hc]
  case plain => rw [exec_loadSectorReturn hp hU hlo hhi hready hcut hdata hsvc, if_neg (by rw [hc]; decide)]

/-! ### The copy engine (R136, R138, R142, R309) -/

/-- What the next request of a command does, by its kind; a visit to a tensor waits for its locked lines (R213, R309). -/
def State.cmdStep (s : State) (u : Nat) (U : Unit) (c : Cmd) (q : Nat × Nat) : State :=
  match c.kind with
  | .tcinv wb =>
    if s.tensorLocked U.ctx c.src.toNat then s else (s.visitTensor U.ctx c.src.toNat wb true).modCmd u c.id Cmd.pop
  | .tcwb =>
    if s.tensorLocked U.ctx c.src.toNat then s else (s.visitTensor U.ctx c.src.toNat true false).modCmd u c.id Cmd.pop
  | .cpys => s.cmdWrite u U c q
  | .cpysx => s.cmdWindow u U c q
  | .cpy | .cpyt | .cpyg _ | .tchalo | .slabld => s.cmdRead u U c q

section
variable {s : State} {u : Nat} {U : Unit} {c : Cmd} (hU : s.units[u]? = some U)
include hU

/-- R136, R138: the first command not yet started starts once its guard is resolved; it is discarded where the guard says so. -/
theorem exec_copyCommandStart {b : Bool} (hc : (U.copyq.find? fun c => !c.started) = some c) (hst : U.st = .resident)
    (hsave : U.saveAt = none) (hroom : (U.copyq.filter (·.started)).length < 8)
    (hfirm : U.firm = true ∨ (c.kind ≠ .cpys ∧ c.kind ≠ .cpysx)) (hres : c.res = some b) :
    exec (.copyCommandStart u) s = .next (s.modCmd u c.id fun d =>
      if b then { d with started := true, todo := s.requests U d } else { d with started := true, discard := true, sb := none }) := by
  have hholds : ((c.kind == .cpys || c.kind == .cpysx) && !U.firm) = false := by
    obtain hf | ⟨h1, h2⟩ := hfirm
    · simp [hf]
    · simp [h1, h2]
  change execCopyCommandStart u s = _
  simp only [execCopyCommandStart, hU, hc, hst, hsave, hholds, hres]
  rw [if_neg (by simp; omega)]
  cases b <;> rfl

/-- R309: a started command performs its next request. -/
theorem exec_copyRequestPerformed {id : Nat} {q : Nat × Nat} {qs : List (Nat × Nat)}
    (hc : (U.copyq.find? fun c => c.id == id && c.started && c.fault.isNone && !s.retriedNow (.cmd u c.id)) = some c)
    (htodo : c.todo = q :: qs) : exec (.copyRequestPerformed u id) s = .next (s.cmdStep u U c q) := by
  change execCopyRequestPerformed u id s = _
  simp only [execCopyRequestPerformed, hU, hc, htodo, State.cmdStep]
  cases c.kind <;> dsimp only <;> split_ifs <;> rfl

/-- R136, R142: a command with no request left arrives and leaves the queue. -/
theorem exec_copyCommandArrival {id : Nat} (hc : (U.copyq.find? fun c => c.id == id && c.started && c.todo.isEmpty) = some c) :
    exec (.copyCommandArrival u id) s = .next (((s.arriveCmd c U.core).slabLoaded u c).modUnit u fun V =>
      { V with copyq := V.copyq.filter fun d => d.id != id, engTime := Nat.max V.engTime c.time }) := by
  change execCopyCommandArrival u id s = _
  simp only [execCopyCommandArrival, hU, hc]

end

/-! ### The matrix engines (R340, R344, R346) -/

/-- R340, R344: an idle engine grants a pass to its best record; the streams of a sparse one are not read here. -/
theorem exec_engineGrant {s0 s : State} {e : Nat} {t : Task} {U : Unit} (hs : settle s0.tasks s0 = s) (hdue : s.grantDue e = true)
    (hbest : bestTask (s.tasks.filter fun t => t.engine == e && s.eligible t) = some t) (hU : s.units[t.unit]? = some U)
    (hopk : t.rcd.opk ≠ 1) :
    let t1 := { t with st := .running, pass := true, granted := true, got := [] }
    let s1 := (s.passOver e t (s.tasks.filter fun t => t.engine == e && s.eligible t)).modEngine e fun x =>
      { x with lastGrant := s.clock }
    exec (.engineGrant e) s0 = .next ((s1.modTask t.unit t.handle fun _ => t1).mxOperands t1 U (s.taskSlots U t).1
      (s.taskSlots U t).2 fun _ s2 => s2) := by
  have hopk' : (t.rcd.opk == 1) = false := beq_eq_false_iff_ne.2 hopk
  change execEngineGrant e s0 = _
  simp only [execEngineGrant, hs, hdue, hbest, hU, hopk']
  rfl

/-- R346: a record that may be moved goes to an engine of its cluster that has been without one. -/
theorem exec_anyDispatch {s : State} {u target : Nat} {handle : Word} {t : Task} (ht : s.task? u handle = some t)
    (hmov : s.movable t = true) (hcl : target / 8 = t.home / 8) (hne : target ≠ t.home)
    (hen : s.disabledEngines.contains target = false) (hidle : ∀ y ∈ s.tasks, y.engine = target → s.eligible y = false)
    (hbusy : (s.engineOf target).busyAt + 64 ≤ s.clock) (hmoved : (s.engineOf target).lastMove + 256 ≤ s.clock)
    (hbest : bestTask (s.tasks.filter fun y => y.home / 8 == t.home / 8 && s.movable y) = some t) :
    exec (.anyDispatch u handle target) s = .next
      ((s.modTask u handle fun y => { y with engine := target }).modEngine target fun y => { y with lastMove := s.clock }) := by
  have hfree : (s.tasks.any fun y => y.engine == target && s.eligible y) = false := by
    simpa [List.any_eq_false] using hidle
  change execAnyDispatch u handle target s = _
  simp only [execAnyDispatch, ht, hbest]
  exact if_pos (by simp only [hmov, hcl, hen, hfree]; simp [hne, hbusy, hmoved])

/-- R136, R138, R142, R309, R340, R344, R346: the events of the engines. -/
theorem enginesComplete : Statements.EnginesComplete := by
  refine ⟨fun s u U c hU => ⟨fun hc hst hsave hroom hfirm => ⟨fun hres => ?go, fun hres => ?discard⟩,
      fun id q qs hc htodo => ⟨fun hk => ?read, fun hk => ?write, fun hk => ?window, fun wb hk hlock => ?inval, fun hk hlock => ?wback⟩,
      fun id hc => exec_copyCommandArrival hU hc⟩,
    fun s0 e t U => fun hdue hbest hU hopk => exec_engineGrant rfl hdue hbest hU hopk, fun s e t U ht hU => ?passEnd,
    fun s u target handle t ht hmov hcl hne hen hidle hbusy hmoved hbest =>
      exec_anyDispatch ht hmov hcl hne hen hidle hbusy hmoved hbest⟩
  case go => exact exec_copyCommandStart hU hc hst hsave hroom hfirm hres
  case discard => exact exec_copyCommandStart hU hc hst hsave hroom hfirm hres
  case read =>
    rw [exec_copyRequestPerformed hU hc htodo, State.cmdStep]
    obtain hk | hk | ⟨n, hk⟩ | hk | hk := hk <;> rw [hk]
  case write => rw [exec_copyRequestPerformed hU hc htodo, State.cmdStep, hk]
  case window => rw [exec_copyRequestPerformed hU hc htodo, State.cmdStep, hk]
  case inval =>
    rw [exec_copyRequestPerformed hU hc htodo, State.cmdStep, hk]
    exact congrArg _ (if_neg (by rw [hlock]; decide))
  case wback =>
    rw [exec_copyRequestPerformed hU hc htodo, State.cmdStep, hk]
    exact congrArg _ (if_neg (by rw [hlock]; decide))
  case passEnd =>
    change execPassEnd e s = _
    simp only [execPassEnd, ht, hU]

/-- Settles O51, by the memory path and the engines. -/
theorem memoryAndEngineEventsComplete : Obligations.MemoryAndEngineEventsComplete := ⟨memoryPathCompletes, enginesComplete⟩

end Sys2Proof.Machine
end

section
/-! PROOFS. Stores when they are issued (R115, R277, R301). The statement on them asks nothing of the form of memory. Where its addresses do
not rise, a byte that a dropped line writes back can uncover an entry behind it, and so change what another address reads as: the machine
below does so. In a state that is `Kept` the addresses rise. -/

namespace Sys2Proof.Machine

open Sys2Proof Tests

/-- A clean home line of set 255, the set that the store of `Utent`'s group falls in, with no byte behind it. -/
def wayLine (i : Nat) : Line := ⟨⟨0, 0, 15 + 16 * i, 15⟩, false, 0, [], [], [], 0, 0, none⟩

/-- A dirty line of that set, whose one byte 0x00 lies at physical address 5. -/
def dirtyLine : Line := { wayLine 0 with segs := [(0, 1, 5)], dirty := [0] }

/-- The tentative unit's store meets a full set of the tile cache; the entry of memory for address 5 stands before the one for 3. -/
def unsortedMem : State := { mapped (at0 Utent) with
  mem := [(5, 1), (3, 1)], lines := dirtyLine :: (List.range 15).map fun i => wayLine (i + 1) }

/-- The operands of the store. -/
def storeOps : Ops4 := ⟨vp 254, ad 1, zz, zz⟩

/-- The check of the store's lane. -/
def storeCheck : State × List LaneOk × List LaneFail :=
  checkLanes Utent G1 8 .write noExtra (unsortedMem.eas Utent G1 storeOps 0 8 [0]) unsortedMem

theorem storeCheck_passes : LanesPass unsortedMem Utent G1 8 .write noExtra (unsortedMem.eas Utent G1 storeOps 0 8 [0])
    storeCheck.2.1 storeCheck.1 := pass_of (by decide +kernel)

/-- The check moves the translation buffer alone: the lines stand, and address 3 reads as 0x00. -/
theorem storeCheck_leaves : storeCheck.1.lines = unsortedMem.lines ∧ storeCheck.1.physByte 3 = 0 ∧
    storeCheck.1.memAt 5 ≠ storeCheck.1.memAt 3 := by
  decide +kernel

/-- The byte that an outcome leaves at an address. -/
def byteAfter (pa : Nat) : Host.Outcome State Fault Refusal → Option Byte
  | .next t => some (t.physByte pa)
  | .fault _ | .refused _ => none

/-- The store drops `dirtyLine`; its 0x00 takes the entry of address 5 out of memory, and the one for 3 is found. -/
theorem exec_store_unsorted : ∃ t, exec (.st hd mm storeOps) unsortedMem = .next t ∧ t.physByte 3 = 1 := by
  have h : byteAfter 3 (exec (.st hd mm storeOps) unsortedMem) = some 1 := by decide +kernel
  cases he : exec (.st hd mm storeOps) unsortedMem with
  | next t => exact ⟨t, rfl, by simpa [he, byteAfter] using h⟩
  | fault _ | refused _ => simp [he, byteAfter] at h

/-- The lines of that set cover address 5 and no other. -/
theorem eq_five_of_covered {l : Line} (hl : l ∈ unsortedMem.lines) {b : Nat} (hb : (segOff l.segs b).isSome = true) : b = 5 := by
  obtain rfl | hl := List.mem_cons.1 hl
  · by_contra hne
    have : ¬ (5 ≤ b ∧ b < 5 + 1) := by omega
    simp [dirtyLine, segOff, this] at hb
  · obtain ⟨i, -, rfl⟩ := List.mem_map.1 hl
    simp [wayLine, segOff] at hb

/-- Refutes O23: its first part does not ask for memory in canonical form. The tentative store drops a dirty line of address 5, and the byte
at address 3, which no line covers, reads as 1 where it read as 0 before. -/
theorem not_storesWriteTheirBytesWhenPerformed : ¬ Obligations.StoresWriteTheirBytesWhenPerformed := by
  rintro ⟨hissue, -, -⟩
  obtain ⟨t, hexec, ht⟩ := exec_store_unsorted
  obtain ⟨hlines, hbyte, hne⟩ := storeCheck_leaves
  have hsame := hissue unsortedMem storeCheck.1 t 0 0 Utent G1 hd mm storeOps storeCheck.2.1 ⟨rfl, rfl⟩ ⟨rfl, rfl⟩
    storeCheck_passes hexec
  rcases hsame with hall | hall
  · have h0 : unsortedMem.physByte 3 = 0 := by decide +kernel
    simp [hall 3, h0] at ht
  · rcases hall 3 with h3 | ⟨-, l, hl, -, -, b, hb, hseg⟩
    · simp [h3, hbyte] at ht
    · obtain rfl := eq_five_of_covered (hlines ▸ hl) hseg
      exact hne hb

end Sys2Proof.Machine
end

section
/-! PROOFS. Handlers: a delivered trap (R199), RTE (R203), and privileged instructions outside the states that may run them (R201). -/

namespace Sys2Proof.Machine

open Sys2Proof

/-- A change of one group leaves all else: the state but for its units, the unit's other groups, and the other units. -/
theorem State.modGroup_frame (s : State) (u g : Nat) (U : Unit) (f : Group → Group) :
    { s.modGroup u g f with units := s.units } = s ∧ (∀ k, k ≠ g → (updAt U.groups g f)[k]? = U.groups[k]?) ∧
    ∀ v, v ≠ u → (s.modGroup u g f).units[v]? = s.units[v]? :=
  ⟨rfl, fun k hk => by rw [updAt_getElem?, if_neg hk], fun v hv => by rw [State.modGroup, State.modUnit_getElem?, if_neg hv]⟩

/-! ### A delivered trap (R199) -/

/-- A trap of a group in user state goes to its context's handler. -/
theorem State.takeTrap_of_handler {s : State} {u g : Nat} {U : Unit} {G : Group} {t : Trap} (hg : s.group? u g = some (U, G))
    (hc : t.cause ≠ 0x0A) (hp : (G.sup || U.svc) = false) (hh : s.handler U.ctx ≠ 0) :
    s.takeTrap u g t = s.modGroup u g fun H => H.enter U g t (s.handler U.ctx) s.clock := by
  simp only [State.takeTrap, hg, hp, beq_iff_eq, if_neg hc, if_neg hh, Bool.false_eq_true, if_false]

/-- Settles O32: the trap changes its group alone, by `Group.enter`. -/
theorem trapEntersTheHandler : Obligations.TrapEntersTheHandler := by
  intro s u g U G t hg hc hsup hsvc hh
  rw [State.takeTrap_of_handler hg hc (by rw [hsup, hsvc]; rfl) hh]
  exact ⟨_, _, State.modGroup_group?_same _ hg, rfl, rfl, rfl, rfl, rfl, rfl, rfl, rfl, rfl, rfl, rfl, rfl, rfl, rfl, rfl, rfl, rfl,
    rfl, rfl, rfl, State.modGroup_frame s u g U _⟩

/-! ### RTE (R203) -/

/-- RTE in supervisor state changes its group alone. -/
theorem Runs.exec_rte {s : State} {u g : Nat} {U : Unit} {G : Group} (hr : Runs s u g U G) (h : Hd) (x : Ops4) (hsup : supOnly U G = true) :
    exec (.rte h x) s = .next (s.modGroup u g fun H => (H.done h s.clock).rte) :=
  privStep_runs hr.1 hr.2 rfl rfl hsup

/-- A word of two parts, as a number. -/
theorem toNat_append_eq_add {m n : Nat} (a : BitVec m) (b : BitVec n) : (a ++ b).toNat = a.toNat * 2 ^ n + b.toNat := by
  rw [BitVec.toNat_append, ← Nat.shiftLeft_add_eq_or_of_lt b.isLt, Nat.shiftLeft_eq]

/-- An instruction of four operand fields, as a number: OP, MOD and the fields stand at their bits (R16). -/
theorem toNat_toSlot_raw4 (op mod : BitVec 8) (h : Hd) (x : Ops4) : ((raw4 op mod h x).toSlot).toNat =
    op.toNat * 2 ^ 88 + mod.toNat * 2 ^ 80 + h.toBits.toNat * 2 ^ 64 + x.d.toField.toNat * 2 ^ 48 + x.a.toField.toNat * 2 ^ 32 +
      x.b.toField.toNat * 2 ^ 16 + x.c.toField.toNat := by
  simp only [raw4, Raw.toSlot, toNat_append_eq_add]
  ring

/-- The word of RTE (R64, R203): its four fields are unused. -/
theorem rte_word {h : Hd} {x : Ops4} {w : Slot} (hwf : (Instr.rte h x).wf = true) (hw : encode96 (.rte h x) = some w) :
    w.toNat / 2 ^ 88 = 0xF3 ∧ w.toNat / 2 ^ 80 % 256 = 0 ∧ w.toNat % 2 ^ 64 = 0xF000_F000_F000_F000 := by
  obtain ⟨d, a, b, c⟩ := x
  have hops : (d.unused && a.unused && b.unused && c.unused) = true := by
    simp only [Instr.wf, Bool.and_eq_true] at hwf
    exact hwf.1.2
  simp only [Opnd.unused, Bool.and_eq_true, beq_iff_eq] at hops
  obtain ⟨⟨⟨rfl, rfl⟩, rfl⟩, rfl⟩ := hops
  obtain rfl : (raw4 0xF3 0 h ⟨Opnd.z, Opnd.z, Opnd.z, Opnd.z⟩).toSlot = w := Option.some.inj hw
  have hz : Opnd.z.toField.toNat = 0xF000 := rfl
  have hh := h.toBits.isLt
  rw [toNat_toSlot_raw4]
  simp only [hz, show (0xF3 : BitVec 8).toNat = 0xF3 from rfl, show (0 : BitVec 8).toNat = 0 from rfl]
  omega

/-- Settles O34: RTE changes its group alone, by `Group.rte`. -/
theorem returnFromHandlerRestores : Obligations.ReturnFromHandlerRestores := by
  intro s u g U G h x hr hsup hsvc
  obtain ⟨hstate, hgroups, hunits⟩ := State.modGroup_frame s u g U fun H => (H.done h s.clock).rte
  exact ⟨_, _, _, hr.exec_rte h x (by rw [supOnly, hsup, hsvc]; rfl), State.modGroup_group?_same _ hr.2, rfl, rfl, rfl, rfl, rfl, rfl, rfl,
    rfl, rfl, hstate, hgroups, hunits, fun w => rte_word⟩

/-! ### Privileged instructions (R201) -/

/-- Each privileged instruction runs in the frame of its states and its operands. -/
theorem exec_of_mem_privTable {h : Hd} {x : Ops4} {f : TlbForm} {b : Bool} {p : Instr × Uses × (Unit → Group → Bool)}
    (hp : p ∈ privTable h x f b) (s : State) : ∃ k, exec p.1 s = privStep p.2.2 p.2.1 s k := by
  simp only [privTable, List.mem_cons, List.not_mem_nil, or_false] at hp
  rcases hp with rfl | rfl | rfl | rfl | rfl | rfl | rfl | rfl | rfl | rfl
  · exact ⟨_, rfl⟩
  · exact ⟨_, rfl⟩
  · exact ⟨_, rfl⟩
  · exact ⟨_, rfl⟩
  · cases f <;> exact ⟨_, rfl⟩
  · exact ⟨_, rfl⟩
  · exact ⟨_, rfl⟩
  · cases b <;> exact ⟨_, rfl⟩
  · cases b <;> exact ⟨_, rfl⟩
  · exact ⟨_, rfl⟩

/-- A privileged instruction where its state may not run it traps at its slot. -/
theorem Runs.privStep_traps {s : State} {u g : Nat} {U : Unit} {G : Group} {xs : Uses} {ok : Unit → Group → Bool} (hr : Runs s u g U G)
    (hc : Clear s u g U xs) (ho : ok U G = false) (k : Nat → Nat → Unit → Group → Out) :
    privStep ok xs s k = .next (s.takeTrap u g ⟨3, G.pc, G.mask, G.pc, none⟩) := by
  rw [Machine.privStep_traps hr.1 hr.2 hc.1 hc.2 ho, groupTrap, BitVec.ofNat_toNat, BitVec.setWidth_eq]

/-- Settles O35: each instruction's frame asks for its states before anything else. -/
theorem privilegedInstructionsTrapElsewhere : Obligations.PrivilegedInstructionsTrapElsewhere := by
  intro s u g U G h x f b hr
  refine ⟨fun p hp hc ho => ?_, fun hi hsup hsvc hc => hr.privStep_traps hc ?_ _⟩
  · obtain ⟨k, hk⟩ := exec_of_mem_privTable hp s
    rw [hk, hr.privStep_traps hc ho k]
  · simp [sregPriv, privileged, hi, hsup, hsvc]

end Sys2Proof.Machine
end

section
/-! PROOFS. System instructions: special registers (R204 to R207, R212), the handler's (R208 to R211, R417, R418), and those of service
groups (R213, R214, R461, R462). -/

namespace Sys2Proof.Machine

open Sys2Proof

/-- A privileged group-wide instruction with an active lane, where its state may run it, has its own effect. -/
theorem Once.privUniform_runs {s : State} {u g : Nat} {U : Unit} {G : Group} {h : Hd} {xs : Uses} {l : Nat} {ok : Unit → Group → Bool}
    (ho : Once s u g U G h xs l) (hok : ok U G = true) (k : Nat → Nat → Unit → Group → Nat → Out) :
    privUniform ok h xs s k = k u g U G l := by
  obtain ⟨hr, hc, ls, hact⟩ := ho
  refine (privStep_runs hr.1 hr.2 hc.1 hc.2 hok).trans ?_
  simp only [hact]

/-! ### Special registers (R204 to R207, R212) -/

/-- R204 to R207, R212: each instruction has its own effect where its state may run it. -/
theorem specialRegisterInstructions : Statements.SpecialRegisterInstructionsComplete := by
  intro s u g U G h x l hr
  refine ⟨fun hpriv hc => ?sread, fun ho hp => ?swrite, fun ho hp => ?hrec, fun ho hp => ?hrecW, fun hc => ?perf⟩
  case sread =>
    refine privStep_runs hr.1 hr.2 hc.1 hc.2 ?_
    obtain hp | hp := hpriv
    · rw [hp]; rfl
    · rw [hp, Bool.or_true]
  case swrite => exact ho.privUniform_runs hp _
  case hrec => exact ho.privUniform_runs hp _
  case hrecW => exact ho.privUniform_runs hp _
  case perf => exact hr.issue_of_clear hc _

/-- R205: each register reads its part of the state. -/
theorem specialRegisterValues : Statements.SpecialRegisterValues := by
  intro s U g l G
  refine ⟨rfl, rfl, rfl, fun L hL => ?_, rfl, rfl, rfl, rfl, rfl, rfl, rfl, rfl, rfl, rfl, rfl, fun v => ⟨rfl, rfl, rfl, rfl⟩⟩
  simp only [State.sreg, hL, beq_iff_eq]

/-- Settles O37, by the instructions and the values. -/
theorem specialRegisterInstructionsComplete : Obligations.SpecialRegisterInstructionsComplete :=
  ⟨specialRegisterInstructions, specialRegisterValues⟩

/-! ### The handler's instructions (R208 to R211) -/

section
variable {s : State} {u g : Nat} {U : Unit} {G : Group} {h : Hd} {x : Ops4} {l : Nat}

/-- R208: PMAP whose walk meets no failed link takes the page's mapping from the pool, or ends its launch at an uncorrectable entry. -/
theorem Once.exec_pmap (ho : Once s u g U G h [(x.d, 1)] l) (hp : privileged U G = true)
    (hcut : (s.walkTrail (G.regs.addr x.a.idx.toNat) 5 (s.root U.ctx)).find? (s.entryCut (dieOf U.core)) = none)
    (hheld : s.pmapBad U.ctx (G.regs.addr x.a.idx.toNat) x.b.idx.toNat = none →
      s.walkHeld (dieOf U.core) (s.walkTrail (G.regs.addr x.a.idx.toNat) 5 (s.root U.ctx)) = false) :
    let r := (s.walkReads (dieOf U.core) (s.walkTrail (G.regs.addr x.a.idx.toNat) 5 (s.root U.ctx))).pmap (dieOf U.core) U.ctx
      (G.regs.addr x.a.idx.toNat) x.b.idx.toNat
    exec (.pmap h x) s = .next ((s.pmapBad U.ctx (G.regs.addr x.a.idx.toNat) x.b.idx.toNat).elim
      ((r.2.putD u g x.d r.1).finish u g h) fun pa => s.consume U.launch pa) := by
  intro r
  refine (ho.privUniform_runs hp _).trans ?_
  simp only [hcut]
  cases hbad : s.pmapBad U.ctx (G.regs.addr x.a.idx.toNat) x.b.idx.toNat with
  | some pa => rfl
  | none =>
    simp only [hheld hbad]
    rfl

/-- R209: TLBINV of a group that has no shootdown in progress and no write to be acknowledged starts one. -/
theorem Once.exec_tlbinv {f : TlbForm} (ho : Once s u g U G h (if f = .all then [] else [(x.b, 1)]) l) (hp : privileged U G = true)
    (hno : ∀ d ∈ s.shoots, d.host = false → d.unit = u → d.grp ≠ g) (hack : s.unacked u g = 0) :
    let b := rd32 (s.env U G) G.regs x.b l
    exec (.tlbinv h f x) s = .next (((s.startShoot false u g (if f = .all then none else some (if f = .ctx then b % 4096 else U.ctx))
      (if f = .range then G.regs.addr x.a.idx.toNat else 0) (if f = .range then some b else none)).modGroup u g fun H =>
        { H with mid := true }).stall u g) := by
  have hnone : (s.shoots.any fun d => !d.host && d.unit == u && d.grp == g) = false := by
    simp only [List.any_eq_false, Bool.and_eq_true, Bool.not_eq_true', beq_iff_eq]
    rintro d hd ⟨⟨hh, hu⟩, hg⟩
    exact hno d hd hh hu hg
  cases f
  all_goals
    refine (Once.privUniform_runs ho hp _).trans ?_
    simp only [hnone, hack]
    rfl

/-- R210: ICINV of a group that has none in progress and no write to be acknowledged sends its invalidations where their flows have room. -/
theorem Once.exec_icinv {all : Bool} (ho : Once s u g U G h (if all then [] else [(x.b, 1)]) l)
    (hno : ∀ c ∈ s.icinvs, c.unit = u → c.grp ≠ g) (hack : s.unacked u g = 0)
    (hroom : ∀ d < 4, s.flowFull (dieOf U.core) d 2 = false) :
    let r := sendIcinv (dieOf U.core) [0, 1, 2, 3] s
    let c : Icinv := ⟨s.nextId, u, g, U.ctx, if all then 0 else G.regs.addr x.a.idx.toNat,
      if all then none else some (rd32 (s.env U G) G.regs x.b l), [0, 1, 2, 3], r.1⟩
    exec (.icinv h all x) s = .next
      ((({ r.2 with icinvs := s.icinvs ++ [c] }.fresh).modGroup u g fun H => { H with mid := true }).stall u g) := by
  have hnone : (s.icinvs.any fun c => c.unit == u && c.grp == g) = false := by
    simp only [List.any_eq_false, Bool.and_eq_true, beq_iff_eq]
    rintro c hc ⟨hu, hg⟩
    exact hno c hc hu hg
  have hflows : ([0, 1, 2, 3].any fun d => s.flowFull (dieOf U.core) d 2) = false := by
    simp [hroom]
  refine (ho.privUniform_runs (ok := anyState) rfl _).trans ?_
  simp only [hnone, hack, hflows]
  rfl

/-- R211: PARK of a record that its walk's trap built, where the fault queue takes it. The post is made a variable first: of a match on the
post itself the kernel would evaluate the ring. -/
theorem Runs.exec_park_of_record {r : FaultRec} {s1 : State} {seq : Nat} (hr : Runs s u g U G) (hp : supOnly U G = true)
    (hf : G.faultrec = BitVec.allOnes 64) (hrec : G.record = some r) (hpost : s.post (dieOf U.core) r (.group u g) = some (s1, seq)) :
    exec (.park h x) s = .next (s1.modGroup u g fun H => H.park (dieOf U.core) seq r) := by
  refine (privStep_runs hr.1 hr.2 rfl rfl hp).trans ((if_pos (beq_iff_eq.2 hf)).trans ?_)
  obtain ⟨post, hdef⟩ : ∃ post, post = s.post (dieOf U.core) := ⟨_, rfl⟩
  rw [← hdef] at hpost ⊢
  simp only [hrec, hpost]

/-- R211: PARK of a record that the handler prepared, once it is read and while the fault queue has room. -/
theorem Runs.exec_park_of_prepared {bs : List Byte} {s1 : State} (hr : Runs s u g U G) (hp : supOnly U G = true)
    (hf : G.faultrec ≠ BitVec.allOnes 64) (h0 : G.faultrec ≠ 0) (h64 : G.faultrec.toNat % 64 = 0)
    (hown : s.ownPending u g G.faultrec.toNat 64 = false)
    (hread : engRead ⟨.core U.core, dieOf U.core, U.ctx, some u⟩ ((List.range 64).map fun i => some (G.faultrec.toNat + i)) s = .ok bs s1)
    (hroom : s1.fqRoom (dieOf U.core) = true) :
    let r := s1.postPrepared u g (dieOf U.core) (ofBytesLE bs)
    exec (.park h x) s = .next (r.1.modGroup u g fun H => H.park (dieOf U.core) r.2 (recOf (ofBytesLE bs))) := by
  have hva : ¬ (G.faultrec.toNat = 0 ∨ G.faultrec.toNat % 64 ≠ 0) := by
    rintro (h | h)
    · exact h0 (BitVec.eq_of_toNat_eq h)
    · exact h h64
  refine (privStep_runs hr.1 hr.2 rfl rfl hp).trans ((if_neg (mt beq_iff_eq.1 hf)).trans ((if_neg hva).trans
    ((if_neg (by rw [hown]; decide)).trans ?_)))
  simp only [hread, hroom]
  rfl

end

/-- R208 to R211: each instruction. -/
theorem handlerInstructionsComplete : Statements.HandlerInstructionsComplete := by
  intro s u g U G h x l
  refine ⟨fun ho hp hcut => ⟨fun hbad hheld => ?mapped, fun pa hbad => ?uncorr⟩, fun f ho hp hno hack => ho.exec_tlbinv hp hno hack,
    fun all ho hno hack hroom => ho.exec_icinv hno hack hroom,
    fun hr hp => ⟨fun r s1 seq hf hrec hpost => hr.exec_park_of_record hp hf hrec hpost,
      fun bs s1 hf h0 h64 hown hread hroom => hr.exec_park_of_prepared hp hf h0 h64 hown hread hroom⟩⟩
  case mapped => rw [ho.exec_pmap hp hcut fun _ => hheld, hbad, Option.elim_none]
  case uncorr => rw [ho.exec_pmap hp hcut fun h => (nomatch hbad.symm.trans h), hbad, Option.elim_some]

/-! ### PMAP's status (R208, R418) -/

section
variable {s : State} {die ctx va z : Nat}

/-- A canonical address that translates is left as it is. -/
theorem State.pmap_of_translates (hc : canonical va = true) (hw : (s.walkPa ctx va).isSome = true) : s.pmap die ctx va z = (1, s) :=
  if_pos (by rw [hc, hw]; rfl)

/-- An address that is not canonical, or whose page lies in no first-touch region, is left as it is. -/
theorem State.pmap_of_outside (hw : canonical va = true → (s.walkPa ctx va).isSome = false)
    (ho : canonical va = true → s.inFtreg ctx (va / pmapSize z * pmapSize z) (pmapSize z) = false) : s.pmap die ctx va z = (3, s) := by
  refine (if_neg ?_).trans (if_pos ?_)
  all_goals cases hc : canonical va <;> simp [hw, ho, hc]

/-- A page in a first-touch region is mapped, or the machine is left as it was, with a pool empty or an entry in the way. -/
theorem State.pmap_of_inside (hc : canonical va = true) (hw : (s.walkPa ctx va).isSome = false)
    (hi : s.inFtreg ctx (va / pmapSize z * pmapSize z) (pmapSize z) = true) :
    (s.pmap die ctx va z).1 = 0 ∨ s.pmap die ctx va z = (2, s) ∨ s.pmap die ctx va z = (4, s) := by
  simp only [State.pmap, hc, hw, hi, Bool.and_false, Bool.not_true, Bool.or_self, Bool.false_eq_true, if_false]
  split
  · exact .inr (.inr rfl)
  · exact .inr (.inr rfl)
  · split
    · exact .inr (.inr rfl)
    · split
      · exact .inr (.inl rfl)
      · exact .inl rfl
  · split
    · exact .inr (.inl rfl)
    · exact .inl rfl

end

/-- R208, R418: the status by where the address lies. -/
theorem pageMapStatus : Statements.PageMapStatus := by
  intro s die ctx va z _ r
  by_cases hc : canonical va = true
  · cases hw : (s.walkPa ctx va).isSome with
    | true =>
      have hr : r = (1, s) := State.pmap_of_translates hc hw
      simp [hr]
    | false =>
      cases hi : s.inFtreg ctx (va / pmapSize z * pmapSize z) (pmapSize z) with
      | false =>
        have hr : r = (3, s) := State.pmap_of_outside (fun _ => hw) fun _ => hi
        simp [hr]
      | true =>
        obtain hr | hr | hr : r.1 = 0 ∨ r = (2, s) ∨ r = (4, s) := State.pmap_of_inside hc hw hi
        all_goals simp [hr]
  · have hr : r = (3, s) := State.pmap_of_outside (fun h => absurd h hc) fun h => absurd h hc
    simp [hr, hc]

/-! ### Service groups (R213, R214, R461, R462) -/

section
variable {s : State} {u g : Nat} {U : Unit} {G : Group}

/-- R213: lanes whose addresses are aligned raise nothing. -/
theorem svcAlign_of_aligned {n : Nat} {xs : List (Nat × Nat)} (k : Out) (h : ∀ y ∈ xs, y.2 % n = 0) : svcAlign s u g U G n xs k = k := by
  have hnone : xs.filter (fun y => y.2 % n != 0) = [] := List.filter_eq_nil_iff.2 fun y hy => by simp [h y hy]
  simp only [svcAlign, hnone]

/-- R213, R439, R481: writes that no failed link cuts off are performed once their invalidations and chunks are there. -/
theorem State.svcUnlocks_of_ready {h : Hd} {n : Nat} {ys : List (Nat × Nat)} {s1 s2 : State}
    (hcut : ∀ y ∈ ys, s.svcCutWrite (dieOf U.core) y.1 = false) (hinv : svcInvals (dieOf U.core) (ys.map (·.1)) s = (false, s1))
    (hres : svcReserve (ys.map (·.1)) s1 = .ok s2) :
    s.svcUnlocks u g U h n ys = (ys.foldl (fun t y => t.svcUnlock u g U n y) s2).finish u g h := by
  have hnone : ys.find? (fun y => s.svcCutWrite (dieOf U.core) y.1) = none := List.find?_eq_none.2 fun y hy => by simp [hcut y hy]
  simp only [State.svcUnlocks, hnone, hinv, hres]

end

/-- R213, R214, R461, R462: each instruction. -/
theorem serviceInstructionsComplete : Statements.ServiceInstructionsComplete := by
  intro s u g U G h b x hr hsvc e die n xs ys wide
  refine ⟨fun hc halign hlocked => ⟨fun hok => ?lock, fun s1 s2 hok hcut hinv hres => ?unlock⟩, fun hc => ?reply⟩
  case lock =>
    have hfull : (xs.any fun y => s.svcFull die y.2 0) = false := by simp only [List.any_eq_false]; simpa using fun y hy => (hok y hy).1
    have hnone : xs.find? (fun y => s.uncorrIn y.2 n || s.svcCutRead die y.2) = none :=
      List.find?_eq_none.2 fun y hy => by simp [hok y hy]
    refine (privStep_runs hr.1 hr.2 hc.1 hc.2 hsvc).trans ((svcAlign_of_aligned _ halign).trans ((if_neg ?_).trans ?_))
    · rw [hlocked, hfull]; decide
    · simp only [xs, n, e, die] at hnone ⊢
      simp only [hnone]
  case unlock =>
    have hheld : (xs.any fun y => s.heldPage y.2 || s.svcFull die y.2 1) = false :=
      List.any_eq_false.2 fun y hy => by simp [hok y hy]
    refine (privStep_runs hr.1 hr.2 hc.1 hc.2 hsvc).trans ((svcAlign_of_aligned _ halign).trans ((if_neg ?_).trans ?_))
    · rw [hlocked, hheld]; decide
    · exact congrArg _ (State.svcUnlocks_of_ready hcut hinv hres)
  case reply => exact privStep_runs hr.1 hr.2 hc.1 hc.2 hsvc

/-- Settles O38, by its three families. -/
theorem handlerPageMapAndServiceInstructionsComplete : Obligations.HandlerPageMapAndServiceInstructionsComplete :=
  ⟨handlerInstructionsComplete, pageMapStatus, serviceInstructionsComplete⟩

end Sys2Proof.Machine
end

section
/-! PROOFS. Tile tasks, guard slots and slabs (R161, R165 to R171, R175), and the sparse stream's store (R178). -/

namespace Sys2Proof.Machine

open Sys2Proof

/-! ### Tile tasks (R161, R165 to R170) -/

section
variable {s : State} {u g : Nat} {U : Unit} {G : Group} {h : Hd} {x : Ops4} {l : Nat}

/-- R165, R166: a record whose checks pass is posted where the table has room for it. -/
theorem Acts.exec_mxpost (ha : Acts s u g U G h [(x.d, 1)] l) (h64 : groupEa G.regs x.a x.c % 64 = 0)
    (hfit : groupEa G.regs x.a x.c + 64 ≤ U.spadSize)
    (hok : firstFail (s.mxChecks U (s.env U G) (groupEa G.regs x.a x.c) (TaskRec.of (U.spadNat (groupEa G.regs x.a x.c) 64))) = none)
    (hroom : s.tableFull g U G = false) :
    let desc := U.spadNat (groupEa G.regs x.a x.c) 64
    let r := TaskRec.of desc
    let t : Task := ⟨u, g, G.openB, U.nextHandle, BitVec.ofNat 512 desc, .queued, s.clock, s.nextId, r.prio,
      if r.gd then s.guardOf u r.gslot else some true, 0, 0, quadOf U.core, quadOf U.core, false, false, [], [], [], none, none, 0⟩
    exec (.mxpost h x) s = .next (((((({ s with tasks := s.tasks ++ [t] }.fresh).modUnit u
      fun V => { V with nextHandle := nextHandle V.nextHandle }).modGroup u g fun H => H.count 6).putD u g x.d
        U.nextHandle.toNat).settleTasks u).finish u g h) := by
  refine (ha.uniformStep_runs _).trans ((if_neg (by simp [h64])).trans ((if_neg (by omega)).trans ?_))
  simp only [hok, hroom]
  rfl

/-- R169: a handle among the last 2^31 that the unit has posted. -/
theorem Acts.handleStep_runs (ha : Acts s u g U G h [(x.d, 1), (x.b, 1)] l) {w : Word} {d : Nat}
    (hw : BitVec.ofNat 32 (rd32 (s.env U G) G.regs x.b l) = w) (hd : tokenDist U.nextHandle.toNat w.toNat = d) (hw0 : w ≠ 0)
    (hd0 : 0 < d) (hlast : d ≤ 2 ^ 31) (k : Nat → Nat → Unit → Group → Word → Nat → Out) : handleStep h x s k = k u g U G w d := by
  refine (ha.uniformStep_runs _).trans ?_
  simp only [hw, hd]
  refine if_neg ?_
  rintro (h0 | h0 | h0)
  · exact hw0 h0
  · omega
  · omega

end

/-- R161, R165 to R171, R175: each instruction. -/
theorem tileTasksComplete : Statements.TileTaskInstructionsComplete := by
  intro s u g U G h x l e b w d ea desc r
  refine ⟨fun ha h64 hfit hok hroom => ha.exec_mxpost h64 hfit hok hroom, fun ha hw hd hlast => ?handles, fun n ha hlater => ?guards,
    fun ha hlive => ?slab⟩
  case handles =>
    refine ⟨?query, fun hnone => ⟨?wait, ?gone⟩, fun t ht => ?cancel⟩
    case query =>
      change execMxqry h x s = _
      rw [execMxqry, ha.handleStep_runs rfl rfl hw hd hlast]
    case wait =>
      change execMxwait h x s = _
      rw [execMxwait, ha.handleStep_runs rfl rfl hw hd hlast]
      refine (if_neg (by rw [hnone]; decide)).trans ?_
      rfl
    case gone =>
      change execMxcan h x s = _
      rw [execMxcan, ha.handleStep_runs rfl rfl hw hd hlast, hnone]
    case cancel =>
      change execMxcan h x s = _
      rw [execMxcan, ha.handleStep_runs rfl rfl hw hd hlast, ht]
      simp only [beq_iff_eq]
      split <;> rfl
  case guards =>
    intro s1
    exact ⟨(ha.uniformStep_runs _).trans (if_neg (by rw [hlater]; decide)),
      (ha.uniformStep_runs _).trans (if_neg (by rw [hlater]; decide))⟩
  case slab =>
    obtain ⟨y, hy, hl, hh⟩ := hlive
    refine (ha.uniformStep_runs _).trans (if_neg ?_)
    have hany : (U.slabs.any fun y => y.live && y.handle.toNat == b) = true :=
      List.any_eq_true.2 ⟨y, hy, by rw [hl, hh]; simp⟩
    rw [hany]
    decide

/-! ### The sparse stream's store (R178) -/

/-- R178: the store, where its coordinates, its cursor and its places are allowed and no copy holds them back. -/
theorem sparseStreamStoreCompletes : Statements.SparseStreamStoreCompletes := by
  intro s u g U G h m x l ha e es b cur vals y stops all hcoord hco hvo hfit
  have hbad : (vals.any fun v => v.2 % 2 ^ (8 * es - 1) != 0 && decide (0x3FFF < b + v.1)) = false :=
    List.any_eq_false.2 fun v hv => by
      simp only [Bool.and_eq_true, bne_iff_ne, decide_eq_true_eq]
      rintro ⟨hne, hlt⟩
      exact absurd (hcoord v hv hne) (by omega)
  have hin : all.find? (fun z => decide (U.spadSize < z.1 + z.2.length)) = none :=
    List.find?_eq_none.2 fun z hz => by simpa using (hfit z hz).1
  have hfree : (all.any fun z => U.dstBusy z.1 z.2.length || U.srcBusy z.1 z.2.length) = false :=
    List.any_eq_false.2 fun z hz => by
      obtain ⟨-, hdst, hsrc⟩ := hfit z hz
      simp [hdst, hsrc]
  refine (ha.uniformStep_runs _).trans ((if_neg (by rw [hbad]; decide)).trans ((if_neg (mt bne_iff_ne.1 (not_not.2 hco))).trans
    ((if_neg (mt bne_iff_ne.1 (not_not.2 hvo))).trans ?_)))
  simp only [all, stops, y, vals, cur, b, es, e] at hin hfree ⊢
  simp only [hin, hfree]
  rfl

/-- Settles O30, by its two families. -/
theorem tileTaskInstructionsComplete : Obligations.TileTaskInstructionsComplete := ⟨tileTasksComplete, sparseStreamStoreCompletes⟩

end Sys2Proof.Machine
end

section
/-! PROOFS. Shapes (R180 to R182) and the tensor map (R183, R184, R303 to R305). -/

namespace Sys2Proof.Machine

open Sys2Proof

/-! ### Accesses of a group as a whole (R161, R198) -/

section
variable {s : State} {u g : Nat} {U : Unit} {G : Group} {h : Hd} {x : Ops4} {l : Nat}

/-- A read that the group's own stores do not hold back, and that needs no wait, goes on with its bytes. -/
theorem State.groupRead_of_ok {va n : Nat} {bs : List Byte} {s1 : State} (k : Nat → State → Out) (hown : s.ownPending u g va n = false)
    (hread : engRead ⟨.core U.core, dieOf U.core, U.ctx, some u⟩ ((List.range n).map fun i => some ((va + i) % 2 ^ 64)) s = .ok bs s1) :
    s.groupRead u g U G va n k = k (ofBytesLE bs) (s1.rhRaise U.core (s1.readTimes (dieOf U.core) U.ctx
      ((List.range n).map fun i => some ((va + i) % 2 ^ 64)))) := by
  refine (if_neg (by rw [hown]; decide)).trans ?_
  simp only [hread]

/-- A write that the group's own accesses do not hold back, and that needs no wait, goes on at its stamp. -/
theorem State.groupWrite_of_ok {va w : Nat} {bs : List Byte} {s1 : State} (k : State → Out)
    (hown : s.ownPending u g va bs.length = false)
    (hwrite : engWrite ⟨.core U.core, dieOf U.core, U.ctx, none⟩ (s.tcOf U.core) G.relFloor
      (bs.zipIdx.map fun (b, i) => ((va + i) % 2 ^ 64, b)) s = .ok w s1) :
    s.groupWrite u g U G va bs k = k (s1.tcRaise U.core w) := by
  refine (if_neg (by rw [hown]; decide)).trans ?_
  simp only [hwrite]

/-! ### Shapes (R180 to R182) -/

/-- R182: a launch without a predicted shape, or one that is bound off and whose unit is firm, is settled; so is a unit of no launch. -/
theorem State.shapeSettled_of_bound (hL : ∀ L, s.launchOf U = some L → L.shape = 0 ∨ (L.bound = true ∧ U.firm = true)) :
    s.shapeSettled U = true := by
  unfold State.shapeSettled
  cases hl : s.launchOf U with
  | none => rfl
  | some L =>
    obtain h0 | ⟨hb, hf⟩ := hL L hl
    · simp [h0]
    · simp [hb, hf]

/-- R180, R215: SHPSET of a firm unit whose earlier accesses are done stores its word. -/
theorem Acts.exec_shpset {sys : Bool} {o : LaneOk} {s1 : State} (ha : Acts s u g U G h [(x.b, 1)] l) (hfirm : U.firm = true)
    (hq : s.quiet u g = true) (hlane : s.checkLane U G 8 .write noExtra 0 (groupEa G.regs x.a x.c) = .ok (o, s1))
    (hheld : s1.storesHeld u g U [(o, bytesAt (groupEa G.regs x.a x.c) 8 (2 ^ 63 + rd32 (s.env U G) G.regs x.b l))] = false) :
    exec (.shpset h sys x) s = .next ((s1.addStore u g U true (s1.writeFloor U G true)
      (o, bytesAt (groupEa G.regs x.a x.c) 8 (2 ^ 63 + rd32 (s.env U G) G.regs x.b l))).finish u g h) := by
  refine (ha.uniformStep_runs _).trans ((if_neg (by rw [hfirm, hq]; decide)).trans ?_)
  simp only [State.groupAccess, hlane]
  exact if_neg (by rw [hheld]; decide)

/-! ### TMAPSET and TMAPCLR (R183, R184, R305) -/

/-- The state that a TMAPSET writes from: a group that had to wait for the entry waits no more. -/
def State.mapFrom (s : State) (u g : Nat) (G : Group) : State :=
  if G.mid then s.modGroup u g fun H => { H with mid := false, wcVals := [] } else s

/-- It has the lines, the accesses in flight, the tensor maps and the times of the state before. -/
theorem State.mapFrom_frame (s : State) (u g : Nat) (G : Group) : (s.mapFrom u g G).lockedKeys = s.lockedKeys ∧
    (s.mapFrom u g G).ownPending = s.ownPending ∧ (s.mapFrom u g G).tmapOf = s.tmapOf ∧ (s.mapFrom u g G).tcOf = s.tcOf := by
  unfold State.mapFrom
  split <;> exact ⟨rfl, rfl, rfl, rfl⟩

/-- The entry of a tensor whose lines may be given up is written and installed. -/
theorem State.tmapPut_of_room {b d w : Nat} {s2 s3 : State} (hlock : (s.mapFrom u g G).lockedKeys (tensorOf U.ctx b d).coversKey = false)
    (hown : (s.mapFrom u g G).ownPending u g (((s.mapFrom u g G).tmapOf U.ctx + 64 * b) % 2 ^ 64) 64 = false)
    (hwrite : engWrite ⟨.core U.core, dieOf U.core, U.ctx, none⟩ ((s.mapFrom u g G).tcOf U.core) G.relFloor
      ((tmapEntry d).zipIdx.map fun (y, i) => ((((s.mapFrom u g G).tmapOf U.ctx + 64 * b) % 2 ^ 64 + i) % 2 ^ 64, y))
        (s.mapFrom u g G) = .ok w s2)
    (hroom : (s2.tcRaise U.core w).installTensor (tensorOf U.ctx b d) = some s3) :
    s.tmapPut u g U G h b d = .next (s3.finish u g h) := by
  obtain ⟨hlines, hpending, hmap, htc⟩ := s.mapFrom_frame u g G
  rw [hlines] at hlock
  rw [hpending, hmap] at hown
  rw [hmap, htc, State.mapFrom] at hwrite
  refine (if_neg (by rw [hlock, hown]; decide)).trans ?_
  simp only [hwrite, hroom]

/-- R183, R216: TMAPSET whose checks have passed, now or before it had to wait, writes its descriptor. -/
theorem Acts.exec_tmapset {d : Nat} {r : State} (ha : Acts s u g U G h [(x.b, 1)] l)
    (hr : MapReady s u g U G (rd32 (s.env U G) G.regs x.b l) (groupEa G.regs x.a x.c) d r) :
    ∃ t : State, exec (.tmapset h x) s = t.tmapPut u g U G h (rd32 (s.env U G) G.regs x.b l) d ∧
      r = t.mapFrom u g G := by
  obtain ⟨hmid, ⟨i, ys, hvals⟩, hr⟩ | ⟨hmid, hfirm, h64, hb0, hb, hnew, hown, hok, bs, s1, rfl, hread, hr⟩ := hr
  · refine ⟨s, (ha.uniformStep_runs _).trans ((if_pos hmid).trans ?_), by rw [State.mapFrom, hr, if_pos hmid]⟩
    rw [hvals]
  · refine ⟨r, ?_, by rw [State.mapFrom, if_neg (by rw [hmid]; decide)]⟩
    have hfree : ¬ (rd32 (s.env U G) G.regs x.b l = 0 ∨ 2 ^ 24 ≤ rd32 (s.env U G) G.regs x.b l ∨
        (s.tensor? U.ctx (rd32 (s.env U G) G.regs x.b l)).isSome = true) := by
      rw [hnew]
      rintro (h | h | h)
      · exact hb0 h
      · omega
      · cases h
    refine (ha.uniformStep_runs _).trans ((if_neg (by rw [hmid]; decide)).trans ((if_neg (by rw [hfirm]; decide)).trans
      ((if_neg (by simp [h64])).trans ((if_neg hfree).trans ?_))))
    rw [State.groupRead_of_ok _ hown hread, if_neg (by rw [hok]; decide), hr]

/-- R184: TMAPCLR of a registered tensor none of whose lines is tentative or locked clears its entry. -/
theorem Acts.exec_tmapclr {w : Nat} {s1 : State} (ha : Acts s u g U G h [(x.b, 1)] l) (hfirm : U.firm = true)
    (hb0 : rd32 (s.env U G) G.regs x.b l ≠ 0) (hreg : (s.tensor? U.ctx (rd32 (s.env U G) G.regs x.b l)).isSome = true) :
    let b := rd32 (s.env U G) G.regs x.b l
    let mine := fun k : Key => k.ctx == U.ctx && k.tensor == b
    let ent := (s.tmapOf U.ctx + 64 * b) % 2 ^ 64
    (∀ t ∈ s.tent, mine t.key = false) → s.lockedKeys mine = false → s.ownPending u g ent 64 = false →
    engWrite ⟨.core U.core, dieOf U.core, U.ctx, none⟩ (s.tcOf U.core) G.relFloor
      ((List.replicate 64 (0 : Byte)).zipIdx.map fun (y, i) => ((ent + i) % 2 ^ 64, y)) s = .ok w s1 →
    let s2 := (s1.tcRaise U.core w).flushLines mine
    exec (.tmapclr h x) s = .next (({ s2 with tensors := s2.tensors.filter fun t => !(t.ctx == U.ctx && t.id == b) }).finish u g h) := by
  intro b mine ent htent hlock hown hwrite s2
  have hknown : ¬ (b = 0 ∨ (s.tensor? U.ctx b).isNone = true) := by
    rintro (h | h)
    · exact hb0 h
    · rw [Option.isNone_iff_eq_none] at h
      rw [h] at hreg
      cases hreg
  have hnone : (s.tent.any fun t => mine t.key) = false := List.any_eq_false.2 fun t ht => by rw [htent t ht]; decide
  refine (ha.uniformStep_runs _).trans ((if_neg (by rw [hfirm]; decide)).trans ((if_neg hknown).trans ((if_neg ?_).trans ?_)))
  · rw [hnone, hlock]
    decide
  · exact State.groupWrite_of_ok _ hown hwrite

end

/-- Settles O31: each instruction. -/
theorem shapeAndTensorMapInstructionsComplete : Obligations.ShapeAndTensorMapInstructionsComplete := by
  intro s u g U G h x l b ea
  refine ⟨fun L hL ha => ?query, fun hr hL => ?wait, fun sys o s1 ha hfirm hq hlane hheld => ha.exec_shpset hfirm hq hlane hheld,
    fun d w r s2 s3 ha hr => ?register, fun w s1 ha hfirm hb0 hreg => ha.exec_tmapclr hfirm hb0 hreg⟩
  case query =>
    refine (ha.uniformStep_runs _).trans ?_
    simp only [hL]
  case wait => exact (hr.issue_of_clear (.nil ..) _).trans (if_pos (State.shapeSettled_of_bound hL))
  case register =>
    intro t ent hlock hown hwrite hroom
    obtain ⟨t0, hexec, rfl⟩ := ha.exec_tmapset hr
    rw [hexec]
    exact State.tmapPut_of_room hlock hown hwrite hroom

end Sys2Proof.Machine
end

section
/-! PROOFS. Spatial mode: staged tokens and SPATQ (R187, R188), the gather of SPATON (R185, R186, R266), and the instructions of an operator
lane (R189 to R195). -/

namespace Sys2Proof.Machine

open Sys2Proof

/-! ### The gather of SPATON (R185, R186, R266) -/

section
variable {s : State} {u g : Nat} {U : Unit} {G : Group} {h : Hd} {x : Ops4} {l : Nat}

/-- Live groups that have all arrived for one image of the kernel are held, and the configuration opens in its load step. -/
theorem State.gathered_of_agreed {V : Unit} {b : Word} (hlive : ∃ H ∈ V.groups, H.st ≠ .ended)
    (hall : ∀ H ∈ V.groups, H.st = .ended ∨ H.spatB = some b) (hb : b.toNat < V.nimg) :
    s.gathered u V = s.modUnit u fun V => { V with
      spat := some (.start b.toNat)
      groups := V.groups.map fun H => if H.st == .ended then H else { H with st := .held } } := by
  have hsame : ∀ y ∈ (V.groups.filter fun G => G.st != .ended).map (·.spatB), y = some b := by
    simp only [List.forall_mem_map, List.mem_filter, bne_iff_ne]
    exact fun H ⟨hH, hst⟩ => (hall H hH).resolve_left hst
  cases hL : (V.groups.filter fun G => G.st != .ended).map (·.spatB) with
  | nil =>
    obtain ⟨H, hH, hst⟩ := hlive
    exact absurd (List.map_eq_nil_iff.1 hL) (List.ne_nil_of_mem (List.mem_filter.2 ⟨hH, bne_iff_ne.2 hst⟩))
  | cons y bs =>
    rw [hL] at hsame
    obtain ⟨rfl, hbs⟩ := List.forall_mem_cons.1 hsame
    have hgo : ((bs.any fun y => y != some b) || decide (V.nimg ≤ b.toNat)) = false := by
      simpa using ⟨hbs, hb⟩
    simp only [State.gathered, hL, hgo]
    rfl

/-- A group that has arrived at SPATON for an image. -/
def Group.arrive (b : Word) (G : Group) : Group := { G with st := .stalled, spatB := some b }

/-- SPATON of a group whose loads and atomics have returned: it arrives, and the last group to arrive gathers them. -/
theorem Once.exec_spaton (ho : Once s u g U G h [(x.b, 1)] l) (hp : s.pendingRegs u g = []) {b : Word}
    (hb : BitVec.ofNat 32 (rd32 (s.env U G) G.regs x.b l) = b) :
    let V := { U with groups := updAt U.groups g (Group.arrive b) }
    exec (.spaton h x) s = .next (if V.groups.all fun H => H.st == .ended || H.spatB.isSome then
      (s.modGroup u g (Group.arrive b)).gathered u V else s.modGroup u g (Group.arrive b)) := by
  obtain ⟨hr, hc, ls, hact⟩ := ho
  intro V
  have hV : (s.modGroup u g fun H => { H with st := .stalled, spatB := some b }).units[u]? = some V :=
    (State.group?_unit (State.modGroup_group?_same (Group.arrive b) hr.2)).1
  refine (hr.issue_of_clear hc _).trans ?_
  simp only [hact]
  refine (if_neg (by rw [hp]; decide)).trans ?_
  simp only [hb, hV]
  split <;> rfl

/-- R185 to R188, R266: each instruction. -/
theorem spatialModeEntryCompletes : Statements.SpatialModeEntryCompletes := by
  intro s u g U G h x l e b s1
  refine ⟨fun ha hroom => ?stage, fun ha => ha.uniformStep_runs _, fun ho hp hother => ?waits, fun ho hp hb hall => ?last⟩
  case stage => exact (ha.uniformStep_runs _).trans (if_neg (by omega))
  case waits =>
    obtain ⟨k, H, hk, hH, hst, hno⟩ := hother
    rw [ho.exec_spaton hp rfl, if_neg fun hgo => ?_]
    · rfl
    · have hmem : H ∈ updAt U.groups g (Group.arrive b) := List.mem_of_getElem? (by rw [updAt_getElem?, if_neg hk, hH])
      simpa [hst, hno] using List.all_eq_true.1 hgo H hmem
  case last =>
    have hagreed : ∀ H ∈ updAt U.groups g (Group.arrive b), H.st = .ended ∨ H.spatB = some b := fun H hH => by
      obtain ⟨k, hk⟩ := List.mem_iff_getElem?.1 hH
      rw [updAt_getElem?] at hk
      split at hk
      · obtain ⟨H0, -, rfl⟩ := Option.map_eq_some_iff.1 hk
        exact .inr rfl
      · next hne => exact hall k H hne hk
    have hmine : Group.arrive b G ∈ updAt U.groups g (Group.arrive b) :=
      List.mem_of_getElem? (by rw [updAt_getElem?, if_pos rfl, (State.group?_unit ho.1.2).2]; rfl)
    rw [ho.exec_spaton hp rfl, if_pos (List.all_eq_true.2 fun H hH => ?_)]
    · exact congrArg _ (State.gathered_of_agreed ⟨_, hmine, GroupSt.noConfusion⟩ hagreed hb)
    · obtain h | h := hagreed H hH <;> simp [h]

end

/-! ### Instructions of an operator lane (R189 to R195) -/

section
variable {s : State} {u o : Nat} {U : Unit} {c : Spat} {p : SOper}

/-- An instruction of a firing under way whose temporaries await no read has its own effect. -/
theorem Fires.operStep_runs (hf : Fires s u o U c p) {uses : Unit → SOper → Uses} (hw : c.waits o (uses U p) = false)
    (k : Unit → Spat → SOper → Out) : operStep uses u o s k = k U c p := by
  obtain ⟨-, hop, hgo⟩ := hf
  simp only [operStep, hop, hgo, hw]
  rfl

/-- The same for an instruction that only operators have. -/
theorem Fires.spatialOp_runs (hf : Fires s u o U c p) {xs : Uses} (hw : c.waits o xs = false)
    (k : Nat → Nat → Unit → Spat → SOper → Out) : spatialOp xs s k = k u o U c p := by
  simp only [spatialOp, hf.1]
  exact hf.operStep_runs (uses := fun _ _ => xs) hw _

/-- R189: the instructions that an operator shares with a group run in registers alone. -/
theorem exec_of_aluOf {i : Instr} {y : Alu} (hi : aluOf i = some y) (s : State) : exec i s = aluStep y s := by
  unfold aluOf at hi
  split at hi <;> cases hi <;> rfl

/-- R190: such an instruction leaves its registers and gives its tokens, where no read on its way goes to the same queues. -/
theorem Fires.aluStep_runs (hf : Fires s u o U c p) {y : Alu} (hw : c.waits o (y.uses (s.operEnv U p)) = false)
    (hpre : y.pre (s.operEnv U p) = none)
    (hfree : ∀ t ∈ (y.run (s.operEnv U p) p.regs).outs, c.queueBusy p.core t.1 none = false) :
    aluStep y s = .next (((s.modSpat u fun c =>
      (y.run (s.operEnv U p) p.regs).outs.foldl (fun c t => c.give p.core t.1 t.2) c).modOper u o fun q =>
        q.putRegs (y.run (s.operEnv U p) p.regs)).operDone u o) := by
  have hgive : ((y.run (s.operEnv U p) p.regs).outs.any fun t => c.queueBusy p.core t.1 none) = false :=
    List.any_eq_false.2 fun t ht => by rw [hfree t ht]; decide
  simp only [aluStep, hf.1, operAlu]
  refine (hf.operStep_runs hw _).trans ?_
  simp only [hpre, hgive]
  rfl

/-- A token is given where no read on its way goes to the same queue. -/
theorem State.operGive_of_free (s : State) (u o : Nat) {c : Spat} {core q : Nat} (v : Nat) (hq : c.queueBusy core q none = false) :
    s.operGive u o c core q v = .next ((s.modSpat u fun c => c.give core q (BitVec.ofNat 32 v)).operDone u o) :=
  if_neg (by rw [hq]; decide)

end

/-- R189 to R195: each instruction. -/
theorem operatorInstructionsComplete : Statements.OperatorInstructionsComplete := by
  intro s u o U c p h x hf va v give
  have hnone : c.waits o [] = false := rfl
  refine ⟨fun i y hi hw hpre => ?alu, fun hw => ⟨fun hq => ?send, fun k q hport hleft => ?store, ?exit⟩, fun hq => ?token, ?drop,
    fun gather k q hw hport hleft hreads hq => ?load⟩
  case alu =>
    intro r hfree
    rw [exec_of_aluOf hi]
    exact hf.aluStep_runs hw hpre hfree
  case send =>
    have hroute : bitsAt x.b.idx.toNat 0 5 = x.b.idx.toNat % 32 := by simp [bitsAt]
    refine (hf.spatialOp_runs hw _).trans ?_
    rw [hroute]
    exact s.operGive_of_free u o _ hq
  case store =>
    refine (hf.spatialOp_runs hw _).trans ?_
    simp only [hport]
    refine (if_neg (by omega)).trans ?_
    split <;> rfl
  case exit => exact hf.spatialOp_runs hw _
  case token =>
    refine (hf.spatialOp_runs hnone _).trans ((s.operGive_of_free u o _ hq).trans ?_)
    cases p.regs.pred x.a.idx.toNat 0 <;> rfl
  case drop => exact hf.spatialOp_runs hnone _
  case load =>
    intro r
    have hbusy : (decide (8 ≤ q.reads.length) ||
        (x.d.cls == .queue && c.queueBusy p.core x.d.idx.toNat (some (p.core, q.port)))) = false := by
      by_cases hd : x.d.cls = .queue
      · simp [hq hd, hreads]
      · simp [hd, hreads]
    refine (hf.spatialOp_runs hw _).trans ?_
    simp only [hport]
    refine (if_neg (by omega)).trans ((if_neg (by rw [hbusy]; decide)).trans ?_)
    simp only [beq_iff_eq]
    rfl

/-- Settles O39, by the mode's entry and the operators. -/
theorem spatialInstructionsComplete : Obligations.SpatialInstructionsComplete := ⟨spatialModeEntryCompletes, operatorInstructionsComplete⟩

end Sys2Proof.Machine
end

section
/-! PROOFS. Spatial steps (R186, R190, R192, R195, R258): a firing takes and reserves tokens; then each step of a configuration, by the
conditions that it tests. -/

namespace Sys2Proof.Machine

open Sys2Proof

/-! ### A firing's tokens (R190, R258) -/

/-- One change made at several queues, each by core and index, changes a queue as often as it is named. -/
theorem Spat.foldl_modQueue {α : Type} (key : α → Nat × Nat) {f : SQueue → SQueue} (hcore : ∀ q, (f q).core = q.core)
    (hidx : ∀ q, (f q).idx = q.idx) (xs : List α) (c : Spat) : xs.foldl (fun c x => c.modQueue (key x).1 (key x).2 f) c =
      { c with queues := c.queues.map fun q => f^[(xs.map key).count (q.core, q.idx)] q } := by
  induction xs generalizing c with
  | nil => simp
  | cons x xs ih =>
    rw [List.foldl_cons, ih]
    simp only [Spat.modQueue, List.map_map, List.map_cons]
    congr 1
    refine List.map_congr_left fun q _ => ?_
    by_cases hx : key x = (q.core, q.idx)
    · simp [hx, hcore, hidx]
    · have hne : ¬ (q.core = (key x).1 ∧ q.idx = (key x).2) := fun h => hx (Prod.ext h.1.symm h.2.symm)
      simp [hx, hne]

/-- A firing takes the head token of each queue that its operator reads. -/
theorem Spat.foldl_takeTokens (c : Spat) (core : Nat) {qs : List Nat} (hqs : qs.Nodup) :
    qs.foldl (fun c q => c.modQueue core q fun x => { x with toks := x.toks.tail }) c = { c with queues := c.queues.map fun x =>
      { x with toks := if x.core = core ∧ x.idx ∈ qs then x.toks.tail else x.toks } } := by
  refine (Spat.foldl_modQueue (fun q => (core, q)) (f := fun x => { x with toks := x.toks.tail }) (fun _ => rfl) (fun _ => rfl) qs c).trans ?_
  congr 1
  refine List.map_congr_left fun x _ => ?_
  by_cases hx : x.core = core ∧ x.idx ∈ qs
  · obtain ⟨rfl, hmem⟩ := hx
    have hinj : Function.Injective fun q : Nat => (x.core, q) := fun _ _ h => (Prod.mk.inj h).2
    rw [List.count_map_of_injective _ _ hinj, List.count_eq_one_of_mem hqs hmem, if_pos ⟨rfl, hmem⟩]
    rfl
  · have hcount : (qs.map fun q => (core, q)).count (x.core, x.idx) = 0 :=
      List.count_eq_zero.2 fun hmem => by
        obtain ⟨q, hq, he⟩ := List.mem_map.1 hmem
        obtain ⟨rfl, rfl⟩ := Prod.mk.inj he
        exact hx ⟨rfl, hq⟩
    rw [hcount, if_neg hx]
    rfl

/-- A firing reserves room for each token that its operator gives. -/
theorem Spat.foldl_reserve (c : Spat) (qs : List (Nat × Nat)) :
    qs.foldl (fun c q => c.modQueue q.1 q.2 fun x => { x with resv := x.resv + 1 }) c = { c with queues := c.queues.map fun x =>
      { x with resv := x.resv + qs.count (x.core, x.idx) } } := by
  have hiter (n : Nat) (x : SQueue) : (fun x => ({ x with resv := x.resv + 1 } : SQueue))^[n] x = { x with resv := x.resv + n } := by
    induction n with
    | zero => rfl
    | succ n ih => rw [Function.iterate_succ_apply', ih, Nat.add_assoc]
  refine (Spat.foldl_modQueue id (f := fun x => { x with resv := x.resv + 1 }) (fun _ => rfl) (fun _ => rfl) qs c).trans ?_
  simp only [hiter, List.map_id]

/-- The element at the changed place. -/
theorem updAt_getElem?_same {α : Type} {xs : List α} {k : Nat} {x : α} (h : xs[k]? = some x) (f : α → α) :
    (updAt xs k f)[k]? = some (f x) := by
  rw [updAt_getElem?, if_pos rfl, h, Option.map_some]

/-- An operator names each queue that it reads once. -/
theorem SOper.reads_nodup (p : SOper) : p.reads.Nodup := List.nodup_dedup _

/-- Settles O40: a queue loses its head where the operator reads it, and reserves one place for each time the operator names it. -/
theorem firingTakesItsTokens : Obligations.FiringTakesItsTokens := by
  intro c o p hp d
  have hd : d = c.begin o p := rfl
  simp only [Spat.begin, Spat.foldl_takeTokens c p.core p.reads_nodup, Spat.foldl_reserve, List.map_map] at hd
  rw [hd]
  refine ⟨rfl, rfl, ⟨_, updAt_getElem?_same hp _, rfl, rfl, rfl, rfl⟩, fun k hk => ?_, rfl⟩
  rw [updAt_getElem?, if_neg hk]

/-! ### The steps -/

/-- R186, R225 to R228, R267: a configuration in its load step whose image is there, whose region is free and whose staged tokens fit is
loaded. -/
theorem exec_spatialLoad {s s1 : State} {u row col : Nat} {U : Unit} {c : Spat} {i0 : Image} {sig : Option DWord} {qs : List SQueue}
    (hU : s.units[u]? = some U) (hc : U.spat = some c) (hst : U.st = .resident) (hload : c.step = .load) (hsave : U.saveAt = none)
    (himg : s.readImage U c.image (U.core / 32) = .got i0 sig s1) :
    let es := s1.patchesOf U c.image
    let i := { i0 with ops := patchOpers es i0.ops }
    let d := loadSpat U c.image row col i sig qs
    let d1 := { d with ports := patchPorts es d.ports }
    s1.spatPlace U i sig.isSome = false → s1.findRegion u U i = some (row, col) → stageTokens U.staged i.queues = .ok qs →
    exec (.spatialLoad u row col) s = .next (s1.modUnit u fun V => { V with
      spat := some { d1 with drain := s1.drainOf U d1 }, staged := [], seek := none }) := by
  intro es i d d1 hplace hregion hstage
  change execSpatialLoad u row col s = _
  simp only [execSpatialLoad, hU, hc, hst, hload, hsave, himg, es, i] at hplace hregion hstage ⊢
  simp only [hplace, hregion, hstage]
  simp [d, d1, i, es]

/-- R190, R258, R266: an operator of a running configuration whose firing condition holds fires. -/
theorem exec_operatorFiring {s : State} {u o : Nat} {U : Unit} {c : Spat} {p : SOper} (hop : s.oper? u o = some (U, c, p))
    (hst : U.st = .resident) (hrun : c.step = .run) (hfz : c.frozen = false) (hidle : p.resume = 0) (hdrain : c.drain.contains o = false)
    (hsave : U.saveAt = none) (hrate : c.rateOk p = true) (hfire : c.fires p = true) :
    exec (.operatorFiring u o) s = .next (operRun u o 8 (s.modSpat u fun d => d.begin o p)) := by
  have hgo : (!U.running c s.clock || c.drain.contains o || U.saveAt.isSome) = false := by
    rw [hdrain]
    simp [Unit.running, hst, hrun, hfz, hsave]
  change execOperatorFiring u o s = _
  simp only [execOperatorFiring, hop, hidle, hgo, hrate, hfire]
  rfl

/-- R192, R193, R196: a port that no fault or freeze holds back returns its oldest read, or performs what it has posted. -/
theorem exec_streamReadReturn {s : State} {u k : Nat} {U : Unit} {c : Spat} {p : SPort} (hU : s.units[u]? = some U) (hc : U.spat = some c)
    (hst : U.st = .resident) (hp : c.ports[k]? = some p) (hfz : c.frozen = false) (hf : p.fault = none) (hload : c.step ≠ .load)
    (hretry : s.retriedNow (.port u p.core p.port) = false) : exec (.streamReadReturn u k) s =
      .next (p.reads.head?.elim (s.drain u k) fun r => s.portReturn u k U c p r) := by
  have hgo : (U.st != .resident || c.frozen || p.fault.isSome || c.step == .load || s.retriedNow (.port u p.core p.port)) = false := by
    simp [hst, hfz, hf, hload, hretry]
  change execStreamReadReturn u k s = _
  simp only [execStreamReadReturn, hU, hc, hp, hgo]
  cases p.reads <;> rfl

/-- R195, R227, R265: the exit step ends once no read is out and the ports have performed what they had posted. -/
theorem exec_spatialExit {s : State} {u : Nat} {U V : Unit} {c d : Spat} (hU : s.units[u]? = some U) (hc : U.spat = some c)
    (hst : U.st = .resident) (hexit : c.step = .exit) (hreads : c.readsOut = false) (hcycle : c.exitAt.map (·.1) ≠ some s.clock)
    (howes : ∀ p ∈ c.ops, p.owes = false)
    (hV : ((List.range c.ports.length).foldl (fun t k => t.drain u k) s).units[u]? = some V) (hd : V.spat = some d)
    (hwrites : ∀ p ∈ d.ports, p.writes = []) :
    exec (.spatialExit u) s = .next (((List.range c.ports.length).foldl (fun t k => t.drain u k) s).spatEnd u d) := by
  have hgo : (c.step != .exit || U.st != .resident || c.readsOut || c.exitAt.map (·.1) == some s.clock || c.ops.any SOper.owes) = false := by
    simpa [hexit, hst, hreads, hcycle] using howes
  have hdone : (d.ports.any fun p => !p.writes.isEmpty) = false := by simpa using hwrites
  change execSpatialExit u s = _
  simp only [execSpatialExit, hU, hc, hgo, hV, hd, hdone]
  rfl

/-- Settles O41, by the four steps. -/
theorem spatialStepsComplete : Obligations.SpatialStepsComplete := by
  intro s u U c hU hc hst
  refine ⟨fun row col i0 sig s1 qs hload hsave himg => exec_spatialLoad hU hc hst hload hsave himg,
    fun o p hp hrun hfz hidle hdrain hsave hrate hfire => exec_operatorFiring ?oper hst hrun hfz hidle hdrain hsave hrate hfire,
    fun k p hp hfz hf hload hretry => ?read,
    fun hexit hreads hcycle howes V d hV hd hwrites => exec_spatialExit hU hc hst hexit hreads hcycle howes hV hd hwrites⟩
  case oper => simp only [State.oper?, hU, hc, hp]
  case read =>
    have hstep := exec_streamReadReturn hU hc hst hp hfz hf hload hretry
    refine ⟨fun hr => ?none, fun r rs hr => ⟨fun hskip => ?skip, fun hskip bs e s1 hread => ?placed⟩⟩
    case none => rw [hstep, hr, List.head?_nil, Option.elim_none]
    case skip =>
      rw [hstep, hr, List.head?_cons, Option.elim_some]
      exact congrArg _ (if_pos hskip)
    case placed =>
      rw [hstep, hr, List.head?_cons, Option.elim_some]
      refine congrArg _ ((if_neg (by rw [hskip]; decide)).trans ?_)
      simp only [hread]

end Sys2Proof.Machine
end

section
/-! PROOFS. The choice of a quarter (R242, R250): it takes a group that comes first in one linear order, by age from 48 cycles on and by
class and turn before that, so that one is chosen wherever one is READY; and none once the quarter has issued. -/

namespace Sys2Proof.Machine

open Sys2Proof

/-! ### When a quarter chooses a group (R250) -/

theorem State.mem_rivals {s : State} {U : Unit} {g : Nat} {x : Group × Nat} : x ∈ s.rivals U g ↔
    x ∈ U.groups.zipIdx ∧ x.2 ≠ g ∧ quarterOf U x.2 = quarterOf U g ∧ s.isReady U x.1 = true := by
  simp [State.rivals, and_assoc]

/-- The quarter of `g` holds a group, `g` or a rival, that has been READY for 48 cycles. -/
def State.agedIn (s : State) (U : Unit) (g : Nat) (G : Group) : Prop :=
  48 ≤ G.age s.clock ∨ ∃ x ∈ s.rivals U g, 48 ≤ x.1.age s.clock

section
variable {s : State} {U : Unit} {g : Nat} {G : Group}

/-- Where a group has been READY for 48 cycles, the oldest is chosen. -/
theorem State.picks_iff_of_agedIn (h : s.agedIn U g G) : s.picks U g G = true ↔
    spGet 0 s.lastIssue (quarterOf U g) ≤ s.clock ∧ 48 ≤ G.age s.clock ∧
      ∀ x ∈ s.rivals U g, x.1.age s.clock ≤ G.age s.clock := by
  have haged : (decide (48 ≤ G.age s.clock) || (s.rivals U g).any fun x => decide (48 ≤ x.1.age s.clock)) = true := by
    simpa [State.agedIn] using h
  simp only [State.picks, if_pos haged, Bool.and_eq_true, decide_eq_true_eq, List.all_eq_true]

/-- Before that a group is chosen that no rival precedes by class and turn: among those that have not yielded, or among all where all
have. -/
theorem State.picks_iff_of_not_agedIn (h : ¬ s.agedIn U g G) : s.picks U g G = true ↔
    spGet 0 s.lastIssue (quarterOf U g) ≤ s.clock ∧
      (G.passed s.clock = true → ∀ x ∈ s.rivals U g, x.1.passed s.clock = true) ∧
      ∀ x ∈ s.rivals U g, (x.1.passed s.clock = true → G.passed s.clock = true) →
        x.1.hprio.toNat < G.hprio.toNat ∨ x.1.hprio = G.hprio ∧ s.turnDist U g G ≤ s.turnDist U x.2 x.1 := by
  have haged : ¬ (decide (48 ≤ G.age s.clock) || (s.rivals U g).any fun x => decide (48 ≤ x.1.age s.clock)) = true := by
    simpa [State.agedIn] using h
  simp only [State.picks, if_neg haged]
  cases G.passed s.clock with
  | true => simp +contextual
  | false => simp [or_iff_not_imp_left]

/-- A quarter that has issued in this cycle chooses no group. -/
theorem State.picks_eq_false_of_issued (h : s.clock < spGet 0 s.lastIssue (quarterOf U g)) : s.picks U g G = false := by
  simp [State.picks, Nat.not_le.2 h]

end

/-! ### One comes first (R250) -/

/-- Where a group stands in the choice by class and turn: one that has not yielded above one that has, then by class, then by the turn
that comes sooner. -/
def State.standing (s : State) (U : Unit) (x : Group × Nat) : Bool ×ₗ Nat ×ₗ Natᵒᵈ :=
  toLex (!x.1.passed s.clock, toLex (x.1.hprio.toNat, OrderDual.toDual (s.turnDist U x.2 x.1)))

theorem State.standing_le_iff {s : State} {U : Unit} {x y : Group × Nat} : s.standing U y ≤ s.standing U x ↔
    (y.1.passed s.clock = true ∧ x.1.passed s.clock = false) ∨ (y.1.passed s.clock = x.1.passed s.clock ∧
      (y.1.hprio.toNat < x.1.hprio.toNat ∨ y.1.hprio = x.1.hprio ∧ s.turnDist U x.2 x.1 ≤ s.turnDist U y.2 y.1)) := by
  simp [State.standing, Prod.Lex.toLex_le_toLex, Bool.lt_iff, BitVec.toNat_inj]

/-- The READY groups of a quarter. -/
def State.readyIn (s : State) (U : Unit) (q : Nat) : Set (Group × Nat) :=
  {x | x ∈ U.groups.zipIdx ∧ quarterOf U x.2 = q ∧ s.isReady U x.1 = true}

theorem State.finite_readyIn (s : State) (U : Unit) (q : Nat) : (s.readyIn U q).Finite :=
  U.groups.zipIdx.finite_toSet.subset fun _ hx => hx.1

section
variable {s : State} {U : Unit} {q : Nat} {x : Group × Nat} (hx : x ∈ s.readyIn U q) (hq : spGet 0 s.lastIssue q ≤ s.clock)
include hx

theorem State.mem_readyIn_of_mem_rivals {y : Group × Nat} (hy : y ∈ s.rivals U x.2) : y ∈ s.readyIn U q := by
  obtain ⟨hmem, -, hquarter, hready⟩ := State.mem_rivals.1 hy
  exact ⟨hmem, hquarter.trans hx.2.1, hready⟩

include hq

/-- The oldest is chosen, if it has been READY for 48 cycles. -/
theorem State.picks_of_oldest (hold : 48 ≤ x.1.age s.clock) (hmax : ∀ y ∈ s.readyIn U q, y.1.age s.clock ≤ x.1.age s.clock) :
    s.picks U x.2 x.1 = true :=
  (State.picks_iff_of_agedIn (.inl hold)).2
    ⟨hx.2.1.symm ▸ hq, hold, fun y hy => hmax y (State.mem_readyIn_of_mem_rivals hx hy)⟩

/-- Where none has been READY for 48 cycles, the one of the highest standing is chosen. -/
theorem State.picks_of_highest (hyoung : ∀ y ∈ s.readyIn U q, y.1.age s.clock < 48)
    (hmax : ∀ y ∈ s.readyIn U q, s.standing U y ≤ s.standing U x) : s.picks U x.2 x.1 = true := by
  have hage : ¬ s.agedIn U x.2 x.1 := by
    rintro (h | ⟨y, hy, h⟩)
    · exact absurd h (Nat.not_le.2 (hyoung x hx))
    · exact absurd h (Nat.not_le.2 (hyoung y (State.mem_readyIn_of_mem_rivals hx hy)))
  have hle : ∀ y ∈ s.rivals U x.2, _ := fun y hy =>
    State.standing_le_iff.1 (hmax y (State.mem_readyIn_of_mem_rivals hx hy))
  refine (State.picks_iff_of_not_agedIn hage).2 ⟨hx.2.1.symm ▸ hq, fun hpassed y hy => ?_, fun y hy himp => ?_⟩
  · obtain ⟨hp, -⟩ | ⟨hp, -⟩ := hle y hy
    · exact hp
    · exact hp.trans hpassed
  · obtain ⟨hp, hn⟩ | ⟨-, hturn⟩ := hle y hy
    · rw [himp hp] at hn; cases hn
    · exact hturn

end

/-- A quarter that has not issued in this cycle chooses one of its READY groups. -/
theorem State.exists_picks {s : State} {U : Unit} {q : Nat} (hq : spGet 0 s.lastIssue q ≤ s.clock) (hne : (s.readyIn U q).Nonempty) :
    ∃ x ∈ s.readyIn U q, s.picks U x.2 x.1 = true := by
  obtain ⟨x, hx, hmax⟩ := Set.exists_max_image _ (fun y => y.1.age s.clock) (s.finite_readyIn U q) hne
  obtain hold | hyoung := le_or_gt 48 (x.1.age s.clock)
  · exact ⟨x, hx, State.picks_of_oldest hx hq hold hmax⟩
  · obtain ⟨y, hy, htop⟩ := Set.exists_max_image _ (s.standing U) (s.finite_readyIn U q) hne
    exact ⟨y, hy, State.picks_of_highest hy hq (fun z hz => Nat.lt_of_le_of_lt (hmax z hz) hyoung) htop⟩

/-- Settles O60: a quarter that has issued is marked for the cycle; the chosen group is the one its rule names; and one comes first. -/
theorem aQuarterChoosesOneReadyGroup : Obligations.AQuarterChoosesOneReadyGroup := by
  refine fun s U => ⟨fun g h G H hok hgh => ?issued, fun g G hpick => ⟨fun x hx hxold => ?aged, fun hyoung x hx hfresh => ?young⟩,
    fun q hq ⟨x, hmem, hquarter, hready⟩ => ?chosen⟩
  case issued =>
    refine State.picks_eq_false_of_issued ?_
    change s.clock < spGet 0 (spSet 0 s.lastIssue (quarterOf U g) (s.clock + 1)) (quarterOf U h)
    rw [← hgh, spGet_spSet_same hok]
    exact Nat.lt_succ_self _
  case aged =>
    obtain ⟨-, hold, holdest⟩ := (State.picks_iff_of_agedIn (.inr ⟨x, hx, hxold⟩)).1 hpick
    exact ⟨hold, holdest x hx⟩
  case young =>
    have hage : ¬ s.agedIn U g G := fun h =>
      absurd ((State.picks_iff_of_agedIn h).1 hpick).2.1 (Nat.not_le.2 hyoung)
    obtain ⟨-, -, hclass⟩ := (State.picks_iff_of_not_agedIn hage).1 hpick
    obtain hlt | ⟨heq, -⟩ := hclass x hx fun h => absurd h (by rw [hfresh]; decide)
    · exact hlt.le
    · exact (congrArg BitVec.toNat heq).le
  case chosen =>
    obtain ⟨y, ⟨hy, hyq, hyready⟩, hpick⟩ := State.exists_picks hq ⟨x, hmem, hquarter, hready⟩
    exact ⟨y, hy, hyq, hyready, hpick⟩

end Sys2Proof.Machine
end

section
/-! PROOFS. The course of a launch (R274, R280 to R285, R366, R367, R370, R371, R376): completion, the policy's answer, deadline and signal;
then stages, bind-off and promotion: one lemma for each event. -/

namespace Sys2Proof.Machine

open Sys2Proof

/-! ### Cancel and status (R285, R376) -/

/-- A launch that has stopped already keeps its units as they are when it is cancelled. -/
theorem State.cancelLaunch_of_halted {s : State} {L : Launch} (f : Launch → Launch) (hid : s.launch? L.id = some L)
    (hhalted : L.halted = true) (hlive : L.live = true) : s.cancelLaunch L.id f = s.modLaunch L.id f := by
  simp only [State.cancelLaunch, hid, if_pos hhalted, if_pos hlive]

theorem Launch.endStatus_of_aborted {L : Launch} (h : L.aborted = true) : L.endStatus = 5 := by
  simp only [Launch.endStatus, if_pos h]
  rfl

theorem Launch.endStatus_of_cancelled {L : Launch} (ha : L.aborted = false) (hc : L.cancelled = true) : L.endStatus = 2 := by
  simp only [Launch.endStatus, ha, Bool.false_eq_true, if_false, if_pos hc]
  rfl

section
variable {s : State} {l : Nat} {L : Launch} (hL : s.launches[l]? = some L)
include hL

/-! ### Completion (R285, R366) -/

/-- A launch that is done leaves its level, once its packet is done with. -/
theorem exec_launchCompletion_of_done (hdone : L.done = true) : exec (.launchCompletion l) s = .next
    (if L.leaves = true ∧ s.packetOver L = true then s.leaveChain L else s) := by
  change execLaunchCompletion l s = _
  simp only [execLaunchCompletion, hL, if_pos hdone, Bool.and_eq_true]

section
variable (hdone : L.done = false)
include hdone

/-- A launch of which a group failed is cancelled when its other groups have taken their course. -/
theorem exec_launchCompletion_of_failing (hfail : L.failing ≠ none) : exec (.launchCompletion l) s = .next
    (if s.failDue L then s.cancelLaunch L.id fun x => x else s) := by
  change execLaunchCompletion l s = _
  simp only [execLaunchCompletion, hL, hdone, Bool.false_eq_true, if_false, if_pos (Option.isSome_iff_ne_none.2 hfail)]

/-- A launch that is over meets the abort in its signal first; then come its writes, and then its end. -/
theorem exec_launchCompletion_of_over (hfail : L.failing = none) (hover : s.launchOver L = true) :
    exec (.launchCompletion l) s = .next
      (if L.status = 0 ∧ L.cancelled = false ∧ L.aborted = false ∧ s.signalled L = true then s.abortLaunch L
      else if L.status = 0 then (s.modLaunch L.id fun x => { x with status := L.endStatus }).endWrites L
      else { s.modLaunch L.id fun x => { x with done := true, leaves := true } with
        monitors := s.monitors.filter fun m => m.who != .launch L.id }) := by
  change execLaunchCompletion l s = _
  simp only [execLaunchCompletion, hL, hdone, hfail, hover, Bool.false_eq_true, if_false, Option.isSome_none, Bool.not_true,
    Bool.and_eq_true, beq_iff_eq, Bool.not_eq_true', and_assoc]
  split_ifs <;> rfl

end

/-! ### Predicted count, deadline and signal (R367, R370, R371, R376) -/

/-- The policy's answer in time is the predicted count. -/
theorem exec_predictorAnswer_in_time (count : Word) (hlive : L.live = true) (hneed : L.needPolicy = true)
    (htime : s.clock < L.startedAt + 4096) :
    exec (.predictorAnswer l count) s = .next (s.modLaunch L.id (Launch.takeCount count.toNat)) := by
  change execPredictorAnswer l count s = _
  simp only [execPredictorAnswer, hL, hlive, hneed, decide_eq_true htime]
  rfl

/-- Without an answer in time the hint is the predicted count. -/
theorem exec_predictorTimeout_of_late (hlive : L.live = true) (hneed : L.needPolicy = true) (htime : L.startedAt + 4096 ≤ s.clock) :
    exec (.predictorTimeout l) s = .next (s.modLaunch L.id (Launch.takeCount L.hint.toNat)) := by
  change execPredictorTimeout l s = _
  simp only [execPredictorTimeout, hL, hlive, hneed, decide_eq_true htime]
  rfl

/-- A deadline that has passed raises the launch by one class. -/
theorem exec_deadlineExpiry_of_passed {t : Nat} (hlive : L.live = true) (hat : L.deadlineAt = some t) (htime : t ≤ s.clock) :
    exec (.deadlineExpiry l) s = .next
      (s.modLaunch L.id fun x => { x with deadlineAt := none, prio := min 7 (x.prio + 1) }) := by
  change execDeadlineExpiry l s = _
  simp only [execDeadlineExpiry, hL, hat, hlive, decide_eq_true htime]
  rfl

/-- An abort in the signal of a running launch cancels it. -/
theorem exec_csigAbort_of_running (hlive : L.live = true) (hc : L.cancelled = false) (ha : L.aborted = false) :
    exec (.csigAbort l) s = .next (if s.signalled L then s.abortLaunch L else s) := by
  change execCsigAbort l s = _
  simp only [execCsigAbort, hL, hlive, hc, ha]
  cases s.signalled L <;> rfl

/-! ### Stages (R274) -/

section
variable (hstages : L.stages ≠ []) (hlive : L.live = true) (hstop : L.stopped = false) (htime : L.evalAt + 4096 ≤ s.clock)
include hstages hlive hstop htime

/-- An evaluation that finds no pressed stage, or whose pressed stage is at its maximum, changes its time alone. -/
theorem exec_stageEvaluation_of_not_below
    (hbest : ∀ k, bestOf L.fuller ((L.stages.zipIdx.filter fun x => L.pressed x.2 x.1).map (·.2)) = some k → L.below k = false) :
    exec (.stageEvaluation l) s = .next (s.modLaunch L.id fun x => { x with evalAt := s.clock }) := by
  change execStageEvaluation l s = _
  simp only [execStageEvaluation, hL]
  rw [if_neg (by simp [hstages, hlive, hstop, htime])]
  split
  · next k _ hk => rw [if_pos (by rw [hbest k hk]; rfl)]
  · rfl

/-- A pressed stage below its maximum takes a spare core. -/
theorem exec_stageEvaluation_of_spare {cl k : Nat} (hhome : L.home = some cl)
    (hbest : bestOf L.fuller ((L.stages.zipIdx.filter fun x => L.pressed x.2 x.1).map (·.2)) = some k) (hbelow : L.below k = true)
    (hspare : s.spareCore L cl = true) : exec (.stageEvaluation l) s = .next
      ((s.modLaunch L.id fun x => { x with evalAt := s.clock }).modLaunch L.id fun x =>
        x.modStage k fun st => { st with replicas := st.replicas + 1 }) := by
  change execStageEvaluation l s = _
  simp only [execStageEvaluation, hL]
  rw [if_neg (by simp [hstages, hlive, hstop, htime])]
  simp only [hhome, hbest, hbelow, hspare]
  rfl

end

/-! ### Bind-off (R280, R281, R283) -/

/-- A known count binds the launch off. -/
theorem exec_bindOff_of_count {t : Nat} (ht : L.trueCount = some t) (hshape : L.shape ≠ 0) (hbound : L.bound = false)
    (hstop : L.stopped = false) (hlive : L.live = true) (hneed : L.needPolicy = false) :
    let s1 := (s.recordCount L.ctx L.khdr t).modLaunch L.id fun x => { x with bound := true, nunits := t }
    let s2 := bindUnits L t (List.range s1.units.length) s1
    let lo := max (s.startedOf L) (max L.cast.toNat t)
    let s3 := returnRange L lo (L.pred - lo) s2
    exec (.bindOff l) s = .next { s3 with units := s3.units.map (wakeShape L) } := by
  change execBindOff l s = _
  simp only [execBindOff, hL, ht]
  exact if_neg (by simpa [hbound, hstop, hlive, hneed] using hshape)

end

/-! ### Promotion (R282) -/

/-- The first of a launch's confirmed units, its stores landed, is promoted. -/
theorem exec_promotion_of_first {s s1 s2 : State} {u w : Nat} {U : Unit} {xs : List (Nat × Nat × Byte)} (hU : s.units[u]? = some U)
    (hprom : U.promoting = true) (hfirst : ∀ V ∈ s.units, V.launch = U.launch → V.promoting = true → U.idx ≤ V.idx)
    (hlanded : s.storesLanded u U = true)
    (hcheck : promoCheck ⟨.last (dieOf U.core), dieOf U.core, U.ctx, none⟩ (s.tentBytes u) s = .ok xs s1)
    (hstore : engStore ⟨.last (dieOf U.core), dieOf U.core, U.ctx, none⟩ (s1.tcOf U.core)
      (s1.promoFloor U.core U.ctx (xs.map (·.1))) xs s1 = .ok w s2) :
    exec (.promotion u) s = .next ((({ s2 with tent := s2.tent.filter fun t => t.unit != u } : State).sawPromotion u U w
      (xs.map fun x => (x.1, x.2.2))).modUnit u Unit.promoted) := by
  have hearlier : (s.units.any fun V => V.launch == U.launch && V.promoting && decide (V.idx < U.idx)) = false := by
    simpa [and_imp] using hfirst
  change execPromotion u s = _
  simp only [execPromotion, hU, hearlier, hprom, hlanded, hcheck, hstore]
  rfl

/-! ### The two families -/

/-- Completion, predicted count, deadline and signal. -/
theorem launchCourseCompletes : Sys2Proof.Statements.LaunchCourseCompletes := by
  refine fun s l L hL => ⟨fun hdone => exec_launchCompletion_of_done hL hdone,
    fun hdone hfail => exec_launchCompletion_of_failing hL hdone hfail, fun hdone hfail hdue => ?ends,
    fun f hid hhalted hlive => State.cancelLaunch_of_halted f hid hhalted hlive, Launch.endStatus_of_aborted,
    Launch.endStatus_of_cancelled, fun hlive hneed => ⟨fun count htime => exec_predictorAnswer_in_time hL count hlive hneed htime,
      fun htime => exec_predictorTimeout_of_late hL hlive hneed htime⟩,
    fun t hlive hat htime => exec_deadlineExpiry_of_passed hL hlive hat htime,
    fun hlive hc ha => exec_csigAbort_of_running hL hlive hc ha⟩
  case ends =>
    rw [exec_launchCompletion_of_over hL hdone hfail hdue]
    refine ⟨fun hst hwhy => ?writes, fun hst hc ha hsig => congrArg _ (if_pos ⟨hst, hc, ha, hsig⟩),
      fun hst => by rw [if_neg fun h => hst h.1, if_neg hst]⟩
    case writes =>
      rw [if_neg, if_pos hst]
      rintro ⟨-, hc, ha, hsig⟩
      simp [hc, ha, hsig] at hwhy

/-- Stages, bind-off and promotion. -/
theorem stagesAndShapesComplete : Sys2Proof.Statements.StagesAndShapesComplete := by
  refine fun s l L hL => ⟨fun hstages hlive hstop htime => ⟨fun hbest => ?none, fun k hbest hbelow => ?full,
      fun cl k hhome hbest hbelow hspare => exec_stageEvaluation_of_spare hL hstages hlive hstop htime hhome hbest hbelow hspare⟩,
    fun t ht hshape hbound hstop hlive hneed => exec_bindOff_of_count hL ht hshape hbound hstop hlive hneed,
    fun u U xs s1 s2 w hU hprom hfirst hlanded hcheck hstore => exec_promotion_of_first hU hprom hfirst hlanded hcheck hstore⟩
  case none => exact exec_stageEvaluation_of_not_below hL hstages hlive hstop htime fun k hk => by rw [hbest] at hk; cases hk
  case full => exact exec_stageEvaluation_of_not_below hL hstages hlive hstop htime fun j hj => by rw [hbest] at hj; cases hj; exact hbelow

/-- Settles O48, by its two families of events. -/
theorem launchEventsComplete : Obligations.LaunchEventsComplete := ⟨launchCourseCompletes, stagesAndShapesComplete⟩

end Sys2Proof.Machine
end

section
/-! PROOFS. The form of memory that every step keeps (R297, R301, R306), first where lines and memory change: each change of the list of
lines is a filter, a map that leaves names, or a new line under a key that has none; each line keeps its stretches apart and its bytes
canonical. -/

namespace Sys2Proof.Machine

open Sys2Proof

/-! ### Sound lines -/

/-- A line's stretches lie apart and its bytes are canonical. -/
def Line.Sound (l : Line) : Prop := SegsApart l.segs ∧ spOk 0 l.data = true

theorem Line.Sound.put {l : Line} (hl : l.Sound) (o : Nat) (b : Byte) : (l.put o b).Sound := ⟨hl.1, spOk_spSet o b hl.2⟩

theorem Line.Sound.putAll {l : Line} (hl : l.Sound) (xs : LineBytes) : (l.putAll xs).Sound := by
  induction xs generalizing l with
  | nil => exact hl
  | cons x xs ih => exact ih (hl.put x.1 x.2.2)

@[simp] theorem Line.putAll_name (l : Line) (xs : LineBytes) : (l.putAll xs).name = l.name := by
  induction xs generalizing l with
  | nil => rfl
  | cons x xs ih => exact ih (l.put x.1 x.2.2)

/-- An offset with no byte behind it lies in no stretch. -/
theorem outside_of_segPa {segs : List (Nat × Nat × Nat)} {x : Nat} (h : segPa segs x = none) :
    ∀ g ∈ segs, x < g.1 ∨ g.1 + g.2.1 ≤ x := by
  induction segs with
  | nil => exact fun _ hg => nomatch hg
  | cons y r ih =>
    obtain ⟨o, n, p⟩ := y
    rw [segPa] at h
    split at h
    · cases h
    · next hx => exact List.forall_mem_cons.2 ⟨by dsimp only; omega, ih h⟩

/-- A byte mapped after the fill takes a stretch that no other meets. -/
theorem Line.Sound.cover {l : Line} (hl : l.Sound) (s : State) (hint : Option (Nat × Nat)) : (l.cover s hint).Sound := by
  obtain _ | ⟨o, pa⟩ := hint
  · exact hl
  · rw [Line.cover]
    split
    · exact hl
    · next h =>
      refine ⟨List.pairwise_append.2 ⟨hl.1, List.pairwise_singleton .., fun g hg x hx => ?_⟩, spOk_spSet _ _ hl.2⟩
      have := outside_of_segPa (by simpa using h) g hg
      rw [List.mem_singleton.1 hx]
      dsimp only
      omega

theorem Line.Sound.coverAll {l : Line} (hl : l.Sound) (s : State) (xs : LineBytes) : (l.coverAll s xs).Sound := by
  induction xs generalizing l with
  | nil => exact hl
  | cons x xs ih => exact ih (hl.cover s _)

/-- Stretches of one byte at different offsets lie apart. -/
theorem segsApart_of_bytes {os : List Nat} {f : Nat → Option (Nat × Nat × Nat)} (hos : os.Nodup)
    (hf : ∀ o x, f o = some x → x.1 = o ∧ x.2.1 = 1) : SegsApart (os.filterMap f) := by
  refine List.Pairwise.filterMap f (fun o o' hne x hx y hy => ?_) hos
  have hx := hf o x hx
  have hy := hf o' y hy
  omega

theorem State.segsApart_lineSegs (s : State) (k : Key) (hint : Option (Nat × Nat)) : SegsApart (s.lineSegs k hint) := by
  unfold State.lineSegs
  split
  · split
    · exact List.pairwise_singleton ..
    · split
      · exact List.pairwise_singleton ..
      · exact List.Pairwise.nil
  · refine segsApart_of_bytes List.nodup_range fun o x h => ?_
    have mapped : ∀ {q : Option Nat}, (q.map fun p => (o, 1, p)) = some x → x.1 = o ∧ x.2.1 = 1 := fun h => by
      obtain ⟨p, _, rfl⟩ := Option.map_eq_some_iff.1 h
      exact ⟨rfl, rfl⟩
    split at h
    · split at h
      · cases h; exact ⟨rfl, rfl⟩
      · exact mapped h
    · exact mapped h

theorem spOk_foldl_spSet {α : Type} (f : α → Nat) (b : α → Byte) (xs : List α) {d : Sparse Byte} (hd : spOk 0 d = true) :
    spOk 0 (xs.foldl (fun d x => spSet 0 d (f x) (b x)) d) = true := by
  induction xs generalizing d with
  | nil => exact hd
  | cons x xs ih => exact ih (spOk_spSet _ _ hd)

theorem State.spOk_segData (s : State) (segs : List (Nat × Nat × Nat)) : spOk 0 (s.segData segs) = true := by
  induction segs with
  | nil => rfl
  | cons g r ih => exact spOk_foldl_spSet _ _ _ ih

/-! ### Changes of the list of lines -/

/-- The keys under which the tile cache holds home lines. -/
def State.homeKeys (s : State) : List Key := (s.lines.filter fun l => !l.proxy).map (·.key)

theorem State.line?_some {s : State} {k : Key} {l : Line} (h : s.line? k = some l) : l ∈ s.lines ∧ l.key = k ∧ l.proxy = false := by
  have hp := List.find?_some h
  simp only [Bool.and_eq_true, beq_iff_eq, Bool.not_eq_true'] at hp
  exact ⟨List.mem_of_find?_eq_some h, hp⟩

theorem State.line?_eq_none {s : State} {k : Key} : s.line? k = none ↔ k ∉ s.homeKeys := by
  simp only [State.line?, State.homeKeys, List.find?_eq_none, List.mem_map, List.mem_filter]
  constructor
  · rintro h ⟨l, ⟨hl, hp⟩, rfl⟩
    exact h l hl (by simpa using hp)
  · intro h l hl hk
    simp only [Bool.and_eq_true, beq_iff_eq] at hk
    exact h ⟨l, ⟨hl, hk.2⟩, hk.1⟩

/-- A change of lines that leaves their names leaves the keys of home lines. -/
theorem homeKeys_map {f : Line → Line} (hf : ∀ l, (f l).name = l.name) (ls : List Line) :
    ((ls.map f).filter fun l => !l.proxy).map (·.key) = (ls.filter fun l => !l.proxy).map (·.key) := by
  have hkey : ∀ l, (f l).key = l.key := fun l => congrArg LineName.key (hf l)
  have hproxy : ∀ l, (f l).proxy = l.proxy := fun l => congrArg LineName.proxy (hf l)
  simp [List.filter_map, Function.comp_def, hkey, hproxy]

section

variable {s t : State}

theorem State.Kept.sound (hs : s.Kept) {l : Line} (hl : l ∈ s.lines) : l.Sound := hs.2.2 l hl

theorem State.Kept.sound_line (hs : s.Kept) {k : Key} {l : Line} (h : s.line? k = some l) : l.Sound := hs.sound (State.line?_some h).1

theorem State.Kept.homeKeys_nodup (hs : s.Kept) : s.homeKeys.Nodup := hs.2.1

/-- What the form of memory depends on: memory and lines alone. -/
theorem State.Kept.of_eq (hs : s.Kept) (hm : t.mem = s.mem) (hl : t.lines = s.lines) : t.Kept := by
  rwa [State.Kept, hm, hl]

theorem State.Kept.withMem (hs : s.Kept) {m : List Host.Cell} (hm : Machine.memWf m = true) :
    ({ s with mem := m } : State).Kept := ⟨hm, hs.2⟩

theorem State.Kept.filterLines (hs : s.Kept) (p : Line → Bool) : ({ s with lines := s.lines.filter p } : State).Kept :=
  ⟨hs.memWf, hs.homeKeys_nodup.sublist ((List.filter_sublist.filter _).map _), fun _ hl => hs.sound (List.mem_filter.1 hl).1⟩

theorem State.Kept.mapLines (hs : s.Kept) {f : Line → Line} (hname : ∀ l, (f l).name = l.name) (hf : ∀ l ∈ s.lines, l.Sound → (f l).Sound) :
    ({ s with lines := s.lines.map f } : State).Kept := by
  refine ⟨hs.memWf, (homeKeys_map hname s.lines).symm ▸ hs.homeKeys_nodup, fun l hl => ?_⟩
  obtain ⟨m, hm, rfl⟩ := List.mem_map.1 hl
  exact hf m hm (hs.sound hm)

/-- The same of a change at the lines that a test names. -/
theorem State.Kept.mapLinesIf (hs : s.Kept) {p : Line → Bool} {f : Line → Line} (hname : ∀ l, p l = true → (f l).name = l.name)
    (hf : ∀ l, p l = true → l.Sound → (f l).Sound) :
    ({ s with lines := s.lines.map fun l => if p l then f l else l } : State).Kept := by
  refine hs.mapLines (fun l => ?_) fun l _ hl => ?_ <;> split
  · next h => exact hname l h
  · rfl
  · next h => exact hf l h hl
  · exact hl

/-- A line under a key that has no home line, or a proxy copy, comes to the others. -/
theorem State.Kept.addLine (hs : s.Kept) {l : Line} (hl : l.Sound) (hnew : l.proxy = true ∨ s.line? l.key = none) :
    ({ s with lines := l :: s.lines } : State).Kept := by
  refine ⟨hs.memWf, ?_, List.forall_mem_cons.2 ⟨hl, fun _ => hs.sound⟩⟩
  show (((l :: s.lines).filter fun l => !l.proxy).map (·.key)).Nodup
  obtain hp | hk := hnew
  · rw [List.filter_cons_of_neg (by simp [hp])]; exact hs.homeKeys_nodup
  · cases hp : l.proxy with
    | true => rw [List.filter_cons_of_neg (by simp [hp])]; exact hs.homeKeys_nodup
    | false =>
      rw [List.filter_cons_of_pos (by simp [hp])]
      exact List.nodup_cons.2 ⟨State.line?_eq_none.1 hk, hs.homeKeys_nodup⟩

theorem State.Kept.putLine (hs : s.Kept) {l : Line} (hl : l.Sound) : (s.putLine l).Kept := by
  refine hs.mapLinesIf (fun m hm => ?_) fun _ _ _ => hl
  simp only [Bool.and_eq_true, beq_iff_eq] at hm
  obtain ⟨⟨hk, hp⟩, hd⟩ := hm
  simp [Line.name, hk, hp, hd]

end

@[simp] theorem State.homeKeys_putLine (s : State) (l : Line) : (s.putLine l).homeKeys = s.homeKeys := by
  refine homeKeys_map (fun m => ?_) s.lines
  split
  · next h =>
    simp only [Bool.and_eq_true, beq_iff_eq] at h
    obtain ⟨⟨hk, hp⟩, hd⟩ := h
    simp [Line.name, hk, hp, hd]
  · rfl

end Sys2Proof.Machine
end

section
/-! PROOFS. Lines are written back, dropped, replaced and filled, and written at their homes (R299, R301, R329, R439): each keeps the form
of memory. -/

namespace Sys2Proof.Machine

open Sys2Proof

section

variable {s : State}

/-! ### Stamps and sleep -/

theorem State.Kept.linkPkt (hs : s.Kept) {die pa cls : Nat} : (s.linkPkt die pa cls).Kept := by
  unfold State.linkPkt
  split <;> exact hs

@[simp] theorem State.homeKeys_linkPkt (s : State) (die pa cls : Nat) : (s.linkPkt die pa cls).homeKeys = s.homeKeys := by
  unfold State.linkPkt
  split <;> rfl

theorem State.Kept.scrubDie (hs : s.Kept) {die : Nat} : (s.scrubDie die).Kept :=
  hs.mapLinesIf (fun _ _ => rfl) fun _ _ hl => hl

theorem State.Kept.touchSlice (hs : s.Kept) {sl : Nat} : (s.touchSlice sl).Kept := by
  unfold State.touchSlice
  dsimp only
  split
  · exact hs
  · split
    · exact hs
    · refine State.Kept.mapLinesIf ?_ (fun _ _ => rfl) fun _ _ hl => hl
      exact hs

theorem State.Kept.farWrite (hs : s.Kept) {l : Line} (hl : l.Sound) {home : Nat} : (s.farWrite l home).1.Kept := hs.putLine hl

theorem State.Kept.passLeases {ls : List Line} (hls : ∀ l ∈ ls, l.Sound) (hs : s.Kept) : (passLeases ls s).Kept := by
  induction ls generalizing s with
  | nil => exact hs
  | cons l ls ih =>
    obtain ⟨hl, hls⟩ := List.forall_mem_cons.1 hls
    exact ih hls (hs.farWrite hl)

theorem State.Kept.linesIn (hs : s.Kept) {pa n : Nat} : ∀ l ∈ s.linesIn pa n, l.Sound := fun _ hl => hs.sound (List.mem_filter.1 hl).1

/-! ### Lines given up -/

theorem State.Kept.writeBack (hs : s.Kept) {k : Key} : (s.writeBack k).Kept := by
  unfold State.writeBack
  split
  · exact hs
  · next l hl =>
    have hclean : Line.Sound { l with dirty := [] } := show l.Sound from hs.sound_line hl
    have hput := (hs.withMem (memWf_writeDirty (s := s) l l.dirty hs.memWf)).putLine hclean
    dsimp only
    split
    · split
      · exact hput
      · exact hput.linkPkt
    · exact hput

theorem State.homeKeys_writeBack (s : State) (k : Key) : (s.writeBack k).homeKeys = s.homeKeys := by
  unfold State.writeBack
  split
  · rfl
  · next l hl =>
    have hput (m : List Host.Cell) : (({ s with mem := m } : State).putLine { l with dirty := [] }).homeKeys = s.homeKeys :=
      State.homeKeys_putLine ..
    dsimp only
    split
    · split
      · exact hput _
      · rw [State.homeKeys_linkPkt]; exact hput _
    · exact hput _

theorem State.Kept.dropLine (hs : s.Kept) {k : Key} : (s.dropLine k).Kept := by
  unfold State.dropLine
  split
  · exact hs
  · exact hs.filterLines _

theorem State.homeKeys_dropLine (s : State) (k : Key) : (s.dropLine k).homeKeys.Sublist s.homeKeys := by
  unfold State.dropLine
  split
  · exact .refl _
  · exact (List.filter_sublist.filter _).map _

theorem State.Kept.replaceLine (hs : s.Kept) {l : Line} : (s.replaceLine l).Kept := by
  unfold State.replaceLine
  split
  · exact hs.filterLines _
  · exact hs.writeBack.dropLine

theorem State.homeKeys_replaceLine (s : State) (l : Line) : (s.replaceLine l).homeKeys.Sublist s.homeKeys := by
  unfold State.replaceLine
  split
  · exact (List.filter_sublist.filter _).map _
  · exact State.homeKeys_writeBack s l.key ▸ State.homeKeys_dropLine ..

/-- Room is made by replacing a line, if at all. -/
theorem State.makeRoom_some {sl st : Nat} {t : State} (h : s.makeRoom sl st = some t) : t = s ∨ ∃ l, t = s.replaceLine l := by
  unfold State.makeRoom at h
  split at h
  · exact .inl (Option.some.inj h).symm
  · obtain ⟨l, _, hl⟩ := Option.map_eq_some_iff.1 h
    exact .inr ⟨l, hl.symm⟩

theorem State.Kept.makeRoom_some (hs : s.Kept) {sl st : Nat} {t : State} (h : s.makeRoom sl st = some t) : t.Kept := by
  obtain rfl | ⟨l, rfl⟩ := State.makeRoom_some h
  · exact hs
  · exact hs.replaceLine

/-- Making room brings no home line. -/
theorem State.line?_none_of_makeRoom {k : Key} {sl st : Nat} {t : State} (h : s.makeRoom sl st = some t) (hk : s.line? k = none) :
    t.line? k = none := by
  obtain rfl | ⟨l, rfl⟩ := State.makeRoom_some h
  · exact hk
  · exact State.line?_eq_none.2 fun hmem => State.line?_eq_none.1 hk ((State.homeKeys_replaceLine s l).subset hmem)

/-! ### Filling a line -/

theorem State.newLine_sound (s : State) (k : Key) (hint : Option (Nat × Nat)) : (s.newLine k hint).2.Sound := by
  unfold State.newLine
  dsimp only
  split <;> exact ⟨s.segsApart_lineSegs k hint, s.spOk_segData _⟩

theorem State.newLine_name (s : State) (k : Key) (hint : Option (Nat × Nat)) :
    (s.newLine k hint).2.name = ⟨k, false, sliceDie (s.homeOf k)⟩ := by
  unfold State.newLine
  dsimp only
  split <;> rfl

theorem State.Kept.newLine (hs : s.Kept) {k : Key} {hint : Option (Nat × Nat)} : (s.newLine k hint).1.Kept := by
  unfold State.newLine
  dsimp only
  split
  · exact hs
  · exact State.Kept.linkPkt (show (s.ptRaise _ _).Kept from hs)

theorem State.homeKeys_newLine (s : State) (k : Key) (hint : Option (Nat × Nat)) : (s.newLine k hint).1.homeKeys = s.homeKeys := by
  unfold State.newLine
  dsimp only
  split
  · rfl
  · exact State.homeKeys_linkPkt ..

/-- A fill gives a sound line, whether the cache keeps it or not. -/
theorem State.Kept.fill_sound (hs : s.Kept) {k : Key} {hint : Option (Nat × Nat)} : (s.fill k hint).2.Sound := by
  unfold State.fill
  dsimp only
  split
  · next l hl => exact (hs.touchSlice.sound_line hl).cover _ _
  · split <;> exact State.newLine_sound ..

theorem State.Kept.fill (hs : s.Kept) {k : Key} {hint : Option (Nat × Nat)} : (s.fill k hint).1.Kept := by
  unfold State.fill
  dsimp only
  split
  · next l hl => exact State.Kept.putLine hs.touchSlice ((hs.touchSlice.sound_line hl).cover _ _)
  · next hk =>
    split
    · exact hs.touchSlice.newLine
    · next s1 hr =>
      have h1 : (s1.newLine k hint).1.Kept := (hs.touchSlice.makeRoom_some hr).newLine
      have hkey : (s1.newLine k hint).2.key = k := congrArg LineName.key (s1.newLine_name k hint)
      refine State.Kept.addLine (s := (s1.newLine k hint).1.touchLine (s1.newLine k hint).2.name) h1 (s1.newLine_sound k hint) (.inr ?_)
      rw [hkey, State.line?_eq_none]
      exact State.homeKeys_newLine s1 k hint ▸ State.line?_eq_none.1 (State.line?_none_of_makeRoom hr hk)

/-! ### Writes at the home -/

theorem State.Kept.ownProxy (hs : s.Kept) {k : Key} {die : Nat} {xs : LineBytes} : (s.ownProxy k die xs).1.Kept := by
  refine State.Kept.mapLinesIf hs (fun l _ => ?_) fun l _ hl => hl.putAll xs
  exact l.putAll_name xs

theorem State.Kept.passOn (hs : s.Kept) {home pa w : Nat} {kept : Bool} {xs : LineBytes} : (s.passOn home pa w kept xs).Kept := by
  have hput := (hs.withMem (memWf_memPut (s := s) xs hs.memWf)).linkPkt (die := home) (pa := pa) (cls := 1)
  unfold State.passOn
  dsimp only
  split <;> exact hput

theorem State.Kept.passOnIf (hs : s.Kept) {c : Bool} {home pa w : Nat} {kept : Bool} {xs : LineBytes} :
    (if c then s.passOn home pa w kept xs else s).Kept := by
  split
  · exact hs.passOn
  · exact hs

theorem State.Kept.lineWrite (hs : s.Kept) {die tc floor : Nat} {k : Key} {xs : LineBytes} :
    (s.lineWrite die tc floor k xs).1.Kept := by
  unfold State.lineWrite
  split
  · exact hs
  · next x r =>
    have h1 : (s.fill k (some (x.1, x.2.1))).1.Kept := hs.fill
    have hl : (s.fill k (some (x.1, x.2.1))).2.Sound := hs.fill_sound
    generalize s.fill k (some (x.1, x.2.1)) = p at h1 hl ⊢
    obtain ⟨s1, l0⟩ := p
    dsimp -zeta only at h1 hl ⊢
    extract_lets home l1 kept through l2 on
    have h2 : l2.Sound := by
      unfold l2
      split <;> exact (hl.coverAll s1 (x :: r)).putAll (x :: r)
    split
    · exact (h1.putLine (l := l2.stampWrite _ tc floor) h2).passOnIf
    · have h3 : (s1.farWrite l2 home).1.Kept := h1.farWrite h2
      generalize s1.farWrite l2 home = p at h3 ⊢
      obtain ⟨s2, w⟩ := p
      dsimp -zeta only at h3 ⊢
      split
      · exact h3.passOnIf.ownProxy
      · exact h3.passOnIf

theorem State.Kept.linesWrite (hs : s.Kept) {die tc floor ctx : Nat} {xs : VaBytes} {ks : List Key} :
    (linesWrite die tc floor ctx xs ks s).1.Kept := by
  induction ks generalizing s with
  | nil => exact hs
  | cons k ks ih => exact ih hs.lineWrite

theorem State.Kept.plainWrite (hs : s.Kept) {xs : VaBytes} : (s.plainWrite xs).Kept := by
  induction xs generalizing s with
  | nil => exact hs
  | cons x xs ih => exact ih (hs.physPut _ _)

theorem State.Kept.writeList (hs : s.Kept) {die ctx tc floor : Nat} {xs : VaBytes} : (s.writeList die ctx tc floor xs).1.Kept :=
  hs.linesWrite.plainWrite

end

end Sys2Proof.Machine
end

section
/-! PROOFS. What it means that an answer keeps the form of memory: each state in it has the form. -/

namespace Sys2Proof.Machine

open Sys2Proof

-- In turn: many short proofs, elaborated at once, would each hold a thread and its stack.
set_option Elab.async false

/-! ### Answers that hold states -/

/-- The next state of an outcome, if it is one, has the form. -/
inductive Out.Kept : Out → Prop
  | next {t : State} (ht : t.Kept) : Out.Kept (.next t)
  | fault (e : Fault) : Out.Kept (.fault e)
  | refused (r : Refusal) : Out.Kept (.refused r)

/-- The state in an optional answer has the form. -/
inductive OptKept {α : Type} (p : α → State) : Option α → Prop
  | some {x : α} (hx : (p x).Kept) : OptKept p (some x)
  | none : OptKept p none

/-- The state in an answer that may be an error has the form; of the error `q` holds. -/
inductive ExKept {ε α : Type} (q : ε → Prop) (p : α → State) : Except ε α → Prop
  | ok {x : α} (hx : (p x).Kept) : ExKept q p (.ok x)
  | error {e : ε} (he : q e) : ExKept q p (.error e)

/-- An engine's access leaves the form, where it answers a state. -/
inductive Piece.Kept {α : Type} : Piece α → Prop
  | ok {x : α} {t : State} (ht : t.Kept) : Piece.Kept (.ok x t)
  | wait {t : State} (ht : t.Kept) : Piece.Kept (.wait t)
  | fault (va : Nat) (w : WalkInfo) : Piece.Kept (.fault va w)
  | uncorr (pa : Nat) : Piece.Kept (.uncorr pa)

/-- What a group fetches leaves the form. -/
inductive Fetched.Kept : Fetched → Prop
  | stop {t : State} (ht : t.Kept) : Fetched.Kept (.stop t)
  | wait {t : State} (ht : t.Kept) : Fetched.Kept (.wait t)
  | got {i : Instr} {t : State} (ht : t.Kept) : Fetched.Kept (.got i t)

/-- What a queue fetches leaves the form. -/
inductive QFetched.Kept : QFetched → Prop
  | stop {t : State} (ht : t.Kept) : QFetched.Kept (.stop t)
  | got {i : Instr} {t : State} (ht : t.Kept) : QFetched.Kept (.got i t)

/-- The start of a launch leaves the form. -/
inductive LaunchRes.Kept : LaunchRes → Prop
  | started {t : State} (ht : t.Kept) : LaunchRes.Kept (.started t)
  | bad {t : State} (ht : t.Kept) : LaunchRes.Kept (.bad t)
  | stall {t : State} (ht : t.Kept) : LaunchRes.Kept (.stall t)

/-- The read of an image leaves the form. -/
inductive ImageRead.Kept : ImageRead → Prop
  | got {i : Image} {v : Option DWord} {t : State} (ht : t.Kept) : ImageRead.Kept (.got i v t)
  | noVariant {t : State} (ht : t.Kept) : ImageRead.Kept (.noVariant t)
  | notHere {t : State} (ht : t.Kept) : ImageRead.Kept (.notHere t)
  | failed {t : State} (ht : t.Kept) : ImageRead.Kept (.failed t)

theorem Out.Kept.of_next {o : Out} {t : State} (ho : Out.Kept o) (h : o = .next t) : t.Kept := by
  subst h; obtain ⟨ht⟩ := ho; exact ht

theorem OptKept.of_some {α : Type} {p : α → State} {o : Option α} {x : α} (ho : OptKept p o) (h : o = .some x) : (p x).Kept := by
  subst h; obtain ⟨hx⟩ := ho; exact hx

theorem OptKept.getD {o : Option State} {t : State} (ho : OptKept (·) o) (ht : t.Kept) : (o.getD t).Kept := by
  obtain hx | _ := ho
  · exact hx
  · exact ht

theorem OptKept.map {o : Option State} {f : State → State} (ho : OptKept (·) o) (hf : ∀ t, t.Kept → (f t).Kept) :
    OptKept (·) (o.map f) := by
  obtain hx | _ := ho
  · exact .some (hf _ hx)
  · exact .none

theorem ExKept.of_ok {ε α : Type} {q : ε → Prop} {p : α → State} {e : Except ε α} {x : α} (he : ExKept q p e) (h : e = .ok x) :
    (p x).Kept := by
  subst h; obtain ⟨hx⟩ := he; exact hx

theorem ExKept.of_error {ε α : Type} {q : ε → Prop} {p : α → State} {e : Except ε α} {x : ε} (he : ExKept q p e) (h : e = .error x) :
    q x := by
  subst h; obtain _ | hx := he; exact hx

theorem Piece.Kept.of_ok {α : Type} {p : Piece α} {x : α} {t : State} (hp : p.Kept) (h : p = .ok x t) : t.Kept := by
  subst h; obtain ⟨ht⟩ := hp; exact ht

theorem Piece.Kept.of_wait {α : Type} {p : Piece α} {t : State} (hp : p.Kept) (h : p = .wait t) : t.Kept := by
  subst h; cases hp; assumption

theorem Fetched.Kept.of_stop {f : Fetched} {t : State} (hf : f.Kept) (h : f = .stop t) : t.Kept := by subst h; cases hf; assumption
theorem Fetched.Kept.of_wait {f : Fetched} {t : State} (hf : f.Kept) (h : f = .wait t) : t.Kept := by subst h; cases hf; assumption
theorem Fetched.Kept.of_got {f : Fetched} {i : Instr} {t : State} (hf : f.Kept) (h : f = .got i t) : t.Kept := by
  subst h; cases hf; assumption

theorem QFetched.Kept.of_stop {f : QFetched} {t : State} (hf : f.Kept) (h : f = .stop t) : t.Kept := by subst h; cases hf; assumption
theorem QFetched.Kept.of_got {f : QFetched} {i : Instr} {t : State} (hf : f.Kept) (h : f = .got i t) : t.Kept := by
  subst h; cases hf; assumption

theorem LaunchRes.Kept.of_started {r : LaunchRes} {t : State} (hr : r.Kept) (h : r = .started t) : t.Kept := by
  subst h; cases hr; assumption
theorem LaunchRes.Kept.of_bad {r : LaunchRes} {t : State} (hr : r.Kept) (h : r = .bad t) : t.Kept := by subst h; cases hr; assumption
theorem LaunchRes.Kept.of_stall {r : LaunchRes} {t : State} (hr : r.Kept) (h : r = .stall t) : t.Kept := by
  subst h; cases hr; assumption

theorem ImageRead.Kept.of_got {r : ImageRead} {i : Image} {v : Option DWord} {t : State} (hr : r.Kept) (h : r = .got i v t) :
    t.Kept := by
  subst h; cases hr; assumption
theorem ImageRead.Kept.of_noVariant {r : ImageRead} {t : State} (hr : r.Kept) (h : r = .noVariant t) : t.Kept := by
  subst h; cases hr; assumption
theorem ImageRead.Kept.of_notHere {r : ImageRead} {t : State} (hr : r.Kept) (h : r = .notHere t) : t.Kept := by
  subst h; cases hr; assumption
theorem ImageRead.Kept.of_failed {r : ImageRead} {t : State} (hr : r.Kept) (h : r = .failed t) : t.Kept := by
  subst h; cases hr; assumption

theorem State.Kept.of_fst {α : Type} {p : State × α} {t : State} {x : α} (hp : p.1.Kept) (h : p = (t, x)) : t.Kept := by
  subst h; exact hp

theorem State.Kept.of_snd {α : Type} {p : α × State} {t : State} {x : α} (hp : p.2.Kept) (h : p = (x, t)) : t.Kept := by
  subst h; exact hp

/-- A state carried along a list keeps the form where each step keeps it. -/
theorem State.Kept.foldl {α : Type} {s : State} {f : State → α → State} {xs : List α} (hs : s.Kept)
    (hf : ∀ t x, t.Kept → (f t x).Kept) : (xs.foldl f s).Kept := by
  induction xs generalizing s with
  | nil => exact hs
  | cons x xs ih => exact ih (hf s x hs)

theorem State.Kept.makeRoom {s : State} {sl st : Nat} (hs : s.Kept) : OptKept (·) (s.makeRoom sl st) := by
  cases h : s.makeRoom sl st with
  | none => exact .none
  | some t => exact .some (hs.makeRoom_some h)

section

variable {s : State}

theorem Out.Kept.thenState {o : Out} {f : State → State} (ho : Out.Kept o) (hf : ∀ t, t.Kept → (f t).Kept) :
    Out.Kept (Machine.thenState o f) := by
  obtain ht | e | r := ho
  · exact .next (hf _ ht)
  · exact .fault e
  · exact .refused r

theorem State.Kept.ite {c : Prop} [Decidable c] {a b : State} (ha : a.Kept) (hb : b.Kept) : (if c then a else b).Kept := by
  split
  · exact ha
  · exact hb

/-- What leaves memory and lines as they were keeps the form. -/
theorem State.Kept.frame {t : State} (hs : s.Kept) (hm : t.mem = s.mem := by with_reducible rfl)
    (hl : t.lines = s.lines := by with_reducible rfl) : t.Kept := hs.of_eq hm hl

end

end Sys2Proof.Machine
end

section
/-! PROOFS. The operations that every meaning is built from keep the form of memory: the parts of the state, the device's own writes
(R438), fault records, traps, and the frames of an instruction. -/

namespace Sys2Proof.Machine

open Sys2Proof

-- In turn: many short proofs, elaborated at once, would each hold a thread and its stack.
set_option Elab.async false

variable {s : State}

/-! ### Packets -/

theorem State.Kept.flowStep {src dst cls : Nat} (hs : s.Kept) : (s.flowStep src dst cls).Kept := hs

theorem State.Kept.sendPkt {src dst cls : Nat} (hs : s.Kept) : (s.sendPkt src dst cls).2.Kept := by
  unfold State.sendPkt
  split
  · exact hs
  · exact hs.flowStep

theorem State.Kept.passPkts {src cls : Nat} {dsts : List Nat} (hs : s.Kept) : (s.passPkts src cls dsts).Kept := hs

theorem State.Kept.backPkts {dst cls : Nat} {srcs : List Nat} (hs : s.Kept) : (s.backPkts dst cls srcs).Kept := hs

theorem State.Kept.sendIcinv {src : Nat} {xs : List Nat} (hs : s.Kept) : (sendIcinv src xs s).2.Kept := by
  fun_induction Machine.sendIcinv src xs s
  · exact hs
  · next h _ _ h1 ih => exact ((ih (hs.sendPkt.of_snd h)).of_snd h1 :)

/-! ### Parts of the state -/

theorem State.Kept.modUnit {u : Nat} {f : Unit → Unit} (hs : s.Kept) : (s.modUnit u f).Kept := hs

theorem State.Kept.modGroup {u g : Nat} {f : Group → Group} (hs : s.Kept) : (s.modGroup u g f).Kept := hs.modUnit

theorem State.Kept.modLaunch {id : DWord} {f : Launch → Launch} (hs : s.Kept) : (s.modLaunch id f).Kept := hs

theorem State.Kept.modQueue {q : Nat} {f : Queue → Queue} (hs : s.Kept) : (s.modQueue q f).Kept := hs

theorem State.Kept.fresh (hs : s.Kept) : s.fresh.Kept := hs

theorem State.Kept.setPt {die v : Nat} (hs : s.Kept) : (s.setPt die v).Kept := hs

theorem State.Kept.ptRaise {die v : Nat} (hs : s.Kept) : (s.ptRaise die v).Kept := hs.setPt

theorem State.Kept.noteGone {die v : Nat} (hs : s.Kept) : (s.noteGone die v).Kept := hs

theorem State.Kept.tcRaise {core v : Nat} (hs : s.Kept) : (s.tcRaise core v).Kept := hs

theorem State.Kept.acqFence {core : Nat} (hs : s.Kept) : (s.acqFence core).Kept := hs.tcRaise

theorem State.Kept.tcCatchUp {core : Nat} (hs : s.Kept) : (s.tcCatchUp core).Kept := by
  unfold State.tcCatchUp
  exact hs.tcRaise.frame

theorem State.Kept.raiseCores {xs : List Nat} {n : Nat} (hs : s.Kept) : (raiseCores xs n s).Kept := by
  fun_induction Machine.raiseCores xs n s
  · exact hs
  · next ih => exact ih hs.tcRaise.tcCatchUp

theorem State.Kept.nextEpoch {die : Nat} (hs : s.Kept) : (s.nextEpoch die).Kept := .raiseCores hs

theorem State.Kept.fitPt {die n : Nat} (hs : s.Kept) : (s.fitPt die n).Kept := hs.ite hs.scrubDie.nextEpoch

theorem State.Kept.dropCopies {lo n d : Nat} (hs : s.Kept) : (s.dropCopies lo n d).Kept := .setPt (.filterLines hs.fitPt _)

theorem State.Kept.dropEarlier {home d : Nat} {xs : List Inval} (hs : s.Kept) : (dropEarlier home d xs s).Kept := by
  fun_induction Machine.dropEarlier home d xs s
  · exact hs
  · next ih => exact ih (.ite (.dropCopies hs) hs)

theorem State.Kept.dropSlots {c : Icinv} {die : Nat} (hs : s.Kept) : (s.dropSlots c die).Kept := hs

theorem State.Kept.icinvEarlier {home d : Nat} {xs : List Icinv} (hs : s.Kept) : (icinvEarlier home d xs s).Kept := by
  fun_induction Machine.icinvEarlier home d xs s
  · exact hs
  · next ih => exact ih (.ite hs.dropSlots.frame hs)

theorem State.Kept.ownInvals {home lo n : Nat} {xs : List Nat} (hs : s.Kept) : (ownInvals home lo n xs s).Kept := by
  fun_induction Machine.ownInvals home lo n xs s
  · exact hs
  · next ih => exact ih (.backPkts (.dropCopies (.passPkts hs.dropEarlier.icinvEarlier)))

theorem State.Kept.ownRegion {pa : Nat} {r : Region} (hs : s.Kept) : (s.ownRegion pa r).Kept := .ownInvals hs

theorem State.Kept.ownSharers {p : PeerEnt} (hs : s.Kept) : (s.ownSharers p).Kept := by
  unfold State.ownSharers
  split
  exact hs.passPkts.backPkts

theorem State.Kept.ownRound {pa : Nat} (hs : s.Kept) : (s.ownRound pa).Kept := by
  unfold State.ownRound
  exact .foldl (.foldl hs fun t _ hr => hr.ownRegion) fun t _ hx => hx.ownSharers

theorem State.Kept.ownRounds {pa n : Nat} (hs : s.Kept) : (s.ownRounds pa n).Kept := by
  unfold State.ownRounds
  split
  · exact hs
  · exact .foldl hs fun _ _ hx => hx.ownRound

theorem State.Kept.ownTouch {pa n : Nat} (hs : s.Kept) : (s.ownTouch pa n).Kept := by
  unfold State.ownTouch
  split
  · exact hs.touchSlice
  · exact .foldl hs fun _ _ hm => hm.touchSlice

theorem State.Kept.ownWrite {pa : Nat} {bs : List Byte} (hs : s.Kept) : (s.ownWrite pa bs).Kept :=
  have h : (((s.ownTouch pa bs.length).ownRounds pa bs.length).physWrite pa bs).Kept := hs.ownTouch.ownRounds.physWrite pa bs
  .passLeases h.linesIn h

theorem State.Kept.ownPut {pa n x : Nat} (hs : s.Kept) : (s.ownPut pa n x).Kept := hs.ownWrite

/-! ### Named operations -/

theorem State.Kept.raiseInt {k : Nat} (hs : s.Kept) : (s.raiseInt k).Kept := .ite hs hs

theorem State.Kept.freeVal (hs : s.Kept) : s.freeVal.2.Kept := hs

theorem State.Kept.evPost {e : FleetEvent} (hs : s.Kept) : (s.evPost e).Kept := .raiseInt hs.ownWrite.ownPut.frame

theorem State.Kept.evDrain {xs : List FleetEvent} (hs : s.Kept) : (evDrain xs s).Kept := by
  fun_induction Machine.evDrain xs s
  · exact hs
  · next ih => exact ih hs.evPost
  · exact hs

theorem State.Kept.event {e0 : FleetEvent} (hs : s.Kept) : (s.event e0).Kept := by
  unfold State.event
  split
  next h => exact .ite (hs.freeVal.of_snd h).evPost (.ite (hs.freeVal.of_snd h :) (hs.freeVal.of_snd h).ownPut)

theorem State.Kept.ringPut {die : Nat} {bs : List Byte} (hs : s.Kept) : (s.ringPut die bs).Kept := hs.ownWrite.ownPut.raiseInt

theorem State.Kept.nextSeq {die : Nat} (hs : s.Kept) : (s.nextSeq die).Kept := hs

theorem State.Kept.postBytes {die : Nat} {bs : List Byte} (hs : s.Kept) : (s.postBytes die bs).Kept := hs.ringPut.nextSeq

theorem State.Kept.post {die : Nat} {r : FaultRec} {agent : FaultAgent} (hs : s.Kept) : OptKept Prod.fst (s.post die r agent) := by
  unfold State.post
  split
  · exact .some hs.postBytes.frame
  · exact .none

theorem State.Kept.postKept {die : Nat} {r : FaultRec} {agent : FaultAgent} (hs : s.Kept) :
    OptKept Prod.fst (s.postKept die r agent) := by
  have hpost := hs.post (die := die) (r := r) (agent := agent)
  conv in State.postKept => delta State.postKept
  generalize s.post die r agent = o at hpost ⊢
  obtain hx | _ := hpost
  · exact .some hx
  · dsimp only
    split
    · exact .none
    · exact .some hs

theorem State.Kept.postOwed {die : Nat} (hs : s.Kept) : (s.postOwed die).Kept := by
  unfold State.postOwed
  split
  · exact hs
  · exact .ite hs hs.ringPut.frame

theorem State.Kept.setRecState {p : Posted} {st : Nat} (hs : s.Kept) : (s.setRecState p st).Kept := by
  unfold State.setRecState
  exact (hs.ownPut.ite hs).frame

theorem State.Kept.withdraw {f : Posted → Bool} {xs : List Posted} (hs : s.Kept) : (withdraw f xs s).Kept := by
  fun_induction Machine.withdraw f xs s
  · exact hs
  · next ih => exact ih (hs.setRecState.ite hs)

theorem State.Kept.barArriveOn {v off n core time : Nat} (hs : s.Kept) : (s.barArriveOn v off n core time).Kept := hs.modUnit

theorem State.Kept.modEngine {e : Nat} {f : Engine → Engine} (hs : s.Kept) : (s.modEngine e f).Kept := .ite hs hs

theorem State.Kept.entryFreed {quad : Nat} (hs : s.Kept) : (s.entryFreed quad).Kept := hs.ite hs.modEngine

theorem State.Kept.finishTask {t : Task} {st : TaskSt} {code : Nat} (hs : s.Kept) : (s.finishTask t st code).Kept := by
  unfold State.finishTask
  split
  · exact hs
  · exact .modUnit (.entryFreed (hs.ite hs.barArriveOn).frame)

theorem State.Kept.discardUnit {u : Nat} {st : UnitSt} (hs : s.Kept) : (s.discardUnit u st).Kept := by
  unfold State.discardUnit
  split
  · exact hs
  · exact .modUnit (.foldl hs.withdraw fun _ _ hx1 => hx1.finishTask)

theorem State.Kept.sendFront {kind : ReqKind} {size : Nat} {rel : Bool} {q ctx va : Nat} {val launch : DWord} {tag : Nat} (hs : s.Kept) :
    (s.sendFront kind size rel q ctx va val launch tag).Kept := by
  unfold State.sendFront
  dsimp only
  split
  · exact .fresh hs
  · exact .fresh hs.sendPkt.frame

theorem State.Kept.issueRetracts {L : Launch} {idx : Nat} {xs : List Retract} (hs : s.Kept) : (issueRetracts L idx xs s).Kept := by
  fun_induction Machine.issueRetracts L idx xs s
  · exact hs
  · next ih => exact ih (hs.sendFront.ite hs)

theorem State.Kept.stopUnits {L : Launch} {xs : List Nat} (hs : s.Kept) : (stopUnits L xs s).Kept := by
  fun_induction Machine.stopUnits L xs s
  · exact hs
  · next ih => exact ih (.ite hs.discardUnit (.issueRetracts hs.discardUnit))
  · next ih => exact ih hs
  · next ih => exact ih hs

theorem State.Kept.returnRange {L : Launch} {lo n : Nat} (hs : s.Kept) : (returnRange L lo n s).Kept := by
  unfold Machine.returnRange
  exact .foldl hs fun _ _ hr => hr.sendFront

theorem State.Kept.withdrawLaunch {id : DWord} (hs : s.Kept) : (s.withdrawLaunch id).Kept := by
  unfold State.withdrawLaunch
  exact hs.withdraw.frame

theorem State.Kept.cancelLaunch {id : DWord} {f : Launch → Launch} (hs : s.Kept) : (s.cancelLaunch id f).Kept := by
  unfold State.cancelLaunch
  split
  · exact hs
  · exact .ite (hs.modLaunch.ite hs) (hs.modLaunch.stopUnits.withdrawLaunch.ite hs.modLaunch.stopUnits.withdrawLaunch.returnRange)

theorem State.Kept.failLaunch {id : DWord} {seq : Nat} (hs : s.Kept) : (s.failLaunch id seq).Kept := hs.cancelLaunch

theorem State.Kept.groupFails {id : DWord} {seq : Nat} (hs : s.Kept) : (s.groupFails id seq).Kept := hs.modLaunch

theorem State.Kept.uncorrLaunch {id : DWord} (hs : s.Kept) : (s.uncorrLaunch id).Kept := hs.cancelLaunch

theorem State.Kept.detect {id : DWord} {pa : Nat} (hs : s.Kept) : (s.detect id pa).Kept := by
  unfold State.detect
  split
  next h => exact .event (hs.freeVal.of_snd h :)

theorem State.Kept.consume {id : DWord} {pa : Nat} (hs : s.Kept) : (s.consume id pa).Kept := hs.detect.uncorrLaunch

theorem State.Kept.barCheck {u : Nat} (hs : s.Kept) : (s.barCheck u).Kept := by
  unfold State.barCheck
  split
  · exact hs
  · exact hs.modUnit.acqFence.ite hs

/-- The definition is unfolded before it is applied, here and wherever one matches on a post: of an applied one the kernel would evaluate
the post. -/
theorem State.Kept.trapFail {u g : Nat} {U : Unit} {t : Trap} (hs : s.Kept) : (s.trapFail u g U t).Kept := by
  conv in State.trapFail => delta State.trapFail
  split
  · exact hs.modGroup
  · next h =>
    exact (hs.post.of_some h).modGroup.barCheck.ite (hs.post.of_some h).modGroup.barCheck.groupFails

theorem State.Kept.trapPark {u g : Nat} {U : Unit} {t : Trap} (hs : s.Kept) : (s.trapPark u g U t).Kept := by
  conv in State.trapPark => delta State.trapPark
  split
  · exact hs.modGroup
  · next h => exact (hs.post.of_some h).modGroup

theorem State.Kept.takeTrap {u g : Nat} {t : Trap} (hs : s.Kept) : (s.takeTrap u g t).Kept := by
  unfold State.takeTrap
  split
  · exact hs
  · split
    · split
      · exact hs.consume
      · exact hs.uncorrLaunch
    · exact hs.trapFail.ite ((hs.trapPark.ite hs.trapFail).ite hs.modGroup)

/-! ### The frame of an instruction -/

theorem State.Kept.stall {u g : Nat} (hs : s.Kept) : (s.stall u g).Kept := hs.modGroup

theorem State.Kept.waitAt {u g : Nat} {k : WaitKind} (hs : s.Kept) : (s.waitAt u g k).Kept := hs.modGroup

theorem State.Kept.claimAt {u g : Nat} {k : Claim} (hs : s.Kept) : (s.claimAt u g k).Kept := hs.modGroup.stall

theorem State.Kept.finish {u g : Nat} {h : Hd} (hs : s.Kept) : (s.finish u g h).Kept := hs.modGroup

theorem State.Kept.finishAt {u g : Nat} {h : Hd} {pc : DWord} (hs : s.Kept) : (s.finishAt u g h pc).Kept := hs.modGroup

theorem State.Kept.trapGroup {u g : Nat} {G : Group} {cause va : Nat} (hs : s.Kept) :
    Out.Kept (s.trapGroup u g G cause va) := .next hs.takeTrap

theorem State.Kept.issueEnv {pre : Env → Option Nat} {uses : Env → Uses} {k : Nat → Nat → Unit → Group → Out} (hs : s.Kept)
    (hk : ∀ u g U G, Out.Kept (k u g U G)) : Out.Kept (issueEnv pre uses s k) := by
  unfold Machine.issueEnv
  split
  · exact .fault _
  · exact .fault _
  · exact .fault _
  · split
    · exact .fault _
    · split
      · exact hs.trapGroup
      · split
        · exact hs.trapGroup
        · split
          · exact .next hs.stall
          · exact hk _ _ _ _

theorem State.Kept.issue {uses : Uses} {k : Nat → Nat → Unit → Group → Out} (hs : s.Kept) (hk : ∀ u g U G, Out.Kept (k u g U G)) :
    Out.Kept (issue uses s k) := hs.issueEnv hk

/-! ### Operators -/

theorem State.Kept.modSpat {u : Nat} {f : Spat → Spat} (hs : s.Kept) : (s.modSpat u f).Kept := hs.modUnit

theorem State.Kept.modOper {u o : Nat} {f : SOper → SOper} (hs : s.Kept) : (s.modOper u o f).Kept := hs.modSpat

theorem State.Kept.operDone {u o : Nat} (hs : s.Kept) : (s.operDone u o).Kept := hs.modOper

theorem State.Kept.trapLive {u g cause va : Nat} (hs : s.Kept) : (s.trapLive u g cause va).Kept := by
  unfold State.trapLive
  split
  · exact hs
  · exact hs.ite hs.takeTrap

theorem State.Kept.spatTrap {u cause va : Nat} (hs : s.Kept) : (s.spatTrap u cause va).Kept := by
  unfold State.spatTrap
  split
  · exact hs
  · exact .foldl hs.withdraw.modUnit fun _ _ hg => hg.trapLive

theorem State.Kept.operTrap {u o cause va : Nat} (hs : s.Kept) : (s.operTrap u o cause va).Kept := by
  unfold State.operTrap
  split
  · exact hs
  · exact hs.modOper.ite hs.spatTrap

theorem State.Kept.rateTrap {u o : Nat} {p : SOper} (hs : s.Kept) : (s.rateTrap u o p).Kept := hs.operTrap

theorem State.Kept.operStep {uses : Unit → SOper → Uses} {u o : Nat} {k : Unit → Spat → SOper → Out} (hs : s.Kept)
    (hk : ∀ U x x1, Out.Kept (k U x x1)) : Out.Kept (operStep uses u o s k) := by
  unfold Machine.operStep
  split
  · exact .fault _
  · split
    · exact .fault _
    · split
      · exact .next hs
      · exact hk _ _ _

theorem State.Kept.groupAlu {x : Alu} (hs : s.Kept) : Out.Kept (groupAlu x s) := by
  unfold Machine.groupAlu
  exact State.Kept.issueEnv hs fun _ _ _ _ => .next hs.modGroup.finish

theorem State.Kept.operAlu {x : Alu} {u o : Nat} (hs : s.Kept) : Out.Kept (operAlu x u o s) := by
  unfold Machine.operAlu
  refine State.Kept.operStep hs fun _ _ _ => ?_
  extract_lets
  split
  · exact .next hs.operTrap
  · split
    · exact .next hs
    · exact .next (.operDone (.modOper hs.modSpat))

theorem State.Kept.aluStep {x : Alu} (hs : s.Kept) : Out.Kept (aluStep x s) := by
  unfold Machine.aluStep
  split
  · exact hs.operAlu
  all_goals exact hs.groupAlu

end Sys2Proof.Machine
end

section
/-! PROOFS. The memory path keeps the form of memory: translation, tile cache and proxies (R297 to R306, R440), loads,
stores, atomics and fences. -/

namespace Sys2Proof.Machine

open Sys2Proof

-- In turn: many short proofs, elaborated at once, would each hold a thread and its stack.
set_option Elab.async false

variable {s : State}

/-! ### The memory path -/

theorem State.Kept.walkReads {die : Nat} {trail : List Nat} (hs : s.Kept) : (s.walkReads die trail).Kept := by
  unfold State.walkReads
  exact .backPkts (.passPkts (.foldl hs fun _ _ ha => ha.touchSlice))

theorem State.Kept.walkEnd {w : Walk} {acc : Acc} {sup : Bool} (hs : s.Kept) :
    ExKept (fun _ => True) (·.2.2.2.2) (s.walkEnd w acc sup) := by
  unfold State.walkEnd
  split
  · exact .error trivial
  · exact .error trivial
  · split
    · exact .error trivial
    · exact .ok (hs.ite hs.ownPut)

theorem State.Kept.walkMake {die va lvl tbl : Nat} {acc : Acc} {sup : Bool} (hs : s.Kept) :
    ExKept (fun _ => True) (·.2.2.2.2) (s.walkMake die va lvl tbl acc sup) := by
  unfold State.walkMake
  dsimp only
  split
  · exact .error trivial
  · split
    · exact .error trivial
    · split
      · next h => exact .ok (hs.walkReads.walkEnd.of_ok h)
      · exact .error trivial

theorem State.Kept.translateWalk {lvl tbl : Nat} {p : TlbPlace} {die ctx va : Nat} {acc : Acc} {sup : Bool} (hs : s.Kept) :
    ExKept (fun _ => True) Prod.snd (s.translateWalk lvl tbl p die ctx va acc sup) := by
  unfold State.translateWalk
  split
  · exact .error trivial
  · next h => exact .ok (hs.walkMake.of_ok h :)

theorem State.Kept.translate {p : TlbPlace} {die ctx va : Nat} {acc : Acc} {sup : Bool} (hs : s.Kept) :
    ExKept (fun _ => True) Prod.snd (s.translate p die ctx va acc sup) := by
  unfold State.translate
  extract_lets far
  have hfar : ExKept (fun _ => True) Prod.snd far := by
    unfold far
    split
    · exact hs.translateWalk
    · split
      · exact hs.translateWalk
      · split
        · exact .ok hs
        · exact hs.translateWalk
  split
  · split
    · exact .ok hs
    · exact hfar
  · exact hfar

theorem State.Kept.decayFrom {a n : Nat} (hs : s.Kept) : (decayFrom a n s).Kept := by
  fun_induction Machine.decayFrom a n s
  · exact hs
  · next ih => exact ih (hs.ite hs.ownPut)

theorem State.Kept.decay (hs : s.Kept) : s.decay.Kept := by
  unfold State.decay
  split
  · exact .foldl hs fun _ _ hx => hx.decayFrom
  · exact hs

theorem State.Kept.heat {s0 : State} {samp pa : Nat} (hs0 : s0.Kept) : (s0.heat samp pa).Kept := by
  unfold State.heat
  split
  · exact hs0
  · split
    · exact hs0
    · exact .ite (.ownPut hs0.decay.frame) hs0.decay.frame

theorem State.Kept.takeRing {ring n : Nat} (hs : s.Kept) : OptKept Prod.snd (takeRing ring n s) := by
  fun_induction Machine.takeRing ring n s
  · exact .some hs
  · exact .none
  · exact .none
  · next h ih => exact .some ((ih hs.ownPut).of_some h :)

theorem State.Kept.fillChunks {t : Tier} {xs : List Nat} (hs : s.Kept) : (s.fillChunks t xs).Kept := by
  unfold State.fillChunks
  exact .foldl hs fun _ _ hx => .ownWrite hx

theorem State.Kept.reserve {pa : Nat} (hs : s.Kept) : OptKept (·) (s.reserve pa) := by
  unfold State.reserve
  split
  · exact .some hs
  · split
    · exact .some hs
    · dsimp only
      split
      · exact .some hs
      · split
        · exact .none
        · next h => exact .some (hs.takeRing.of_some h).fillChunks.ownWrite.ownPut.frame

theorem State.Kept.reserveFailed {ctx pa : Nat} (hs : s.Kept) : (s.reserveFailed ctx pa).Kept := hs.event

theorem State.Kept.rhRaise {core v : Nat} (hs : s.Kept) : (s.rhRaise core v).Kept := hs

theorem State.Kept.touchLine {n : LineName} (hs : s.Kept) : (s.touchLine n).Kept := hs

theorem State.Kept.heatReq {ctx va pa : Nat} (hs : s.Kept) : (s.heatReq ctx va pa).Kept := hs.heat.ite hs.heat

theorem State.Kept.homeRead {die ctx va pa n : Nat} (hs : s.Kept) : (s.homeRead die ctx va pa n).2.Kept := by
  unfold State.homeRead
  split
  · split
    split
    · exact hs.touchSlice.touchLine
    · split
      next h => exact (hs.fill.of_fst h :)
  · exact hs

theorem State.Kept.wakeGroup {u g : Nat} (hs : s.Kept) : (s.wakeGroup u g).Kept := hs.modUnit.modGroup

theorem State.Kept.wakeQueue {q : Nat} (hs : s.Kept) : (s.wakeQueue q).Kept := hs.modQueue

theorem State.Kept.wakeLaunch {id : DWord} {pa : Nat} (hs : s.Kept) : (s.wakeLaunch id pa).Kept := hs.modLaunch.ite hs

theorem State.Kept.wake {w : Watcher} {pa : Nat} (hs : s.Kept) : (s.wake w pa).Kept := by
  unfold State.wake
  split
  · exact hs.wakeGroup
  · exact hs.wakeQueue
  · exact hs.wakeLaunch

theorem State.Kept.wakeMons {pa n : Nat} {xs : List Monitor} (hs : s.Kept) : (wakeMons pa n xs s).Kept := by
  fun_induction Machine.wakeMons pa n xs s
  · exact hs
  · next ih =>
    refine ih ?_
    split
    · exact hs.wake.ite hs
    · exact hs

theorem State.Kept.shapeWatch (hs : s.Kept) : s.shapeWatch.Kept := hs

theorem State.Kept.unclean {pa n : Nat} (hs : s.Kept) : (s.unclean pa n).Kept := hs

theorem State.Kept.contextWatch (hs : s.Kept) : s.contextWatch.Kept := hs

theorem State.Kept.widxWatch {pa n : Nat} (hs : s.Kept) : (s.widxWatch pa n).Kept := by
  unfold State.widxWatch
  refine .foldl hs fun _ _ hQ => ?_
  split
  · exact hQ
  · split
    · split
      · exact hQ
      · split
        next h => exact (hQ.sendPkt.of_snd h).modQueue
    · exact hQ

theorem State.Kept.wrote {pa n : Nat} (hs : s.Kept) : (s.wrote pa n).Kept := hs.unclean.wakeMons.shapeWatch.contextWatch.widxWatch

theorem State.Kept.spanRead {die ctx : Nat} {u : Option Nat} {n n1 n2 n3 : Nat} (hs : s.Kept) :
    (spanRead die ctx u n n1 n2 n3 s).2.Kept := by
  fun_induction Machine.spanRead die ctx u n n1 n2 n3 s
  · exact hs
  · exact hs
  · next h1 _ _ h2 ih => exact ((ih (hs.homeRead.of_snd h1)).of_snd h2 :)

theorem State.Kept.readPage {die ctx : Nat} {u : Option Nat} {va pa n : Nat} (hs : s.Kept) : (s.readPage die ctx u va pa n).2.Kept := by
  unfold State.readPage
  exact hs.spanRead

theorem State.Kept.writePage {die ctx va pa tc floor : Nat} {bs : List Byte} (hs : s.Kept) :
    (s.writePage die ctx va pa tc floor bs).1.Kept := by
  unfold State.writePage
  exact hs.writeList

theorem State.Kept.tentByte {u ctx : Nat} {b : Nat × Byte} (hs : s.Kept) : (s.tentByte u ctx b).Kept := by
  unfold State.tentByte
  split
  split
  · exact hs
  · exact (OptKept.getD hs.makeRoom hs).frame

theorem State.Kept.tentWrite {u ctx : Nat} {bs : List (Nat × Byte)} (hs : s.Kept) : (s.tentWrite u ctx bs).Kept := by
  unfold State.tentWrite
  exact .foldl hs fun _ _ hb => hb.tentByte

theorem State.Kept.sendInvs {home base size : Nat} {xs : List InvTarget} (hs : s.Kept) : (sendInvs home base size xs s).Kept := by
  fun_induction Machine.sendInvs home base size xs s
  · exact hs
  · next h ih => exact ih (hs.sendPkt.of_snd h :)

theorem State.Kept.regionInval {pa : Nat} {r : Region} (hs : s.Kept) : (s.regionInval pa r).Kept := .sendInvs hs

theorem State.Kept.peerInval {home pa : Nat} {sh : List InvTarget} (hs : s.Kept) : (s.peerInval home pa sh).Kept := .sendInvs hs

theorem State.Kept.startInval {s0 : State} {k : Key} {pa die : Nat} {writer : Option Nat} {byHost : Bool} (hs0 : s0.Kept) :
    (s0.startInval k pa die writer byHost).2.Kept := by
  unfold State.startInval
  dsimp only
  split
  · exact hs0.touchSlice
  · split
    · split
      · exact hs0.touchSlice
      · split
        · exact hs0.touchSlice.regionInval
        · exact hs0.touchSlice
    · split
      · exact hs0.touchSlice.peerInval
      · split
        · exact hs0.touchSlice.regionInval.peerInval
        · exact hs0.touchSlice.peerInval

/-! ### Proxies -/

theorem State.Kept.evictRegion {r : Region} (hs : s.Kept) : (s.evictRegion r).Kept := .ite hs (.sendInvs hs)

theorem State.Kept.markRegion {home pa die : Nat} (hs : s.Kept) : (s.markRegion home pa die).2.Kept := by
  unfold State.markRegion
  split
  · exact hs
  · split
    · exact hs
    · split
      · exact hs.evictRegion
      · exact hs

theorem State.Kept.markSegs {home die : Nat} {xs : List (Nat × Nat × Nat)} (hs : s.Kept) : (markSegs home die xs s).2.Kept := by
  fun_induction Machine.markSegs home die xs s
  · exact hs
  · next h ih => exact ih (hs.markRegion.of_snd h)
  · next h => exact (hs.markRegion.of_snd h :)

theorem State.Kept.addProxy {copy : Line} (hs : s.Kept) (hl : copy.Sound) (hp : copy.proxy = true) :
    OptKept (·) (s.addProxy copy) := by
  unfold State.addProxy
  exact hs.touchSlice.makeRoom.map fun t ht => State.Kept.addLine (s := t.touchLine copy.name) ht hl (.inl hp)

theorem State.Kept.askHome {k : Key} {die : Nat} {segs : List (Nat × Nat × Nat)} (hs : s.Kept) : (s.askHome k die segs).Kept := by
  unfold State.askHome
  extract_lets
  split
  · exact hs.passPkts
  · exact .heat hs.passPkts

theorem State.Kept.proxyFill {die : Nat} {k : Key} (hs : s.Kept) : (s.proxyFill die k).Kept := by
  unfold State.proxyFill
  extract_lets home segs
  split
  · exact hs
  · have hl : (((s.askHome k die segs).fill k none).2).Sound := hs.askHome.fill_sound
    have h1 : (((s.askHome k die segs).fill k none).1).Kept := hs.askHome.fill
    split
    next s1 l hf =>
      rw [hf] at hl h1
      split
      · next h2 => exact h1.markSegs.of_snd h2
      · next s2 h2 =>
        dsimp only
        split
        · next h3 =>
          exact (((h1.markSegs.of_snd h2).addProxy
            (copy := { l with proxy := true, die := die, dirty := [], rts := _, wts := _, lock := none })
            hl rfl).of_some h3).setPt.backPkts
        · exact hs

/-! ### Control flow -/

theorem State.Kept.execBra {h : Hd} {join : BitVec 16} {off : Word} (hs : s.Kept) : Out.Kept (execBra h join off s) := by
  unfold Machine.execBra
  exact State.Kept.issue hs fun _ _ _ _ => .next hs.modGroup

theorem State.Kept.execBrx {h : Hd} {a : Opnd} {join : Word} (hs : s.Kept) : Out.Kept (execBrx h a join s) := by
  unfold Machine.execBrx
  refine State.Kept.issue hs fun _ _ _ _ => ?_
  dsimp only
  split
  · exact .next hs.finish
  · exact .next hs.takeTrap
  · exact .next hs.modGroup

theorem State.Kept.execJoin {h : Hd} (hs : s.Kept) : Out.Kept (execJoin h s) := by
  unfold Machine.execJoin
  exact State.Kept.issue hs fun _ _ _ _ => .next hs.modGroup

theorem State.Kept.execExit {h : Hd} (hs : s.Kept) : Out.Kept (execExit h s) := by
  unfold Machine.execExit
  exact State.Kept.issue hs fun _ _ _ _ => .next hs.modGroup.barCheck

theorem State.Kept.execCall {h : Hd} {ind : Bool} {d a : Opnd} {off : Word} (hs : s.Kept) : Out.Kept (execCall h ind d a off s) := by
  unfold Machine.execCall
  exact State.Kept.issue hs fun _ _ _ _ => .next hs.modGroup.finishAt

theorem State.Kept.execRet {h : Hd} {x : Ops4} (hs : s.Kept) : Out.Kept (execRet h x s) := by
  unfold Machine.execRet
  exact State.Kept.issue hs fun _ _ _ _ => .next hs.finishAt

theorem State.Kept.execLoop {h : Hd} {d : Opnd} {off : Word} (hs : s.Kept) : Out.Kept (execLoop h d off s) := by
  unfold Machine.execLoop
  exact State.Kept.issue hs fun _ _ _ _ => .next hs.modGroup.finishAt

theorem State.Kept.barArrive {u g : Nat} (hs : s.Kept) : (s.barArrive u g).Kept := hs.modUnit

theorem State.Kept.execBarSync {h : Hd} (hs : s.Kept) : Out.Kept (execBarSync h s) := by
  unfold Machine.execBarSync
  refine State.Kept.issue hs fun _ _ _ _ => ?_
  split
  · exact .next hs.stall
  · exact .next hs.modGroup.barArrive.barCheck

theorem State.Kept.execBarArrive {h : Hd} (hs : s.Kept) : Out.Kept (execBarArrive h s) := by
  unfold Machine.execBarArrive
  refine State.Kept.issue hs fun _ _ _ _ => ?_
  split
  · exact .next hs.stall
  · exact .next hs.finish.barArrive.barCheck

theorem State.Kept.execYield {h : Hd} (hs : s.Kept) : Out.Kept (execYield h s) := by
  unfold Machine.execYield
  exact State.Kept.issue hs fun _ _ _ _ => .next hs.finish

theorem State.Kept.execNop {h : Hd} (hs : s.Kept) : Out.Kept (execNop h s) := by
  unfold Machine.execNop
  exact State.Kept.issue hs fun _ _ _ _ => .next hs.finish

theorem State.Kept.execSleep {h : Hd} {x : Ops4} (hs : s.Kept) : Out.Kept (execSleep h x s) := by
  unfold Machine.execSleep
  refine State.Kept.issue hs fun _ _ _ _ => ?_
  split
  · exact .next hs.finish
  · exact .next hs.finish.modGroup

theorem State.Kept.execGsync {h : Hd} (hs : s.Kept) : Out.Kept (execGsync h s) := by
  unfold Machine.execGsync
  refine State.Kept.issue hs fun _ _ _ _ => ?_
  split
  · exact .next hs.finish
  · exact .next hs.waitAt

/-! ### Accesses -/

theorem State.Kept.svcUnitIdx {pa : Nat} (hs : s.Kept) : (s.svcUnitIdx pa).2.Kept := by
  unfold State.svcUnitIdx
  split
  · exact hs
  · exact hs.freeVal

/-- Posting, behind a name that the kernel does not unfold: of a match on a post it would evaluate the post. -/
theorem State.Kept.exists_post : ∃ post, post = @State.post ∧
    ∀ {t : State} {die : Nat} {r : FaultRec} {agent : FaultAgent}, t.Kept → OptKept Prod.fst (post t die r agent) :=
  ⟨_, rfl, fun ht => ht.post⟩

theorem State.Kept.noChunks {u g : Nat} {U : Unit} {pa : Nat} (hs : s.Kept) : (s.noChunks u g U pa).Kept := by
  obtain ⟨post, hpost, hkept⟩ := State.Kept.exists_post
  conv in State.noChunks => delta State.noChunks
  rw [← hpost]
  split
  next h1 =>
    split
    · exact hs.modGroup
    · next h2 => exact ((hkept (hs.svcUnitIdx.of_snd h1)).of_some h2).reserveFailed.modGroup

theorem State.Kept.trapLanes {u g ctx : Nat} {G : Group} {fs : List LaneFail} (hs : s.Kept) : Out.Kept (s.trapLanes u g ctx G fs) := by
  unfold State.trapLanes
  split
  · exact .next hs.stall
  · split
    · exact .next hs.takeTrap
    · split
      · exact .next (hs.noChunks.ite hs.reserveFailed.takeTrap)
      · exact .next hs

theorem State.Kept.unitTranslate {U : Unit} {G : Group} {va : Nat} {acc : Acc} (hs : s.Kept) :
    ExKept (fun _ => True) Prod.snd (s.unitTranslate U G va acc) := by
  unfold State.unitTranslate
  split
  · exact .ok hs
  · exact hs.translate

theorem State.Kept.checkLane {U : Unit} {G : Group} {align : Nat} {acc : Acc} {extra : State → Nat → Option Nat} {lane ea : Nat}
    (hs : s.Kept) : ExKept (fun _ => True) Prod.snd (s.checkLane U G align acc extra lane ea) := by
  unfold State.checkLane
  split
  · exact .error trivial
  · split
    · exact .error trivial
    · split
      · exact .error trivial
      · next h2 =>
        split
        · exact .error trivial
        · split
          · split
            · exact .error trivial
            · next h5 => exact .ok ((hs.unitTranslate.of_ok h2).reserve.of_some h5 :)
          · exact .ok (hs.unitTranslate.of_ok h2 :)

theorem State.Kept.checkLanes {U : Unit} {G : Group} {align : Nat} {acc : Acc} {extra : State → Nat → Option Nat} {xs : List (Nat × Nat)}
    (hs : s.Kept) : (checkLanes U G align acc extra xs s).1.Kept := by
  fun_induction Machine.checkLanes U G align acc extra xs s
  · exact hs
  · next h1 ih => exact ((ih hs).of_fst h1 :)
  · next h _ _ _ h1 ih => exact ((ih (hs.checkLane.of_ok h)).of_fst h1 :)

theorem State.Kept.withLanes {u g : Nat} {U : Unit} {G : Group} {align : Nat} {acc : Acc} {extra : State → Nat → Option Nat}
    {eas : List (Nat × Nat)} {k : List LaneOk → State → Out} (hs : s.Kept) (hk : ∀ xs t, t.Kept → Out.Kept (k xs t)) :
    Out.Kept (withLanes s u g U G align acc extra eas k) := by
  unfold Machine.withLanes
  split
  · next h => exact hk _ _ (hs.checkLanes.of_fst h)
  · exact hs.trapLanes

theorem State.Kept.relFence {u g core : Nat} (hs : s.Kept) : (s.relFence u g core).Kept := hs.modGroup

theorem State.Kept.scFence {u g core scope : Nat} (hs : s.Kept) : (s.scFence u g core scope).Kept := by
  unfold State.scFence
  exact hs.tcRaise.relFence.frame

theorem State.Kept.countTile {u g pa : Nat} {hit : Bool} (hs : s.Kept) : (s.countTile u g pa hit).Kept := hs.modGroup.ite hs

theorem State.Kept.sendRead {die pa : Nat} (hs : s.Kept) : (s.sendRead die pa).2.Kept := by
  unfold State.sendRead
  split
  · exact hs.sendPkt
  · exact hs

theorem State.Kept.serveSector {u g : Nat} {U : Unit} {acq : Bool} {q : SectorReq} (hs : s.Kept) :
    (s.serveSector u g U acq q).Kept := by
  unfold State.serveSector
  split
  · exact (State.Kept.sendRead hs.countTile :)
  · split
    · exact hs
    · exact .ite hs hs

theorem State.Kept.l1Put {x : L1Sector} (hs : s.Kept) : (s.l1Put x).Kept := hs

theorem State.Kept.l1Drop {core ctx va n : Nat} (hs : s.Kept) : (s.l1Drop core ctx va n).Kept := hs

/-! ### Service accesses -/

theorem State.Kept.svcHeat {pa : Nat} (hs : s.Kept) : (s.svcHeat pa).Kept := hs.heat

theorem State.Kept.svcAtHome {die cls pa : Nat} (hs : s.Kept) :
    (s.svcAtHome die cls pa).Kept := (hs.touchSlice.ite hs).svcHeat.passPkts.backPkts

theorem State.Kept.svcReads {die pa : Nat} (hs : s.Kept) : (s.svcReads die pa).Kept := by
  unfold State.svcReads
  split
  · exact hs.touchSlice.touchLine
  · exact hs.svcAtHome

theorem State.Kept.svcStamp {l : Line} {pa : Nat} (hs : s.Kept) (hl : l.Sound) : (s.svcStamp l pa).Kept := by
  have h (n tc : Nat) : (s.putLine (l.stampWrite n tc 0)).Kept := hs.putLine hl
  unfold State.svcStamp
  exact .ite (h _ _) (State.Kept.ptRaise (h _ _))

theorem State.Kept.svcWrite {die pa : Nat} {bs : List Byte} (hs : s.Kept) : (s.svcWrite die pa bs).Kept := by
  unfold State.svcWrite
  extract_lets s1 s2
  have h1 : s1.Kept := hs.svcAtHome.ownWrite
  have h2 : s2.Kept := by
    unfold s2
    split
    · exact h1.noteGone
    · next h => exact h1.svcStamp (h1.sound (homeLineAt_some h).1)
  exact h2.wrote

theorem State.Kept.extInval {s0 : State} {pa : Nat} {writer : Option Nat} {byHost : Bool} (hs0 : s0.Kept) :
    (s0.extInval pa writer byHost).2.Kept := by
  unfold State.extInval
  extract_lets
  split
  · exact hs0.touchSlice
  · split
    · exact .foldl hs0.touchSlice fun t r hr => hr.regionInval
    · exact .peerInval (.foldl hs0.touchSlice fun t r hr => hr.regionInval)

theorem State.Kept.svcInval1 {die pa : Nat} (hs : s.Kept) : (s.svcInval1 die pa).2.Kept := by
  unfold State.svcInval1
  split
  · exact hs
  · split
    · exact hs.startInval
    · split
      next h => exact (hs.extInval.of_snd h :)

theorem State.Kept.svcInvals {die : Nat} {xs : List Nat} (hs : s.Kept) : (svcInvals die xs s).2.Kept := by
  fun_induction Machine.svcInvals die xs s
  · exact hs
  · next h _ _ h1 ih => exact ((ih (hs.svcInval1.of_snd h)).of_snd h1 :)

theorem State.Kept.extNoChunks {page : Nat} (hs : s.Kept) : (s.extNoChunks page).Kept := by
  unfold State.extNoChunks
  split
  next h => exact (hs.freeVal.of_snd h).reserveFailed

theorem State.Kept.svcReserve {xs : List Nat} (hs : s.Kept) : ExKept (fun _ => True) (·) (svcReserve xs s) := by
  fun_induction Machine.svcReserve xs s
  · exact .ok hs
  · exact .error trivial
  · next h ih => exact ih (hs.reserve.of_some h)

/-! ### Loads, stores and fences -/

theorem State.Kept.loadGo {s0 : State} {u g : Nat} {U : Unit} {h : Hd} {m : MemMod} {secs : List SectorReq} (hs0 : s0.Kept) (hs : s.Kept)
    : (s0.loadGo u g U h m secs s).Kept := by
  unfold State.loadGo
  extract_lets
  split
  · exact hs0.stall
  · exact .finish (.foldl (.ite (.scFence hs.tcCatchUp) hs.tcCatchUp) fun _ _ hq => hq.serveSector)

theorem State.Kept.execLd {h : Hd} {m : MemMod} {x : Ops4} (hs : s.Kept) : Out.Kept (execLd h m x s) := by
  unfold Machine.execLd
  refine State.Kept.issue hs fun _ _ _ _ => ?_
  extract_lets
  split
  · exact .next hs.finish
  · split
    · exact .next hs.stall
    · exact State.Kept.withLanes hs fun _ _ ht => .next (hs.loadGo ht)

theorem State.Kept.addStore {u g : Nat} {U : Unit} {rel : Bool} {floor : Nat} {x : LaneOk × List (Nat × Byte)} (hs : s.Kept) :
    (s.addStore u g U rel floor x).Kept := by
  unfold State.addStore
  split
  next h => exact .fresh (hs.sendPkt.of_snd h :)

theorem State.Kept.putStores {u g : Nat} {U : Unit} {rel : Bool} {floor : Nat} {xs : List (LaneOk × List (Nat × Byte))} (hs : s.Kept) :
    (s.putStores u g U rel floor xs).Kept := by
  unfold State.putStores
  split
  · exact .foldl hs fun t x hx => hx.addStore
  · exact .foldl hs fun t x hx => hx.tentWrite

theorem State.Kept.scTail {u g : Nat} {U : Unit} {h : Hd} {scope : Nat} (hs : s.Kept) :
    (s.scTail u g U h scope).Kept := hs.scFence.modGroup.finish.ite hs.stall

theorem State.Kept.execSt {h : Hd} {m : MemMod} {x : Ops4} (hs : s.Kept) : Out.Kept (execSt h m x s) := by
  unfold Machine.execSt
  refine State.Kept.issue hs fun _ _ _ _ => ?_
  extract_lets
  split
  · exact .next hs.scTail
  · split
    · exact .next hs.finish
    · split
      · exact .next hs.stall
      · refine State.Kept.withLanes hs fun _ _ ht => ?_
        extract_lets
        split
        · exact .next hs.stall
        · split
          · exact .next (.stall (.modGroup ht.putStores))
          · exact .next (.finish ht.putStores)

theorem State.Kept.fenceStep {h : Hd} {ready : Nat → Nat → Bool} {act : Nat → Nat → Nat → State → State} (hs : s.Kept)
    (hact : ∀ n n1 n2 t, t.Kept → (act n n1 n2 t).Kept) : Out.Kept (fenceStep h s ready act) := by
  unfold Machine.fenceStep
  refine State.Kept.issue hs fun _ _ _ _ => ?_
  split
  · exact .next hs.finish
  · split
    · exact .next (hact _ _ _ _ hs).finish
    · exact .next hs.stall

theorem State.Kept.execFence {h : Hd} {k : FenceKind} {sc : Scope} (hs : s.Kept) : Out.Kept (execFence h k sc s) := by
  unfold Machine.execFence
  split
  · exact State.Kept.fenceStep hs fun n n1 n2 t ht => ht.acqFence
  · exact State.Kept.fenceStep hs fun n n1 n2 t ht => ht.relFence
  · exact State.Kept.fenceStep hs fun n n1 n2 t ht => ht.acqFence.relFence
  · exact State.Kept.fenceStep hs fun n n1 n2 t ht => ht.scFence

theorem State.Kept.execFenceAsync {h : Hd} (hs : s.Kept) : Out.Kept (execFenceAsync h s) := by
  unfold Machine.execFenceAsync
  exact State.Kept.fenceStep hs fun _ _ _ _ ht => ht

theorem State.Kept.leaseLine {core n tc : Nat} {k : Key} (hs : s.Kept) : (s.leaseLine core n tc k).1.Kept := by
  unfold State.leaseLine
  dsimp only
  split
  · exact hs
  · next l h =>
    have hl : l ∈ s.lines := by
      split at h
      · exact (State.line?_some h).1
      · exact List.mem_of_find?_eq_some h
    exact hs.putLine (l := { l with rts := _, wts := _ }) (hs.sound hl :)

theorem State.Kept.leaseAll {core n tc : Nat} {xs : List Key} (hs : s.Kept) : (leaseAll core n tc xs s).1.Kept := by
  fun_induction Machine.leaseAll core n tc xs s
  · exact hs
  · next h _ _ h1 ih => exact ((ih (hs.leaseLine.of_fst h)).of_fst h1 :)

theorem State.Kept.heatRead {die ctx va pa : Nat} (hs : s.Kept) : (s.heatRead die ctx va pa).Kept := hs.heatReq.ite hs

theorem State.Kept.fillLoad {p : PendLoad} {bs : List Byte} (hs : s.Kept) : (s.fillLoad p bs).Kept := .modGroup hs

theorem State.Kept.l1Keep {x : L1Sector} (hs : s.Kept) : (s.l1Keep x).Kept := hs.l1Put.ite hs.l1Drop

theorem State.Kept.returnCached {p : PendLoad} {U : Unit} {n : Nat} (hs : s.Kept) : (s.returnCached p U n).Kept := by
  unfold State.returnCached
  split
  next h =>
    split
    next h1 =>
      exact (((hs.heatRead.readPage.of_snd h).leaseAll.of_fst h1).l1Keep.rhRaise.tcRaise.ite
        ((hs.heatRead.readPage.of_snd h).leaseAll.of_fst h1).l1Keep.rhRaise).fillLoad

theorem State.Kept.returnPlain {p : PendLoad} {U : Unit} (hs : s.Kept) :
    (s.returnPlain p U).Kept := (hs.heatReq.backPkts.rhRaise.tcRaise.ite hs.heatReq.backPkts.rhRaise).fillLoad

theorem State.Kept.returnSvc {p : PendLoad} {U : Unit} (hs : s.Kept) : (s.returnSvc p U).Kept := hs.svcReads.fillLoad

theorem State.Kept.execLoadSectorReturn {id lease : Nat} (hs : s.Kept) : Out.Kept (execLoadSectorReturn id lease s) := by
  unfold Machine.execLoadSectorReturn
  split
  · exact .next hs
  · split
    · exact .next hs
    · extract_lets
      split
      · exact .next hs
      · split
        · exact .next (.consume hs)
        · split
          · exact .next hs.returnSvc
          · split
            · exact .next hs.tcCatchUp.returnPlain
            · exact .next hs.tcCatchUp.returnCached

theorem State.Kept.l1Update {core ctx w : Nat} {bs : List (Nat × Byte)} (hs : s.Kept) : (s.l1Update core ctx w bs).Kept := hs

theorem State.Kept.performStore {p : PendStore} (hs : s.Kept) : (s.performStore p).Kept := by
  unfold State.performStore
  dsimp only
  exact .wrote (.l1Update (hs.countTile.ite hs.heatReq).writeList.frame)

theorem State.Kept.performSvc {p : PendStore} (hs : s.Kept) : (s.performSvc p).Kept := by
  unfold State.performSvc
  exact .foldl hs.countTile fun _ _ hx => hx.svcWrite

theorem State.Kept.startInvals {pa die : Nat} {xs : List Key} (hs : s.Kept) : (startInvals pa die xs s).2.Kept := by
  fun_induction Machine.startInvals pa die xs s
  · exact hs
  · next h _ _ h1 ih => exact ((ih (hs.startInval.of_snd h)).of_snd h1 :)

theorem State.Kept.execStorePerformed {id : Nat} (hs : s.Kept) : Out.Kept (execStorePerformed id s) := by
  unfold Machine.execStorePerformed
  split
  · exact .next hs
  · extract_lets
    split
    · exact .next hs
    · split
      · split
        · exact .next (.consume hs)
        · exact .next hs
      · split
        · dsimp only
          split
          · exact .next (hs.svcInval1.ite hs.performSvc)
          · exact .next (.ite hs hs.performSvc)
        · split
          · exact .next hs.performStore
          · split
            next h => exact .next ((hs.startInvals.of_snd h).ite hs.performStore)

theorem State.Kept.ackPkt {x : Option Pkt} (hs : s.Kept) : (s.ackPkt x).Kept := by
  unfold State.ackPkt
  split
  · exact hs
  · exact hs.backPkts

theorem State.Kept.execWriteAcknowledgement {id : Nat} (hs : s.Kept) : Out.Kept (execWriteAcknowledgement id s) := by
  unfold Machine.execWriteAcknowledgement
  split
  · exact .next hs
  · split
    · exact .next hs
    · exact .next (.tcRaise (.ackPkt hs))

/-! ### Scratchpad, windows and tiles -/

theorem State.Kept.withPad {u g : Nat} {U : Unit} {G : Group} {win : Bool} {align : Nat} {eas : List (Nat × Nat)} {k : List PadLane → Out}
    (hs : s.Kept) (hk : ∀ xs, Out.Kept (k xs)) : Out.Kept (withPad s u g U G win align eas k) := by
  unfold Machine.withPad
  split
  · exact hk _
  · exact hs.trapLanes

theorem State.Kept.padRead {core : Nat} {acq : Bool} {xs : List Nat} (hs : s.Kept) : (s.padRead core acq xs).Kept := by
  fun_induction State.padRead s core acq xs
  · exact hs
  · next ih => exact ih (.ite (.tcRaise hs.rhRaise) hs.rhRaise)

theorem State.Kept.padWrote {U : Unit} {G : Group} {rel : Bool} {xs : List Nat} (hs : s.Kept) : (s.padWrote U G rel xs).Kept := by
  fun_induction State.padWrote s U G rel xs
  · exact hs
  · next ih => exact ih hs.modUnit

theorem State.Kept.padFence {u g : Nat} {U : Unit} {sc : Bool} {scope : Scope} (hs : s.Kept) :
    (s.padFence u g U sc scope).Kept := hs.scFence.ite hs

theorem State.Kept.ackCore {core w : Nat} (hs : s.Kept) : (s.ackCore core w).Kept := hs.tcRaise.ite hs

theorem State.Kept.ackReq {q : Req} {w : Nat} (hs : s.Kept) : (s.ackReq q w).Kept := by
  unfold State.ackReq
  split
  · exact hs.ackCore
  · exact hs.ackCore.ite hs.modUnit

theorem State.Kept.endReq {q : Req} {ret w : Nat} (hs : s.Kept) : (s.endReq q ret w).Kept := .ite (.ackReq (.ackPkt hs)) hs

theorem State.Kept.passReq {q : Req} (hs : s.Kept) : (s.passReq q).Kept := .ite hs.endReq hs

theorem State.Kept.svcPerformed {cl tail : Nat} (hs : s.Kept) : (s.svcPerformed cl tail).Kept := by
  unfold State.svcPerformed
  exact .foldl hs fun _ _ hx => hx.passReq

theorem State.Kept.tailMoved {u : Nat} {U : Unit} (hs : s.Kept) : (s.tailMoved u U).Kept := hs.svcPerformed.ite hs

theorem State.Kept.padLoad {win : Bool} {h : Hd} {m : MemMod} {x : Ops4} (hs : s.Kept) : Out.Kept (padLoad win h m x s) := by
  unfold Machine.padLoad
  refine State.Kept.issue hs fun _ _ _ _ => ?_
  extract_lets
  split
  · exact .next hs.finish
  · split
    · exact .next hs.stall
    · refine State.Kept.withPad hs fun _ => ?_
      split
      · exact .next hs.stall
      · exact .next hs.padFence.padRead.modGroup.finish

theorem State.Kept.putPad {n : Nat} {val : Nat → Nat} {xs : List PadLane} (hs : s.Kept) : (putPad n val xs s).Kept := by
  fun_induction Machine.putPad n val xs s
  · exact hs
  · next ih => exact ih hs.modUnit

theorem State.Kept.padStore {win : Bool} {h : Hd} {m : MemMod} {x : Ops4} (hs : s.Kept) : Out.Kept (padStore win h m x s) := by
  unfold Machine.padStore
  refine State.Kept.issue hs fun _ _ _ _ => ?_
  extract_lets
  split
  · exact .next hs.finish
  · split
    · exact .next hs.stall
    · refine State.Kept.withPad hs fun _ => ?_
      split
      · exact .next hs.stall
      · exact .next hs.padWrote.putPad.tailMoved.padFence.finish

theorem State.Kept.execLdc {h : Hd} {m : MemMod} {x : Ops4} (hs : s.Kept) : Out.Kept (execLdc h m x s) := by
  unfold Machine.execLdc
  refine State.Kept.issue hs fun _ _ _ _ => ?_
  extract_lets
  split
  · exact hs.trapLanes
  · exact .next hs.modGroup.finish

theorem State.Kept.markTile {u g t : Nat} (hs : s.Kept) : (s.markTile u g t).Kept := hs.modGroup

theorem State.Kept.tileMove {wr : Bool} {busy : Unit → Nat → Nat → Bool} {act : Unit → Nat → Nat → Nat → Nat → Nat → Unit} {h : Hd}
    {m : MemMod} {x : Ops4} (hs : s.Kept) : Out.Kept (tileMove wr busy act h m x s) := by
  unfold Machine.tileMove
  refine State.Kept.issue hs fun _ _ _ _ => ?_
  extract_lets
  split
  · exact .next hs.finish
  · extract_lets
    split
    · exact hs.trapGroup
    · split
      · exact hs.trapGroup
      · split
        · exact .next hs.stall
        · split
          · exact .next hs.markTile.waitAt
          · split
            · exact .next hs.markTile.stall
            · exact .next (.finish (.modUnit hs.padWrote.tcRaise))

theorem State.Kept.padRmw {h : Hd} {m : MemMod} {x : Ops4} {off : Int} {f : Regs → Nat → Nat → Nat} (hs : s.Kept) :
    Out.Kept (padRmw h m x off f s) := by
  unfold Machine.padRmw
  refine State.Kept.issue hs fun _ _ _ _ => ?_
  extract_lets
  split
  · exact .next hs.finish
  · split
    · exact .next hs.stall
    · refine State.Kept.withPad hs fun _ => ?_
      split
      · exact .next hs.stall
      · split
        exact .next (.finish (.padFence (.tailMoved (.modGroup (.modUnit hs.padFence.padRead.padWrote)))))

theorem State.Kept.execAtoms {h : Hd} {m : MemMod} {x : Ops4} (hs : s.Kept) : Out.Kept (execAtoms h m x s) := by
  unfold Machine.execAtoms
  exact hs.padRmw

theorem State.Kept.execCass {h : Hd} {m : MemMod} {x : Ops4} (hs : s.Kept) : Out.Kept (execCass h m x s) := by
  unfold Machine.execCass
  exact hs.padRmw

/-! ### Atomics and waits -/

theorem State.Kept.sendReqs {u g : Nat} {U : Unit} {G : Group} {f : AtomForm} {m : MemMod} {d : Opnd} {ops : Nat → Nat × Nat}
    {floor : Nat} {xs : List Nat} {xs1 : List LaneOk} (hs : s.Kept) : (sendReqs u g U G f m d ops floor xs xs1 s).Kept := by
  fun_induction Machine.sendReqs u g U G f m d ops floor xs xs1 s
  · exact hs
  · next h ih => exact ih (.fresh (hs.sendPkt.of_snd h :))

theorem State.Kept.atomStep {f : AtomForm} {h : Hd} {m : MemMod} {x : Ops4} (hs : s.Kept) : Out.Kept (atomStep f h m x s) := by
  unfold Machine.atomStep
  refine State.Kept.issue hs fun _ _ _ _ => ?_
  extract_lets
  split
  · exact .next hs.scTail
  · split
    · exact .next hs.finish
    · split
      · exact .next hs.stall
      · refine State.Kept.withLanes hs fun _ _ ht => ?_
        split
        · exact hs.trapGroup
        · split
          · exact .next hs.stall
          · extract_lets
            split
            · exact .next (.stall (.modGroup (.sendReqs (ht.tcCatchUp.scFence.ite ht))))
            · exact .next (.finish (.sendReqs (ht.tcCatchUp.scFence.ite ht)))

theorem State.Kept.countReq {q : Req} {pa : Nat} (hs : s.Kept) : (s.countReq q pa).Kept := hs.ite (hs.countTile.ite hs.countTile)

theorem State.Kept.rhCore {core w : Nat} (hs : s.Kept) : (s.rhCore core w).Kept := hs.rhRaise.ite hs

theorem State.Kept.performReq {q : Req} {pa : Nat} (hs : s.Kept) : (s.performReq q pa).Kept := by
  unfold State.performReq
  extract_lets
  split
  next h =>
    split
    · exact (hs.countReq.heatReq.readPage.of_snd h).rhCore.endReq
    · split
      next h2 => exact ((hs.countReq.heatReq.readPage.of_snd h).writePage.of_fst h2).wrote.endReq

theorem State.Kept.reqFault {q : Req} {w : WalkInfo} (hs : s.Kept) : (s.reqFault q w).Kept := by
  conv in State.reqFault => delta State.reqFault
  split
  · exact hs
  · next h => exact .ite (.ite (hs.postKept.of_some h :) (.failLaunch (hs.postKept.of_some h :))) (hs.postKept.of_some h :)

theorem State.Kept.enqueueReq {q : Req} {v pa : Nat} (hs : s.Kept) : (s.enqueueReq q v pa).Kept := .ite hs hs.countReq.modUnit.frame

theorem State.Kept.reqConsumes {q : Req} {pa : Nat} (hs : s.Kept) : (s.reqConsumes q pa).Kept := .ite (.detect hs) (.consume hs)

theorem State.Kept.reqRefused {q : Req} (hs : s.Kept) : (s.reqRefused q).Kept := .ite hs (.uncorrLaunch hs)

theorem State.Kept.performPhys {q : Req} {pa : Nat} (hs : s.Kept) : (s.performPhys q pa).Kept := by
  unfold State.performPhys
  extract_lets
  split
  · exact hs.svcAtHome.endReq
  · exact hs.svcWrite.endReq

theorem State.Kept.deliverPhys {q : Req} {pa : Nat} (hs : s.Kept) : (s.deliverPhys q pa).Kept := by
  unfold State.deliverPhys
  extract_lets
  split
  · exact hs.enqueueReq
  · split
    · exact hs
    · split
      · exact hs.reqConsumes
      · split
        · exact hs.reqRefused
        · split
          · exact hs.performPhys
          · split
            next h => exact (hs.extInval.of_snd h).performPhys.ite (hs.extInval.of_snd h)

theorem State.Kept.deliverReq {q : Req} {pa : Nat} (hs : s.Kept) : (s.deliverReq q pa).Kept := by
  unfold State.deliverReq
  dsimp only
  split
  · exact hs.reqConsumes
  · split
    · exact hs.enqueueReq
    · exact hs.ite (hs.reqConsumes.ite (hs.reqRefused.ite (hs.performReq.ite (hs.startInvals.ite hs.performReq))))

theorem State.Kept.replyDone {q : Req} (hs : s.Kept) : (s.replyDone q).Kept := .ite hs hs

theorem State.Kept.execAtomicReply {id : Nat} (hs : s.Kept) : Out.Kept (execAtomicReply id s) := by
  unfold Machine.execAtomicReply
  split
  · exact .next hs
  · split
    · exact .next hs
    · exact .next hs.replyDone.ackPkt.l1Drop.ackCore.modGroup

theorem State.Kept.armWord {w : Watcher} {ctx va pa : Nat} (hs : s.Kept) : (s.armWord w ctx va pa).2.Kept := by
  unfold State.armWord
  split
  · exact hs
  · extract_lets
    split
    · exact hs
    · split <;> exact hs

theorem State.Kept.armMon {u g ctx : Nat} {o : LaneOk} (hs : s.Kept) : (s.armMon u g ctx o).Kept := by
  unfold State.armMon
  split
  · next h => exact hs.armWord.of_snd h
  · next h => exact (hs.armWord.of_snd h).modGroup

theorem State.Kept.disarmBut {u g : Nat} {words : List Nat} (hs : s.Kept) : (s.disarmBut u g words).Kept := hs

theorem State.Kept.disarm {u g : Nat} (hs : s.Kept) : (s.disarm u g).Kept := hs.disarmBut

theorem State.Kept.waitcRead {u g : Nat} {U : Unit} {m : WaitMod} {ref : Nat → Nat} {xs : List LaneOk} (hs : s.Kept) :
    OptKept Prod.snd (waitcRead u g U m ref xs s) := by
  fun_induction Machine.waitcRead u g U m ref xs s
  · exact .some hs
  · exact .none
  · exact .none
  · next h1 _ _ _ _ _ _ h3 ih =>
      exact .some ((ih (.ite (.tcRaise (hs.heatRead.readPage.of_snd h1).rhRaise.l1Drop)
        (hs.heatRead.readPage.of_snd h1).rhRaise.l1Drop)).of_some h3 :)
  · next h1 _ _ _ _ ih => exact ih (hs.heatRead.readPage.of_snd h1).rhRaise.l1Drop

theorem State.Kept.waitcFetch {u g : Nat} {U : Unit} {n : Nat} {o : LaneOk} (hs : s.Kept) : (s.waitcFetch u g U n o).Kept := by
  unfold State.waitcFetch
  extract_lets
  split
  · exact .foldl hs.countTile fun _ _ hk => hk.proxyFill
  · exact hs.countTile

theorem State.Kept.waitcLater {u g : Nat} {held : List (Nat × Nat)} (hs : s.Kept) : (s.waitcLater u g held).Kept := hs.waitAt.modGroup

theorem State.Kept.waitcTry {u g : Nat} {U : Unit} {h : Hd} {m : WaitMod} {x : Ops4} {all : List Nat} {ref : Nat → Nat}
    {oks : List LaneOk} {held : List (Nat × Nat)} (hs : s.Kept) : (s.waitcTry u g U h m x all ref oks held).Kept := by
  unfold State.waitcTry
  extract_lets
  split
  · exact hs.disarm.consume
  · split
    · exact hs.waitcLater
    · split
      · exact hs.waitcLater
      · next h3 =>
          exact .ite (hs.passPkts.backPkts.waitcRead.of_some h3).disarm.modGroup.finish
            (hs.passPkts.backPkts.waitcRead.of_some h3).disarmBut.waitAt.modGroup

theorem State.Kept.execWaitc {h : Hd} {m : WaitMod} {x : Ops4} (hs : s.Kept) : Out.Kept (execWaitc h m x s) := by
  unfold Machine.execWaitc
  refine State.Kept.issue hs fun _ _ _ _ => ?_
  extract_lets
  split
  · exact .next hs.finish
  · split
    · exact .next hs
    · split
      · exact .next hs.stall
      · split
        · split
          · exact .next (hs.stall.ite hs.waitcLater)
          · exact State.Kept.trapLanes (hs.ite hs.disarm)
        · next h =>
          have h1 := hs.checkLanes.of_fst h
          exact .next (.waitcTry (.foldl (.ite (.foldl h1.tcCatchUp fun t o ht => ht.armMon) h1.tcCatchUp) fun t o ht => ht.waitcFetch))

theorem State.Kept.execWaitcRepoll {u g : Nat} (hs : s.Kept) : Out.Kept (execWaitcRepoll u g s) := by
  unfold Machine.execWaitcRepoll
  split
  · exact .next hs
  · split
    · exact .next hs.modUnit.modGroup
    · exact .next hs

theorem State.Kept.cctlAsk {U : Unit} {k : Key} (hs : s.Kept) : (s.cctlAsk U k).Kept := hs.touchSlice.passPkts.backPkts

theorem State.Kept.cctlLane {U : Unit} {op : CctlOp} {ea : Nat} (hs : s.Kept) : (s.cctlLane U op ea).Kept := by
  unfold State.cctlLane
  extract_lets
  split
  · exact hs
  · exact hs
  · exact hs.cctlAsk.writeBack
  · exact hs.cctlAsk.writeBack.dropLine

theorem State.Kept.execCctl {h : Hd} {op : CctlOp} {x : Ops4} (hs : s.Kept) : Out.Kept (execCctl h op x s) := by
  unfold Machine.execCctl
  refine State.Kept.issue hs fun _ _ _ _ => ?_
  extract_lets
  split
  · exact .next hs.finish
  · split
    · exact .next hs.stall
    · refine State.Kept.withLanes hs fun _ _ ht => ?_
      split
      · exact .next hs.stall
      · exact .next (.finish (.foldl ht fun _ _ ho => ho.cctlLane))

theorem State.Kept.prefSector {U : Unit} {hint : Bool} {va pa : Nat} (hs : s.Kept) : (s.prefSector U hint va pa).Kept := by
  unfold State.prefSector
  split
  · exact hs
  · split
    next h1 =>
      split
      next h2 => exact (((hs.ite hs.heatRead).readPage.of_snd h1).leaseAll.of_fst h2).l1Keep

theorem State.Kept.prefTc {U : Unit} {ea pa : Nat} (hs : s.Kept) : (s.prefTc U ea pa).Kept := hs.ite hs.passPkts.backPkts.fill

theorem State.Kept.prefLane {U : Unit} {G : Group} {hint tc : Bool} {ea : Nat} (hs : s.Kept) : (s.prefLane U G hint tc ea).Kept := by
  unfold State.prefLane
  split
  · exact hs
  · split
    · exact hs
    · next h =>
      split
      · exact hs
      · split
        · exact (hs.translate.of_ok h).prefTc
        · exact .foldl (hs.translate.of_ok h) fun _ _ hi => hi.prefSector

theorem State.Kept.prefStep {h : Hd} {hint tc : Bool} {x : Ops4} (hs : s.Kept) : Out.Kept (prefStep h hint tc x s) := by
  unfold Machine.prefStep
  refine State.Kept.issue hs fun _ _ _ _ => ?_
  extract_lets
  split
  · exact .next hs.stall
  · exact .next (.finish (.foldl hs.tcCatchUp fun _ _ hea => hea.prefLane))

end Sys2Proof.Machine
end

section
/-! PROOFS. Copies, matrix tasks and shapes keep the form of memory: engines read and write it as the memory path does. -/

namespace Sys2Proof.Machine

open Sys2Proof

-- In turn: many short proofs, elaborated at once, would each hold a thread and its stack.
set_option Elab.async false

variable {s : State}

/-! ### Engine accesses -/

theorem State.Kept.ofWalk {α : Type} {va : Nat} {w : WalkInfo} (hs : s.Kept) : Piece.Kept (Piece.ofWalk s va w : Piece α) := by
  unfold Piece.ofWalk
  split
  · exact .wait hs
  · split
    · exact .uncorr _
    · exact .fault _ _

theorem State.Kept.sentRead {p : Port} {pa : Nat} {last : Bool} (hs : s.Kept) : (s.sentRead p pa last).Kept := by
  unfold State.sentRead
  split
  · exact hs
  · exact hs.passPkts.backPkts.ite hs

theorem State.Kept.engRead {p : Port} {xs : List (Option Nat)} (hs : s.Kept) : (engRead p xs s).Kept := by
  fun_induction Machine.engRead p xs s
  · exact .ok hs
  · next h ih => exact .ok ((ih hs).of_ok h)
  · next ih => exact ih hs
  · exact .fault _ _
  · exact hs.ofWalk
  · exact .uncorr _
  · exact .wait hs
  · next h1 _ _ _ _ h4 _ _ h5 ih => exact .ok ((ih ((hs.translate.of_ok h1).sentRead.readPage.of_snd h4)).of_ok h5)
  · next h1 _ _ _ _ h4 _ ih => exact ih ((hs.translate.of_ok h1).sentRead.readPage.of_snd h4)

theorem State.Kept.engHeat {ctx : Nat} {vas : List (Option Nat)} (hs : s.Kept) : (s.engHeat ctx vas).Kept := by
  unfold State.engHeat
  split
  · exact hs
  · split
    · exact hs.heatReq
    · exact hs

theorem State.Kept.engReadHeat {die ctx : Nat} {vas : List (Option Nat)} (hs : s.Kept) : (s.engReadHeat die ctx vas).Kept := by
  unfold State.engReadHeat
  split
  · exact hs
  · exact hs.engHeat.ite hs

theorem State.Kept.engAdmit {p : Port} {va pa : Nat} (hs : s.Kept) : (engAdmit p va pa s).Kept := by
  unfold Machine.engAdmit
  split
  · exact .fault _ _
  · next h =>
    split
    · exact .uncorr _
    · split
      · exact .wait (hs.reserve.of_some h)
      · split
        · exact .wait (hs.reserve.of_some h).startInval
        · exact .ok (hs.reserve.of_some h)

theorem State.Kept.engCheck {p : Port} {xs : List (Nat × Byte)} (hs : s.Kept) : (engCheck p xs s).Kept := by
  fun_induction Machine.engCheck p xs s
  · exact .ok hs
  · exact .fault _ _
  · exact hs.ofWalk
  · exact .fault _ _
  · exact .uncorr _
  · next h1 _ h2 => exact .wait ((hs.translate.of_ok h1).engAdmit.of_wait h2)
  · next h1 _ _ h2 _ _ h3 ih => exact .ok ((ih ((hs.translate.of_ok h1).engAdmit.of_ok h2)).of_ok h3)
  · next h1 _ _ h2 _ ih => exact ih ((hs.translate.of_ok h1).engAdmit.of_ok h2)

theorem State.Kept.bytesWrote {xs : List (Nat × Nat × Byte)} (hs : s.Kept) : (bytesWrote xs s).Kept := by
  fun_induction Machine.bytesWrote xs s
  · exact hs
  · next ih => exact ih hs.wrote

theorem State.Kept.engPut {p : Port} {tc floor : Nat} {xs : List (Nat × Nat × Byte)} (hs : s.Kept) : (engPut p tc floor xs s).1.Kept := by
  unfold Machine.engPut
  split
  next h => exact (hs.writeList.of_fst h).bytesWrote

theorem State.Kept.engStore {p : Port} {tc floor : Nat} {xs : List (Nat × Nat × Byte)} {s1 : State} (hs1 : s1.Kept) :
    (engStore p tc floor xs s1).Kept := by
  unfold Machine.engStore
  extract_lets
  split
  · exact .uncorr _
  · split
    next h => exact .ok (hs1.passPkts.backPkts.engPut.of_fst h :)

theorem State.Kept.engWrite {p : Port} {tc floor : Nat} {bs : List (Nat × Byte)} (hs : s.Kept) : (engWrite p tc floor bs s).Kept := by
  unfold Machine.engWrite
  split
  · next h => exact (hs.engCheck.of_ok h).engStore
  · exact .fault _ _
  · exact .uncorr _
  · next h => exact .wait (hs.engCheck.of_wait h)

theorem State.Kept.engPost {die : Nat} {r : FaultRec} {agent : FaultAgent} (hs : s.Kept) : OptKept Prod.fst (s.engPost die r agent) := by
  conv in State.engPost => delta State.engPost
  extract_lets
  split
  · exact .none
  · next h =>
    split
    · split
      · exact .some (hs.postKept.of_some h :)
      · exact .some (hs.postKept.of_some h).failLaunch
    · split
      · exact .some (hs.postKept.of_some h).reserveFailed
      · exact .some (hs.postKept.of_some h :)

/-! ### Copies -/

theorem State.Kept.barAcquire {u off core : Nat} (hs : s.Kept) : (s.barAcquire u off core).Kept := by
  unfold State.barAcquire
  split
  · exact hs
  · exact hs.tcRaise

theorem State.Kept.uniformStep {h : Hd} {uses : Uses} {k : Nat → Nat → Unit → Group → Nat → Out} (hs : s.Kept)
    (hk : ∀ u g U G n, Out.Kept (k u g U G n)) : Out.Kept (uniformStep h uses s k) := by
  unfold Machine.uniformStep
  refine State.Kept.issue hs fun _ _ _ _ => ?_
  split
  · exact .next hs.finish
  · split
    · exact .next hs.stall
    · exact hk _ _ _ _ _

theorem State.Kept.putD {u g : Nat} {d : Opnd} {x : Nat} (hs : s.Kept) : (s.putD u g d x).Kept := hs.modGroup

theorem State.Kept.putPredD {u g : Nat} {h : Hd} {d : Opnd} {lanes : Nat} {b : Bool} (hs : s.Kept) :
    (s.putPredD u g h d lanes b).Kept := hs.modGroup

theorem State.Kept.execBinit {h : Hd} {x : Ops4} (hs : s.Kept) : Out.Kept (execBinit h x s) := by
  unfold Machine.execBinit
  refine State.Kept.uniformStep hs fun _ _ _ _ _ => ?_
  extract_lets
  split
  · exact hs.trapGroup
  · split
    · exact hs.trapGroup
    · exact .next hs.modUnit.finish

theorem State.Kept.execBexp {h : Hd} {x : Ops4} (hs : s.Kept) : Out.Kept (execBexp h x s) := by
  unfold Machine.execBexp
  refine State.Kept.uniformStep hs fun _ _ _ _ _ => ?_
  extract_lets
  split
  · exact hs.trapGroup
  · exact .next hs.modUnit.finish

theorem State.Kept.execBarrive {h : Hd} {ext : Bool} {x : Ops4} (hs : s.Kept) : Out.Kept (execBarrive h ext x s) := by
  unfold Machine.execBarrive
  refine State.Kept.uniformStep hs fun _ _ _ _ _ => ?_
  extract_lets
  split
  · exact .next hs.stall
  · split
    · exact hs.trapGroup
    · exact .next hs.barArriveOn.putD.finish

theorem State.Kept.execBwait {h : Hd} {x : Ops4} (hs : s.Kept) : Out.Kept (execBwait h x s) := by
  unfold Machine.execBwait
  refine State.Kept.uniformStep hs fun _ _ _ _ _ => ?_
  extract_lets
  split
  · exact hs.trapGroup
  · split
    · exact .next hs.waitAt
    · split
      · exact hs.trapGroup
      · exact .next hs.barAcquire.finish

theorem State.Kept.execBtest {h : Hd} {x : Ops4} (hs : s.Kept) : Out.Kept (execBtest h x s) := by
  unfold Machine.execBtest
  refine State.Kept.uniformStep hs fun _ _ _ _ _ => ?_
  extract_lets
  split
  · exact hs.trapGroup
  · split
    · exact hs.trapGroup
    · exact .next (.finish (.putPredD (hs.ite hs.barAcquire)))

theorem State.Kept.execSeal {h : Hd} {x : Ops4} (hs : s.Kept) : Out.Kept (execSeal h x s) := by
  unfold Machine.execSeal
  refine State.Kept.uniformStep hs fun _ _ _ _ _ => ?_
  extract_lets
  split
  · exact .next hs.modGroup.claimAt
  · exact .next hs.modGroup.putD.finish

theorem State.Kept.execWaitb {h : Hd} {x : Ops4} (hs : s.Kept) : Out.Kept (execWaitb h x s) := by
  unfold Machine.execWaitb
  refine State.Kept.uniformStep hs fun _ _ _ _ _ => ?_
  extract_lets
  split
  · exact .next hs.finish
  · split
    · exact hs.trapGroup
    · split
      · exact .next hs.waitAt
      · exact .next hs.acqFence.tcRaise.finish

theorem State.Kept.declare {c : Cmd} (hs : s.Kept) : (s.declare c).Kept := by
  unfold State.declare
  split
  · exact hs
  · exact hs
  · exact hs.modUnit

theorem State.Kept.arriveCmd {c : Cmd} {core : Nat} (hs : s.Kept) : (s.arriveCmd c core).Kept := by
  unfold State.arriveCmd
  split
  · exact hs
  · exact hs.barArriveOn

theorem State.Kept.postCmd {u g : Nat} {U : Unit} {G : Group} {h : Hd} {c : Cmd} {now : Bool} (hs : s.Kept) :
    Out.Kept (s.postCmd u g U G h c now) := by
  unfold State.postCmd
  split
  · exact .next hs.modGroup.stall
  · split
    · exact .next hs.claimAt
    · exact .next (hs.declare.modGroup.arriveCmd.ite hs.declare.modGroup.modUnit.fresh).finish

theorem State.Kept.copyChecks {u g : Nat} {U : Unit} {G : Group} {xs : List (Bool × Nat × Nat)} {bar : Option Nat} {k : Out} (hs : s.Kept)
    (hk : Out.Kept k) : Out.Kept (s.copyChecks u g U G xs bar k) := by
  unfold State.copyChecks
  split
  · exact hs.trapGroup
  · split
    · exact hs.trapGroup
    · exact hk

theorem State.Kept.execCpy {h : Hd} {m : CopyMod} {x : Ops4} (hs : s.Kept) : Out.Kept (execCpy h m x s) := by
  unfold Machine.execCpy
  exact State.Kept.uniformStep hs fun _ _ _ _ _ => hs.copyChecks hs.postCmd

theorem State.Kept.execCpyt {h : Hd} {m : CopyMod} {x : Ops4} (hs : s.Kept) : Out.Kept (execCpyt h m x s) := by
  unfold Machine.execCpyt
  refine State.Kept.uniformStep hs fun _ _ _ _ _ => ?_
  extract_lets
  split
  · exact hs.trapGroup
  · exact hs.copyChecks hs.postCmd

theorem State.Kept.execCpyg {h : Hd} {m : CopyMod} {x : Ops4} (hs : s.Kept) : Out.Kept (execCpyg h m x s) := by
  unfold Machine.execCpyg
  exact State.Kept.uniformStep hs fun _ _ _ _ _ => hs.copyChecks hs.postCmd

theorem State.Kept.execCpys {h : Hd} {m : CopyMod} {x : Ops4} (hs : s.Kept) : Out.Kept (execCpys h m x s) := by
  unfold Machine.execCpys
  refine State.Kept.uniformStep hs fun _ _ _ _ _ => ?_
  extract_lets
  split
  · exact hs.copyChecks hs.postCmd
  · split
    · exact hs.copyChecks hs.trapGroup
    · exact hs.copyChecks hs.postCmd

theorem State.Kept.execTclook {h : Hd} {x : Ops4} (hs : s.Kept) : Out.Kept (execTclook h x s) := by
  unfold Machine.execTclook
  refine State.Kept.uniformStep hs fun _ _ _ _ _ => ?_
  extract_lets
  split
  · exact hs.trapGroup
  · exact .next hs.putD.finish

theorem State.Kept.touchTlb {p : TlbPlace} {die ctx va : Nat} (hs : s.Kept) : (s.touchTlb p die ctx va).Kept := by
  unfold State.touchTlb
  split
  · next h => exact hs.translate.of_ok h
  · exact hs

theorem State.Kept.prefTile {die ctx : Nat} {t : Tensor} {tile : Nat} (hs : s.Kept) : (s.prefTile die ctx t tile).Kept := by
  unfold State.prefTile
  extract_lets
  split
  · exact .foldl (.foldl hs fun _ _ hva => hva.touchTlb) fun _ _ hk => hk.fill
  · exact hs

theorem State.Kept.execTcpref {h : Hd} {x : Ops4} (hs : s.Kept) : Out.Kept (execTcpref h x s) := by
  unfold Machine.execTcpref
  refine State.Kept.uniformStep hs fun _ _ _ _ _ => ?_
  extract_lets
  split
  · exact hs.trapGroup
  · extract_lets
    split
    · exact .next hs.stall
    · exact .next (.finish (.foldl hs fun _ _ hk => hk.prefTile))

theorem State.Kept.execTchalo {h : Hd} {m : CopyMod} {x : Ops4} (hs : s.Kept) : Out.Kept (execTchalo h m x s) := by
  unfold Machine.execTchalo
  refine State.Kept.uniformStep hs fun _ _ _ _ _ => ?_
  extract_lets
  split
  · exact hs.trapGroup
  · exact hs.copyChecks hs.postCmd

theorem State.Kept.tensorCmd {kind : CmdKind} {h : Hd} {m : CopyMod} {x : Ops4} (hs : s.Kept) : Out.Kept (tensorCmd kind h m x s) := by
  unfold Machine.tensorCmd
  refine State.Kept.uniformStep hs fun _ _ _ _ _ => ?_
  extract_lets
  split
  · exact .next hs.stall
  · exact hs.copyChecks hs.postCmd

theorem State.Kept.modCmd {u id : Nat} {f : Cmd → Cmd} (hs : s.Kept) : (s.modCmd u id f).Kept := hs.modUnit

theorem State.Kept.execCopyCommandStart {u : Nat} (hs : s.Kept) : Out.Kept (execCopyCommandStart u s) := by
  unfold Machine.execCopyCommandStart
  split
  · exact .next hs
  · split
    · exact .next hs
    · extract_lets
      split
      · exact .next hs
      · split
        · exact .next hs
        · exact .next hs.modCmd
        · exact .next hs.modCmd

theorem State.Kept.cmdFault {u : Nat} {U : Unit} {c : Cmd} {off va : Nat} {w : WalkInfo} (hs : s.Kept) :
    (s.cmdFault u U c off va w).Kept := by
  conv in State.cmdFault => delta State.cmdFault
  split
  · exact hs
  · next h => exact (hs.engPost.of_some h).modCmd

theorem State.Kept.dropProxies {ctx tensor : Nat} (hs : s.Kept) : (s.dropProxies ctx tensor).Kept := hs.filterLines _

theorem State.Kept.visitTensor {ctx tensor : Nat} {wb inval : Bool} (hs : s.Kept) : (s.visitTensor ctx tensor wb inval).Kept := by
  unfold State.visitTensor
  dsimp only
  split
  · exact State.Kept.dropProxies (.foldl hs fun _ _ ht => (ht.writeBack.ite ht).dropLine)
  · exact .foldl hs fun _ _ ht => ht.writeBack.ite ht

theorem State.Kept.cmdPut {u : Nat} {c : Cmd} {off : Nat} {bs : List Byte} (hs : s.Kept) : (s.cmdPut u c off bs).Kept := by
  unfold State.cmdPut
  split <;> exact hs.modUnit

theorem State.Kept.cmdUncorr {U : Unit} {c : Cmd} {pa : Nat} (hs : s.Kept) : (s.cmdUncorr U c pa).Kept := hs.arriveCmd.consume

theorem State.Kept.cmdRead {u : Nat} {U : Unit} {c : Cmd} {q : Nat × Nat} (hs : s.Kept) : (s.cmdRead u U c q).Kept := by
  unfold State.cmdRead
  extract_lets
  split
  · next h => exact (hs.engRead.of_ok h).engReadHeat.cmdPut.modCmd
  · exact hs.cmdFault
  · exact hs.cmdUncorr
  · next h => exact hs.engRead.of_wait h

theorem State.Kept.cmdWrite {u : Nat} {U : Unit} {c : Cmd} {q : Nat × Nat} (hs : s.Kept) : (s.cmdWrite u U c q).Kept := by
  unfold State.cmdWrite
  extract_lets
  split
  · next h => exact (hs.engWrite.of_ok h).engHeat.modCmd
  · exact hs.cmdFault
  · exact hs.cmdUncorr
  · next h => exact hs.engWrite.of_wait h

theorem State.Kept.cmdWindow {u : Nat} {U : Unit} {c : Cmd} {q : Nat × Nat} (hs : s.Kept) : (s.cmdWindow u U c q).Kept := by
  unfold State.cmdWindow
  split
  · exact hs
  · exact hs.modUnit.modCmd

theorem State.Kept.modCopy {id : Nat} {f : FrontCopy → FrontCopy} (hs : s.Kept) : (s.modCopy id f).Kept := hs

theorem State.Kept.slabLoaded {u : Nat} {c : Cmd} (hs : s.Kept) : (s.slabLoaded u c).Kept := by
  unfold State.slabLoaded
  split
  · exact hs.modUnit
  all_goals exact hs

theorem State.Kept.execCopyCommandArrival {u cmd : Nat} (hs : s.Kept) : Out.Kept (execCopyCommandArrival u cmd s) := by
  unfold Machine.execCopyCommandArrival
  split
  · exact .next hs
  · split
    · exact .next hs
    · exact .next hs.arriveCmd.slabLoaded.modUnit

/-! ### Matrix tasks -/

theorem State.Kept.mxDeliver {p : Port} {item : State → Nat → MxByte} {n pos : Nat} (hs : s.Kept) :
    (mxDeliver p item n pos s).2.2.2.Kept := by
  induction n generalizing pos s with
  | zero => exact hs
  | succ n ih =>
    rw [Machine.mxDeliver]
    split
    · exact ih hs
    · split
      · exact hs
      · exact hs
      · next h => exact hs.engRead.of_wait h
      · next h => exact ih (hs.engRead.of_ok h)

theorem State.Kept.modTask {u : Nat} {h : Word} {f : Task → Task} (hs : s.Kept) : (s.modTask u h f).Kept := hs

theorem State.Kept.sweepSlabs {u : Nat} (hs : s.Kept) : (s.sweepSlabs u).Kept := hs.modUnit

theorem State.Kept.endTask {t : Task} {st : TaskSt} (hs : s.Kept) : (s.endTask t st).Kept := hs.finishTask.sweepSlabs

theorem State.Kept.settle {xs : List Task} (hs : s.Kept) : (settle xs s).Kept := by
  fun_induction Machine.settle xs s
  · exact hs
  · next ih =>
    refine ih ?_
    split
    · exact hs.endTask
    · exact hs

theorem State.Kept.settleTasks {u : Nat} (hs : s.Kept) : (s.settleTasks u).Kept := by
  unfold State.settleTasks
  exact .foldl hs fun _ _ hx => hx.settle

theorem State.Kept.execMxpost {h : Hd} {x : Ops4} (hs : s.Kept) : Out.Kept (execMxpost h x s) := by
  unfold Machine.execMxpost
  refine State.Kept.uniformStep hs fun _ _ _ _ _ => ?_
  extract_lets
  split
  · exact hs.trapGroup
  · split
    · exact hs.trapGroup
    · split
      · exact hs.trapGroup
      · split
        · exact .next hs.claimAt
        · exact .next (.finish (.settleTasks (.putD (.modGroup (.modUnit (.fresh hs))))))

theorem State.Kept.handleStep {h : Hd} {x : Ops4} {k : Nat → Nat → Unit → Group → Word → Nat → Out} (hs : s.Kept)
    (hk : ∀ u g U G x1 n, Out.Kept (k u g U G x1 n)) : Out.Kept (handleStep h x s k) := by
  unfold Machine.handleStep
  refine State.Kept.uniformStep hs fun _ _ _ _ _ => ?_
  extract_lets
  split
  · exact hs.trapGroup
  · exact hk _ _ _ _ _ _

theorem State.Kept.execMxwait {h : Hd} {x : Ops4} (hs : s.Kept) : Out.Kept (execMxwait h x s) := by
  unfold Machine.execMxwait
  refine State.Kept.handleStep hs fun _ _ _ _ _ _ => ?_
  split
  · exact .next hs.modGroup.waitAt
  · exact .next hs.tcRaise.putD.finish

theorem State.Kept.execMxqry {h : Hd} {x : Ops4} (hs : s.Kept) : Out.Kept (execMxqry h x s) := by
  unfold Machine.execMxqry
  exact State.Kept.handleStep hs fun _ _ _ _ _ _ => .next hs.putD.finish

theorem State.Kept.execMxcan {h : Hd} {x : Ops4} (hs : s.Kept) : Out.Kept (execMxcan h x s) := by
  unfold Machine.execMxcan
  refine State.Kept.handleStep hs fun _ _ _ _ _ _ => ?_
  split
  · split
    · exact .next hs.putPredD.endTask.settleTasks.finish
    · exact .next hs.putPredD.finish
  · exact .next hs.putPredD.finish

theorem State.Kept.resolve {u n : Nat} {v : Bool} (hs : s.Kept) : (s.resolve u n v).Kept := .settleTasks hs.modUnit.frame

theorem State.Kept.execGset {h : Hd} {clr : Bool} {n : BitVec 4} {x : Ops4} (hs : s.Kept) : Out.Kept (execGset h clr n x s) := by
  unfold Machine.execGset
  refine State.Kept.uniformStep hs fun _ _ _ _ _ => ?_
  split
  · exact .next hs.stall
  · extract_lets
    split
    · exact .next (.finish (.modUnit hs.modUnit))
    · exact .next (.finish (.resolve hs.modUnit))

theorem State.Kept.execSlabld {h : Hd} {m : CopyMod} {x : Ops4} (hs : s.Kept) : Out.Kept (execSlabld h m x s) := by
  unfold Machine.execSlabld
  refine State.Kept.uniformStep hs fun _ _ _ _ _ => ?_
  extract_lets
  split
  · exact State.Kept.copyChecks hs (.next hs.putD.finish)
  · split
    · exact State.Kept.copyChecks hs (.next hs.stall)
    · exact State.Kept.copyChecks hs (State.Kept.postCmd hs.modUnit.putD)

theorem State.Kept.execSlabfree {h : Hd} {x : Ops4} (hs : s.Kept) : Out.Kept (execSlabfree h x s) := by
  unfold Machine.execSlabfree
  refine State.Kept.uniformStep hs fun _ _ _ _ _ => ?_
  extract_lets
  split
  · exact hs.trapGroup
  · exact .next hs.modUnit.sweepSlabs.finish

theorem State.Kept.execSpxs {h : Hd} {m : SpxsMod} {x : Ops4} (hs : s.Kept) : Out.Kept (execSpxs h m x s) := by
  unfold Machine.execSpxs
  refine State.Kept.uniformStep hs fun _ _ _ _ _ => ?_
  extract_lets
  split
  extract_lets
  split
  · exact hs.trapGroup
  · split
    · exact hs.trapGroup
    · split
      · exact hs.trapGroup
      · split
        · exact hs.trapGroup
        · split
          · exact .next hs.stall
          · exact .next (.finish (.modGroup hs.padWrote.modUnit))

theorem State.Kept.mxFault {t : Task} {U : Unit} {src row off es va : Nat} {w : WalkInfo} (hs : s.Kept) :
    (s.mxFault t U src row off es va w).Kept := by
  conv in State.mxFault => delta State.mxFault
  split
  · exact hs.modTask
  · next h => exact (hs.engPost.of_some h).modTask

theorem State.Kept.mxHeat {t : Task} {U : Unit} {fa fb : FSlot} {n : Nat} (hs : s.Kept) : (t.mxHeat U fa fb n s).Kept := by
  unfold Task.mxHeat
  refine .foldl hs fun _ _ hi => ?_
  extract_lets
  split
  refine hi.ite ?_
  split
  · exact hi
  · exact hi.engReadHeat

theorem State.Kept.mxOperands {t : Task} {U : Unit} {fa fb : FSlot} {k : Task → State → State} (hs : s.Kept)
    (hk : ∀ x t1, t1.Kept → (k x t1).Kept) : (s.mxOperands t U fa fb k).Kept := by
  unfold State.mxOperands
  dsimp only
  split
  · exact hk _ _ (.modTask (.mxHeat hs.mxDeliver))
  · exact .modTask (.mxHeat hs.mxDeliver)
  · exact .consume (.modTask (.mxHeat hs.mxDeliver))
  · exact .mxFault (.modTask (.mxHeat hs.mxDeliver))

theorem State.Kept.passOver {e : Nat} {t : Task} {el : List Task} (hs : s.Kept) : (s.passOver e t el).Kept := hs

theorem State.Kept.execEngineGrant {e : Nat} {s0 : State} (hs0 : s0.Kept) : Out.Kept (execEngineGrant e s0) := by
  unfold Machine.execEngineGrant
  extract_lets
  split
  · exact .next hs0.settle
  · split
    · exact .next hs0.settle
    · split
      · exact .next hs0.settle
      · split
        split
        extract_lets
        split
        · exact .next (.settleTasks (.endTask (.modEngine (.passOver hs0.settle))))
        · exact .next (.mxOperands (.modTask (.modEngine (.passOver hs0.settle))) fun _ _ ht11 => ht11)

theorem State.Kept.passDone {t : Task} {tile : List Word} (hs : s.Kept) :
    (s.passDone t tile).Kept := hs.modUnit.endTask.settleTasks.ite hs.modUnit.modTask

theorem State.Kept.execPassEnd {e : Nat} (hs : s.Kept) : Out.Kept (execPassEnd e s) := by
  unfold Machine.execPassEnd
  split
  · exact .next hs
  · split
    · exact .next hs
    · split
      exact .next (.mxOperands hs fun _ _ ht1 => ht1.modEngine.passDone)

theorem State.Kept.watchEngines (hs : s.Kept) : s.watchEngines.Kept := by
  unfold State.watchEngines
  split
  · exact hs
  · exact .foldl hs fun _ _ ht => ht.modEngine

theorem State.Kept.execAnyDispatch {u : Nat} {handle : Word} {target : Nat} (hs : s.Kept) :
    Out.Kept (execAnyDispatch u handle target s) := by
  unfold Machine.execAnyDispatch
  split
  · exact .next hs
  · extract_lets
    split
    · exact .next hs.modTask.modEngine
    · exact .next hs

/-! ### Shapes -/

theorem State.Kept.execShpq {h : Hd} {x : Ops4} (hs : s.Kept) : Out.Kept (execShpq h x s) := by
  unfold Machine.execShpq
  exact State.Kept.uniformStep hs fun _ _ _ _ _ => .next hs.putD.finish

theorem State.Kept.execShpwait {h : Hd} {x : Ops4} (hs : s.Kept) : Out.Kept (execShpwait h x s) := by
  unfold Machine.execShpwait
  refine State.Kept.issue hs fun _ _ _ _ => ?_
  split
  · exact .next hs.finish
  · exact .next hs.waitAt

theorem State.Kept.groupAccess {u g : Nat} {U : Unit} {G : Group} {align : Nat} {acc : Acc} {ea : Nat} {k : LaneOk → State → Out}
    (hs : s.Kept) (hk : ∀ x t, t.Kept → Out.Kept (k x t)) : Out.Kept (s.groupAccess u g U G align acc ea k) := by
  unfold State.groupAccess
  split
  · next h => exact hk _ _ (hs.checkLane.of_ok h)
  · exact .next (hs.reserveFailed.ite hs).takeTrap

theorem State.Kept.execShpset {h : Hd} {sys : Bool} {x : Ops4} (hs : s.Kept) : Out.Kept (execShpset h sys x s) := by
  unfold Machine.execShpset
  refine State.Kept.uniformStep hs fun _ _ _ _ _ => ?_
  extract_lets
  split
  · exact .next hs.stall
  · refine State.Kept.groupAccess hs fun _ _ ht => ?_
    extract_lets
    split
    · exact .next hs.stall
    · exact .next ht.addStore.finish

theorem State.Kept.flushLines {f : Key → Bool} (hs : s.Kept) : (s.flushLines f).Kept :=
  .filterLines (.foldl hs fun _ _ ht => ht.writeBack.dropLine) _

theorem State.Kept.tentMoves {xs : List (Nat × Nat × Nat × Byte)} (hs : s.Kept) : OptKept (·) (tentMoves xs s) := by
  fun_induction Machine.tentMoves xs s
  · exact .some hs
  · next ih => exact ih hs.tentWrite
  · exact .none

theorem State.Kept.rekey {f : Key → Bool} (hs : s.Kept) : OptKept (·) (s.rekey f) := State.Kept.tentMoves hs

theorem State.Kept.portTrap {u g : Nat} {U : Unit} {G : Group} {va : Nat} {w : WalkInfo} (hs : s.Kept) :
    Out.Kept (s.portTrap u g U G va w) := .next (hs.takeTrap.ite (hs.reserveFailed.takeTrap.ite hs.takeTrap))

theorem State.Kept.groupWrite {u g : Nat} {U : Unit} {G : Group} {va : Nat} {bs : List Byte} {k : State → Out} (hs : s.Kept)
    (hk : ∀ t, t.Kept → Out.Kept (k t)) : Out.Kept (s.groupWrite u g U G va bs k) := by
  unfold State.groupWrite
  split
  · exact .next hs.stall
  · split
    · next h => exact hk _ (hs.engWrite.of_ok h).tcRaise
    · exact hs.portTrap
    · exact .next hs.consume
    · next h => exact .next (hs.engWrite.of_wait h).stall

theorem State.Kept.groupRead {u g : Nat} {U : Unit} {G : Group} {va n : Nat} {k : Nat → State → Out} (hs : s.Kept)
    (hk : ∀ n1 t, t.Kept → Out.Kept (k n1 t)) : Out.Kept (s.groupRead u g U G va n k) := by
  unfold State.groupRead
  extract_lets
  split
  · exact .next hs.stall
  · split
    · next h => exact hk _ _ (hs.engRead.of_ok h).rhRaise
    · exact hs.portTrap
    · exact .next hs.consume
    · next h => exact .next (hs.engRead.of_wait h).stall

theorem State.Kept.installTensor {t : Tensor} (hs : s.Kept) : OptKept (·) (s.installTensor t) := State.Kept.rekey hs.flushLines.frame

theorem State.Kept.tmapPut {u g : Nat} {U : Unit} {G : Group} {h : Hd} {b d : Nat} (hs : s.Kept) :
    Out.Kept (s.tmapPut u g U G h b d) := by
  unfold State.tmapPut
  dsimp only
  split
  · exact .next (hs.modGroup.ite hs).modGroup.stall
  · split
    · next h2 =>
      split
      · next h3 => exact .next (((hs.modGroup.ite hs).engWrite.of_ok h2).tcRaise.installTensor.of_some h3).finish
      · exact .next (hs.modGroup.ite hs).modGroup.stall
    · exact (hs.modGroup.ite hs).portTrap
    · exact .next (hs.modGroup.ite hs).consume
    · next h2 => exact .next ((hs.modGroup.ite hs).engWrite.of_wait h2).modGroup.stall

theorem State.Kept.execTmapset {h : Hd} {x : Ops4} (hs : s.Kept) : Out.Kept (execTmapset h x s) := by
  unfold Machine.execTmapset
  refine State.Kept.uniformStep hs fun _ _ _ _ _ => ?_
  extract_lets
  split
  · exact hs.tmapPut
  · split
    · exact .next hs.stall
    · split
      · exact hs.trapGroup
      · split
        · exact hs.trapGroup
        · refine State.Kept.groupRead hs fun _ _ ht => ?_
          split
          · exact hs.trapGroup
          · exact ht.tmapPut

theorem State.Kept.execTmapclr {h : Hd} {x : Ops4} (hs : s.Kept) : Out.Kept (execTmapclr h x s) := by
  unfold Machine.execTmapclr
  refine State.Kept.uniformStep hs fun _ _ _ _ _ => ?_
  extract_lets
  split
  · exact .next hs.stall
  · split
    · exact hs.trapGroup
    · split
      · exact .next hs.stall
      · exact State.Kept.groupWrite hs fun _ ht => .next (.finish ht.flushLines.frame)

theorem State.Kept.installMap {ctx : Nat} (hs : s.Kept) : (s.installMap ctx).Kept := by
  unfold State.installMap
  refine .foldl hs fun _ _ hn => ?_
  split
  · exact OptKept.getD hn.installTensor hn
  · exact hn

end Sys2Proof.Machine
end

section
/-! PROOFS. System instructions, spatial programs and save areas keep the form of memory; PMAP links and zeroes tables (R418). -/

namespace Sys2Proof.Machine

open Sys2Proof

-- In turn: many short proofs, elaborated at once, would each hold a thread and its stack.
set_option Elab.async false

variable {s : State}

/-! ### System instructions -/

theorem State.Kept.execHpref {h : Hd} {r : HintRaw} (hs : s.Kept) : Out.Kept (execHpref h r s) := by
  unfold Machine.execHpref
  refine State.Kept.issue hs fun _ _ _ _ => ?_
  split
  · exact hs.prefStep
  · exact .next hs.finish

theorem State.Kept.execHprio {h : Hd} {r : HintRaw} (hs : s.Kept) : Out.Kept (execHprio h r s) := by
  unfold Machine.execHprio
  exact State.Kept.issue hs fun _ _ _ _ => .next (hs.ite hs.modGroup).finish

theorem State.Kept.execHnote {h : Hd} {r : HintRaw} (hs : s.Kept) : Out.Kept (execHnote h r s) := by
  unfold Machine.execHnote
  exact State.Kept.issue hs fun _ _ _ _ => .next hs.finish

theorem State.Kept.execHintRegionNop {h : Hd} {op : BitVec 2} {r : HintRaw} (hs : s.Kept) : Out.Kept (execHintRegionNop h op r s) := by
  unfold Machine.execHintRegionNop
  exact State.Kept.issue hs fun _ _ _ _ => .next hs.finish

theorem State.Kept.privStep {ok : Unit → Group → Bool} {uses : Uses} {k : Nat → Nat → Unit → Group → Out} (hs : s.Kept)
    (hk : ∀ u g U G, Out.Kept (k u g U G)) : Out.Kept (privStep ok uses s k) := by
  unfold Machine.privStep
  refine State.Kept.issue hs fun _ _ _ _ => ?_
  split
  · exact hk _ _ _ _
  · exact hs.trapGroup

theorem State.Kept.privUniform {ok : Unit → Group → Bool} {h : Hd} {uses : Uses} {k : Nat → Nat → Unit → Group → Nat → Out} (hs : s.Kept)
    (hk : ∀ u g U G n, Out.Kept (k u g U G n)) : Out.Kept (privUniform ok h uses s k) := by
  unfold Machine.privUniform
  refine State.Kept.privStep hs fun _ _ _ _ => ?_
  split
  · exact .next hs.finish
  · exact hk _ _ _ _ _

theorem State.Kept.trapStep {cause : Nat} {ret : DWord → DWord} {h : Hd} {x : Ops4} (hs : s.Kept) :
    Out.Kept (trapStep cause ret h x s) := by
  unfold Machine.trapStep
  exact State.Kept.privUniform hs fun _ _ _ _ _ => .next hs.takeTrap

theorem State.Kept.execUnassignedOpcode {w : Slot} (hs : s.Kept) : Out.Kept (execUnassignedOpcode w s) := by
  unfold Machine.execUnassignedOpcode
  exact State.Kept.issue hs fun _ _ _ _ => hs.trapGroup

theorem State.Kept.execSread {h : Hd} {x : Ops4} (hs : s.Kept) : Out.Kept (execSread h x s) := by
  unfold Machine.execSread
  exact State.Kept.privStep hs fun _ _ _ _ => .next hs.modGroup.finish

theorem State.Kept.execSwrite {h : Hd} {x : Ops4} (hs : s.Kept) : Out.Kept (execSwrite h x s) := by
  unfold Machine.execSwrite
  exact State.Kept.privUniform hs fun _ _ _ _ _ => .next hs.modGroup.finish

theorem State.Kept.execRte {h : Hd} {x : Ops4} (hs : s.Kept) : Out.Kept (execRte h x s) := by
  unfold Machine.execRte
  exact State.Kept.privStep hs fun _ _ _ _ => .next hs.modGroup

theorem State.Kept.execHrec {h : Hd} {x : Ops4} (hs : s.Kept) : Out.Kept (execHrec h x s) := by
  unfold Machine.execHrec
  exact State.Kept.privUniform hs fun _ _ _ _ _ => .next hs.modGroup.finish

theorem State.Kept.execHrecW {h : Hd} {x : Ops4} (hs : s.Kept) : Out.Kept (execHrecW h x s) := by
  unfold Machine.execHrecW
  exact State.Kept.privUniform hs fun _ _ _ _ _ => .next hs.modGroup.finish

theorem State.Kept.postPrepared {u g die d : Nat} (hs : s.Kept) : (s.postPrepared u g die d).1.Kept := by
  unfold State.postPrepared
  exact hs.postBytes.frame

theorem State.Kept.parkFail {u g : Nat} {G : Group} (hs : s.Kept) : Out.Kept (s.parkFail u g G) := hs.trapGroup

theorem State.Kept.execPark {h : Hd} {x : Ops4} (hs : s.Kept) : Out.Kept (execPark h x s) := by
  obtain ⟨post, hpost, hkept⟩ := State.Kept.exists_post
  conv in Machine.execPark => delta Machine.execPark
  rw [← hpost]
  refine State.Kept.privStep hs fun _ _ _ _ => ?_
  dsimp only
  split
  · split
    · exact hs.parkFail
    · split
      · exact .next hs.stall
      · next h => exact .next ((hkept hs).of_some h).modGroup
  · split
    · exact hs.parkFail
    · split
      · exact .next hs.stall
      · split
        · exact hs.parkFail
        · exact .next hs.consume
        · next h => exact .next (hs.engRead.of_wait h).stall
        · next h =>
          split
          · exact .next (hs.engRead.of_ok h).postPrepared.modGroup
          · exact .next hs.stall

/-- A line with bytes of it set to zero, as a zeroed range leaves it. -/
def Line.zeroIn (inside : Nat → Bool) (l : Line) : Line :=
  (List.range 256).foldl (fun m o => match segPa l.segs o with
    | some x => if inside x then (if l.proxy then { m with data := spSet 0 m.data o 0 } else m.put o 0) else m
    | none => m) l

/-- It keeps its name, and stays sound. -/
theorem Line.zeroIn_kept (inside : Nat → Bool) (l : Line) : (l.zeroIn inside).name = l.name ∧ (l.Sound → (l.zeroIn inside).Sound) := by
  refine List.foldlRecOn _ _ (motive := fun m : Line => m.name = l.name ∧ (l.Sound → m.Sound)) ⟨rfl, id⟩ fun m ⟨hname, hsound⟩ o _ => ?_
  split
  · split
    · split
      · exact ⟨hname, fun hl => (hsound hl).put o 0⟩
      · exact ⟨hname, fun hl => (hsound hl).put o 0⟩
    · exact ⟨hname, hsound⟩
  · exact ⟨hname, hsound⟩

theorem State.Kept.zeroRange {pa n : Nat} (hs : s.Kept) : (s.zeroRange pa n).Kept := by
  unfold State.zeroRange
  extract_lets inside s0 s1
  have h0 : s0.Kept := hs.ownTouch.ownRounds
  have h1 : s1.Kept := State.Kept.mapLinesIf (s := { s0 with mem := _, uncorr := _ }) (h0.withMem (memWf_filter _ hs.memWf))
    (fun l _ => (l.zeroIn_kept inside).1) fun l _ => (l.zeroIn_kept inside).2
  exact .passLeases h1.linesIn h1

theorem State.Kept.linkTables {va n n1 : Nat} {xs : List Nat} (hs : s.Kept) : (linkTables va n n1 xs s).2.Kept := by
  fun_induction Machine.linkTables va n n1 xs s
  · exact hs
  · dsimp only
    exact hs.zeroRange.ownPut
  · next ih => exact ih hs.zeroRange.ownPut

theorem State.Kept.putLeaf {va z tbl pa : Nat} (hs : s.Kept) : (s.putLeaf va z tbl pa).Kept := by
  unfold State.putLeaf
  extract_lets
  split
  · exact hs.ownPut
  · exact .foldl hs fun _ _ hi1 => hi1.ownPut
  · exact hs.ownPut

theorem State.Kept.takePages {die z n : Nat} (hs : s.Kept) : OptKept (·.2.2) (s.takePages die z n) := by
  unfold State.takePages
  extract_lets
  split
  · exact .none
  · next h =>
    split
    · next h1 => exact .some ((hs.takeRing.of_some h).takeRing.of_some h1 :)
    · exact .none

theorem State.Kept.pmap {die ctx va z : Nat} (hs : s.Kept) : (s.pmap die ctx va z).2.Kept := by
  unfold State.pmap
  extract_lets size page tgt
  split
  · exact hs
  · split
    · exact hs
    · split
      · exact hs
      · exact hs
      · split
        · exact hs
        · split
          · exact hs
          · next h => exact (hs.takePages.of_some h).zeroRange.putLeaf
      · split
        · exact hs
        · next h => exact (hs.takePages.of_some h).linkTables.zeroRange.putLeaf

theorem State.Kept.execPmap {h : Hd} {x : Ops4} (hs : s.Kept) : Out.Kept (execPmap h x s) := by
  unfold Machine.execPmap
  refine State.Kept.privUniform hs fun _ _ _ _ _ => ?_
  extract_lets
  split
  · exact .next hs.consume
  · split
    · exact .next hs.stall
    · split
      next h3 => exact .next (hs.walkReads.pmap.of_snd h3).putD.finish

theorem State.Kept.startShoot {host : Bool} {u g : Nat} {ctx : Option Nat} {va : Nat} {len : Option Nat} (hs : s.Kept) :
    (s.startShoot host u g ctx va len).Kept := .fresh hs

theorem State.Kept.execTlbinv {h : Hd} {f : TlbForm} {x : Ops4} (hs : s.Kept) : Out.Kept (execTlbinv h f x s) := by
  unfold Machine.execTlbinv
  refine State.Kept.privUniform hs fun _ _ _ _ _ => ?_
  dsimp only
  split
  · exact .next hs.stall
  · split
    · exact .next hs.modGroup.stall
    · split <;> exact .next hs.startShoot.modGroup.stall

theorem State.Kept.finishMid {u g : Nat} (hs : s.Kept) : (s.finishMid u g).Kept := hs.modGroup

theorem State.Kept.execIcinv {h : Hd} {all : Bool} {x : Ops4} (hs : s.Kept) : Out.Kept (execIcinv h all x s) := by
  unfold Machine.execIcinv
  refine State.Kept.privUniform hs fun _ _ _ _ _ => ?_
  split
  · exact .next hs.stall
  · split
    · exact .next hs.modGroup.stall
    · extract_lets
      split
      next h3 => exact .next (.stall (.modGroup (.fresh (hs.sendIcinv.of_snd h3 :))))

theorem State.Kept.execIcinvInvalidation {die id : Nat} (hs : s.Kept) : Out.Kept (execIcinvInvalidation die id s) := by
  unfold Machine.execIcinvInvalidation
  split
  · exact .next hs
  · split
    · exact .next hs
    · extract_lets
      split
      · exact .next (.finishMid hs.dropSlots.ackPkt.frame)
      · exact .next hs.dropSlots.ackPkt.frame

theorem State.Kept.execPerf {h : Hd} {x : Ops4} (hs : s.Kept) : Out.Kept (execPerf h x s) := by
  unfold Machine.execPerf
  exact State.Kept.issue hs fun _ _ _ _ => .next hs.modGroup.finish

theorem State.Kept.svcAlign {u g : Nat} {U : Unit} {G : Group} {n : Nat} {xs : List (Nat × Nat)} {k : Out} (hs : s.Kept) (hk : Out.Kept k)
    : Out.Kept (svcAlign s u g U G n xs k) := by
  unfold Machine.svcAlign
  split
  · exact hk
  · exact hs.trapLanes

theorem State.Kept.svcLock {u g pa : Nat} (hs : s.Kept) : (s.svcLock u g pa).Kept := by
  have byAddr {t : State} (ht : t.Kept) : (if t.paLocked pa then t else { t with paLocks := (pa / 256, u, g) :: t.paLocks }).Kept :=
    .ite ht ht
  unfold State.svcLock
  dsimp only
  split
  · exact byAddr hs
  · split
    · exact hs.fill.putLine hs.fill_sound
    · exact byAddr hs.fill

theorem State.Kept.svcLockRead {u g : Nat} {U : Unit} {pa n : Nat} (hs : s.Kept) :
    (s.svcLockRead u g U pa n).Kept := hs.countTile.svcAtHome.svcLock

theorem State.Kept.execSvcrmwLock {h : Hd} {b64 : Bool} {x : Ops4} (hs : s.Kept) : Out.Kept (execSvcrmwLock h b64 x s) := by
  unfold Machine.execSvcrmwLock
  refine State.Kept.privStep hs fun _ _ _ _ => ?_
  extract_lets
  refine State.Kept.svcAlign hs ?_
  split
  · exact .next hs.stall
  · split
    · exact .next hs.consume
    · exact .next (.finish (.modGroup (.foldl hs fun _ _ hy => hy.svcLockRead)))

theorem State.Kept.svcFree {u g pa : Nat} (hs : s.Kept) : (s.svcFree u g pa).Kept :=
  State.Kept.mapLinesIf (s := { s with paLocks := s.paLocks.filter fun x => x != (pa / 256, u, g) }) hs (fun _ _ => rfl) fun _ _ hl => hl

theorem State.Kept.svcUnlock {u g : Nat} {U : Unit} {n : Nat} {x : Nat × Nat} (hs : s.Kept) :
    (s.svcUnlock u g U n x).Kept := hs.countTile.svcWrite.svcFree

theorem State.Kept.svcUnlocks {u g : Nat} {U : Unit} {h : Hd} {n : Nat} {xs : List (Nat × Nat)} (hs : s.Kept) :
    (s.svcUnlocks u g U h n xs).Kept := by
  unfold State.svcUnlocks
  split
  · exact .finish (.consume (.foldl hs fun t _ hy => hy.svcFree))
  · split
    · next h2 => exact (hs.svcInvals.of_snd h2).stall
    · next h2 =>
      split
      · exact (hs.svcInvals.of_snd h2).noChunks
      · next h3 => exact .finish (.foldl ((hs.svcInvals.of_snd h2).svcReserve.of_ok h3) fun t _ hx3 => hx3.svcUnlock)

theorem State.Kept.execSvcrmwUnlock {h : Hd} {b64 : Bool} {x : Ops4} (hs : s.Kept) : Out.Kept (execSvcrmwUnlock h b64 x s) := by
  unfold Machine.execSvcrmwUnlock
  refine State.Kept.privStep hs fun _ _ _ _ => ?_
  extract_lets
  split
  · split
    · exact State.Kept.svcAlign hs (.next hs.stall)
    · exact State.Kept.svcAlign hs (.next hs.svcUnlocks)
  · split
    · exact State.Kept.svcAlign hs (.next hs.stall)
    · exact State.Kept.svcAlign hs (.next hs.svcUnlocks)

theorem State.Kept.svcReply {v slot : Nat} (hs : s.Kept) : (s.svcReply v slot).Kept := by
  unfold State.svcReply
  extract_lets
  split
  · exact hs.event
  · exact hs

theorem State.Kept.execSvcret {h : Hd} {x : Ops4} (hs : s.Kept) : Out.Kept (execSvcret h x s) := by
  unfold Machine.execSvcret
  exact State.Kept.privStep hs fun _ _ _ _ => .next (.finish (.foldl hs fun _ _ hl => hl.svcReply))

/-! ### Spatial programs -/

theorem State.Kept.execToki {h : Hd} {x : Ops4} (hs : s.Kept) : Out.Kept (execToki h x s) := by
  unfold Machine.execToki
  refine State.Kept.uniformStep hs fun _ _ _ _ _ => ?_
  extract_lets
  split
  · exact hs.trapGroup
  · exact .next hs.modUnit.finish

theorem State.Kept.execSpatq {h : Hd} {x : Ops4} (hs : s.Kept) : Out.Kept (execSpatq h x s) := by
  unfold Machine.execSpatq
  exact State.Kept.uniformStep hs fun _ _ _ _ _ => .next hs.putD.finish

theorem State.Kept.gathered {u : Nat} {U : Unit} (hs : s.Kept) : (s.gathered u U).Kept := by
  unfold State.gathered
  split
  · exact hs.spatTrap.ite hs.modUnit
  · exact hs

theorem State.Kept.execSpaton {h : Hd} {x : Ops4} (hs : s.Kept) : Out.Kept (execSpaton h x s) := by
  unfold Machine.execSpaton
  refine State.Kept.issue hs fun _ _ _ _ => ?_
  split
  · exact .next hs.finish
  · split
    · exact .next hs.stall
    · extract_lets
      split
      · exact .next hs.modGroup
      · split
        · exact .next (.gathered hs.modGroup)
        · exact .next hs.modGroup

theorem State.Kept.placerRead {U : Unit} {va n : Nat} (hs : s.Kept) : (s.placerRead U va n).Kept := hs.engRead

theorem State.Kept.imageFail {α : Type} {U : Unit} {p : Piece α} (hs : s.Kept) (hp : p.Kept) : (s.imageFail U p).Kept := by
  unfold State.imageFail
  obtain ht | ht | _ | _ := hp
  · exact ht
  · exact ht
  · exact hs
  · exact hs.consume

theorem State.Kept.readImage {U : Unit} {b cl : Nat} (hs : s.Kept) : (s.readImage U b cl).Kept := by
  unfold State.readImage
  extract_lets
  split
  · next h =>
    split
    · next h1 =>
      extract_lets
      split
      · split
        · next h3 => exact .got (((hs.placerRead.of_ok h).placerRead.of_ok h1).placerRead.of_ok h3)
        · exact .failed (((hs.placerRead.of_ok h).placerRead.of_ok h1).imageFail ((hs.placerRead.of_ok h).placerRead.of_ok h1).placerRead)
      · split
        · next h3 =>
          extract_lets
          split
          · split
            · next h5 => exact .got ((((hs.placerRead.of_ok h).placerRead.of_ok h1).placerRead.of_ok h3).placerRead.of_ok h5)
            · exact .failed ((((hs.placerRead.of_ok h).placerRead.of_ok h1).placerRead.of_ok h3).imageFail
                (((hs.placerRead.of_ok h).placerRead.of_ok h1).placerRead.of_ok h3).placerRead)
          · split
            · exact .notHere (((hs.placerRead.of_ok h).placerRead.of_ok h1).placerRead.of_ok h3)
            · exact .noVariant (((hs.placerRead.of_ok h).placerRead.of_ok h1).placerRead.of_ok h3)
        · exact .failed (((hs.placerRead.of_ok h).placerRead.of_ok h1).imageFail ((hs.placerRead.of_ok h).placerRead.of_ok h1).placerRead)
    · exact .failed ((hs.placerRead.of_ok h).imageFail (hs.placerRead.of_ok h).placerRead)
  · exact .failed (hs.imageFail hs.placerRead)

theorem State.Kept.seekCluster {u image : Nat} (hs : s.Kept) : (s.seekCluster u image).Kept := hs.modUnit

theorem State.Kept.execSpatialLoad {u row col : Nat} (hs : s.Kept) : Out.Kept (execSpatialLoad u row col s) := by
  unfold Machine.execSpatialLoad
  split
  · exact .next hs
  · split
    · exact .next hs
    · split
      · exact .next hs
      · split
        · next h => exact .next (hs.readImage.of_failed h)
        · next h => exact .next (hs.readImage.of_notHere h).seekCluster
        · next h => exact .next (hs.readImage.of_noVariant h).cancelLaunch
        · next h =>
          extract_lets
          split
          · exact .next (hs.readImage.of_got h).spatTrap
          · split
            · exact .next ((hs.readImage.of_got h).seekCluster.ite (hs.readImage.of_got h))
            · split
              · exact .next (hs.readImage.of_got h)
              · split
                · exact .next (hs.readImage.of_got h).spatTrap
                · exact .next (hs.readImage.of_got h).modUnit

theorem State.Kept.modPort {u k : Nat} {f : SPort → SPort} (hs : s.Kept) : (s.modPort u k f).Kept := hs.modSpat

theorem State.Kept.portXlate {die ctx : Nat} {gather : Bool} {acc : Acc} {e : Option (Nat × Nat × Nat)} {va : Nat} (hs : s.Kept) :
    ExKept (fun _ => True) (·.2.2) (s.portXlate die ctx gather acc e va) := by
  unfold State.portXlate
  dsimp only
  split
  · exact .error trivial
  · split
    · split
      · exact .error trivial
      · next h2 => exact .ok (hs.translate.of_ok h2 :)
    · split
      · split
        · exact .ok hs
        · split
          · exact .error trivial
          · next h3 => exact .ok (hs.walkMake.of_ok h3 :)
      · split
        · exact .error trivial
        · next h2 => exact .ok (hs.walkMake.of_ok h2 :)

theorem State.Kept.portRead {p : Port} {gather : Bool} {xs : List Nat} {x : Option (Nat × Nat × Nat)} (hs : s.Kept) :
    (portRead p gather xs x s).Kept := by
  fun_induction Machine.portRead p gather xs x s
  · exact .ok hs
  · exact hs.ofWalk
  · exact .uncorr _
  · next h _ _ => exact .wait (hs.portXlate.of_ok h)
  · next h _ _ _ _ h3 _ _ _ h4 ih => exact .ok ((ih ((hs.portXlate.of_ok h).sentRead.readPage.of_snd h3)).of_ok h4)
  · next h _ _ _ _ h3 _ ih => exact ih ((hs.portXlate.of_ok h).sentRead.readPage.of_snd h3)

theorem State.Kept.portCheck {p : Port} {xs : List (Nat × Byte)} {x : Option (Nat × Nat × Nat)} (hs : s.Kept) :
    (portCheck p xs x s).Kept := by
  fun_induction Machine.portCheck p xs x s
  · exact .ok hs
  · exact hs.ofWalk
  · exact .fault _ _
  · exact .uncorr _
  · next h _ h1 => exact .wait ((hs.portXlate.of_ok h).engAdmit.of_wait h1)
  · next h _ _ h1 _ _ _ h2 ih => exact .ok ((ih ((hs.portXlate.of_ok h).engAdmit.of_ok h1)).of_ok h2)
  · next h _ _ h1 _ ih => exact ih ((hs.portXlate.of_ok h).engAdmit.of_ok h1)

theorem State.Kept.portFault {u k : Nat} {U : Unit} {c : Spat} {p : SPort} {pos va : Nat} {w : WalkInfo} (hs : s.Kept) :
    (s.portFault u k U c p pos va w).Kept := by
  conv in State.portFault => delta State.portFault
  split
  · exact hs
  · next h => exact (hs.engPost.of_some h).modPort

theorem State.Kept.portWrite {u k : Nat} (hs : s.Kept) : (s.portWrite u k).Kept := by
  unfold State.portWrite
  split
  · exact hs
  · split
    · exact hs
    · split
      · exact hs
      · split
        · exact hs
        · split
          · exact hs
          · extract_lets
            split
            · exact hs.portFault
            · exact hs.consume
            · next h5 => exact hs.portCheck.of_wait h5
            · next h5 =>
              dsimp only
              split
              · exact (hs.portCheck.of_ok h5).tentWrite.modPort.ite (hs.portCheck.of_ok h5)
              · split
                · next h7 => exact ((hs.portCheck.of_ok h5).engStore.of_ok h7).engHeat.rhRaise.modPort
                · exact hs.portFault
                · exact (hs.portCheck.of_ok h5).consume
                · next h7 => exact (hs.portCheck.of_ok h5).engStore.of_wait h7

theorem State.Kept.drainPort {u k n : Nat} (hs : s.Kept) : (s.drainPort u k n).Kept := by
  fun_induction State.drainPort s u k n
  · exact hs
  · next ih => exact ih hs.portWrite

theorem State.Kept.drain {u k : Nat} (hs : s.Kept) : (s.drain u k).Kept := by
  unfold State.drain
  split
  · exact hs
  · exact hs.drainPort

theorem State.Kept.placeRead {u : Nat} {d : PortDst} {v : Word} (hs : s.Kept) : (s.placeRead u d v).Kept := by
  unfold State.placeRead
  split
  · exact hs.modSpat
  · exact hs.modOper

theorem State.Kept.readFault {u k : Nat} {U : Unit} {c : Spat} {p : SPort} {r : PortRead} {a : Nat} {w : WalkInfo} (hs : s.Kept) :
    (s.readFault u k U c p r a w).Kept := hs.modPort.ite hs.portFault

theorem State.Kept.portReturn {u k : Nat} {U : Unit} {c : Spat} {p : SPort} {r : PortRead} (hs : s.Kept) :
    (s.portReturn u k U c p r).Kept := by
  unfold State.portReturn
  dsimp only
  split
  · exact hs.modPort.placeRead
  · split
    · next h => exact (hs.portRead.of_ok h).engReadHeat.modPort.placeRead
    · exact hs.readFault
    · exact hs.consume
    · next h => exact hs.portRead.of_wait h

theorem State.Kept.execStreamReadReturn {u port : Nat} (hs : s.Kept) : Out.Kept (execStreamReadReturn u port s) := by
  unfold Machine.execStreamReadReturn
  split
  · exact .next hs
  · split
    · exact .next hs
    · split
      · exact .next hs
      · split
        · exact .next hs
        · split
          · exact .next hs.drain
          · exact .next hs.portReturn

theorem State.Kept.spatialOp {uses : Uses} {k : Nat → Nat → Unit → Spat → SOper → Out} (hs : s.Kept)
    (hk : ∀ u g U x x1, Out.Kept (k u g U x x1)) : Out.Kept (spatialOp uses s k) := by
  unfold Machine.spatialOp
  split
  · exact State.Kept.operStep hs fun U _ _ => hk _ _ _ _ _
  · exact State.Kept.issue hs fun u g U G => hs.trapGroup
  · exact State.Kept.issue hs fun _ _ U G => hs.trapGroup
  · exact State.Kept.issue hs fun u g U G => hs.trapGroup

theorem State.Kept.operGive {u o : Nat} {c : Spat} {core q v : Nat} (hs : s.Kept) : Out.Kept (s.operGive u o c core q v) := by
  unfold State.operGive
  split
  · exact .next hs
  · exact .next hs.modSpat.operDone

theorem State.Kept.execSend {h : Hd} {x : Ops4} (hs : s.Kept) : Out.Kept (execSend h x s) := by
  unfold Machine.execSend
  exact State.Kept.spatialOp hs fun _ _ _ _ _ => hs.operGive

theorem State.Kept.execGtok {h : Hd} {x : Ops4} (hs : s.Kept) : Out.Kept (execGtok h x s) := by
  unfold Machine.execGtok
  exact State.Kept.spatialOp hs fun _ _ _ _ _ => hs.operGive

theorem State.Kept.execDropt {h : Hd} {x : Ops4} (hs : s.Kept) : Out.Kept (execDropt h x s) := by
  unfold Machine.execDropt
  exact State.Kept.spatialOp hs fun _ _ _ _ _ => .next hs.operDone

theorem State.Kept.execStrld {h : Hd} {gather : Bool} {x : Ops4} (hs : s.Kept) : Out.Kept (execStrld h gather x s) := by
  unfold Machine.execStrld
  refine State.Kept.spatialOp hs fun _ _ _ _ _ => ?_
  split
  · exact .next hs.rateTrap
  · extract_lets
    split
    · exact .next hs.rateTrap
    · split
      · exact .next hs
      · exact .next hs.modPort.operDone

theorem State.Kept.execStrst {h : Hd} {x : Ops4} (hs : s.Kept) : Out.Kept (execStrst h x s) := by
  unfold Machine.execStrst
  refine State.Kept.spatialOp hs fun _ _ _ _ _ => ?_
  split
  · exact .next hs.rateTrap
  · split
    · exact .next hs.rateTrap
    · split
      · exact .next hs.modPort.operDone
      · exact .next hs.modPort.operDone.drain

theorem State.Kept.execSpexit {h : Hd} {x : Ops4} (hs : s.Kept) : Out.Kept (execSpexit h x s) := by
  unfold Machine.execSpexit
  exact State.Kept.spatialOp hs fun _ _ _ _ _ => .next (hs.modSpat.ite hs).operDone

theorem State.Kept.operInstr {u o : Nat} {i : Instr} (hs : s.Kept) : Out.Kept (operInstr u o i s) := by
  unfold Machine.operInstr
  extract_lets
  split
  · exact State.Kept.execSend hs
  · exact State.Kept.execStrld hs
  · exact State.Kept.execStrst hs
  · exact State.Kept.execGtok hs
  · exact State.Kept.execDropt hs
  · exact State.Kept.execSpexit hs
  · split
    · exact State.Kept.operAlu hs
    · split
      · exact .next (.operTrap hs)
      · exact .next hs

theorem State.Kept.operNext {u o : Nat} (hs : s.Kept) : (s.operNext u o).Kept := by
  unfold State.operNext
  split
  · exact hs
  · split
    · exact hs
    · split
      · exact hs.operDone
      · split
        · exact hs.operTrap
        · exact hs.operTrap
        · split
          · next h => exact (hs.operInstr.of_next h).frame
          · exact hs
          · exact hs

theorem State.Kept.operRun {u o n : Nat} (hs : s.Kept) : (operRun u o n s).Kept := by
  fun_induction Machine.operRun u o n s
  · exact hs
  · next ih => exact ih hs.operNext

theorem State.Kept.execOperatorFiring {u op : Nat} (hs : s.Kept) : Out.Kept (execOperatorFiring u op s) := by
  unfold Machine.execOperatorFiring
  split
  · exact .next hs
  · split
    · exact .next hs.operRun
    · split
      · exact .next hs
      · split
        · split
          · exact .next hs.rateTrap
          · exact .next hs
        · split
          · exact .next hs
          · exact .next hs.modSpat.operRun

theorem State.Kept.spatEnd {u : Nat} {c : Spat} (hs : s.Kept) : (s.spatEnd u c).Kept := hs.withdraw.modUnit

theorem State.Kept.execSpatialExit {u : Nat} (hs : s.Kept) : Out.Kept (execSpatialExit u s) := by
  unfold Machine.execSpatialExit
  split
  · exact .next hs
  · split
    · exact .next hs
    · split
      · exact .next hs
      · extract_lets
        split
        · exact .next (.foldl hs fun t k hk => hk.drain)
        · split
          · exact .next (.foldl hs fun t k hk => hk.drain)
          · split
            · exact .next (.foldl hs fun t k hk => hk.drain)
            · exact .next (.spatEnd (.foldl hs fun t k hk => hk.drain))

/-! ### Save areas -/

theorem State.Kept.putAt {ctx va : Nat} {bs : List Byte} (hs : s.Kept) : (s.putAt ctx va bs).Kept := by
  unfold State.putAt
  refine .foldl hs fun _ _ hx => ?_
  split
  · exact hx.ownWrite
  · exact hx

theorem State.Kept.raiseSaved {u t : Nat} (hs : s.Kept) : (s.raiseSaved u t).Kept := by
  unfold State.raiseSaved
  split
  · exact hs
  · extract_lets
    split
    · exact .putAt hs.modUnit
    · exact hs.modUnit

theorem State.Kept.emptySaved {u : Nat} {sel : SPort → Bool} (hs : s.Kept) : (s.emptySaved u sel).Kept := by
  unfold State.emptySaved
  split
  · exact hs
  · split
    · split
      · exact hs
      · exact .foldl hs fun _ _ hx3 => hx3.putAt.ite hx3
    · exact hs

theorem State.Kept.emptyPorts {sel : Unit → SPort → Bool} (hs : s.Kept) : (s.emptyPorts sel).Kept := by
  unfold State.emptyPorts
  exact .foldl hs fun _ _ hx => hx.emptySaved

end Sys2Proof.Machine
end

section
/-! PROOFS. The front end keeps the form of memory: queues, their programs, the start of launches and deltas. -/

namespace Sys2Proof.Machine

open Sys2Proof

-- In turn: many short proofs, elaborated at once, would each hold a thread and its stack.
set_option Elab.async false

variable {s : State}

/-! ### The front end -/

theorem State.Kept.frontBytes {ord : Bool} {die ctx n n1 n2 : Nat} (hs : s.Kept) : (frontBytes ord die ctx n n1 n2 s).Kept := by
  fun_induction Machine.frontBytes ord die ctx n n1 n2 s
  · exact .ok hs
  · exact .ok hs
  · exact .fault _ _
  · exact hs.ofWalk
  · exact .uncorr _
  · next h2 _ _ => exact .wait (hs.translate.of_ok h2)
  · next h2 _ _ _ _ h5 _ _ h6 ih => exact .ok ((ih ((hs.translate.of_ok h2).passPkts.backPkts.readPage.of_snd h5)).of_ok h6)
  · next h2 _ _ _ _ h5 _ ih => exact ih ((hs.translate.of_ok h2).passPkts.backPkts.readPage.of_snd h5)

theorem State.Kept.qRead {Q : Queue} {va n : Nat} (hs : s.Kept) : (s.qRead Q va n).Kept := hs.frontBytes

theorem State.Kept.qStore {Q : Queue} {rel : Bool} {va : Nat} {v : DWord} {tag : Nat} (hs : s.Kept) :
    (s.qStore Q rel va v tag).Kept := hs.sendFront

theorem State.Kept.qAdd {Q : Queue} {rel : Bool} {va : Nat} {v : DWord} {tag : Nat} (hs : s.Kept) :
    (s.qAdd Q rel va v tag).Kept := hs.sendFront

theorem State.Kept.abortStores {Q : Queue} {ab : DWord} {stop n n1 : Nat} (hs : s.Kept) : (abortStores Q ab stop n n1 s).Kept := by
  fun_induction Machine.abortStores Q ab stop n n1 s
  · exact hs
  · exact hs
  · next h _ _ ih => exact ih ((hs.frontBytes.of_ok h).ite (hs.frontBytes.of_ok h).qStore)
  · next ih => exact ih hs

theorem State.Kept.unwatch {q : Nat} (hs : s.Kept) : (s.unwatch q).Kept := hs

theorem State.Kept.queueError {n cause : Nat} {value : DWord} {index : Nat} (hs : s.Kept) : (s.queueError n cause value index).Kept := by
  unfold State.queueError
  split
  · exact hs
  · exact .ite hs (.raiseInt (hs.modQueue.unwatch.qStore.ite hs.modQueue.unwatch).abortStores.frame)

theorem State.Kept.freeError {n index : Nat} (hs : s.Kept) : (s.freeError n index).Kept := by
  unfold State.freeError
  split
  next h => exact (hs.freeVal.of_snd h).queueError

theorem State.Kept.qFault {Q : Queue} {src : Nat} {launch : Option DWord} {va : Nat} {w : WalkInfo} (hs : s.Kept) :
    (s.qFault Q src launch va w).Kept := by
  conv in State.qFault => delta State.qFault
  extract_lets
  split
  · exact hs
  · next h =>
      exact ((hs.engPost.of_some h).ite ((hs.engPost.of_some h).queueError.ite (hs.engPost.of_some h).freeError)).ite
        (hs.engPost.of_some h).modQueue

theorem State.Kept.qWith {Q : Queue} {va n : Nat} {k : List Byte → State → State} (hs : s.Kept) (hk : ∀ xs t, t.Kept → (k xs t).Kept) :
    (s.qWith Q va n k).Kept := by
  unfold State.qWith
  split
  · next h => exact hk _ _ (hs.qRead.of_ok h)
  · exact hs.qFault
  · exact hs.detect.freeError
  · next h => exact hs.qRead.of_wait h

theorem State.Kept.startPacket {Q : Queue} {bs : List Byte} (hs : s.Kept) : (s.startPacket Q bs).Kept := hs.modQueue.qStore

theorem State.Kept.oddPacket {Q : Queue} {bs : List Byte} (hs : s.Kept) :
    (s.oddPacket Q bs).Kept := hs.queueError.ite (hs.ite hs.queueError)

theorem State.Kept.gotPacket {Q : Queue} {bs : List Byte} (hs : s.Kept) : (s.gotPacket Q bs).Kept := by
  unfold State.gotPacket
  split
  · exact .got hs.startPacket
  · exact .stop hs.startPacket.oddPacket

theorem State.Kept.readSlots {Q : Queue} {xs : List Nat} (hs : s.Kept) : (readSlots Q xs s).Kept := by
  fun_induction Machine.readSlots Q xs s
  · exact .ok hs
  · next h _ _ h1 ih => exact .ok ((ih (hs.qRead.of_ok h)).of_ok h1)
  · next h _ ih => exact ih (hs.qRead.of_ok h)
  · exact hs.qRead

theorem State.Kept.readPacket {Q : Queue} (hs : s.Kept) : ExKept State.Kept Prod.snd (s.readPacket Q) := by
  unfold State.readPacket
  split
  · exact .error hs.qFault
  · exact .error hs.detect.freeError
  · next h => exact .error (hs.qRead.of_wait h)
  · next h =>
    extract_lets
    split
    · exact .error (hs.qRead.of_ok h)
    · split
      · exact .error (hs.qRead.of_ok h).qFault
      · exact .error (hs.qRead.of_ok h).detect.freeError
      · next h2 => exact .error ((hs.qRead.of_ok h).readSlots.of_wait h2)
      · next h2 =>
        split
        · exact .error ((hs.qRead.of_ok h).readSlots.of_ok h2)
        · exact .ok ((hs.qRead.of_ok h).readSlots.of_ok h2 :)

theorem State.Kept.nextPacket {Q0 : Queue} (hs : s.Kept) : (s.nextPacket Q0).Kept := by
  unfold State.nextPacket
  split
  · exact .stop hs.qFault
  · exact .stop hs.detect.freeError
  · next h => exact .stop (hs.qRead.of_wait h)
  · next h =>
    dsimp only
    split
    · exact .stop (hs.qRead.of_ok h).modQueue.queueError
    · split
      · exact .stop (hs.qRead.of_ok h).modQueue
      · split
        · next h3 => exact .stop ((hs.qRead.of_ok h).modQueue.readPacket.of_error h3)
        · next h3 =>
          split
          · exact .stop (((hs.qRead.of_ok h).modQueue.readPacket.of_ok h3).queueError.ite
              ((hs.qRead.of_ok h).modQueue.readPacket.of_ok h3).modQueue)
          · exact ((hs.qRead.of_ok h).modQueue.readPacket.of_ok h3).gotPacket

theorem State.Kept.nextWord {Q : Queue} (hs : s.Kept) : (s.nextWord Q).Kept := by
  unfold State.nextWord
  split
  · split
    · exact .got hs
    · exact .stop hs
  · split
    · exact .stop hs.queueError
    · split
      · exact .stop hs.queueError
      · split
        · exact .stop hs.queueError
        · exact .got hs

theorem State.Kept.selectQueue {Q : Queue} (hs : s.Kept) : (s.selectQueue Q).Kept := hs

theorem State.Kept.fetchQueue {q : Nat} (hs : s.Kept) : (s.fetchQueue q).Kept := by
  unfold State.fetchQueue
  split
  · exact .stop hs
  · split
    · split
      · exact hs.nextWord
      · exact .stop hs
    · split
      · exact .stop hs
      · extract_lets
        split
        · exact State.Kept.nextWord (.modQueue hs.selectQueue)
        · exact State.Kept.nextPacket hs.selectQueue

theorem State.Kept.execChecksumRefetch {q : Nat} (hs : s.Kept) : Out.Kept (execChecksumRefetch q s) := by
  unfold Machine.execChecksumRefetch
  split
  · exact .next hs
  · split
    · exact .next hs
    · split
      · next h => exact .next (hs.fetchQueue.of_stop h)
      · next h => exact .next (hs.fetchQueue.of_got h)

theorem State.Kept.finPacket {Q : Queue} {sig : DWord} (hs : s.Kept) : (s.finPacket Q sig).Kept := hs.modQueue

theorem State.Kept.addAct {Q : Queue} {a : Action} (hs : s.Kept) : (s.addAct Q a).Kept := hs.modQueue

theorem State.Kept.readSignals {Q : Queue} {xs : List DWord} (hs : s.Kept) : (readSignals Q xs s).Kept := by
  fun_induction Machine.readSignals Q xs s
  · exact .ok hs
  · next h _ _ h1 ih => exact .ok ((ih (hs.qRead.of_ok h)).of_ok h1)
  · exact .fault _ _
  · exact .uncorr _
  · next h _ h1 ih => exact .wait ((ih (hs.qRead.of_ok h)).of_wait h1)
  · exact .fault _ _
  · exact .uncorr _
  · next h => exact .wait (hs.qRead.of_wait h)

theorem State.Kept.watchSignals {Q : Queue} {xs : List DWord} (hs : s.Kept) : (s.watchSignals Q xs).2.Kept := by
  fun_induction State.watchSignals s Q xs
  · exact hs
  · next ih => exact ih hs
  · next h1 _ _ h2 ih => exact ((ih (hs.armWord.of_snd h1)).of_snd h2 :)

theorem State.Kept.waitSignals {Q : Queue} {w : QWait} (hs : s.Kept) : (s.waitSignals Q w).Kept := by
  unfold State.waitSignals
  split
  next h => exact (hs.watchSignals.of_snd h).modQueue

theorem State.Kept.endWait {q : Nat} (hs : s.Kept) : (s.endWait q).Kept := hs.unwatch.modQueue

theorem State.Kept.evalWait {Q : Queue} {w : QWait} {k : SigEval → State → State} (hs : s.Kept) (hk : ∀ x t, t.Kept → (k x t).Kept) :
    (s.evalWait Q w k).Kept := by
  unfold State.evalWait
  split
  · next h =>
    split
    · exact (hs.readSignals.of_ok h).waitSignals
    · exact hk _ _ (hs.readSignals.of_ok h).endWait
  · exact hs.qFault
  · exact hs.detect.freeError
  · next h => exact hs.readSignals.of_wait h

theorem State.Kept.settleBarrier {Q : Queue} {sig : DWord} {x : SigEval} (hs : s.Kept) : (s.settleBarrier Q sig x).Kept := by
  unfold State.settleBarrier
  split
  · exact hs.queueError
  · exact hs.finPacket

theorem State.Kept.settleWait {Q : Queue} {d : Nat} {r : SigEval} (hs : s.Kept) : (s.settleWait Q d r).Kept := hs.modQueue

theorem State.Kept.waitLater {q : Nat} (hs : s.Kept) : (s.waitLater q).Kept := hs.modQueue

theorem State.Kept.execBarrierReevaluate {q : Nat} (hs : s.Kept) : Out.Kept (execBarrierReevaluate q s) := by
  unfold Machine.execBarrierReevaluate
  split
  · exact .next hs
  · split
    · exact .next hs
    · split
      · exact .next hs
      · exact .next (.evalWait hs.waitLater fun _ _ ht => ht.modQueue.settleBarrier.ite ht.modQueue.settleWait)

/-! ### The start of a launch -/

theorem State.Kept.modLevel {ctx lvl : Nat} {id : Word} {f : Level → Level} (hs : s.Kept) : (s.modLevel ctx lvl id f).Kept := hs

theorem State.Kept.joinChain {ctx : Nat} {phase job : Word} {xs : List (Nat × Word)} (hs : s.Kept) :
    (joinChain ctx phase job xs s).Kept := by
  fun_induction Machine.joinChain ctx phase job xs s
  · exact hs
  · exact hs.modLevel
  · next ih => exact ih hs

theorem State.Kept.closeChain {ctx q close : Nat} {sig : DWord} {chain : List (Nat × Word)} (hs : s.Kept) :
    (s.closeChain ctx q close sig chain).Kept := by
  unfold State.closeChain
  exact .foldl hs fun _ _ hx => hx.modLevel

theorem State.Kept.leaveLevel {ctx n : Nat} {x : Nat × Word} (hs : s.Kept) : (leaveLevel ctx n x s).Kept := by
  fun_induction Machine.leaveLevel ctx n x s
  · exact hs
  · exact hs
  · exact hs.modLevel
  · next ih => exact ih (.ite hs (.sendFront hs))
  · exact .ite hs (.sendFront hs)

theorem State.Kept.cancelById {id : DWord} (hs : s.Kept) : (s.cancelById id).Kept := by
  unfold State.cancelById
  split
  · exact hs.cancelLaunch.ite hs
  · exact hs

theorem State.Kept.cancelLevel {ctx lvl : Nat} {id : Word} (hs : s.Kept) : (s.cancelLevel ctx lvl id).Kept := by
  unfold State.cancelLevel
  split
  · exact hs
  · exact .foldl hs.modLevel fun _ _ hL => hL.cancelById

theorem State.Kept.queueCancel {Q : Queue} {lvl : Nat} {id : DWord} (hs : s.Kept) : (s.queueCancel Q lvl id).Kept := by
  unfold State.queueCancel
  split
  · exact hs
  · exact (hs.cancelById.ite hs.cancelLevel).addAct

theorem State.Kept.watchSignal {L : Launch} (hs : s.Kept) : (s.watchSignal L).Kept := by
  unfold State.watchSignal
  split
  · exact hs
  · split
    · exact hs
    · exact hs.armWord

theorem State.Kept.modDone {id : DWord} {f : Launch → Launch} (hs : s.Kept) : (s.modDone id f).Kept := hs

theorem State.Kept.addLaunch {Q : Queue} {L : Launch} (hs : s.Kept) : (s.addLaunch Q L).Kept := .watchSignal (.addAct hs.modQueue.frame)

theorem State.Kept.lWith {Q : Queue} {L : Launch} {va n : Nat} {detail : Option Nat} {k : List Byte → State → LaunchRes} (hs : s.Kept)
    (hk : ∀ xs t, t.Kept → (k xs t).Kept) : (lWith Q L va n detail s k).Kept := by
  unfold Machine.lWith
  split
  · exact .started hs.addLaunch
  · split
    · next h => exact hk _ _ (hs.qRead.of_ok h)
    · exact .stall hs.qFault
    · exact .started hs.consume.addLaunch
    · next h => exact .stall (hs.qRead.of_wait h)

theorem State.Kept.lBanks {Q : Queue} {L : Launch} {khdr hdr : Nat} {param : List Byte} {k : Sparse Byte → State → LaunchRes}
    (hs : s.Kept) (hk : ∀ x t, t.Kept → (k x t).Kept) : (lBanks Q L khdr hdr param s k).Kept := by
  unfold Machine.lBanks
  exact State.Kept.lWith hs fun _ _ ht => State.Kept.lWith ht fun _ _ ht1 => hk _ _ ht1

theorem State.Kept.lStages {Q : Queue} {L : Launch} {tbl : Nat} {is : List Nat} {acc : List (Stage × Nat × List Byte)}
    {k : List (Stage × Nat × List Byte) → State → LaunchRes} (hs : s.Kept) (hk : ∀ x t, t.Kept → (k x t).Kept) :
    (lStages Q L tbl is acc s k).Kept := by
  induction is generalizing acc s with
  | nil => exact hk _ _ hs
  | cons i is ih => exact State.Kept.lWith hs fun _ t ht => State.Kept.lWith ht fun _ t ht => ih ht

theorem State.Kept.lStageBanks {Q : Queue} {L : Launch} {param : List Byte} {xs : List (Stage × Nat)} {xs1 : List Stage}
    {f : List Stage → State → LaunchRes} (hs : s.Kept) (hf : ∀ xs2 t, t.Kept → (f xs2 t).Kept) :
    (lStageBanks Q L param xs xs1 s f).Kept := by
  fun_induction Machine.lStageBanks Q L param xs xs1 s f
  · exact hf _ _ hs
  · next ih => exact State.Kept.lBanks hs fun _ _ ht => ih _ _ ht hf

theorem State.Kept.recordCount {ctx : Nat} {khdr : DWord} {t : Nat} (hs : s.Kept) : (s.recordCount ctx khdr t).Kept := hs

theorem State.Kept.shapeStart {L : Launch} {w : Nat} (hs : s.Kept) : (s.shapeStart L w).2.Kept := by
  unfold State.shapeStart
  split
  · exact hs.recordCount
  · exact hs

theorem State.Kept.lFinish {Q : Queue} {L : Launch} {retr : Nat} (hs : s.Kept) : (lFinish Q L retr s).Kept := by
  unfold Machine.lFinish
  refine State.Kept.lWith hs fun _ _ ht => ?_
  dsimp only
  split
  · exact .started (.addLaunch (.ite ht.installMap (.installMap ht)))
  · exact State.Kept.lWith ht fun _ _ ht1 => .started (.addLaunch (.ite ht1.shapeStart.installMap (.installMap ht1.shapeStart.frame)))

theorem State.Kept.lSimple {Q : Queue} {L : Launch} {bs : List Byte} (hs : s.Kept) : (lSimple Q L bs s).Kept := by
  unfold Machine.lSimple
  refine State.Kept.lWith hs fun _ _ ht => ?_
  dsimp only
  split
  · exact .started ht.addLaunch
  · split
    · exact .started ht.addLaunch
    · exact State.Kept.lWith ht fun _ _ ht1 => State.Kept.lBanks ht1 fun _ _ ht2 => ht2.lFinish

theorem State.Kept.lPiped {Q : Queue} {L : Launch} {bs : List Byte} (hs : s.Kept) : (lPiped Q L bs s).Kept := by
  unfold Machine.lPiped
  refine State.Kept.lWith hs fun _ _ ht => ?_
  refine State.Kept.lStages ht fun _ _ ht1 => ?_
  dsimp only
  split
  · exact .started ht1.addLaunch
  · split
    · exact .started ht1.addLaunch
    · split
      · exact .started ht1.addLaunch
      · exact State.Kept.lWith ht1 fun _ _ ht2 => State.Kept.lStageBanks ht2 fun _ _ ht3 => ht3.lFinish

theorem State.Kept.latch {Q : Queue} {bs : List Byte} (hs : s.Kept) : (s.latch Q bs).Kept := hs.modQueue

theorem State.Kept.lRecord {Q : Queue} {L : Launch} {rec : Nat} {k : List Byte → State → LaunchRes} (hs : s.Kept)
    (hk : ∀ xs t, t.Kept → (k xs t).Kept) : (lRecord Q L rec s k).Kept := by
  unfold Machine.lRecord
  split
  · exact hk _ _ hs
  · exact State.Kept.lWith hs fun _ _ ht => hk _ _ ht.latch

theorem State.Kept.lChecks {Q : Queue} {L : Launch} {bs : List Byte} (hs : s.Kept) : (lChecks Q L bs s).Kept := by
  unfold Machine.lChecks
  split
  · exact .started hs.addLaunch
  · split
    · exact .started hs.addLaunch
    · split
      · exact hs.lSimple
      · exact hs.lPiped

theorem State.Kept.startLaunch {Q : Queue} {rec close : Nat} {sig : DWord} (hs : s.Kept) : (s.startLaunch Q rec close sig).Kept := by
  unfold State.startLaunch
  split
  · exact .bad hs
  · refine State.Kept.lRecord hs fun _ _ ht => ?_
    dsimp only
    split
    · split
      · next h2 => exact .started (ht.lChecks.of_started h2).closeChain
      · next h2 => exact .bad (ht.lChecks.of_bad h2)
      · next h2 => exact .stall (ht.lChecks.of_stall h2)
    · split
      · exact .bad ht
      · split
        · exact .stall ht
        · split
          · next h4 => exact .started (ht.joinChain.modQueue.lChecks.of_started h4).closeChain
          · next h4 => exact .bad (ht.joinChain.modQueue.lChecks.of_bad h4)
          · next h4 => exact .stall (ht.joinChain.modQueue.lChecks.of_stall h4)

/-! ### Deltas -/

theorem State.Kept.readOpers {Q : Queue} {xs xs1 : List DeltaEnt} {f : List DeltaEnt → State → State} (hs : s.Kept)
    (hf : ∀ xs2 t, t.Kept → (f xs2 t).Kept) : (readOpers Q xs xs1 s f).Kept := by
  fun_induction Machine.readOpers Q xs xs1 s f
  · exact hf _ _ hs
  · next ih => exact .qWith hs fun xs _ ht => ih _ _ ht hf
  · next ih => exact ih hs hf

theorem State.Kept.setDrains {launch : DWord} (hs : s.Kept) : (s.setDrains launch).Kept := hs

theorem State.Kept.acceptDelta {Q : Queue} {launch : DWord} {stage img : Nat} {es : List DeltaEnt} (hs : s.Kept) :
    (s.acceptDelta Q launch stage img es).Kept := .addAct (.setDrains (.fresh hs))

theorem State.Kept.checkDelta {Q : Queue} {L : Launch} {img : Nat} {zero : Bool} {es : List DeltaEnt} {ok : Nat → State → State}
    {xs : List (Nat × DWord)} (hs : s.Kept) (hok : ∀ n t, t.Kept → (ok n t).Kept) : (s.checkDelta Q L img zero es ok xs).Kept := by
  fun_induction State.checkDelta s Q L img zero es ok xs
  · exact hs.queueError
  · next ih =>
    refine .qWith hs fun xs _ ht => ?_
    extract_lets
    split
    · exact ih _ ht
    · refine .qWith ht fun _ _ ht1 => ?_
      refine .qWith ht1 fun _ _ ht2 => ?_
      split
      · exact ht2.queueError
      · exact .qWith ht2 fun _ _ ht3 => (hok _ _ ht3).ite ht3.queueError

theorem State.Kept.delta {Q : Queue} {va : Nat} {k : State → State} (hs : s.Kept) (hk : ∀ t, t.Kept → (k t).Kept) :
    (s.delta Q va k).Kept := by
  unfold State.delta
  refine .qWith hs fun _ _ ht => ?_
  extract_lets
  split
  · exact ht.queueError
  · split
    · exact ht.queueError
    · split
      · exact ht.queueError
      · exact .qWith ht fun _ _ ht1 => .readOpers ht1 fun _ _ ht2 => .checkDelta ht2 fun _ _ ht3 => hk _ ht3.acceptDelta

theorem State.Kept.execDeltaApply {delta : Nat} (hs : s.Kept) : Out.Kept (execDeltaApply delta s) := by
  unfold Machine.execDeltaApply
  split
  · exact .next hs
  · split
    · exact .next hs
    · exact .next (.setDrains (.modLaunch hs.emptyPorts.frame))

/-! ### Queue programs -/

theorem State.Kept.packetStep {p : Packet} {std : Queue → State} (hs : s.Kept) (hstd : ∀ Q, (std Q).Kept) :
    Out.Kept (packetStep p s std) := by
  unfold Machine.packetStep
  split
  · split
    · exact .fault _
    · split
      · exact .next hs.queueError
      · split
        · exact .next hs
        · split
          · exact .next hs.queueError
          · exact .next (hstd _)
  all_goals exact .fault _

theorem State.Kept.badPacket {Q : Queue} (hs : s.Kept) : (s.badPacket Q).Kept := hs.queueError

theorem State.Kept.execLaunch {p : Packet} (hs : s.Kept) : Out.Kept (execLaunch p s) := by
  unfold Machine.execLaunch
  refine State.Kept.packetStep hs fun _ => ?_
  split
  · exact hs.badPacket
  · split
    · next h => exact (hs.startLaunch.of_started h).finPacket
    · next h => exact (hs.startLaunch.of_bad h).badPacket
    · next h => exact hs.startLaunch.of_stall h

theorem State.Kept.barrierStep {any : Bool} {p : Packet} (hs : s.Kept) : Out.Kept (barrierStep any p s) := by
  unfold Machine.barrierStep
  refine State.Kept.packetStep hs fun _ => ?_
  split
  · exact hs.badPacket
  · exact .evalWait hs fun _ _ ht => ht.settleBarrier

theorem State.Kept.signalAt {Q : Queue} {acc : Acc} {va : DWord} {k : State → State} (hs : s.Kept) (hk : ∀ t, t.Kept → (k t).Kept) :
    (s.signalAt Q acc va k).Kept := (hk _ hs).ite hs.qFault

theorem State.Kept.execSignal {p : Packet} (hs : s.Kept) : Out.Kept (execSignal p s) := by
  unfold Machine.execSignal
  refine State.Kept.packetStep hs fun _ => ?_
  split
  · exact hs.badPacket
  · exact .signalAt hs fun _ ht => (ht.qAdd.ite ht.qStore).finPacket

theorem State.Kept.queueCopy {Q : Queue} {dst src len : DWord} (hs : s.Kept) :
    (s.queueCopy Q dst src len).Kept := .ite hs (.addAct (.fresh hs))

theorem State.Kept.execCopy {p : Packet} (hs : s.Kept) : Out.Kept (execCopy p s) := by
  unfold Machine.execCopy
  exact State.Kept.packetStep hs fun _ => hs.badPacket.ite hs.queueCopy.finPacket

theorem State.Kept.execConfigDelta {p : Packet} (hs : s.Kept) : Out.Kept (execConfigDelta p s) := by
  unfold Machine.execConfigDelta
  refine State.Kept.packetStep hs fun _ => ?_
  split
  · exact hs.badPacket
  · exact .delta hs fun _ ht => ht.finPacket

theorem State.Kept.execCancel {p : Packet} (hs : s.Kept) : Out.Kept (execCancel p s) := by
  unfold Machine.execCancel
  exact State.Kept.packetStep hs fun _ => hs.badPacket.ite hs.queueCancel.finPacket

theorem State.Kept.execNopPacket {p : Packet} (hs : s.Kept) : Out.Kept (execNopPacket p s) := by
  unfold Machine.execNopPacket
  exact State.Kept.packetStep hs fun _ => hs.badPacket.ite hs.finPacket

theorem State.Kept.execCustomPacket {ty : BitVec 8} {p : Packet} (hs : s.Kept) : Out.Kept (execCustomPacket ty p s) := by
  unfold Machine.execCustomPacket
  split
  · split
    · exact .fault _
    · exact .next hs.oddPacket
  all_goals exact .fault _

theorem State.Kept.progStep {k : Queue → State} (hk : ∀ Q, (k Q).Kept) : Out.Kept (progStep s k) := by
  unfold Machine.progStep
  split
  · split
    · exact .fault _
    · exact .next (hk _)
  all_goals exact .fault _

theorem State.Kept.progAt {Q : Queue} {pc : Nat} {f : Queue → Queue} (hs : s.Kept) : (s.progAt Q pc f).Kept := hs.modQueue

theorem State.Kept.progNext {Q : Queue} {f : Queue → Queue} (hs : s.Kept) : (s.progNext Q f).Kept := hs.progAt

theorem State.Kept.qAlu {d : BitVec 4} {f : Queue → DWord} (hs : s.Kept) : Out.Kept (qAlu d f s) := by
  unfold Machine.qAlu
  exact State.Kept.progStep fun _ => hs.progNext

theorem State.Kept.qImm {d a : BitVec 4} {f : DWord → DWord} (hs : s.Kept) : Out.Kept (qImm d a f s) := hs.qAlu

theorem State.Kept.qReg {d a b : BitVec 4} {f : DWord → DWord → DWord} (hs : s.Kept) : Out.Kept (qReg d a b f s) := hs.qAlu

theorem State.Kept.qLoad {n : Nat} {d x : BitVec 4} {ix : Bool} {w : BitVec 3} {o : BitVec 14} (hs : s.Kept) :
    Out.Kept (qLoad n d x ix w o s) := by
  unfold Machine.qLoad
  refine State.Kept.progStep fun _ => ?_
  extract_lets
  split
  · exact hs.progNext
  · split
    · exact hs.progNext
    · split
      · exact hs.queueError
      · split
        · next h => exact (hs.engRead.of_ok h).progNext
        · exact hs.qFault
        · exact hs.detect.freeError
        · next h => exact hs.engRead.of_wait h

theorem State.Kept.qStoreWin {n : Nat} {d x : BitVec 4} {ix : Bool} {w : BitVec 3} {o : BitVec 14} (hs : s.Kept) :
    Out.Kept (qStoreWin n d x ix w o s) := by
  unfold Machine.qStoreWin
  refine State.Kept.progStep fun _ => ?_
  extract_lets
  split
  · exact hs.queueError
  · split
    · exact hs.progNext
    · split
      · exact hs.queueError
      · split
        · next h => exact (hs.engWrite.of_ok h).progNext
        · exact hs.qFault
        · exact hs.detect.freeError
        · next h => exact hs.engWrite.of_wait h

theorem State.Kept.execBz {a : BitVec 4} {i : BitVec 18} (hs : s.Kept) : Out.Kept (execBz a i s) := by
  unfold Machine.execBz
  exact State.Kept.progStep fun _ => hs.progAt

theorem State.Kept.execBnz {a : BitVec 4} {i : BitVec 18} (hs : s.Kept) : Out.Kept (execBnz a i s) := by
  unfold Machine.execBnz
  exact State.Kept.progStep fun _ => hs.progAt

theorem State.Kept.execJmp {i : BitVec 18} (hs : s.Kept) : Out.Kept (execJmp i s) := by
  unfold Machine.execJmp
  exact State.Kept.progStep fun _ => hs.progAt

theorem State.Kept.execQprogLoop {c : BitVec 6} {i : BitVec 18} (hs : s.Kept) : Out.Kept (execQprogLoop c i s) := by
  unfold Machine.execQprogLoop
  exact State.Kept.progStep fun _ => hs.progAt.ite hs.progNext

theorem State.Kept.execLnch {d a : BitVec 4} {i : BitVec 3} (hs : s.Kept) : Out.Kept (execLnch d a i s) := by
  unfold Machine.execLnch
  refine State.Kept.progStep fun _ => ?_
  split
  · next h => exact (hs.startLaunch.of_started h).progNext
  · next h => exact (hs.startLaunch.of_bad h).badPacket
  · next h => exact hs.startLaunch.of_stall h

theorem State.Kept.execXfer {d a b : BitVec 4} (hs : s.Kept) : Out.Kept (execXfer d a b s) := by
  unfold Machine.execXfer
  exact State.Kept.progStep fun _ => hs.badPacket.ite hs.queueCopy.progNext

theorem State.Kept.qSignal {store : Bool} {a b : BitVec 4} (hs : s.Kept) : Out.Kept (qSignal store a b s) := by
  unfold Machine.qSignal
  refine State.Kept.progStep fun _ => ?_
  extract_lets
  split
  · exact hs.badPacket
  · exact .signalAt hs fun _ ht => (ht.qStore.ite ht.qAdd).progNext

theorem State.Kept.qWait {any : Bool} {d : BitVec 4} {m : BitVec 15} (hs : s.Kept) : Out.Kept (qWait any d m s) := by
  unfold Machine.qWait
  refine State.Kept.progStep fun _ => ?_
  extract_lets
  split
  · exact hs.badPacket
  · exact .evalWait hs fun _ _ ht => ht.settleWait

theorem State.Kept.execCanx {a : BitVec 4} {l : BitVec 2} (hs : s.Kept) : Out.Kept (execCanx a l s) := by
  unfold Machine.execCanx
  exact State.Kept.progStep fun _ => hs.badPacket.ite hs.queueCancel.progNext

theorem State.Kept.execCfgd {a : BitVec 4} (hs : s.Kept) : Out.Kept (execCfgd a s) := by
  unfold Machine.execCfgd
  refine State.Kept.progStep fun _ => ?_
  extract_lets
  split
  · exact hs.badPacket
  · exact .delta hs fun _ ht => ht.progNext

theorem State.Kept.execFin {a : BitVec 4} (hs : s.Kept) : Out.Kept (execFin a s) := by
  unfold Machine.execFin
  exact State.Kept.progStep fun _ => hs.badPacket.ite hs.finPacket

theorem State.Kept.execQerr {a : BitVec 4} {c : BitVec 8} (hs : s.Kept) : Out.Kept (execQerr a c s) := by
  unfold Machine.execQerr
  exact State.Kept.progStep fun _ => hs.queueError

/-! ### Packets and queues -/

theorem State.Kept.setQueue {Q : Queue} (hs : s.Kept) : (s.setQueue Q).Kept := hs

theorem State.Kept.setQcmd {v : Option (Nat × Nat)} (hs : s.Kept) : (s.setQcmd v).Kept := hs

theorem State.Kept.qcmdWidx {cmd : Nat} {Q : Queue} {k : Nat → State → State} (hs : s.Kept) (hk : ∀ n t, t.Kept → (k n t).Kept) :
    (s.qcmdWidx cmd Q k).Kept := by
  unfold State.qcmdWidx
  extract_lets
  split
  · next h => exact (hk _ _ (hs.qRead.of_ok h)).setQcmd
  · exact hs.qFault.setQcmd.ite hs.qFault.setQcmd
  · exact hs.detect.freeError.setQcmd
  · next h => exact (hs.qRead.of_wait h).setQcmd

theorem State.Kept.execQcmdEnable {q : BitVec 15} (hs : s.Kept) : Out.Kept (execQcmdEnable q s) := by
  unfold Machine.execQcmdEnable
  extract_lets
  split
  · exact .next hs
  · split
    · exact .next hs.setQcmd
    · split
      · exact .next (.setQcmd (.queueError hs.setQueue))
      · exact .next (.qcmdWidx hs.setQueue fun _ _ ht => ht.zeroRange.setQueue.qStore.qStore)

theorem State.Kept.finishDisable {Q : Queue} (hs : s.Kept) : (s.finishDisable Q).Kept := hs.unwatch.modQueue.contextWatch

theorem State.Kept.execQcmdDisable {q : BitVec 15} (hs : s.Kept) : Out.Kept (execQcmdDisable q s) := by
  unfold Machine.execQcmdDisable
  split
  · exact .next hs
  · split
    · exact .next hs
    · split
      · exact .next hs
      · split
        · exact .next hs.finishDisable
        · exact .next hs.modQueue

theorem State.Kept.clearErr {Q : Queue} (hs : s.Kept) : (s.clearErr Q).Kept := hs.qStore

theorem State.Kept.clearWin1 {Q : Queue} (hs : s.Kept) : (s.clearWin1 Q).Kept := hs.zeroRange.ite hs

theorem State.Kept.execQcmdReset {q : BitVec 15} (hs : s.Kept) : Out.Kept (execQcmdReset q s) := by
  unfold Machine.execQcmdReset
  extract_lets
  split
  · exact .next hs
  · split
    · exact .next hs
    · split
      · exact .next (.ite (.clearErr hs.modQueue.setQcmd) hs.modQueue.setQcmd)
      · split
        · exact .next hs.setQcmd
        · exact .next (.qcmdWidx hs fun _ _ ht => ht.modQueue.clearWin1.qStore.clearErr)

theorem State.Kept.enterSlot {Q : Queue} {die : Nat} {code : List Word} {wins : List QWin} (hs : s.Kept) :
    (s.enterSlot Q die code wins).Kept := hs.modQueue

theorem State.Kept.mapProgram {Q : Queue} {die : Nat} (hs : s.Kept) : (s.mapProgram Q die).Kept := by
  unfold State.mapProgram
  refine .qWith hs fun _ _ ht => ?_
  split
  · exact ht.enterSlot.queueError
  · exact .qWith ht fun _ _ ht1 => ht1.enterSlot.ite ht1.enterSlot.queueError

theorem State.Kept.execQueueMap {q die : Nat} (hs : s.Kept) : Out.Kept (execQueueMap q die s) := by
  unfold Machine.execQueueMap
  split
  · exact .next hs
  · split
    · exact .next hs
    · split
      · exact .next hs.enterSlot
      · exact .next hs.mapProgram

theorem State.Kept.execWidxWake {q : Nat} (hs : s.Kept) : Out.Kept (execWidxWake q s) := by
  unfold Machine.execWidxWake
  split
  · exact .next hs
  · split
    · exact .next hs
    · split
      · exact .next hs
      · extract_lets
        split
        · exact .next hs.modQueue
        · exact .next (.modQueue hs.modQueue)

theorem State.Kept.execQueueSlotReclaim {waiter holder : Nat} (hs : s.Kept) : Out.Kept (execQueueSlotReclaim waiter holder s) := by
  unfold Machine.execQueueSlotReclaim
  split
  · extract_lets
    split
    · exact .next hs.modQueue
    · exact .next hs
  · exact .next hs

theorem State.Kept.saveQueue {Q : Queue} (hs : s.Kept) : (s.saveQueue Q).Kept := .ownWrite (.ownWrite hs)

theorem State.Kept.execQueueUnmap {q : Nat} (hs : s.Kept) : Out.Kept (execQueueUnmap q s) := by
  unfold Machine.execQueueUnmap
  split
  · exact .next hs
  · split
    · exact .next hs.finishDisable
    · split
      · exact .next hs.saveQueue.modQueue
      · exact .next hs

end Sys2Proof.Machine
end

section
/-! PROOFS. The course of launches and units keeps the form of memory, with saving and restoring (R427) and what follows a fault. -/

namespace Sys2Proof.Machine

open Sys2Proof

-- In turn: many short proofs, elaborated at once, would each hold a thread and its stack.
set_option Elab.async false

variable {s : State}

/-! ### The course of a launch -/

theorem State.Kept.endWrites {L : Launch} (hs : s.Kept) : (s.endWrites L).Kept := hs.sendFront.ite hs.sendFront.sendFront

theorem State.Kept.abortLaunch {L : Launch} (hs : s.Kept) : (s.abortLaunch L).Kept := hs.cancelLaunch

theorem State.Kept.leaveChain {L : Launch} (hs : s.Kept) : (s.leaveChain L).Kept := by
  unfold State.leaveChain
  extract_lets
  split
  · exact .leaveLevel hs.modDone
  · exact hs.modDone

theorem State.Kept.execLaunchCompletion {l : Nat} (hs : s.Kept) : Out.Kept (execLaunchCompletion l s) := by
  unfold Machine.execLaunchCompletion
  split
  · exact .next hs
  · split
    · exact .next (hs.leaveChain.ite hs)
    · split
      · exact .next (hs.cancelLaunch.ite hs)
      · split
        · exact .next hs
        · split
          · exact .next hs.abortLaunch
          · split
            · exact .next hs.modLaunch.endWrites
            · exact .next hs.modLaunch.frame

theorem State.Kept.execPacketCompletion {q index : Nat} (hs : s.Kept) : Out.Kept (execPacketCompletion q index s) := by
  unfold Machine.execPacketCompletion
  split
  · exact .next hs
  · split
    · exact .next hs
    · split
      · exact .next hs
      · exact .next (hs.modQueue.ite hs.modQueue.qAdd)

theorem State.Kept.execPredictorAnswer {l : Nat} {count : Word} (hs : s.Kept) : Out.Kept (execPredictorAnswer l count s) := by
  unfold Machine.execPredictorAnswer
  split
  · exact .next hs
  · split
    · exact .next hs.modLaunch
    · exact .next hs

theorem State.Kept.execPredictorTimeout {l : Nat} (hs : s.Kept) : Out.Kept (execPredictorTimeout l s) := by
  unfold Machine.execPredictorTimeout
  split
  · exact .next hs
  · split
    · exact .next hs.modLaunch
    · exact .next hs

theorem State.Kept.execDeadlineExpiry {l : Nat} (hs : s.Kept) : Out.Kept (execDeadlineExpiry l s) := by
  unfold Machine.execDeadlineExpiry
  split
  · exact .next hs
  · split
    · exact .next hs
    · split
      · exact .next hs.modLaunch
      · exact .next hs

theorem State.Kept.execCsigAbort {l : Nat} (hs : s.Kept) : Out.Kept (execCsigAbort l s) := by
  unfold Machine.execCsigAbort
  split
  · exact .next hs
  · split
    · exact .next hs
    · exact .next hs.abortLaunch

theorem State.Kept.bindUnits {L : Launch} {t : Nat} {xs : List Nat} (hs : s.Kept) : (bindUnits L t xs s).Kept := by
  fun_induction Machine.bindUnits L t xs s
  · exact hs
  · next ih => exact ih hs
  · next ih => exact ih hs.modUnit
  · next ih => exact ih hs.discardUnit.issueRetracts
  · next ih => exact ih hs

theorem State.Kept.execBindOff {l : Nat} (hs : s.Kept) : Out.Kept (execBindOff l s) := by
  unfold Machine.execBindOff
  split
  · exact .next hs
  · split
    · exact .next hs
    · split
      · exact .next hs
      · exact .next hs.recordCount.modLaunch.bindUnits.returnRange.frame

theorem State.Kept.promoCheck {p : Port} {xs : List (Nat × Byte)} (hs : s.Kept) : (promoCheck p xs s).Kept := by
  fun_induction Machine.promoCheck p xs s
  · exact .ok hs
  · exact .wait hs
  · exact .fault _ _
  · exact .uncorr _
  · next h1 => exact .wait (hs.engAdmit.of_wait h1)
  · next h1 _ _ h2 ih => exact .ok ((ih (hs.engAdmit.of_ok h1)).of_ok h2)
  · next h1 _ ih => exact ih (hs.engAdmit.of_ok h1)

theorem State.Kept.sawPromotion {u : Nat} {U : Unit} {t : Nat} {xs : List (Nat × Byte)} (hs : s.Kept) :
    (s.sawPromotion u U t xs).Kept := by
  unfold State.sawPromotion
  split
  · exact hs.tcRaise.l1Update
  · exact hs.raiseSaved
  all_goals exact hs

theorem State.Kept.execPromotion {u : Nat} (hs : s.Kept) : Out.Kept (execPromotion u s) := by
  unfold Machine.execPromotion
  split
  · exact .next hs
  · extract_lets
    split
    · exact .next hs
    · split
      · next h2 => exact .next (hs.promoCheck.of_wait h2)
      · exact .next hs
      · exact .next hs.consume
      · next h2 =>
        split
        · next h3 => exact .next (.modUnit (.sawPromotion ((hs.promoCheck.of_ok h2).engStore.of_ok h3 :)))
        · exact .next (hs.promoCheck.of_ok h2).consume
        · exact .next (hs.promoCheck.of_ok h2)
        · next h3 => exact .next ((hs.promoCheck.of_ok h2).engStore.of_wait h3)

/-! ### Units -/

theorem State.Kept.takeCores {cs : List Nat} (hs : s.Kept) : (s.takeCores cs).Kept := hs

theorem State.Kept.readHeader {L : Launch} {khdr : DWord} (hs : s.Kept) : ExKept State.Kept Prod.snd (s.readHeader L khdr) := by
  unfold State.readHeader
  split
  · exact .error hs
  · split
    · next h1 => exact .ok (hs.qRead.of_ok h1 :)
    · split
      · exact .error hs
      · split
        · exact .error hs
        · next h3 => exact .error (hs.engPost.of_some h3)
    · exact .error hs.consume
    · next h1 => exact .error (hs.qRead.of_wait h1)

theorem State.Kept.addUnit {L : Launch} {U : Unit} (hs : s.Kept) : (s.addUnit L U).Kept := .tcRaise hs

theorem State.Kept.startUnits {L : Launch} {hdr n : Nat} {xs : List Nat} (hs : s.Kept) : (startUnits L hdr n xs s).Kept := by
  fun_induction Machine.startUnits L hdr n xs s
  · exact hs
  · next ih => exact ih hs.addUnit

theorem State.Kept.startStage {L : Launch} {k : Nat} {st : Stage} {hdr c : Nat} (hs : s.Kept) :
    (s.startStage L k st hdr c).Kept := hs.addUnit.modLaunch

theorem State.Kept.execUnitStart {launch stage : Nat} {cs : List Nat} (hs : s.Kept) : Out.Kept (execUnitStart launch stage cs s) := by
  unfold Machine.execUnitStart
  extract_lets
  split
  · exact .next hs
  · split
    · exact .next hs
    · split
      · split
        · next h => exact .next (hs.readHeader.of_error h)
        · next h => exact .next (hs.readHeader.of_ok h).startStage.takeCores
      · split
        · next h => exact .next (hs.readHeader.of_error h)
        · next h => exact .next (hs.readHeader.of_ok h).startUnits.takeCores

theorem State.Kept.retireUnit {u : Nat} (hs : s.Kept) : (s.retireUnit u).Kept := by
  unfold State.retireUnit
  split
  · exact hs
  · exact .modUnit hs.modLaunch.frame

theorem State.Kept.execUnitRetire {u : Nat} (hs : s.Kept) : Out.Kept (execUnitRetire u s) := by
  unfold Machine.execUnitRetire
  split
  · exact .next hs
  · extract_lets
    split
    · exact .next hs
    · exact .next (.foldl hs fun _ _ hx1 => hx1.retireUnit)

theorem State.Kept.execStageEvaluation {l : Nat} (hs : s.Kept) : Out.Kept (execStageEvaluation l s) := by
  unfold Machine.execStageEvaluation
  split
  · exact .next hs
  · split
    · exact .next hs
    · extract_lets
      split
      · split
        · exact .next hs.modLaunch
        · split
          · exact .next (.modLaunch hs.modLaunch)
          · split
            · exact .next (.modLaunch hs.modLaunch)
            · exact .next hs.modLaunch
      · exact .next hs.modLaunch

theorem State.Kept.execSleepExpiry {u g : Nat} (hs : s.Kept) : Out.Kept (execSleepExpiry u g s) := by
  unfold Machine.execSleepExpiry
  split
  · exact .next hs
  · split
    · exact .next hs
    · split
      · exact .next hs.modUnit
      · exact .next hs.modGroup

/-! ### Saving and restoring -/

theorem State.Kept.poolState {ctx : Nat} (hs : s.Kept) : (s.poolState ctx).Kept := .ownWrite hs

/-- The search for an area stands behind a name: of a match on it the kernel would evaluate it. -/
theorem State.Kept.markSave {rot : Bool} {us : List Nat} (hs : s.Kept) : OptKept (·) (Machine.markSave rot us s) := by
  obtain ⟨fit, hfit⟩ : ∃ fit, fit = @State.saveFit := ⟨_, rfl⟩
  conv in Machine.markSave => delta Machine.markSave markSave._f
  rw [← hfit]
  induction us generalizing s with
  | nil => exact .some hs
  | cons u us ih =>
    conv => arg 2; whnf
    split
    · exact .none
    · dsimp only
      split
      · exact .none
      · exact ih hs.poolState.modUnit

theorem State.Kept.execUnitEvict {u : Nat} {waiter : Waiter} (hs : s.Kept) : Out.Kept (execUnitEvict u waiter s) := by
  unfold Machine.execUnitEvict
  split
  · exact .next hs
  · extract_lets
    split
    · exact .next hs
    · split
      · exact .next (OptKept.getD hs.markSave hs)
      · split
        · exact .next hs
        · exact .next (OptKept.getD hs.markSave hs)

theorem State.Kept.preempt {w : Waiter} {v : Nat} {V : Unit} (hs : s.Kept) : (s.preempt w v V).Kept := by
  unfold State.preempt
  split
  · exact hs
  · next h => exact (hs.markSave.of_some h :)

theorem State.Kept.execRotationPreempt {victim : Nat} {waiter : Waiter} (hs : s.Kept) :
    Out.Kept (execRotationPreempt victim waiter s) := by
  unfold Machine.execRotationPreempt
  split
  · exact .next hs
  · extract_lets
    split
    · exact .next hs.preempt
    · exact .next hs

theorem State.Kept.execSquashPreempt {victim : Nat} {waiter : Waiter} (hs : s.Kept) : Out.Kept (execSquashPreempt victim waiter s) := by
  unfold Machine.execSquashPreempt
  split
  · exact .next hs
  · exact .next (hs.preempt.ite hs)

theorem State.Kept.writeArea {p : Port} {base : Nat} {xs : List (Nat × List Byte)} (hs : s.Kept) :
    OptKept (·) (writeArea p base xs s) := by
  fun_induction Machine.writeArea p base xs s
  · exact .some hs
  · next h ih => exact ih (hs.engWrite.of_ok h)
  · exact .none

theorem State.Kept.pruneSealed {u : Nat} (hs : s.Kept) : (s.pruneSealed u).Kept := hs.modUnit

theorem State.Kept.saveOne {u : Nat} (hs : s.Kept) : OptKept (·) (s.saveOne u) := by
  unfold State.saveOne
  split
  · exact .none
  · split
    · exact .none
    · extract_lets _ s2 s3
      have h2 : s2.Kept := .foldl hs.withdraw fun t _ ht => ht.scFence
      have h3 : s3.Kept := State.Kept.pruneSealed (s := { s2 with tasks := _ }) h2
      split
      · exact .none
      · extract_lets
        split
        · exact .none
        · next h =>
          have h4 := h3.writeArea.of_some h
          exact .some (State.Kept.modUnit (.foldl h4.frame fun t _ ht => ht.entryFreed))

theorem State.Kept.saveAll {xs : List Nat} (hs : s.Kept) : OptKept (·) (saveAll xs s) := by
  fun_induction Machine.saveAll xs s
  · exact .some hs
  · next h ih => exact ih (hs.saveOne.of_some h)
  · exact .none

theorem State.Kept.execUnitSave {u : Nat} (hs : s.Kept) : Out.Kept (execUnitSave u s) := by
  unfold Machine.execUnitSave
  split
  · exact .next hs
  · extract_lets
    split
    · exact .next hs
    · exact .next (OptKept.getD hs.saveAll hs)

theorem State.Kept.areaBad {U : Unit} {c : Nat} {a : DWord} (hs : s.Kept) : OptKept (·) (s.areaBad U c a) := by
  conv in State.areaBad => delta State.areaBad
  split
  · exact .none
  · next h => exact .some (hs.post.of_some h).failLaunch

theorem State.Kept.restoreOne {u c : Nat} {o : Nat × Nat} (hs : s.Kept) : OptKept (·) (s.restoreOne u c o) := by
  unfold State.restoreOne
  split
  · exact .none
  · split
    · exact .none
    · extract_lets
      split
      · exact .none
      · split
        · exact .none
        · exact .none
        · exact .some hs.consume
        · next h =>
          split
          · exact (hs.engRead.of_ok h).areaBad
          · exact .some (.acqFence (.tcRaise (.modUnit (hs.engRead.of_ok h :))))

theorem State.Kept.restoreAll {xs : List ((Nat × Nat) × Nat × Nat)} (hs : s.Kept) : OptKept (·) (restoreAll xs s) := by
  fun_induction Machine.restoreAll xs s
  · exact .some hs
  · next h ih => exact ih (hs.restoreOne.of_some h)
  · exact .none

theorem State.Kept.execUnitRestore {us cs : List Nat} {row col : Nat} (hs : s.Kept) : Out.Kept (execUnitRestore us cs row col s) := by
  unfold Machine.execUnitRestore
  split
  · extract_lets
    split
    · exact .next hs
    · split
      · exact .next hs
      · split
        · exact .next hs
        · split
          · next h => exact .next (hs.restoreAll.of_some h).takeCores
          · exact .next hs
  · exact .next hs

/-! ### Faults -/

theorem State.Kept.copyFails {c : FrontCopy} (hs : s.Kept) : (s.copyFails c).Kept := .queueError hs

theorem State.Kept.copyUncorr {c : FrontCopy} {pa : Nat} (hs : s.Kept) : (s.copyUncorr c pa).Kept := .freeError (.detect hs)

theorem State.Kept.copyFault {c : FrontCopy} {va : Nat} {w : WalkInfo} (hs : s.Kept) : (s.copyFault c va w).Kept := by
  conv in State.copyFault => delta State.copyFault
  split
  · exact hs
  · next h => exact (hs.engPost.of_some h).copyFails.ite (hs.engPost.of_some h).modCopy

theorem State.Kept.frontCopyStep {c : FrontCopy} (hs : s.Kept) : (s.frontCopyStep c).Kept := by
  unfold State.frontCopyStep
  extract_lets
  split
  · exact hs.copyFault
  · exact hs.copyUncorr
  · next h => exact hs.engRead.of_wait h
  · next h =>
    split
    · exact hs.copyFault
    · exact (hs.engRead.of_ok h).copyUncorr
    · next h1 => exact (hs.engRead.of_ok h).engWrite.of_wait h1
    · next h1 =>
        exact .ite ((hs.engRead.of_ok h).engWrite.of_ok h1).engReadHeat.engHeat.frame
          ((hs.engRead.of_ok h).engWrite.of_ok h1).engReadHeat.engHeat.modCopy

theorem State.Kept.execCopyRequestPerformed {u cmd : Nat} (hs : s.Kept) : Out.Kept (execCopyRequestPerformed u cmd s) := by
  unfold Machine.execCopyRequestPerformed
  split
  · split
    · split
      · exact .next hs.frontCopyStep
      · exact .next hs
    · exact .next hs
  · split
    · exact .next hs
    · split
      · exact .next hs
      · split
        · split
          · exact .next hs
          · exact .next hs.visitTensor.modCmd
        · split
          · exact .next hs
          · exact .next hs.visitTensor.modCmd
        · exact .next hs.cmdWrite
        · exact .next hs.cmdWindow
        all_goals exact .next hs.cmdRead

theorem State.Kept.frontReqFails {q : Req} (hs : s.Kept) : (s.frontReqFails q).Kept := by
  unfold State.frontReqFails
  extract_lets
  split
  · split
    · exact hs
    · exact .freeError hs
  · exact hs

theorem State.Kept.reqRefuse {q : Req} {w : WalkInfo} (hs : s.Kept) : (s.reqRefuse q w).Kept := hs.reqFault.frontReqFails.ite hs

theorem State.Kept.reqUncorr {q : Req} {pa : Nat} (hs : s.Kept) : (s.reqUncorr q pa).Kept := hs.reqConsumes.frontReqFails

theorem State.Kept.reqGoes {q : Req} {pa : Nat} (hs : s.Kept) : (s.reqGoes q pa).Kept := hs.deliverReq.frontReqFails.ite hs.deliverReq

theorem State.Kept.reqReserve {q : Req} {pa : Nat} (hs : s.Kept) : (s.reqReserve q pa).Kept := by
  unfold State.reqReserve
  split
  · next h => exact (hs.reserve.of_some h).reqGoes
  · exact hs.reqFault.reserveFailed

theorem State.Kept.physReserve {q : Req} {pa : Nat} (hs : s.Kept) : (s.physReserve q pa).Kept := by
  unfold State.physReserve
  split
  · exact hs
  · split
    · next h => exact (hs.reserve.of_some h).deliverPhys
    · exact hs.extNoChunks.ite hs.reqFault.reserveFailed

theorem State.Kept.reqArrives {id : Nat} (hs : s.Kept) : (s.reqArrives id).Kept := hs

theorem State.Kept.sendUnsent {q : Req} (hs : s.Kept) : (s.sendUnsent q).Kept := by
  unfold State.sendUnsent
  extract_lets
  split
  · exact hs
  · split
    next h => exact (hs.sendPkt.of_snd h :)

theorem State.Kept.execServiceRequestDelivery {id : Nat} (hs : s.Kept) : Out.Kept (execServiceRequestDelivery id s) := by
  unfold Machine.execServiceRequestDelivery
  split
  · exact .next hs
  · extract_lets
    split
    · exact .next hs.sendUnsent
    · split
      · exact .next hs
      · split
        · exact .next hs.physReserve
        · split
          · exact .next (hs.ite hs.reqArrives)
          · split
            · exact .next hs.reqRefuse
            · split
              · exact .next (hs.ite (hs.reqUncorr.ite hs.reqFault))
              · next h => exact .next (hs.translate.of_ok h).reqReserve

theorem State.Kept.shootEntries {d : Shootdown} (hs : s.Kept) : (s.shootEntries d).Kept := .emptyPorts hs

theorem State.Kept.execShootdownComplete {id : Nat} (hs : s.Kept) : Out.Kept (execShootdownComplete id s) := by
  unfold Machine.execShootdownComplete
  split
  · exact .next hs
  · split
    · exact .next hs
    · exact .next (.ite (.raiseInt hs.shootEntries.frame) (.finishMid hs.shootEntries.frame))

theorem State.Kept.tlbcmdStart {ctx : Option Nat} {va : Nat} {len : Option Nat} (hs : s.Kept) :
    (s.tlbcmdStart ctx va len).Kept := .ite hs (.startShoot hs)

theorem State.Kept.replayAcq {u : Nat} {U : Unit} (hs : s.Kept) : (s.replayAcq u U).Kept := hs.modUnit.ite hs.acqFence.tcRaise

theorem State.Kept.unparkGroup {u g die seq : Nat} (hs : s.Kept) : (s.unparkGroup u g die seq).Kept := by
  unfold State.unparkGroup
  split
  · exact hs
  · exact hs.ite hs.replayAcq.modGroup.modUnit

theorem State.Kept.retryPort {u core port : Nat} (hs : s.Kept) : (s.retryPort u core port).Kept := by
  unfold State.retryPort
  split
  · exact hs
  · split
    · exact hs
    · exact hs.modPort

theorem State.Kept.retryQueue {q : Nat} (hs : s.Kept) : (s.retryQueue q).Kept := hs.modQueue

theorem State.Kept.retryAgent {die seq : Nat} {x : FaultAgent} (hs : s.Kept) : (s.retryAgent die seq x).Kept := by
  unfold State.retryAgent
  split
  · exact hs.unparkGroup
  · exact hs.modCmd
  · exact hs.modTask
  · exact hs.retryPort
  · exact hs
  · exact hs.retryQueue
  · exact hs.modCopy
  · exact hs.retryQueue

theorem State.Kept.retryRec {p : Posted} (hs : s.Kept) : (s.retryRec p).Kept := hs.setRecState.retryAgent

theorem State.Kept.failQueue {q src : Nat} (hs : s.Kept) : (s.failQueue q src).Kept := by
  unfold State.failQueue
  extract_lets
  split
  · exact hs.retryQueue
  · exact .ite (.setQcmd (.ite (.queueError hs.retryQueue) (.freeError hs.retryQueue)))
      (.ite (.queueError hs.retryQueue) (.freeError hs.retryQueue))

theorem State.Kept.failRecord {q : Nat} {p : Posted} (hs : s.Kept) : (s.failRecord q p).Kept := by
  unfold State.failRecord
  split
  · exact hs.cancelLaunch
  · exact hs.modQueue

theorem State.Kept.failAgent {p : Posted} (hs : s.Kept) : (s.failAgent p).Kept := by
  unfold State.failAgent
  split
  · exact hs.failQueue
  · split
    · exact hs.copyFails
    · exact hs
  · exact hs.failRecord
  · split
    · exact hs.frontReqFails.ite hs.frontReqFails.failLaunch
    · exact hs
  all_goals exact hs.failLaunch

theorem State.Kept.failRec {p : Posted} (hs : s.Kept) : (s.failRec p).Kept := hs.setRecState.failAgent

theorem State.Kept.execReplayRetry {die : BitVec 2} {ctx : BitVec 12} {seq : BitVec 48} (hs : s.Kept) :
    Out.Kept (execReplayRetry die ctx seq s) := by
  unfold Machine.execReplayRetry
  split
  · exact .next hs
  · split
    · exact .next hs
    · exact .next hs.retryRec

theorem State.Kept.execReplayFail {die : BitVec 2} {ctx : BitVec 12} {seq : BitVec 48} (hs : s.Kept) :
    Out.Kept (execReplayFail die ctx seq s) := by
  unfold Machine.execReplayFail
  split
  · exact .next hs
  · split
    · exact .next hs
    · exact .next hs.failRec

theorem State.Kept.retryAll {xs : List Posted} (hs : s.Kept) : (retryAll xs s).Kept := by
  fun_induction Machine.retryAll xs s
  · exact hs
  · next ih =>
    refine ih ?_
    split
    · exact hs.retryRec
    · exact hs

theorem State.Kept.watchRec {p : Posted} (hs : s.Kept) : (s.watchRec p).Kept := by
  obtain ⟨post, hpost, hkept⟩ := State.Kept.exists_post
  conv in State.watchRec => delta State.watchRec
  rw [← hpost]
  split
  next h1 =>
    have h1 := hs.freeVal.of_snd h1
    split
    next h2 =>
      split
      · exact h1
      · next h => exact ((hkept (h1.freeVal.of_snd h2)).of_some h).failRec.failLaunch

theorem State.Kept.watchGroup {u g : Nat} {U : Unit} (hs : s.Kept) : (s.watchGroup u g U).Kept := by
  obtain ⟨post, hpost, hkept⟩ := State.Kept.exists_post
  conv in State.watchGroup => delta State.watchGroup
  rw [← hpost]
  split
  next h1 =>
    have h1 := hs.freeVal.of_snd h1
    split
    next h2 =>
      split
      · exact h1
      · next h => exact ((hkept (h1.freeVal.of_snd h2)).of_some h).modGroup.failLaunch

theorem State.Kept.execWatchdogExpiry {t : WdTarget} (hs : s.Kept) : Out.Kept (execWatchdogExpiry t s) := by
  unfold Machine.execWatchdogExpiry
  split
  · split
    · exact .next hs
    · split
      · exact .next hs.watchRec
      · exact .next hs
  · split
    · exact .next hs
    · split
      · exact .next hs.watchGroup
      · exact .next hs

end Sys2Proof.Machine
end

section
/-! PROOFS. Coherence, fetch, the host and the fleet keep the form of memory: writes from outside (R454), restart,
and pages that move (R477). -/

namespace Sys2Proof.Machine

open Sys2Proof

-- In turn: many short proofs, elaborated at once, would each hold a thread and its stack.
set_option Elab.async false

variable {s : State}

/-! ### Coherence -/

theorem State.Kept.execTcTick {core : Nat} (hs : s.Kept) : Out.Kept (execTcTick core s) := by
  unfold Machine.execTcTick
  split
  · exact .next hs.tcCatchUp
  · exact .next hs

theorem State.Kept.execEpochAdvance {die : Nat} (hs : s.Kept) : Out.Kept (execEpochAdvance die s) := by
  unfold Machine.execEpochAdvance
  split
  · exact .next hs
  · exact .next hs.nextEpoch

theorem State.Kept.execStampScrub {die ctx tensor tile line : Nat} (hs : s.Kept) :
    Out.Kept (execStampScrub die ctx tensor tile line s) :=
  .next (hs.mapLinesIf (fun _ _ => rfl) fun _ _ hl => hl)

theorem State.Kept.execSliceSleep {slice : Nat} (hs : s.Kept) : Out.Kept (execSliceSleep slice s) := by
  unfold Machine.execSliceSleep
  split <;> exact .next hs

theorem State.Kept.execSliceWake {slice : Nat} (hs : s.Kept) : Out.Kept (execSliceWake slice s) := by
  unfold Machine.execSliceWake
  split
  · exact .next hs.touchSlice
  · exact .next hs

theorem State.Kept.execProxyInvalidation {id : Nat} (hs : s.Kept) : Out.Kept (execProxyInvalidation id s) := by
  unfold Machine.execProxyInvalidation
  split
  · exact .next hs
  · split
    · exact .next hs
    · exact .next hs
    · extract_lets
      split
      · exact .next hs
      · exact .next (.ackPkt (.setPt (.filterLines hs _)))

theorem State.Kept.execRegionMerge {die base k : Nat} (hs : s.Kept) : Out.Kept (execRegionMerge die base k s) := by
  unfold Machine.execRegionMerge
  extract_lets
  split
  · split <;> exact .next hs
  · exact .next hs

theorem State.Kept.extInvals {writer : Option Nat} {byHost : Bool} {xs : List Nat} (hs : s.Kept) :
    (extInvals writer byHost xs s).2.Kept := by
  fun_induction Machine.extInvals writer byHost xs s
  · exact hs
  · next h _ _ h1 ih => exact ((ih (hs.extInval.of_snd h)).of_snd h1 :)

theorem State.Kept.extTouch {byHost : Bool} {pa : Nat} (hs : s.Kept) : (s.extTouch byHost pa).Kept := hs.touchSlice.heat.ite hs.touchSlice

theorem State.Kept.extPut {rep : List Nat} {n : Nat} {xs : List Byte} (hs : s.Kept) : (extPut rep n xs s).Kept := by
  fun_induction Machine.extPut rep n xs s
  · exact hs
  · next ih => exact ih (hs.ite (hs.physPut _ _))

theorem State.Kept.notePast {xs : List Nat} (hs : s.Kept) : (notePast xs s).Kept := by
  fun_induction Machine.notePast xs s
  · exact hs
  · next ih => exact ih hs.noteGone.ptRaise

theorem State.Kept.extPerform {pa : Nat} {bs : List Byte} (hs : s.Kept) : (s.extPerform pa bs).Kept := by
  unfold State.extPerform
  extract_lets n rep s1 s2 s3
  have h1 : s1.Kept := hs.extPut
  have h2 : s2.Kept := .passLeases h1.linesIn h1
  have h3 : s3.Kept := h2.notePast.ite h2
  exact State.Kept.wrote (s := { s3 with uncorr := s3.uncorr.filter fun x => !rep.contains x }) h3

theorem State.Kept.reservePages {xs : List Nat} (hs : s.Kept) : ExKept (fun _ => True) (·) (reservePages xs s) := by
  fun_induction Machine.reservePages xs s
  · exact .ok hs
  · exact .error trivial
  · next h ih => exact ih (hs.reserve.of_some h)

theorem State.Kept.extWrite {pa : Nat} {bs : List Byte} {writer : Option Nat} {byHost : Bool} (hs : s.Kept) :
    (s.extWrite pa bs writer byHost).Kept := by
  unfold State.extWrite
  split
  · exact hs
  · split
    · next h1 => exact hs.extInvals.of_snd h1
    · next h1 =>
      split
      · exact (hs.extInvals.of_snd h1).extNoChunks
      · next h2 => exact ((hs.extInvals.of_snd h1).reservePages.of_ok h2).extTouch.extPerform

theorem State.Kept.extRmw {pa n : Nat} {f : Nat → Option Nat} {writer : Option Nat} {byHost : Bool} (hs : s.Kept) :
    (s.extRmw pa n f writer byHost).Kept := by
  unfold State.extRmw
  split
  · exact hs
  · split
    · exact hs.detect
    · split
      · exact hs.extWrite
      · exact hs.ite hs.extTouch

theorem State.Kept.peerTrack {pa : Nat} {f : PeerEnt → PeerEnt} (hs : s.Kept) : (s.peerTrack pa f).2.Kept := by
  unfold State.peerTrack
  extract_lets
  split
  · exact hs
  · split
    · exact hs
    · split
      · exact hs
      · exact hs.peerInval.ite hs

theorem State.Kept.hostRead {pa n : Nat} (hs : s.Kept) : (s.hostRead pa n).Kept := by
  unfold State.hostRead
  split
  · exact hs
  · extract_lets
    split
    · exact .foldl hs.extTouch fun _ _ hp => hp.peerTrack
    · exact hs.extTouch

theorem State.Kept.hostDo {x : HostOp} (hs : s.Kept) : (s.hostDo x).Kept := by
  unfold State.hostDo
  split
  · exact hs.hostRead
  · exact hs.extWrite
  · exact hs.extRmw
  · exact hs.extRmw
  · exact hs.extRmw.ite hs

theorem State.Kept.execHostAccess {op : HostOp} (hs : s.Kept) : Out.Kept (execHostAccess op s) := by
  unfold Machine.execHostAccess
  split
  split
  · exact .next hs
  · exact .next hs.hostDo.evDrain

theorem State.Kept.ptDies {gone : List Line} {ds : List Nat} (hs : s.Kept) : (ptDies gone ds s).Kept := by
  induction ds generalizing s with
  | nil => exact hs
  | cons d ds ih => exact ih (show (s.setPt _ _).Kept from hs)

theorem State.Kept.giveUp {lo n : Nat} (hs : s.Kept) : OptKept (·) (s.giveUp lo n) := by
  unfold State.giveUp
  dsimp only
  split
  · exact .some (State.Kept.ptDies (State.Kept.filterLines (hs.withMem (memWf_dirtyHome (s := s) _ hs.memWf)) _))
  · exact .none

theorem State.Kept.execHostSnoop {pa : Nat} (hs : s.Kept) : Out.Kept (execHostSnoop pa s) := by
  unfold Machine.execHostSnoop
  split
  · exact .next (OptKept.getD hs.giveUp hs)
  · exact .next hs

theorem State.Kept.execBackInvalidationSnoopResponse {id : Nat} (hs : s.Kept) : Out.Kept (execBackInvalidationSnoopResponse id s) := by
  unfold Machine.execBackInvalidationSnoopResponse
  split
  · exact .next hs
  · exact .next (.ackPkt hs)

theorem State.Kept.peerRmw {id pa kind code size : Nat} {op0 op1 : BitVec 128} (hs : s.Kept) :
    (s.peerRmw id pa kind code size op0 op1).Kept := by
  unfold State.peerRmw
  split
  · exact .ite (.fresh hs.freeVal.freeVal.frame) hs
  · exact hs

theorem State.Kept.execPeerRequest {op : PeerOp} (hs : s.Kept) : Out.Kept (execPeerRequest op s) := by
  unfold Machine.execPeerRequest
  split
  · split
    · exact .next hs
    · exact .next hs.extTouch.peerTrack
  · split
    · exact .next hs.peerRmw
    · exact .next hs
  · extract_lets
    split
    · exact .next hs
    · split
      · exact .next hs.extWrite
      · split
        · exact .next (hs.physWrite _ _)
        · exact .next hs

theorem State.Kept.mailBad {m : MailMsg} (hs : s.Kept) : (s.mailBad m).Kept := hs.event

theorem State.Kept.acknowledge {m : MailMsg} (hs : s.Kept) : (s.acknowledge m).Kept := hs

theorem State.Kept.execPeerInvalidateMessage {m : MailMsg} (hs : s.Kept) : Out.Kept (execPeerInvalidateMessage m s) := by
  unfold Machine.execPeerInvalidateMessage
  split
  · exact .next hs.mailBad
  · split
    · next h => exact .next (hs.giveUp.of_some h).acknowledge
    · exact .next hs

theorem State.Kept.execPeerAcknowledgeMessage {m : MailMsg} (hs : s.Kept) : Out.Kept (execPeerAcknowledgeMessage m s) := by
  unfold Machine.execPeerAcknowledgeMessage
  split
  · exact .next hs.mailBad
  · split
    · exact .next hs
    · exact .next (.ackPkt hs)

/-! ### Fetch -/

theorem State.Kept.keepSlot {u g core ctx va : Nat} {w : Slot} {sup : Bool} (hs : s.Kept) :
    (s.keepSlot u g core ctx va w sup).Kept := .modGroup hs

theorem State.Kept.fetchBytes {core ctx : Nat} {sup : Bool} {n n1 n2 : Nat} (hs : s.Kept) : (fetchBytes core ctx sup n n1 n2 s).Kept := by
  fun_induction Machine.fetchBytes core ctx sup n n1 n2 s
  · exact .ok hs
  · exact .ok hs
  · exact .wait hs
  · exact .fault _ _
  · exact .uncorr _
  · next h1 _ _ => exact .wait (hs.translate.of_ok h1)
  · next h1 _ _ _ _ h4 _ _ _ h5 ih => exact .ok ((ih ((hs.translate.of_ok h1).passPkts.backPkts.readPage.of_snd h4)).of_ok h5)
  · next h1 _ _ _ _ h4 _ ih => exact ih ((hs.translate.of_ok h1).passPkts.backPkts.readPage.of_snd h4)

theorem State.Kept.fetchSvc {u g pc : Nat} {U : Unit} (hs : s.Kept) : ExKept Fetched.Kept Prod.snd (s.fetchSvc u g pc U) := by
  unfold State.fetchSvc
  extract_lets
  split
  · exact .error (.stop hs.consume)
  · split
    · exact .error (.wait hs)
    · exact .ok hs.svcReads.keepSlot

theorem State.Kept.fetchWord {u g : Nat} {U : Unit} {G : Group} (hs : s.Kept) : ExKept Fetched.Kept Prod.snd (s.fetchWord u g U G) := by
  unfold State.fetchWord
  dsimp only
  split
  · exact .error (.stop hs.takeTrap)
  · split
    · exact .ok hs.keepSlot
    · split
      · exact hs.fetchSvc
      · split
        · exact .error (.stop hs.takeTrap)
        · split
          · exact .error (.stop hs.takeTrap)
          · exact .error (.stop hs.consume)
          · next h => exact .error (.wait (hs.fetchBytes.of_wait h))
          · next h => exact .ok (hs.fetchBytes.of_ok h).keepSlot

theorem State.Kept.fetchGroup {u g : Nat} (hs : s.Kept) : (s.fetchGroup u g).Kept := by
  unfold State.fetchGroup
  split
  · exact .stop hs
  · split
    · exact .stop hs
    · split
      · next h => exact hs.fetchWord.of_error h
      · next h =>
        have h1 := hs.fetchWord.of_ok h
        split
        · exact .stop h1.takeTrap
        · split
          · exact .stop h1.takeTrap
          · exact .stop h1.takeTrap
          · exact .got h1

theorem State.Kept.dropL1 {core va : Nat} (hs : s.Kept) : (s.dropL1 core va).Kept := by
  unfold State.dropL1
  split
  · exact .ite hs hs
  · exact hs

theorem State.Kept.dropItem {x : DropItem} (hs : s.Kept) : (s.dropItem x).Kept := by
  unfold State.dropItem
  split
  · exact hs.dropL1
  · exact hs
  · exact hs
  · split
    · exact hs.replaceLine.ite hs
    · exact hs

/-! ### The host -/

theorem State.Kept.restart (hs : s.Kept) : s.restart.Kept :=
  ⟨memWf_dirtyHome s.lines hs.memWf, .nil, fun _ h => nomatch h⟩

theorem State.Kept.setFwstat {v : BitVec 8} (hs : s.Kept) : (s.setFwstat v).Kept := .ite hs (.raiseInt hs)

theorem State.Kept.execFwctlLoad (hs : s.Kept) : Out.Kept (execFwctlLoad s) := by
  unfold Machine.execFwctlLoad
  split
  · exact .next hs
  · exact .next (.setFwstat hs.restart.frame)

theorem State.Kept.runImage {img : List Byte} (hs : s.Kept) : (s.runImage img).Kept := hs

theorem State.Kept.execFirmwareBootCheck {r : BootResult} (hs : s.Kept) : Out.Kept (execFirmwareBootCheck r s) := by
  unfold Machine.execFirmwareBootCheck
  extract_lets
  split
  · exact .next hs
  · split
    · exact .next hs.setFwstat
    · split
      · exact .next hs.runImage.setFwstat
      · exact .next hs.setFwstat

theorem State.Kept.attEnd {r : Nat} (hs : s.Kept) : (s.attEnd r).Kept := .raiseInt hs

theorem State.Kept.withImage {k : FwImage → Out} (hs : s.Kept) (hk : ∀ x, Out.Kept (k x)) : Out.Kept (s.withImage k) := by
  unfold State.withImage
  split
  · split
    · exact hk _
    · exact .next hs.attEnd
  · exact .next hs.attEnd

theorem State.Kept.execAttcmdQuote (hs : s.Kept) : Out.Kept (execAttcmdQuote s) := by
  unfold Machine.execAttcmdQuote
  exact State.Kept.withImage hs fun _ => .next hs.ownWrite.attEnd

theorem State.Kept.execAttcmdReadCertificate (hs : s.Kept) : Out.Kept (execAttcmdReadCertificate s) := by
  unfold Machine.execAttcmdReadCertificate
  exact State.Kept.withImage hs fun _ => .next hs.ownWrite.attEnd

theorem State.Kept.execAttcmdRaiseFloor (hs : s.Kept) : Out.Kept (execAttcmdRaiseFloor s) := by
  unfold Machine.execAttcmdRaiseFloor
  refine State.Kept.withImage hs fun _ => ?_
  split
  · exact .next hs.attEnd
  · split
    · exact .next hs.attEnd
    · exact .next (.attEnd hs)

theorem State.Kept.execHeatctlWrite {v : DWord} (hs : s.Kept) : Out.Kept (execHeatctlWrite v s) := by
  unfold Machine.execHeatctlWrite
  split <;> exact .next hs

theorem State.Kept.execTierbaseWrite {v : DWord} (hs : s.Kept) : Out.Kept (execTierbaseWrite v s) :=
  .next (.foldl (State.Kept.withMem (s := { s with regs := _, tiers := _ }) hs (memWf_filter _ hs.memWf)) fun _ _ ht => ht.event)

/-! ### The fleet -/

theorem State.Kept.execMigrationStart {tier frame : Nat} {large : Bool} (hs : s.Kept) :
    Out.Kept (execMigrationStart tier frame large s) := by
  unfold Machine.execMigrationStart
  split
  · exact .next hs
  · extract_lets
    split
    · exact .next hs
    · split
      · next h => exact .next (.fresh (hs.takeRing.of_some h :))
      · exact .next hs

theorem State.Kept.migAbandon {m : Migration} (hs : s.Kept) : (s.migAbandon m).Kept := .event hs

theorem State.Kept.putLeaves {xs : List Nat} {n : Nat} (hs : s.Kept) : (putLeaves xs n s).Kept := by
  fun_induction Machine.putLeaves xs n s
  · exact hs
  · next ih => exact ih hs.ownPut

/-- A line whose stretches move, each with its bytes, stays sound. -/
theorem Line.Sound.moveSegs {l : Line} {f : Nat → Nat} {dirty : List Nat} (hl : l.Sound) :
    Line.Sound { l with dirty := dirty, segs := l.segs.map fun g => (g.1, g.2.1, f g.2.2) } :=
  ⟨List.pairwise_map.2 hl.1, hl.2⟩

theorem State.Kept.migMove {m : Migration} {leaves : List Nat} (hs : s.Kept) : (s.migMove m leaves).Kept := by
  unfold State.migMove
  extract_lets n hit mem1 moveLine s1
  have h : s1.Kept := State.Kept.mapLinesIf (s := { s with mem := _, uncorr := _, loads := _, stores := _ })
    (hs.withMem (memWf_copyFrame _ _ _ (memWf_dirtyHome _ hs.memWf))) (fun _ _ => rfl) fun _ _ hl => hl.moveSegs
  exact h.putLeaves.shootEntries

theorem State.Kept.markMoved {m : Migration} {xs : List Line} (hs : s.Kept) : (markMoved m xs s).2.Kept := by
  fun_induction Machine.markMoved m xs s
  · exact hs
  · next h ih => exact ih (hs.markSegs.of_snd h)
  · next h => exact (hs.markSegs.of_snd h :)
  · next ih => exact ih hs

theorem State.Kept.execMigrationFinish {id : Nat} (hs : s.Kept) : Out.Kept (execMigrationFinish id s) := by
  unfold Machine.execMigrationFinish
  split
  · exact .next hs
  · split
    · exact .next hs
    · split
      · exact .next hs.migAbandon
      · split
        · exact .next hs
        · split
          · exact .next hs.migAbandon
          · split
            · next h => exact .next (hs.markMoved.of_snd h)
            · next h => exact .next (.event (hs.markMoved.of_snd h).migMove.frame)

theorem State.Kept.execMigrationHoldTimeout {id : Nat} (hs : s.Kept) : Out.Kept (execMigrationHoldTimeout id s) := by
  unfold Machine.execMigrationHoldTimeout
  split
  · exact .next hs
  · split
    · exact .next hs.migAbandon
    · exact .next hs

theorem State.Kept.shootPa {lo n : Nat} (hs : s.Kept) : (s.shootPa lo n).Kept := .emptyPorts hs

theorem State.Kept.freeChunks {t : Tier} {a n n1 : Nat} (hs : s.Kept) : (freeChunks t a n n1 s).Kept := by
  fun_induction Machine.freeChunks t a n n1 s
  · exact hs
  · next ih => exact ih hs.ownPut.event

theorem State.Kept.recompress {t : Tier} {pa : Nat} (hs : s.Kept) : (s.recompress t pa).Kept := by
  unfold State.recompress
  exact .ite (.event (.fillChunks (.ownPut (.freeChunks hs.shootPa.frame)))) (.fillChunks (.ownPut (.freeChunks hs.shootPa.frame)))

theorem State.Kept.execRecompression {tier page : Nat} (hs : s.Kept) : Out.Kept (execRecompression tier page s) := by
  unfold Machine.execRecompression
  split
  · exact .next hs
  · extract_lets
    split
    · exact .next hs
    · split
      · exact .next hs
      · split
        · exact .next hs
        · split
          · exact .next hs
          · split
            · exact .next (.detect hs)
            · exact .next hs.recompress

theorem State.Kept.blockFails {b : Block} (hs : s.Kept) : (s.blockFails b).Kept := by
  unfold State.blockFails
  split
  next h =>
    split
    · exact hs
    · exact hs
    · exact .ite (hs.freeVal.of_snd h :) (hs.freeVal.of_snd h)
    · exact (hs.freeVal.of_snd h).event.ite (hs.freeVal.of_snd h)
    · exact hs

theorem State.Kept.testEvent {b : Block} {r : Nat} (hs : s.Kept) : (s.testEvent b r).Kept := by
  unfold State.testEvent
  split
  next h => exact (hs.freeVal.of_snd h).event

theorem State.Kept.outcome {b : Block} {pass : Bool} (hs : s.Kept) :
    (s.outcome b pass).Kept := .ite hs.blockFails.testEvent (.ite hs.blockFails.testEvent (.testEvent hs))

theorem State.Kept.clearCore {c : Nat} (hs : s.Kept) : (s.clearCore c).Kept := by
  unfold State.clearCore
  split
  · exact hs
  · split
    · exact hs
    · exact (OptKept.getD hs.markSave hs).ite hs

theorem State.Kept.reports {b : Block} (hs : s.Kept) : (s.reports b).Kept := by
  unfold State.reports
  split
  · exact hs
  · split
    next h1 =>
      split
      next h2 => exact .event ((hs.freeVal.of_snd h1).freeVal.of_snd h2 :)

theorem State.Kept.execSelfTest {b : Block} {pass : Bool} (hs : s.Kept) : Out.Kept (execSelfTest b pass s) := by
  unfold Machine.execSelfTest
  extract_lets
  split
  · exact .next (.outcome hs.reports.frame)
  · split
    · exact .next (.clearCore hs.reports)
    all_goals exact .next hs.reports

theorem State.Kept.execPowerClockStep {up : Bool} (hs : s.Kept) : Out.Kept (execPowerClockStep up s) := by
  unfold Machine.execPowerClockStep
  split
  · exact .next hs
  · split
    next h => exact .next (hs.freeVal.of_snd h :)

end Sys2Proof.Machine
end

section
/-! PROOFS. Each instruction, turn and action keeps the form of memory, and so does each step (O56). -/

namespace Sys2Proof.Machine

open Sys2Proof

-- In turn: many short proofs, elaborated at once, would each hold a thread and its stack.
set_option Elab.async false

variable {s : State}

/-! ### Instructions -/

/-- Instructions that run in registers go through `aluStep`; each of the others is covered by the lemma of its meaning. -/
theorem State.Kept.exec {i : Instr} (hs : s.Kept) : Out.Kept (exec i s) := by
  conv in Machine.exec => delta Machine.exec
  split
  iterate 75 exact hs.aluStep
  · exact hs.execBra
  · exact hs.execBrx
  · exact hs.execJoin
  · exact hs.execCall
  · exact hs.execRet
  · exact hs.execExit
  · exact hs.execLoop
  · exact hs.execBarSync
  · exact hs.execBarArrive
  · exact hs.execYield
  · exact hs.execNop
  · exact hs.execSleep
  · exact hs.execGsync
  · exact hs.execLd
  · exact hs.execSt
  · exact hs.padLoad
  · exact hs.padStore
  · exact hs.execLdc
  · exact hs.padLoad
  · exact hs.padStore
  · exact hs.tileMove
  · exact hs.tileMove
  · exact hs.execFence
  · exact hs.execFenceAsync
  · exact hs.atomStep
  · exact hs.atomStep
  · exact hs.atomStep
  · exact hs.atomStep
  · exact hs.execAtoms
  · exact hs.execCass
  · exact hs.execWaitc
  · exact hs.execCctl
  · exact hs.prefStep
  · exact hs.execCpy
  · exact hs.execCpyt
  · exact hs.execCpyg
  · exact hs.execCpys
  · exact hs.execBinit
  · exact hs.execBexp
  · exact hs.execBarrive
  · exact hs.execBwait
  · exact hs.execBtest
  · exact hs.execSeal
  · exact hs.execWaitb
  · exact hs.execTclook
  · exact hs.execTcpref
  · exact hs.execTchalo
  · exact hs.tensorCmd
  · exact hs.tensorCmd
  · exact hs.execMxpost
  · exact hs.execMxwait
  · exact hs.execMxqry
  · exact hs.execMxcan
  · exact hs.execGset
  · exact hs.execSlabld
  · exact hs.execSlabfree
  · exact hs.execSpxs
  · exact hs.execShpq
  · exact hs.execShpwait
  · exact hs.execShpset
  · exact hs.execTmapset
  · exact hs.execTmapclr
  · exact hs.execSpaton
  · exact hs.execSend
  · exact hs.execStrld
  · exact hs.execStrst
  · exact hs.execGtok
  · exact hs.execDropt
  · exact hs.execToki
  · exact hs.execSpatq
  · exact hs.execSpexit
  · exact hs.execHpref
  · exact hs.execHprio
  · exact hs.execHnote
  · exact hs.execHintRegionNop
  · exact hs.trapStep
  · exact hs.execSread
  · exact hs.execSwrite
  · exact hs.execRte
  · exact hs.execHrec
  · exact hs.execHrecW
  · exact hs.execPmap
  · exact hs.execTlbinv
  · exact hs.execIcinv
  · exact hs.execPark
  · exact hs.trapStep
  · exact hs.execPerf
  · exact hs.execSvcrmwLock
  · exact hs.execSvcrmwUnlock
  · exact hs.execSvcret
  · exact hs.execUnassignedOpcode
  · exact hs.qAlu
  iterate 5 exact hs.qImm
  iterate 8 exact hs.qReg
  · exact hs.qLoad
  · exact hs.qLoad
  · exact hs.qLoad
  · exact hs.qLoad
  · exact hs.qStoreWin
  · exact hs.qStoreWin
  · exact hs.qStoreWin
  · exact hs.qStoreWin
  · exact hs.execBz
  · exact hs.execBnz
  · exact hs.execJmp
  · exact hs.execQprogLoop
  · exact hs.execLnch
  · exact hs.execXfer
  · exact hs.qSignal
  · exact hs.qSignal
  · exact hs.qWait
  · exact hs.qWait
  · exact hs.execCanx
  · exact hs.execCfgd
  · exact hs.execFin
  · exact hs.execQerr
  · exact hs.execLaunch
  · exact hs.barrierStep
  · exact hs.barrierStep
  · exact hs.execSignal
  · exact hs.execCopy
  · exact hs.execConfigDelta
  · exact hs.execCancel
  · exact hs.execNopPacket
  · exact hs.execCustomPacket
  · exact hs.execBarrierReevaluate
  · exact hs.execChecksumRefetch
  · exact hs.execPacketCompletion
  · exact hs.execDeltaApply
  · exact hs.execLaunchCompletion
  · exact hs.execPredictorAnswer
  · exact hs.execPredictorTimeout
  · exact hs.execDeadlineExpiry
  · exact hs.execCsigAbort
  · exact hs.execWidxWake
  · exact hs.execQueueMap
  · exact hs.execQueueSlotReclaim
  · exact hs.execQueueUnmap
  · exact hs.execQcmdEnable
  · exact hs.execQcmdDisable
  · exact hs.execQcmdReset
  · exact .next hs.tlbcmdStart
  · exact .next hs.tlbcmdStart
  · exact .next hs.tlbcmdStart
  · exact hs.execShootdownComplete
  · exact hs.execIcinvInvalidation
  · exact hs.execReplayRetry
  · exact hs.execReplayFail
  · exact .next hs.retryAll
  · exact hs.execWatchdogExpiry
  · exact hs.execFwctlLoad
  · exact hs.execFirmwareBootCheck
  · exact hs.execAttcmdQuote
  · exact hs.execAttcmdRaiseFloor
  · exact hs.execAttcmdReadCertificate
  · exact hs.execHeatctlWrite
  · exact hs.execTierbaseWrite
  · exact .next hs
  · exact .next hs
  · exact .next hs
  · exact .next hs
  · exact .next hs.restart
  · exact hs.execUnitStart
  · exact hs.execUnitRetire
  · exact hs.execRotationPreempt
  · exact hs.execSquashPreempt
  · exact hs.execUnitEvict
  · exact hs.execUnitSave
  · exact hs.execUnitRestore
  · exact hs.execStageEvaluation
  · exact hs.execBindOff
  · exact hs.execPromotion
  · exact hs.execSleepExpiry
  · exact hs.execWaitcRepoll
  · exact hs.execSpatialLoad
  · exact hs.execOperatorFiring
  · exact hs.execStreamReadReturn
  · exact hs.execSpatialExit
  · exact hs.execCopyCommandStart
  · exact hs.execCopyCommandArrival
  · exact hs.execEngineGrant
  · exact hs.execPassEnd
  · exact hs.execAnyDispatch
  · exact hs.execLoadSectorReturn
  · exact hs.execStorePerformed
  · exact hs.execWriteAcknowledgement
  · exact hs.execAtomicReply
  · exact hs.execServiceRequestDelivery
  · exact hs.execTcTick
  · exact hs.execEpochAdvance
  · exact hs.execSliceSleep
  · exact hs.execSliceWake
  · exact .next hs.proxyFill
  · exact hs.execRegionMerge
  · exact hs.execHostAccess
  · exact hs.execHostSnoop
  · exact hs.execPeerRequest
  · exact hs.execPeerInvalidateMessage
  · exact hs.execPeerAcknowledgeMessage
  · exact .next (.ite hs.event.frame hs.event.frame)
  · exact .next hs.decay
  · exact hs.execMigrationStart
  · exact hs.execMigrationFinish
  · exact hs.execMigrationHoldTimeout
  · exact hs.execRecompression
  · exact hs.execSelfTest
  · exact hs.execPowerClockStep
  · exact hs.execCopyRequestPerformed
  · exact hs.execStampScrub
  · exact hs.execProxyInvalidation
  · exact hs.execBackInvalidationSnoopResponse
  · exact .next hs

/-! ### Turns -/

theorem State.Kept.issued {U : Unit} {g : Nat} {G : Group} (hs : s.Kept) : (s.issued U g G).Kept := hs

theorem State.Kept.notReady {u g : Nat} (hs : s.Kept) : (s.notReady u g).Kept := hs.modGroup

theorem State.Kept.cleared {u g : Nat} (hs : s.Kept) : (s.cleared u g).Kept := hs.modGroup

theorem State.Kept.afterIssue {u g : Nat} {U : Unit} {G : Group} (hs : s.Kept) : (s.afterIssue u g U G).Kept := by
  unfold State.afterIssue
  split
  · exact hs.notReady.ite (hs.issued.notReady.ite hs.issued)
  · exact hs.issued

theorem State.Kept.afterRetest {u g : Nat} (hs : s.Kept) : (s.afterRetest u g).Kept := hs.notReady.ite hs

theorem State.Kept.execAs {a : Agent} {i : Instr} (hs : s.Kept) : Out.Kept (execAs a i s) := State.Kept.exec hs

theorem State.Kept.lookOnly {u g : Nat} {G : Group} {i : Instr} (hs : s.Kept) : Out.Kept (s.lookOnly u g G i) := by
  unfold State.lookOnly
  split
  · exact .next hs
  · split
    · next h =>
      have ht := hs.execAs.of_next h
      exact .next (ht.notReady.ite (ht.ite hs.cleared))
    · exact .next hs.cleared
    · exact .next hs.cleared

theorem State.Kept.groupTurn {u g : Nat} (hs : s.Kept) : Out.Kept (s.groupTurn u g) := by
  unfold State.groupTurn
  split
  · exact .next hs
  · split
    · next h => exact .next ((hs.fetchGroup.of_stop h).afterIssue.ite (hs.fetchGroup.of_stop h))
    · next h => exact .next (hs.fetchGroup.of_wait h)
    · next U G _ _ i s1 h =>
      have h1 := hs.fetchGroup.of_got h
      have issues : Out.Kept (if s1.picks U g G then Machine.thenState (Machine.execAs (.group u g) i s1) fun t => t.afterIssue u g U G
          else s1.lookOnly u g G i) := by
        split
        · exact .thenState h1.execAs fun t ht => ht.afterIssue
        · exact h1.lookOnly
      split
      · exact .thenState h1.execAs fun t ht => ht.afterRetest
      all_goals exact issues

theorem State.Kept.queueTurnOf {q : Nat} (hs : s.Kept) : Out.Kept (s.queueTurnOf q) := by
  unfold State.queueTurnOf
  split
  · next h => exact .next (hs.fetchQueue.of_stop h)
  · next h => exact (hs.fetchQueue.of_got h).execAs

theorem State.Kept.turn {x : Turn} (hs : s.Kept) : Out.Kept (s.turn x) := by
  cases x with
  | issue => exact hs.groupTurn
  | qstep => exact hs.queueTurnOf
  | event =>
    rw [State.turn]
    split
    · exact hs.execAs
    · exact .next hs
  | drop => exact .next hs.dropItem

theorem State.Kept.perform {d : Due} (hs : s.Kept) : Out.Kept (s.perform d) := by
  cases d with
  | group => exact hs.groupTurn
  | sleepEnd => exact hs.execSleepExpiry
  | poll => exact hs.execWaitcRepoll
  | signals => exact hs.execBarrierReevaluate
  | abort => exact hs.execCsigAbort
  | deadline => exact hs.execDeadlineExpiry
  | predictor => exact hs.execPredictorTimeout
  | stages => exact hs.execStageEvaluation
  | grant => exact hs.execEngineGrant
  | decay => exact .next hs.decay
  | holdEnd => exact hs.execMigrationHoldTimeout
  | test => exact hs.freeVal.execSelfTest
  | record => exact .next hs.postOwed

theorem State.Kept.tally (hs : s.Kept) : s.tally.Kept := .watchEngines hs

/-- Settles O56: a step is a turn, an action that is due or the passing of time, then the marks of its end, and each of them keeps the form:
a change of memory writes bytes or drops cells, and a change of lines filters them, maps them under their names, or adds a line where its
key has none. -/
theorem everyStepKeepsMemoryCanonical : Obligations.EveryStepKeepsMemoryCanonical := by
  unfold Obligations.EveryStepKeepsMemoryCanonical
  intro s t hs hstep
  obtain ⟨t0, rfl, ⟨e, r, _, _, hturn⟩ | ⟨d, _, hdue⟩ | ⟨_, r, rfl⟩⟩ := step_cases hstep
  · exact (State.Kept.turn (s := { s with agenda := r, cur := .front }) hs).of_next hturn |>.tally
  · exact (State.Kept.perform (s := { s with cur := .front }) hs).of_next hdue |>.tally
  · exact State.Kept.tally (s := { s with agenda := r, clock := s.clock + 1, cur := .front }) hs

end Sys2Proof.Machine
end

section
/-! PROOFS. Coherence, the host and the peers (R330, R436 to R441, R443, R447, R448, R453, R454): logical time and the sleep of slices,
proxy copies and their regions, then what comes from outside the device: one lemma for each event. -/

namespace Sys2Proof.Machine

open Sys2Proof

variable {s : State}

/-! ### Logical time (R330, R437) -/

theorem exec_tcTick_of_core {core : Nat} (h : core < 528) : exec (.tcTick core) s = .next (s.tcCatchUp core) := if_pos h

/-- A core below the hold of its die gains the ticks that are due and do not pass the hold. -/
theorem State.tcOf_tcCatchUp {core : Nat} (hok : spOk 0 s.tc = true) (hhold : s.tcOf core ≤ tcHold (s.epochOf (dieOf core))) :
    (s.tcCatchUp core).tcOf core = s.tcOf core +
      min ((s.clock - spGet 0 s.tcAt core) / 32) (tcHold (s.epochOf (dieOf core)) - s.tcOf core) := by
  have hraised : (s.tcCatchUp core).tcOf core = max (s.tcOf core) (min (s.tcOf core +
      min ((s.clock - spGet 0 s.tcAt core) / 32) (tcHold (s.epochOf (dieOf core)) - s.tcOf core)) (tcHold (s.epochOf (dieOf core)))) :=
    spGet_spSet_same hok
  omega

/-- A die whose advance is due moves to its next epoch after the scrub pass. -/
theorem exec_epochAdvance_of_due {die : Nat} (hdie : die < 4) (hdue : s.advanceDue die = true) (hscrub : s.scrubbed die = true) :
    exec (.epochAdvance die) s = .next (s.nextEpoch die) :=
  if_neg (by simp [hdie, hdue, hscrub])

/-! ### Retention sleep (R438) -/

/-- An awake slice that has been quiet and holds nothing sleeps. -/
theorem exec_sliceSleep_of_quiet {sl : Nat} (hsl : sl < 2048) (hawake : ∀ x ∈ s.asleep, x.1 ≠ sl)
    (hquiet : spGet 0 s.lastReq sl + 2 ^ 20 ≤ s.clock) (hfree : s.sliceHeld sl = false) :
    exec (.sliceSleep sl) s = .next { s with asleep := s.asleep ++ [(sl, s.epochOf (sliceDie sl))] } := by
  have hany : (s.asleep.any fun x => x.1 == sl) = false := List.any_eq_false.2 fun x hx => by simpa using hawake x hx
  exact if_neg (by rw [hany, hfree, decide_eq_false (Nat.not_lt.2 hquiet), decide_eq_false (Nat.not_le.2 hsl)]; decide)

/-- A sleeping slice wakes. -/
theorem exec_sliceWake_of_asleep {x : Nat × Nat} (hx : x ∈ s.asleep) : exec (.sliceWake x.1) s = .next (s.touchSlice x.1) :=
  if_pos (List.any_eq_true.2 ⟨x, hx, beq_self_eq_true x.1⟩)

/-! ### Proxy copies and the region directory (R439 to R441) -/

/-- The stretches of memory that a proxy fill of a key is about: those of the line, where one is held. -/
def State.stretches (s : State) (k : Key) : List (Nat × Nat × Nat) :=
  match s.line? k with
  | some l => l.segs
  | none => s.lineSegs k none

/-- The copy of a home's line that a die takes, with its stamps from PT (R441). -/
def Line.proxyCopy (l : Line) (die pt : Nat) : Line :=
  { l with proxy := true, die := die, dirty := [], rts := pt, wts := pt, lock := none }

/-- A fill that need not wait, and that the home's directory records, ends with the copy in its set, or with nothing where the set takes
none. -/
theorem State.proxyFill_of_marked {die : Nat} {k : Key} {s1 s2 : State} {l : Line} (hdie : die < 4) (haway : sliceDie (s.homeOf k) ≠ die)
    (hnew : s.proxy? k die = none) (hlink : s.cutDies die (sliceDie (s.homeOf k)) = false) (hsegs : s.stretches k ≠ [])
    (hwait : s.proxyWaits k die (s.stretches k) = false) (hfill : (s.askHome k die (s.stretches k)).fill k none = (s1, l))
    (hmark : markSegs (sliceDie (s.homeOf k)) die l.segs s1 = (true, s2)) :
    s.proxyFill die k = (s2.addProxy (l.proxyCopy die (s2.ptAfter die 1))).elim s
      fun s3 => (s3.setPt die (s2.ptAfter die 1)).backPkts die 0 [sliceDie (s.homeOf k)] := by
  unfold State.stretches at hsegs hwait hfill
  unfold State.proxyFill
  generalize s.line? k = held at hsegs hwait hfill ⊢
  cases held <;>
    · dsimp only at hsegs hwait hfill ⊢
      rw [if_neg (by simp [hdie, haway, hnew, hlink, hsegs, hwait])]
      simp only [hfill, hmark, Line.proxyCopy]
      cases s2.addProxy _ <;> rfl

/-- A die acknowledges an invalidation when its turn has come and PT stays below the hold. -/
theorem exec_proxyInvalidation_of_fits {id d : Nat} {v : Inval} (hv : (s.invals.find? fun v => v.id == id) = some v)
    (hd : v.target = .die d) :
    let gone := fun l : Line => l.proxy && l.die == d && l.within v.base v.size
    let pt := s.ptAfter d (s.lines.filter gone).length
    s.ptFits d pt = true → s.behindInval v = false → exec (.proxyInvalidation id) s = .next (({ s with
      lines := s.lines.filter fun l => !gone l
      invals := s.invals.filter fun x => x.id != id } : State).setPt d pt |>.ackPkt v.pkt) := by
  intro gone pt hfits hturn
  change execProxyInvalidation id s = _
  simp only [execProxyInvalidation, hv, hd]
  exact if_neg (by rw [hturn, Bool.or_false, Bool.not_eq_true', Bool.not_eq_false]; exact hfits)

/-- Two sibling halves that have been quiet merge. -/
theorem exec_regionMerge_of_quiet {die base k : Nat} {a b : Region} (hpos : 1 ≤ k) (hmax : k ≤ 8) (hbase : base % (256 * 2 ^ k) = 0)
    (ha : (s.regions.find? fun r => r.die == die && r.base == base && r.k + 1 == k) = some a)
    (hb : (s.regions.find? fun r => r.die == die && r.base == base + 256 * 2 ^ (k - 1) && r.k + 1 == k) = some b)
    (hquiet : max a.lastInv b.lastInv + 2 ^ 20 ≤ s.clock) : exec (.regionMerge die base k) s = .next { s with
      regions := ⟨die, base, k, a.present ++ b.present.filter fun d => !a.present.contains d, max a.lastInv b.lastInv⟩ ::
        s.regions.filter fun (x : Region) => !(a.same x || b.same x) } := by
  have hwhole : 2 * (256 * 2 ^ (k - 1)) = 256 * 2 ^ k := by
    rw [Nat.mul_left_comm, Nat.mul_comm 2, Nat.pow_pred_mul hpos]
  change execRegionMerge die base k s = _
  simp only [execRegionMerge, ha, hb, hwhole, hbase]
  exact if_neg (by simp; omega)

/-! ### The host (R447, R448, R454) -/

/-- An access that the host may make is performed, and events that wait are posted. -/
theorem exec_hostAccess_of_may {op : HostOp} (hlen : (hostRange op).2 ≠ 0) (hmay : s.hostMay (hostRange op).1 (hostRange op).2 = true) :
    exec (.hostAccess op) s = .next (evDrain (s.hostDo op).events (s.hostDo op)) := by
  have hgo : ¬ (decide ((hostRange op).2 = 0) || !s.hostMay (hostRange op).1 (hostRange op).2) = true := by
    rw [decide_eq_false hlen, hmay]; decide
  exact if_neg hgo

/-- A snoop of a host line takes the device's copies. -/
theorem exec_hostSnoop_of_givesUp {pa : Nat} {t : State} (hhost : s.paKind pa = .host) (hcxl : s.cxlMode = true)
    (ht : s.giveUp (pa / 64 * 64) 64 = some t) : exec (.hostSnoop pa) s = .next t := by
  change execHostSnoop pa s = _
  rw [execHostSnoop, hhost, hcxl, ht]
  rfl

/-- The host's answer ends the invalidation. -/
theorem exec_backInvalidationSnoopResponse_of_found {id : Nat} {v : Inval}
    (hv : (s.invals.find? fun v => v.id == id && v.target == .host) = some v) : exec (.backInvalidationSnoopResponse id) s =
      .next (({ s with invals := s.invals.filter fun x => x.id != v.id } : State).ackPkt v.pkt) := by
  change execBackInvalidationSnoopResponse id s = _
  rw [execBackInvalidationSnoopResponse, hv]

/-! ### Requests of peers (R452 to R454) -/

section
variable {id : Nat} (hpeer : s.isPeer id = true)
include hpeer

/-- A fill makes the peer a sharer. -/
theorem exec_peerRequest_fill {pa : Nat} (hpa : pa < hbmEnd) (hfree : s.extBusy pa 1 = false) :
    exec (.peerRequest (.fill id pa)) s = .next ((s.extTouch false pa).peerTrack pa (PeerEnt.join id)).2 :=
  if_neg (by rw [hpeer, hfree, decide_eq_false (Nat.not_le.2 hpa)]; decide)

/-- An RMW goes to the service group of the home. -/
theorem exec_peerRequest_rmw (pa kind code size : Nat) (op0 op1 : BitVec 128) :
    exec (.peerRequest (.rmw id pa kind code size op0 op1)) s = .next (s.peerRmw id pa kind code size op0 op1) := if_pos hpeer

/-- What a peer's write does depends on where it ends: below the mailbox it is a write from outside, in the peer's own memory it is stored
where no copy is left, and elsewhere it is lost. -/
theorem exec_peerRequest_write (pa : Nat) (bs : List Byte) : exec (.peerRequest (.write id pa bs)) s =
    if pa + bs.length ≤ mailBase then .next (s.extWrite pa bs (some id) false)
    else if 0x8000000000000 + id * 2 ^ 40 ≤ pa ∧ pa + bs.length ≤ 0x8000000000000 + id * 2 ^ 40 + hbmEnd ∧
      (s.lines.all fun l => !l.within pa bs.length) then .next (s.physWrite pa bs)
    else .next s :=
  if_neg (by rw [hpeer]; decide)

theorem exec_peerRequest_write_of_memory {pa : Nat} {bs : List Byte} (hend : pa + bs.length ≤ mailBase) :
    exec (.peerRequest (.write id pa bs)) s = .next (s.extWrite pa bs (some id) false) := by
  rw [exec_peerRequest_write hpeer, if_pos hend]

/-- A write to the device's memory that reaches the mailbox is not stored: the peers' own memory lies above. -/
theorem exec_peerRequest_write_of_mailbox {pa : Nat} {bs : List Byte} (hend : mailBase < pa + bs.length) (hpa : pa < hbmEnd) :
    exec (.peerRequest (.write id pa bs)) s = .next s := by
  have hbelow : ¬ 0x8000000000000 + id * 2 ^ 40 ≤ pa := by simp only [hbmEnd] at hpa; omega
  rw [exec_peerRequest_write hpeer, if_neg (Nat.not_le.2 hend), if_neg fun h => hbelow h.1]

theorem exec_peerRequest_write_of_own {pa : Nat} {bs : List Byte} (hstart : 0x8000000000000 + id * 2 ^ 40 ≤ pa)
    (hend : pa + bs.length ≤ 0x8000000000000 + id * 2 ^ 40 + hbmEnd) (hnone : ∀ l ∈ s.lines, l.within pa bs.length = false) :
    exec (.peerRequest (.write id pa bs)) s = .next (s.physWrite pa bs) := by
  have habove : ¬ pa + bs.length ≤ mailBase := by simp only [mailBase]; omega
  have hall : (s.lines.all fun l => !l.within pa bs.length) = true := List.all_eq_true.2 fun l hl => by rw [hnone l hl]; rfl
  rw [exec_peerRequest_write hpeer, if_neg habove, if_pos ⟨hstart, hend, hall⟩]

end

/-! ### Messages of peers (R453, R454) -/

section
variable {m : MailMsg}

/-- An invalidation is acknowledged when the device has given up its lines. -/
theorem exec_peerInvalidateMessage_of_givesUp {t : State} (hm : s.mailOk m 1 = true)
    (ht : s.giveUp (0x8000000000000 + m.home.toNat * 2 ^ 40 + m.pa.toNat) (2 ^ m.logsz.toNat) = some t) :
    exec (.peerInvalidateMessage m) s = .next (t.acknowledge m) := by
  change execPeerInvalidateMessage m s = _
  rw [execPeerInvalidateMessage, hm, ht]
  rfl

theorem exec_peerInvalidateMessage_of_bad (hm : s.mailOk m 1 = false) : exec (.peerInvalidateMessage m) s = .next (s.mailBad m) :=
  if_pos (by rw [hm]; rfl)

/-- The invalidation that an acknowledgement is for: its peer's, by region and number. -/
def acknowledges (m : MailMsg) : Inval → Bool := fun v =>
  v.target == .peer m.home.toNat && v.base == m.pa.toNat && v.size == 2 ^ m.logsz.toNat && v.id == m.seq.toNat

/-- An acknowledgement ends its invalidation, where that is still in flight. -/
theorem exec_peerAcknowledgeMessage_of_ok (hm : s.mailOk m 2 = true) : exec (.peerAcknowledgeMessage m) s =
    .next ((s.invals.find? (acknowledges m)).elim s fun v =>
      ({ s with invals := s.invals.filter fun x => x.id != v.id } : State).ackPkt v.pkt) := by
  change execPeerAcknowledgeMessage m s = _
  rw [execPeerAcknowledgeMessage, hm]
  unfold acknowledges
  cases s.invals.find? _ <;> rfl

theorem exec_peerAcknowledgeMessage_of_bad (hm : s.mailOk m 2 = false) : exec (.peerAcknowledgeMessage m) s = .next (s.mailBad m) :=
  if_pos (by rw [hm]; rfl)

end

/-! ### Failed links (R443) -/

/-- A failed flow of a port, or a failed link between two dies, is reported and remembered. -/
theorem exec_linkFailure (port flow a b : Nat) :
    let s1 := s.event ⟨9, if a = b then 4 else a, 0, BitVec.ofNat 64 port, BitVec.ofNat 64 flow, none⟩
    exec (.linkFailure port flow a b) s = .next (if a = b then { s1 with failedFlows := s1.failedFlows ++ [(port, flow)] }
      else { s1 with failedDies := s1.failedDies ++ [(a, b)] }) := by
  change execLinkFailure port flow a b s = _
  simp only [execLinkFailure, beq_iff_eq]

/-! ### The two families -/

/-- Logical time, sleep, proxy copies and regions. -/
theorem timeAndProxiesComplete : Sys2Proof.Statements.TimeAndProxiesComplete := by
  intro s
  refine ⟨fun core => exec_tcTick_of_core, fun core => State.tcOf_tcCatchUp, fun die => exec_epochAdvance_of_due,
    fun _ _ _ _ _ => rfl, fun sl => exec_sliceSleep_of_quiet, fun x => exec_sliceWake_of_asleep, ?fill,
    fun id v d hv hd => exec_proxyInvalidation_of_fits hv hd, fun die base k a b => exec_regionMerge_of_quiet⟩
  case fill =>
    intro die ctx tensor tile line s1 l s2 k segs hdie haway hnew hlink hsegs hwait hfill hmark
    have hexec : exec (.proxyFill die ctx tensor tile line) s = .next _ :=
      congrArg Host.Outcome.next (State.proxyFill_of_marked hdie haway hnew hlink hsegs hwait hfill hmark)
    exact ⟨fun s3 hput => hexec.trans (congrArg (fun o => Host.Outcome.next (Option.elim o _ _)) hput),
      fun hput => hexec.trans (congrArg (fun o => Host.Outcome.next (Option.elim o _ _)) hput)⟩

/-- The host, the peers and failed links. -/
theorem hostAndPeersComplete : Sys2Proof.Statements.HostAndPeersComplete := by
  intro s
  refine ⟨fun op => exec_hostAccess_of_may, fun pa t => exec_hostSnoop_of_givesUp,
    fun id v => exec_backInvalidationSnoopResponse_of_found, fun id pa hpeer => exec_peerRequest_fill hpeer,
    fun id pa kind code size op0 op1 hpeer => exec_peerRequest_rmw hpeer pa kind code size op0 op1,
    fun id pa bs hpeer => exec_peerRequest_write_of_memory hpeer, fun id pa bs hpeer => exec_peerRequest_write_of_mailbox hpeer,
    fun id pa bs hpeer => exec_peerRequest_write_of_own hpeer, fun m t => exec_peerInvalidateMessage_of_givesUp,
    fun m => exec_peerInvalidateMessage_of_bad, fun m hm => ⟨fun v hv => ?found, fun hv => ?none⟩,
    fun m => exec_peerAcknowledgeMessage_of_bad, fun m => rfl, exec_linkFailure⟩
  all_goals
    rw [exec_peerAcknowledgeMessage_of_ok hm]
    exact congrArg (fun o => Host.Outcome.next (Option.elim o _ _)) hv

/-- Settles O52, by its two families of events. -/
theorem coherenceHostAndPeerEventsComplete : Obligations.CoherenceHostAndPeerEventsComplete :=
  ⟨timeAndProxiesComplete, hostAndPeersComplete⟩

end Sys2Proof.Machine
end

section
/-! PROOFS. Queues as parts of the state, the opcodes of queue programs' words (R395), and the instructions of queue programs (R396 to
R399): arithmetic, windows, branches and actions. -/

namespace Sys2Proof.Machine

open Sys2Proof

/-! ### Queues in the state -/

section
variable {s : State} {q : Nat} {Q : Queue} {f : Queue → Queue}

/-- A queue is found under its own number. -/
theorem State.n_of_queue? (h : s.queue? q = some Q) : Q.n = q := by simpa using List.find?_some h

/-- A queue that is found is one of the state's. -/
theorem State.mem_of_queue? (h : s.queue? q = some Q) : Q ∈ s.queues := List.mem_of_find?_eq_some h

/-- A change that keeps a queue's number is seen by its reader alone. -/
theorem State.queue?_modQueue (hf : ∀ x, (f x).n = x.n) (k : Nat) :
    (s.modQueue q f).queue? k = (s.queue? k).map fun x => if x.n == q then f x else x := by
  refine List.find?_map.trans (congrArg (Option.map _) (congrArg (s.queues.find? ·) (funext fun x => ?_)))
  dsimp only [Function.comp]
  split
  · rw [hf]
  · rfl

theorem State.queue?_modQueue_same (h : s.queue? q = some Q) (hf : ∀ x, (f x).n = x.n) : (s.modQueue q f).queue? q = some (f Q) := by
  rw [State.queue?_modQueue hf, h, Option.map_some, if_pos (beq_iff_eq.2 (State.n_of_queue? h))]

theorem State.queue?_modQueue_ne {k : Nat} (hk : k ≠ q) (hf : ∀ x, (f x).n = x.n) : (s.modQueue q f).queue? k = s.queue? k := by
  rw [State.queue?_modQueue hf]
  cases hx : s.queue? k with
  | none => rfl
  | some x => exact congrArg some (if_neg (by rw [State.n_of_queue? hx]; simpa using hk))

/-- A request of the front end changes no queue. -/
@[simp] theorem State.sendFront_queues (s : State) (kind : ReqKind) (size : Nat) (rel : Bool) (q ctx va : Nat) (val launch : DWord)
    (tag : Nat) : (s.sendFront kind size rel q ctx va val launch tag).queues = s.queues := by
  unfold State.sendFront State.sendPkt
  dsimp only
  split
  · rfl
  · split <;> rfl

/-- A write for a queue changes no queue. -/
@[simp] theorem State.queue?_qStore (s : State) (Q : Queue) (rel : Bool) (va : Nat) (v : DWord) (tag k : Nat) :
    (s.qStore Q rel va v tag).queue? k = s.queue? k := congrArg (List.find? _) (s.sendFront_queues ..)

end

/-! ### Registers of a program (R394) -/

section
variable {Q : Queue} {d : Nat} {v : DWord}

/-- Writing a register changes the registers alone. -/
theorem Queue.putW_eq : ∃ w, Q.putW d v = { Q with w := w } := by
  unfold Queue.putW
  split
  · exact ⟨Q.w, rfl⟩
  · exact ⟨_, rfl⟩

@[simp] theorem Queue.putW_n : (Q.putW d v).n = Q.n := by
  obtain ⟨w, hw⟩ := Queue.putW_eq (Q := Q) (d := d) (v := v)
  rw [hw]

theorem Queue.getW_putW_same (hd : d ≠ 0) (hw : spOk 0 Q.w = true) : (Q.putW d v).getW d = v := by
  rw [Queue.getW, if_neg hd, Queue.putW, if_neg hd, spGet_spSet_same hw]

theorem Queue.getW_putW_ne {k : Nat} (hk : k ≠ d) (hw : spOk 0 Q.w = true) : (Q.putW d v).getW k = Q.getW k := by
  unfold Queue.getW Queue.putW
  split
  · rfl
  · split
    · rfl
    · exact spGet_spSet_ne hw hk

end

/-! ### Opcodes of the words (R395) -/

/-- The high part of a concatenation. -/
theorem toNat_append_div {m n : Nat} (x : BitVec m) (y : BitVec n) : (x ++ y).toNat / 2 ^ n = x.toNat := by
  rw [toNat_append_eq_add, Nat.mul_comm, Nat.mul_add_div (Nat.two_pow_pos n), Nat.div_eq_of_lt y.isLt, Nat.add_zero]

section
variable (op : BitVec 6)

theorem qI_op (d a : BitVec 4) (i : BitVec 18) : (qI op d a i).toNat / 2 ^ 26 = op.toNat := by
  calc (qI op d a i).toNat / 2 ^ (18 + 4 + 4)
      = (op ++ d ++ a ++ i).toNat / 2 ^ 18 / 2 ^ 4 / 2 ^ 4 := by rw [Nat.div_div_eq_div_mul, Nat.div_div_eq_div_mul]; rfl
    _ = op.toNat := by simp only [toNat_append_div]

theorem qR_op (d a b : BitVec 4) : (qR op d a b).toNat / 2 ^ 26 = op.toNat := by
  calc (qR op d a b).toNat / 2 ^ (14 + 4 + 4 + 4)
      = (op ++ d ++ a ++ b ++ (0 : BitVec 14)).toNat / 2 ^ 14 / 2 ^ 4 / 2 ^ 4 / 2 ^ 4 := by
        rw [Nat.div_div_eq_div_mul, Nat.div_div_eq_div_mul, Nat.div_div_eq_div_mul]; rfl
    _ = op.toNat := by simp only [toNat_append_div]

theorem qL_op (c : BitVec 6) (i : BitVec 18) : (qL op c i).toNat / 2 ^ 26 = op.toNat := by
  calc (qL op c i).toNat / 2 ^ (18 + 2 + 6)
      = (op ++ c ++ (0 : BitVec 2) ++ i).toNat / 2 ^ 18 / 2 ^ 2 / 2 ^ 6 := by
        rw [Nat.div_div_eq_div_mul, Nat.div_div_eq_div_mul]; rfl
    _ = op.toNat := by simp only [toNat_append_div]

/-- The count field of LOOP. -/
theorem qL_count (c : BitVec 6) (i : BitVec 18) : (qL op c i).toNat / 2 ^ 20 % 64 = c.toNat := by
  calc (qL op c i).toNat / 2 ^ (18 + 2) % 64
      = (op ++ c ++ (0 : BitVec 2) ++ i).toNat / 2 ^ 18 / 2 ^ 2 % 64 := by rw [Nat.div_div_eq_div_mul]; rfl
    _ = (op.toNat * 2 ^ 6 + c.toNat) % 64 := by rw [toNat_append_div, toNat_append_div, toNat_append_eq_add]
    _ = c.toNat := (Nat.mul_add_mod_self_right ..).trans (Nat.mod_eq_of_lt c.isLt)

end

/-- JMP's word leaves its register fields zero. -/
theorem qI_jmp (i : BitVec 18) : (qI 0x22 0 0 i).toNat / 2 ^ 18 = 0x22 * 256 :=
  (toNat_append_div ((0x22 : BitVec 6) ++ (0 : BitVec 4) ++ (0 : BitVec 4)) i).trans (by decide)

/-! ### The frame of an instruction (R401) -/

section
variable {s : State} {q : Nat} {Q : Queue} (hr : RunsQueue s q Q)
include hr

/-- An instruction of a queue's program has its effect on the queue that executes. -/
theorem RunsQueue.prog (k : Queue → State) : progStep s k = .next (k Q) := progStep_runs hr.1 hr.2

theorem RunsQueue.n_eq : Q.n = q := State.n_of_queue? hr.2

end

/-! ### Arithmetic (R396) -/

/-- A program that goes on with a change of its queue is found there, changed. -/
theorem State.queue?_qAt_same {s : State} {q pc : Nat} {Q : Queue} {f : Queue → Queue} (h : s.queue? q = some Q)
    (hf : ∀ x, (f x).n = x.n) : (s.qAt Q pc f).queue? q = some { f Q with pc := pc, steps := Q.steps + 1 } := by
  rw [State.qAt, State.n_of_queue? h]
  exact State.queue?_modQueue_same h hf

/-- Other queues stand where a program goes on. -/
theorem State.queue?_qAt_ne {s : State} {k pc : Nat} {Q : Queue} {f : Queue → Queue} (hk : k ≠ Q.n) (hf : ∀ x, (f x).n = x.n) :
    (s.qAt Q pc f).queue? k = s.queue? k := State.queue?_modQueue_ne hk hf

theorem boolQ_eq_ite (b : Bool) : boolQ b = if b = true then 1 else 0 := by cases b <;> rfl

/-- The difference of two words is that of their values, modulo 2^64. -/
theorem sub_eq_ofInt (x y : DWord) : x - y = BitVec.ofInt 64 ((x.toNat : Int) - y.toNat) := by
  apply BitVec.eq_of_toNat_eq
  rw [BitVec.toNat_sub, BitVec.toNat_ofInt]
  omega

/-- Each arithmetic instruction writes its function of wA and wB, as the table gives it modulo 2^64, to wD. -/
theorem exec_of_mem_queueTable (s : State) (d a b : BitVec 4) (i : BitVec 18) :
    ∀ p ∈ queueTable d a b i, exec p.1 s = qAlu d (fun Q => p.2.2 (Q.getW a.toNat) (Q.getW b.toNat)) s := by
  have hval {f g : Queue → DWord} (h : ∀ Q, f Q = g Q) : qAlu d f s = qAlu d g s := by rw [funext h]
  simp only [queueTable, List.forall_mem_cons]
  refine ⟨rfl, hval fun Q => ?addq, hval fun Q => ?andq, hval fun Q => ?orq, hval fun Q => ?shlq, hval fun Q => ?shrq,
    hval fun Q => BitVec.add_def .., hval fun Q => sub_eq_ofInt .., rfl, rfl, rfl, hval fun Q => ?seqr, hval fun Q => ?sltr,
    hval fun Q => ?sltur, List.forall_mem_nil _⟩
  case addq => simp [BitVec.ofInt_add, BitVec.signExtend]
  case andq => simp [BitVec.ofNat_and]
  case orq => simp [BitVec.ofNat_or]
  case shlq => exact BitVec.eq_of_toNat_eq (by simp [Nat.shiftLeft_eq])
  case shrq => exact BitVec.eq_of_toNat_eq (by
    rw [BitVec.toNat_ushiftRight, Nat.shiftRight_eq_div_pow, BitVec.toNat_ofNat,
      Nat.mod_eq_of_lt (lt_of_le_of_lt (Nat.div_le_self ..) (BitVec.isLt _))])
  case seqr => simp [boolQ_eq_ite]
  case sltr => simp [boolQ_eq_ite, BitVec.slt]
  case sltur => simp [boolQ_eq_ite, BitVec.ult]

/-- Each arithmetic instruction's word has the table's OP. -/
theorem op_of_mem_queueTable (d a b : BitVec 4) (i : BitVec 18) :
    ∀ p ∈ queueTable d a b i, ∀ w : Word, encodeQ p.1 = some w → w.toNat / 2 ^ 26 = p.2.1 := by
  have hI (op : BitVec 6) (x : BitVec 4) (w : Word) (h : some (qI op d x i) = some w) : w.toNat / 2 ^ 26 = op.toNat :=
    Option.some.inj h ▸ qI_op op d x i
  have hR (op : BitVec 6) (w : Word) (h : some (qR op d a b) = some w) : w.toNat / 2 ^ 26 = op.toNat :=
    Option.some.inj h ▸ qR_op op d a b
  simp only [queueTable, List.forall_mem_cons]
  exact ⟨hI 0x01 0, hI 0x02 a, hI 0x03 a, hI 0x04 a, hI 0x05 a, hI 0x06 a, hR 0x08, hR 0x09, hR 0x0A, hR 0x0B, hR 0x0C, hR 0x0D,
    hR 0x0E, hR 0x0F, List.forall_mem_nil _⟩

/-- Settles O42: each instruction of the table writes one register of its queue. -/
theorem queueArithmeticCompletes : Obligations.QueueArithmeticCompletes := by
  intro s q Q d a b i hr p hp v t
  have hexec : exec p.1 s = .next t := (exec_of_mem_queueTable s d a b i p hp).trans (hr.prog _)
  have hother (k : Nat) (hk : k ≠ q) : t.queue? k = s.queue? k :=
    State.queue?_qAt_ne (hr.n_eq ▸ hk) fun _ => Queue.putW_n
  have hown : t.queue? q = some { Q.putW d.toNat v with pc := Q.pc + 1, steps := Q.steps + 1 } :=
    State.queue?_qAt_same hr.2 fun _ => Queue.putW_n
  obtain ⟨w, hw⟩ := Queue.putW_eq (Q := Q) (d := d.toNat) (v := v)
  refine ⟨hexec, rfl, hother, _, hown, by rw [hw], rfl, rfl, fun hd => ?_, fun k => ?_, op_of_mem_queueTable d a b i p hp⟩
  · exact Queue.getW_putW_same fun h => hd (BitVec.eq_of_toNat_eq h)
  · exact Queue.getW_putW_ne

end Sys2Proof.Machine
end

section
/-! PROOFS. Windows, branches and actions of queue programs (R397 to R399): each instruction runs in the frame of its queue's program. -/

namespace Sys2Proof.Machine

open Sys2Proof

/-! ### Windows (R394, R397) -/

/-- An indexed access is aligned. -/
theorem Queue.winAddr_indexed_mod (Q : Queue) (x : BitVec 4) (w : BitVec 3) (o : BitVec 14) (n : Nat) :
    Q.winAddr x true w o n % n = 0 := by
  rw [Queue.winAddr, if_pos rfl, ← Nat.dvd_iff_mod_eq_zero]
  exact Nat.dvd_sub_mod _

/-- An indexed access stays in a window whose size its own divides. -/
theorem Queue.winAddr_indexed_le {Q : Queue} {x : BitVec 4} {w : BitVec 3} {o : BitVec 14} {n : Nat} (hdvd : Q.winSize w.toNat % n = 0)
    (hne : Q.winSize w.toNat ≠ 0) : Q.winAddr x true w o n + n ≤ Q.winSize w.toNat := by
  obtain ⟨k, hk⟩ := Nat.dvd_of_mod_eq_zero hdvd
  obtain ⟨j, hj⟩ := Nat.dvd_of_mod_eq_zero (Q.winAddr_indexed_mod x w o n)
  have hlt : Q.winAddr x true w o n < Q.winSize w.toNat :=
    lt_of_le_of_lt (Nat.sub_le ..) (Nat.mod_lt _ (Nat.pos_of_ne_zero hne))
  rw [hj, hk] at hlt ⊢
  rw [← Nat.mul_succ]
  exact Nat.mul_le_mul_left n (Nat.lt_of_mul_lt_mul_left hlt)

/-- The load of a size. -/
theorem exec_of_mem_queueLoads (s : State) (d x : BitVec 4) (ix : Bool) (w : BitVec 3) (o : BitVec 14) :
    ∀ p ∈ queueLoads d x ix w o, exec p.1 s = qLoad p.2 d x ix w o s := by
  simp only [queueLoads, List.forall_mem_cons]
  exact ⟨rfl, rfl, rfl, rfl, List.forall_mem_nil _⟩

/-- The store of a size. -/
theorem exec_of_mem_queueStores (s : State) (d x : BitVec 4) (ix : Bool) (w : BitVec 3) (o : BitVec 14) :
    ∀ p ∈ queueStores d x ix w o, exec p.1 s = qStoreWin p.2 d x ix w o s := by
  simp only [queueStores, List.forall_mem_cons]
  exact ⟨rfl, rfl, rfl, rfl, List.forall_mem_nil _⟩

/-- A window of the program is neither the packet nor the queue's own. -/
theorem programWindow_ne {w : BitVec 3} (hw : 2 ≤ w.toNat) : (w == 0) = false ∧ (w == 1) = false := by
  constructor <;> exact beq_false_of_ne fun h => absurd hw (by rw [h]; decide)

section
variable {s : State} {q : Nat} {Q : Queue} (hr : RunsQueue s q Q) (n : Nat) (d x : BitVec 4) (ix : Bool) {w : BitVec 3} (o : BitVec 14)
include hr

theorem RunsQueue.qLoad_packet : qLoad n d x ix 0 o s =
    .next (s.qAt Q (Q.pc + 1) fun y => y.putW d.toNat (BitVec.ofNat 64 (fieldAt Q.pkt (Q.winAddr x ix 0 o n) n))) := hr.prog _

theorem RunsQueue.qLoad_own : qLoad n d x ix 1 o s = .next (s.qAt Q (Q.pc + 1) fun y =>
    y.putW d.toNat (BitVec.ofNat 64 (ofBytesLE (spGetList 0 Q.win1 (Q.winAddr x ix 1 o n) n)))) := hr.prog _

theorem RunsQueue.qStoreWin_own : qStoreWin n d x ix 1 o s = .next (s.qAt Q (Q.pc + 1) fun y =>
    { y with win1 := spSetList 0 y.win1 (Q.winAddr x ix 1 o n) (toBytesLE n (Q.getW d.toNat).toNat) }) := hr.prog _

variable {win : QWin} (hw : 2 ≤ w.toNat) (hwin : Q.wins[w.toNat - 2]? = some win)
include hw hwin

/-- A load from a window of the program reads memory. -/
theorem RunsQueue.qLoad_memory {bs : List Byte} {s1 : State}
    (hread : engRead Q.port ((List.range n).map fun k => some ((win.base.toNat + Q.winAddr x ix w o n + k) % 2 ^ 64)) s = .ok bs s1) :
    qLoad n d x ix w o s = .next (s1.qAt Q (Q.pc + 1) fun y => y.putW d.toNat (BitVec.ofNat 64 (ofBytesLE bs))) := by
  obtain ⟨h0, h1⟩ := programWindow_ne hw
  refine (hr.prog _).trans ?_
  simp only [h0, h1, hwin, hread, Bool.false_eq_true, if_false]
  rfl

/-- A store to a window of the program writes memory. -/
theorem RunsQueue.qStoreWin_memory {wt : Nat} {s1 : State}
    (hwrite : engWrite Q.port 0 0 ((toBytesLE n (Q.getW d.toNat).toNat).zipIdx.map fun (b, k) =>
      ((win.base.toNat + Q.winAddr x ix w o n + k) % 2 ^ 64, b)) s = .ok wt s1) :
    qStoreWin n d x ix w o s = .next (s1.qAt Q (Q.pc + 1) id) := by
  obtain ⟨h0, h1⟩ := programWindow_ne hw
  refine (hr.prog _).trans ?_
  simp only [h0, h1, hwin, hwrite, Bool.false_eq_true, if_false]
  rfl

/-- A store that faults stalls its queue behind the record. -/
theorem RunsQueue.qStoreWin_fault {va : Nat} {wi : WalkInfo}
    (hwrite : engWrite Q.port 0 0 ((toBytesLE n (Q.getW d.toNat).toNat).zipIdx.map fun (b, k) =>
      ((win.base.toNat + Q.winAddr x ix w o n + k) % 2 ^ 64, b)) s = .fault va wi) :
    qStoreWin n d x ix w o s = .next (s.qFault Q 9 none va wi) := by
  obtain ⟨h0, h1⟩ := programWindow_ne hw
  refine (hr.prog _).trans ?_
  simp only [h0, h1, hwin, hwrite, Bool.false_eq_true, if_false]

end

/-- Settles O43: a load or store by its window. -/
theorem queueLoadsAndStoresComplete : Obligations.QueueLoadsAndStoresComplete := by
  intro s q Q d x ix w o hr
  refine ⟨fun p hp => ?load, fun p hp => ?store⟩
  case load =>
    intro n a done
    have hexec : exec p.1 s = qLoad n d x ix w o s := exec_of_mem_queueLoads s d x ix w o p hp
    rw [hexec]
    refine ⟨?_, ?_, fun win bs s1 hw hwin hread => hr.qLoad_memory n d x ix o hw hwin hread, ?_, ?_⟩
    · rintro rfl
      exact hr.qLoad_packet n d x ix o
    · rintro rfl
      exact hr.qLoad_own n d x ix o
    · rintro rfl
      rfl
    · rintro rfl hdvd hne
      exact ⟨Q.winAddr_indexed_mod x w o n, Queue.winAddr_indexed_le hdvd hne⟩
  case store =>
    intro n a bs
    have hexec : exec p.1 s = qStoreWin n d x ix w o s := exec_of_mem_queueStores s d x ix w o p hp
    rw [hexec]
    refine ⟨?_, fun win wt s1 hw hwin hwrite => hr.qStoreWin_memory n d x ix o hw hwin hwrite,
      fun win va wi hw hwin hwrite => hr.qStoreWin_fault n d x ix o hw hwin hwrite⟩
    rintro rfl
    exact hr.qStoreWin_own n d x ix o

/-! ### Branches (R398) -/

/-- Every hidden counter is zero when a packet starts. -/
theorem State.loops_of_startPacket {s : State} {q : Nat} {Q R : Queue} {bs : List Byte} (h : s.queue? q = some Q)
    (hR : (s.startPacket Q bs).queue? q = some R) : R.loops = [] := by
  unfold State.startPacket at hR
  rw [State.queue?_qStore, State.queue?_modQueue (fun _ => by rfl), h, Option.map_some, if_pos (beq_self_eq_true _)] at hR
  exact Option.some.inj hR ▸ rfl

/-- Settles O44: the four instructions, the fields of their words, and the counters of a packet that starts. -/
theorem queueBranchesComplete : Obligations.QueueBranchesComplete := by
  intro s q Q hr
  refine ⟨fun a i hi => ⟨qTarget Q.pc i, Int.toNat_of_nonneg hi, hr.prog _, ?bz, ?bnz, fun c => ?loop⟩, fun a c i w => ?words,
    fun bs R k hR => ?start⟩
  case bz => exact (hr.prog _).trans (by simp only [beq_iff_eq]; rfl)
  case bnz => exact (hr.prog _).trans (by simp only [beq_iff_eq]; rfl)
  case loop => exact hr.prog _
  case words =>
    refine ⟨?_, ?_, ?_, ?_⟩
    · exact fun h => Option.some.inj h ▸ qI_op 0x20 0 a i
    · exact fun h => Option.some.inj h ▸ qI_op 0x21 0 a i
    · exact fun h => Option.some.inj h ▸ qI_jmp i
    · exact fun h => Option.some.inj h ▸ ⟨qL_op 0x23 c i, qL_count 0x23 c i⟩
  case start => rw [State.loops_of_startPacket hr.2 hR, spGet_nil]

/-! ### Waits (R388, R399) -/

/-- A wait whose signals have been read ends as their values say, or its queue waits. -/
theorem State.evalWait_of_ok {s s1 : State} {Q : Queue} {w : QWait} {k : SigEval → State → State} {vs : List DWord}
    (hv : readSignals Q w.sigs s = .ok vs s1) :
    s.evalWait Q w k = waitEnd w.any vs (fun v => k (.abort v) (s1.endWait Q.n)) (k .satisfied (s1.endWait Q.n)) (s1.waitSignals Q w) := by
  have hsat : (vs.isEmpty || (if w.any then vs.any (· == 0) else vs.all (· == 0))) = true ↔
      vs = [] ∨ (w.any = false ∧ ∀ v ∈ vs, v = 0) ∨ (w.any = true ∧ 0 ∈ vs) := by cases w.any <;> simp
  simp only [State.evalWait, hv, evalSignals, waitEnd]
  cases vs.find? fun v => v.msb with
  | some v => rfl
  | none =>
    by_cases h : vs = [] ∨ (w.any = false ∧ ∀ v ∈ vs, v = 0) ∨ (w.any = true ∧ 0 ∈ vs)
    · simp only [if_pos h, if_pos (hsat.2 h)]
    · simp only [if_neg h, if_neg (mt hsat.1 h)]

/-- No signal breaks the alignment that a wait asks for. -/
theorem any_misaligned_eq_false {l : List DWord} (h : ∀ x ∈ l, x.toNat % 8 = 0) : (l.any fun a => a.toNat % 8 != 0) = false :=
  List.any_eq_false.2 fun x hx => by simpa using h x hx

/-! ### Actions (R399) -/

/-- Settles O45: each action by the checks that it makes first. -/
theorem queueActionsComplete : Obligations.QueueActionsComplete := by
  intro s q Q hr go
  refine ⟨fun d a i s1 hs => ?lnch, fun d a b hbad => ?xfer, fun a b hal hcan => ⟨?siga, ?sigw⟩,
    fun d m vs s1 hal hread => ?waits, fun a l hl => ?canx, fun a hal => ?cfgd, fun a hal => ?fin, fun a c => ?qerr⟩
  case lnch => exact (hr.prog _).trans (by rw [hs]; rfl)
  case xfer => exact (hr.prog _).trans (by simp only [hbad]; rfl)
  case siga => exact (hr.prog _).trans (by simp only [hal, State.signalAt, hcan]; rfl)
  case sigw => exact (hr.prog _).trans (by simp only [hal, State.signalAt, hcan]; rfl)
  case waits =>
    intro out wait
    have hwait (any : Bool) : qWait any d m s = .next (waitEnd any vs out (out 0) (wait any)) :=
      (hr.prog _).trans (congrArg Host.Outcome.next
        ((if_neg (by rw [any_misaligned_eq_false hal]; decide)).trans (State.evalWait_of_ok hread)))
    exact ⟨hwait false, hwait true⟩
  case canx =>
    have hok : (l != 0 && decide (2 ^ 32 ≤ (Q.getW a.toNat).toNat)) = false := by
      obtain rfl | hlt := hl
      · rfl
      · rw [decide_eq_false (Nat.not_le.2 hlt), Bool.and_false]
    exact (hr.prog _).trans (by simp only [hok]; rfl)
  case cfgd => exact (hr.prog _).trans (by simp only [hal]; rfl)
  case fin => exact (hr.prog _).trans (by simp only [hal]; rfl)
  case qerr => exact hr.n_eq ▸ hr.prog _

end Sys2Proof.Machine
end

section
/-! PROOFS. The packets of the standard program (R383, R386, R388): a header that breaks a rule and operands that do end the packet as
BADPKT; each packet has its effect where neither does. -/

namespace Sys2Proof.Machine

open Sys2Proof

/-! ### The frame of a packet (R383, R386) -/

/-- The packets that the standard program interprets. -/
def standardPackets (p : Packet) : List Instr :=
  [.launch p, .barrierAnd p, .barrierOr p, .signal p, .copy p, .configDelta p, .cancel p, .nopPacket p]

/-- Each standard packet runs in the frame of packets, and its word 6 has to be zero. -/
theorem exec_of_mem_standardPackets (p : Packet) (s : State) : ∀ i ∈ standardPackets p,
    ∃ std, exec i s = packetStep p s std ∧ (p.q30 ≠ 0 → ∀ Q, std Q = s.badPacket Q) := by
  simp only [standardPackets, List.forall_mem_cons]
  refine ⟨⟨_, rfl, ?_⟩, ⟨_, rfl, ?_⟩, ⟨_, rfl, ?_⟩, ⟨_, rfl, ?_⟩, ⟨_, rfl, ?_⟩, ⟨_, rfl, ?_⟩, ⟨_, rfl, ?_⟩, ⟨_, rfl, ?_⟩,
    List.forall_mem_nil _⟩
  all_goals
    intro h Q
    exact if_pos (by simp only [bne_iff_ne.2 h, Bool.or_true, Bool.true_or])

section
variable {s : State} {q : Nat} {Q : Queue} {p : Packet} (hr : RunsQueue s q Q)
include hr

/-- A packet whose header fits has its effect on the queue that executes. -/
theorem RunsQueue.packet (hp : PacketFits p Q) (std : Queue → State) : packetStep p s std = .next (std Q) := by
  obtain ⟨hprog, hrsv, hrels, hacqs, hlen, hsig⟩ := hp
  exact packetStep_runs hr.1 hr.2 hprog hrsv hrels hacqs hlen hsig

/-- Reserved header bits are BADPKT. -/
theorem RunsQueue.packet_of_rsv (h : p.rsv ≠ 0) (std : Queue → State) : packetStep p s std = .next (s.queueError q 3 0 Q.pktIdx) := by
  simp only [packetStep, hr.1, hr.2, bne_iff_ne.2 h, Bool.true_or, if_true]

theorem RunsQueue.badPacket_eq : s.badPacket Q = s.queueError q 3 0 Q.pktIdx := by rw [State.badPacket, hr.n_eq]

end

/-! ### Each packet (R386, R388) -/

section
variable {s : State} {q : Nat} {Q : Queue} {p : Packet} (hr : RunsQueue s q Q) (hp : PacketFits p Q)
include hr hp

theorem RunsQueue.exec_launch {s1 : State} (h20 : p.q20 = 0) (h28 : p.q28 = 0) (h30 : p.q30 = 0) (hin : p.q10.toNat < 8)
    (hs : s.startLaunch Q p.q08.toNat p.q10.toNat p.q18 = .started s1) : exec (.launch p) s = .next (s1.finPacket Q p.q38) := by
  refine (hr.packet hp _).trans (congrArg Host.Outcome.next ((if_neg ?_).trans ?_))
  · simp [h20, h28, h30, hin]
  · rw [hs]

/-- A barrier packet whose signals have been read ends, aborts or waits. -/
theorem RunsQueue.barrierStep {vs : List DWord} {s1 : State} (h30 : p.q30 = 0) (hal : ∀ a ∈ packetSignals p, a.toNat % 8 = 0)
    (hread : readSignals Q (packetSignals p) s = .ok vs s1) (any : Bool) :
    barrierStep any p s = .next (waitEnd any vs (fun v => (s1.endWait Q.n).queueError Q.n 1 v Q.pktIdx)
      ((s1.endWait Q.n).finPacket Q p.q38) (s1.waitSignals Q ⟨packetSignals p, any, 0⟩)) :=
  (hr.packet hp _).trans (congrArg Host.Outcome.next
    ((if_neg (by rw [h30, any_misaligned_eq_false hal]; decide)).trans (State.evalWait_of_ok hread)))

/-- A signal whose operands obey the rules is added to or stored. -/
theorem RunsQueue.exec_signal (h20 : p.q20 = 0) (h28 : p.q28 = 0) (h30 : p.q30 = 0) (hop : p.q10.toNat < 2) (hal : p.q08.toNat % 8 = 0)
    (hcan : canonical p.q08.toNat = true) : exec (.signal p) s = .next
      ((if p.q10 == 0 then s.qAdd Q (p.rels != 0) p.q08.toNat p.q18 Q.pktIdx
        else s.qStore Q (p.rels != 0) p.q08.toNat p.q18 Q.pktIdx).finPacket Q p.q38) := by
  refine (hr.packet hp _).trans (congrArg Host.Outcome.next ((if_neg ?_).trans (if_pos hcan)))
  simp [h20, h28, h30, hop, hal]

theorem RunsQueue.exec_copy (h20 : p.q20 = 0) (h28 : p.q28 = 0) (h30 : p.q30 = 0) (hok : copyBad p.q08 p.q10 p.q18 = false) :
    exec (.copy p) s = .next ((s.queueCopy Q p.q08 p.q10 p.q18).finPacket Q p.q38) :=
  (hr.packet hp _).trans (congrArg Host.Outcome.next (if_neg (by simp [h20, h28, h30, hok])))

theorem RunsQueue.exec_configDelta (h10 : p.q10 = 0) (h18 : p.q18 = 0) (h20 : p.q20 = 0) (h28 : p.q28 = 0) (h30 : p.q30 = 0)
    (hal : p.q08.toNat % 16 = 0) : exec (.configDelta p) s = .next (s.delta Q p.q08.toNat fun s1 => s1.finPacket Q p.q38) :=
  (hr.packet hp _).trans (congrArg Host.Outcome.next (if_neg (by simp [h10, h18, h20, h28, h30, hal])))

theorem RunsQueue.exec_cancel (h18 : p.q18 = 0) (h20 : p.q20 = 0) (h28 : p.q28 = 0) (h30 : p.q30 = 0) (hlvl : p.q08.toNat < 4)
    (hid : p.q08 = 0 ∨ p.q10.toNat < 2 ^ 32) :
    exec (.cancel p) s = .next ((s.queueCancel Q p.q08.toNat p.q10).finPacket Q p.q38) := by
  refine (hr.packet hp _).trans (congrArg Host.Outcome.next (if_neg ?_))
  obtain h08 | hlt := hid
  · simp [h18, h20, h28, h30, h08]
  · simpa [h18, h20, h28, h30, hlvl] using fun _ => hlt

theorem RunsQueue.exec_nopPacket (h08 : p.q08 = 0) (h10 : p.q10 = 0) (h18 : p.q18 = 0) (h20 : p.q20 = 0) (h28 : p.q28 = 0)
    (h30 : p.q30 = 0) : exec (.nopPacket p) s = .next (s.finPacket Q p.q38) :=
  (hr.packet hp _).trans (congrArg Host.Outcome.next (if_neg (by simp [h08, h10, h18, h20, h28, h30])))

end

/-- Settles O46: each packet by its own lemma, and the two ways to BADPKT by the frame. -/
theorem packetsComplete : Obligations.PacketsComplete := by
  intro s q Q p hr
  refine ⟨fun hp => ⟨fun s1 => hr.exec_launch hp, fun vs s1 h30 hal hread => ?barriers, fun h20 h28 h30 hal hcan => ⟨?add, ?store⟩,
    hr.exec_copy hp, hr.exec_configDelta hp, hr.exec_cancel hp, hr.exec_nopPacket hp, fun h30 i hi => ?operand⟩,
    fun hrsv i hi => ?header, fun ty => ?custom⟩
  case barriers =>
    exact ⟨hr.barrierStep hp h30 hal hread false, hr.barrierStep hp h30 hal hread true⟩
  case add | store =>
    intro h10
    rw [hr.exec_signal hp h20 h28 h30 (by rw [h10]; decide) hal hcan, h10]
    rfl
  case operand =>
    obtain ⟨std, hexec, hbad⟩ := exec_of_mem_standardPackets p s i hi
    rw [hexec, hr.packet hp, hbad h30, hr.badPacket_eq]
  case header =>
    obtain ⟨std, hexec, -⟩ := exec_of_mem_standardPackets p s i hi
    rw [hexec, hr.packet_of_rsv hrsv]
  case custom =>
    change execCustomPacket ty p s = _
    simp only [execCustomPacket, hr.1, hr.2]

end Sys2Proof.Machine
end

section
/-! PROOFS. What happens to queues from outside their programs (R377, R378, R381, R384, R388, R392, R404): one lemma for each event, by
the conditions that it tests. -/

namespace Sys2Proof.Machine

open Sys2Proof

variable {s : State} {q : Nat} {Q : Queue}

/-! ### Waits and failed checksums (R388, R392) -/

section
variable (hq : s.queue? q = some Q)
include hq

/-- A wait that is read again goes on as one that is read first: a barrier packet ends or aborts, a program goes on. -/
theorem exec_barrierReevaluate_of_ok {w : QWait} {vs : List DWord} {s1 : State} (hwait : Q.wait = some w) (hfault : Q.fault = none)
    (hdue : Q.evaluates s.clock = true) (hread : readSignals Q w.sigs (s.waitLater q) = .ok vs s1) :
    let s2 := (s1.endWait q).modQueue q fun (x : Queue) => { x with wake := x.die.isNone }
    let out := fun v : DWord => s2.modQueue q fun (x : Queue) =>
      { x.putW w.d v with wait := none, pc := x.pc + 1, steps := x.steps + 1 }
    exec (.barrierReevaluate q) s = .next
      (if Q.prog = 0 then waitEnd w.any vs (fun v => s2.queueError q 1 v Q.pktIdx)
        (s2.finPacket Q (BitVec.ofNat 64 (fieldAt Q.pkt 0x38 8))) (s1.waitSignals Q w)
       else waitEnd w.any vs out (out 0) (s1.waitSignals Q w)) := by
  intro s2 out
  change execBarrierReevaluate q s = _
  simp only [execBarrierReevaluate, hq, hwait, hfault, hdue, Option.isSome_none, Bool.not_true, Bool.or_self, Bool.false_eq_true,
    if_false, State.evalWait_of_ok hread, State.n_of_queue? hq]
  by_cases hprog : Q.prog = 0
  · simp only [hprog, beq_self_eq_true, if_true, State.settleBarrier, State.n_of_queue? hq]
    rfl
  · simp only [beq_eq_false_iff_ne.2 hprog, hprog, Bool.false_eq_true, if_false, State.settleWait, State.n_of_queue? hq]
    rfl

/-- A queue whose packet failed its check, and that an interpreter selects, looks for its next packet. -/
theorem exec_checksumRefetch_of_selected (hre : Q.refetch ≠ 0) (hheld : Q.held = false) (hbusy : Q.busy = false)
    (hsel : s.selects Q = true) {t : State}
    (hnext : (s.selectQueue Q).nextPacket Q = .stop t ∨ ∃ i, (s.selectQueue Q).nextPacket Q = .got i t) :
    exec (.checksumRefetch q) s = .next t := by
  have hfetch : s.fetchQueue q = (s.selectQueue Q).nextPacket Q := by
    simp only [State.fetchQueue, hq, hheld, hbusy, hsel, Bool.not_true, Bool.false_eq_true, if_false]
  change execChecksumRefetch q s = _
  simp only [execChecksumRefetch, hq, hheld, hbusy, beq_eq_false_iff_ne.2 hre, Bool.or_self, Bool.false_eq_true, if_false, hfetch]
  obtain h | ⟨i, h⟩ := hnext
  · rw [h]
  · rw [h]

end

/-- The state in which a packet has been read, with WIDX before it, and what it is then checked for (R379, R380, R392). -/
theorem State.nextPacket_of_read {s s1 s2 : State} {Q : Queue} {ws pkt : List Byte} (hw : s.qRead Q Q.notify.toNat 8 = .ok ws s1)
    (hlo : Q.ridx < fieldAt ws 0 8) (hhi : fieldAt ws 0 8 ≤ Q.ridx + 2 ^ Q.logn) (hroom : Q.started.length < 64)
    (hpkt : (s1.modQueue Q.n fun (x : Queue) => { x with widx := fieldAt ws 0 8 }).readPacket { Q with widx := fieldAt ws 0 8 } =
      .ok (pkt, s2)) :
    s.nextPacket Q = if bitsAt (fieldAt pkt 0 8) 13 1 = 1 ∧ checkPacket pkt Q.ridx = false then
      .stop (if 4 ≤ Q.refetch then s2.queueError Q.n 4 0 Q.ridx
        else s2.modQueue Q.n fun (x : Queue) => { x with refetch := x.refetch + 1, refetchAt := s2.clock + 1024 })
      else s2.gotPacket { Q with widx := fieldAt ws 0 8 } pkt := by
  simp only [State.nextPacket, hw, hpkt, Bool.and_eq_true, beq_iff_eq, Bool.not_eq_true']
  rw [if_neg (by omega), if_neg (by omega)]

/-! ### Completion, slots and wakes (R381, R384, R385) -/

section
variable (hq : s.queue? q = some Q)
include hq

/-- A packet that has ended completes once its actions have ended and its writes are performed. -/
theorem exec_packetCompletion_of_done {index : Nat} {p : Started} (hp : (Q.started.find? fun p => p.index == index && p.fin) = some p)
    (hacts : ∀ a ∈ p.acts, s.actDone a = true) (hwrites : s.packetWrites q index = false) :
    let s1 := s.modQueue q fun (x : Queue) => { x with started := x.started.filter fun y => y.index != index }
    exec (.packetCompletion q index) s = .next
      (if p.csig = 0 then s1 else s1.qAdd Q (p.rels != 0) p.csig.toNat (BitVec.allOnes 64) (doneTag index)) := by
  intro s1
  change execPacketCompletion q index s = _
  simp only [execPacketCompletion, hq, hp, List.all_eq_true.2 hacts, hwrites, Bool.not_true, Bool.or_self, Bool.false_eq_true, if_false,
    beq_iff_eq]
  rfl

/-- A wake of a queue without a slot: it asks for one unless WIDX is where it stands. -/
theorem exec_widxWake_of_arrived {pa : Nat} (hen : Q.enabled = true) (hdie : Q.die = none) (herr : Q.error = none)
    (hheld : s.wakeHeld Q = false) (hpa : s.walkPa Q.ctx Q.notify.toNat = some pa) :
    let s1 := s.modQueue q fun (x : Queue) => { x with wakePkt := none }
    exec (.widxWake q) s = .next (if s.physNat pa 8 = Q.ridx then s1 else s1.modQueue q fun (x : Queue) => { x with wake := true }) := by
  intro s1
  change execWidxWake q s = _
  simp only [execWidxWake, hq, hen, hdie, herr, hheld, hpa, Option.isSome_none, Bool.not_true, Bool.or_self, Bool.false_eq_true, if_false,
    beq_iff_eq]
  exact (apply_ite Host.Outcome.next ..).symm

/-- A queue that asks for a slot enters one of a die with room, its program checked first. -/
theorem exec_queueMap_of_room {die : Nat} (hen : Q.enabled = true) (hdie : Q.die = none) (herr : Q.error = none) (hfault : Q.fault = none)
    (hwake : Q.wake = true) (hd : die < 4) (hroom : s.slotsUsedOn die < 512) :
    exec (.queueMap q die) s = .next (if Q.prog = 0 then s.enterSlot Q die [] [] else s.mapProgram Q die) := by
  change execQueueMap q die s = _
  simp only [execQueueMap, hq, hen, hdie, herr, hfault, hwake, decide_eq_false (Nat.not_le.2 hd), decide_eq_false (Nat.not_le.2 hroom),
    Option.isSome_none, Bool.not_true, Bool.or_self, Bool.false_eq_true, if_false, beq_iff_eq]
  exact (apply_ite Host.Outcome.next ..).symm

/-- With no slot free, a dormant queue is to give up its own. -/
theorem exec_queueSlotReclaim_of_dormant {w die : Nat} {W : Queue} (hw : s.queue? w = some W) (hen : W.enabled = true)
    (hwdie : W.die = none) (hwake : W.wake = true) (hdie : Q.die = some die) (htaken : Q.taken = false)
    (hfull : 512 ≤ s.slotsUsedOn die) (hdorm : Q.dormant s.clock = true) :
    exec (.queueSlotReclaim w q) s = .next (s.modQueue q fun (x : Queue) => { x with taken := true }) := by
  have hany : ((s.queues.filter fun x => x.die == some die && !x.taken).any fun x => x.dormant s.clock) = true :=
    List.any_eq_true.2 ⟨Q, List.mem_filter.2 ⟨State.mem_of_queue? hq, by rw [hdie, htaken]; simp⟩, hdorm⟩
  change execQueueSlotReclaim w q s = _
  simp only [execQueueSlotReclaim, hw, hq, hdie, hany, hdorm, hen, hwdie, hwake, htaken, Option.getD_some, decide_eq_true hfull,
    Option.isNone_none, Option.isSome_some, Bool.not_false, Bool.and_self, if_true]

/-- A taken queue leaves its slot between packets or in a wait. -/
theorem exec_queueUnmap_of_taken (hstop : Q.stopping = false) (hdie : Q.die.isSome = true) (htaken : Q.taken = true)
    (hheld : Q.held = false) (hat : Q.busy = false ∨ Q.wait.isSome = true) :
    exec (.queueUnmap q) s = .next ((s.saveQueue Q).modQueue q fun (x : Queue) => { x with
      die := none, taken := false, readyFrom := none, passed := 0, wake := decide (x.ridx < x.widx), refetch := 0 }) := by
  have hend : (!Q.busy || Q.wait.isSome) = true := by simpa using hat
  change execQueueUnmap q s = _
  simp only [execQueueUnmap, hq, hstop, hdie, htaken, hheld, hend, Bool.false_and, Bool.not_false, Bool.and_self, Bool.false_eq_true,
    if_false, if_true]

end

/-! ### QCMD (R377, R378) -/

/-- No command is executing. -/
theorem State.qcmdBusy_of_none (h : s.regs.qcmd = none) (cmd n : Nat) : s.qcmdBusy cmd n = false := by simp [State.qcmdBusy, h]

/-- A command that reads WIDX goes on with it and is over. -/
theorem State.qcmdWidx_of_read {bs : List Byte} {s1 : State} (h : s.qRead Q Q.notify.toNat 8 = .ok bs s1) (cmd : Nat)
    (k : Nat → State → State) : s.qcmdWidx cmd Q k = (k (ofBytesLE bs) s1).setQcmd none := by simp only [State.qcmdWidx, h]

section
variable {n : BitVec 15} (hcmd : s.regs.qcmd = none)
include hcmd

section
variable (hq : s.queue? n.toNat = some Q)
include hq

/-- RESET of a queue that is not enabled clears its ERROR. -/
theorem exec_qcmdReset_of_disabled (hen : Q.enabled = false) :
    let s1 := (s.modQueue n.toNat fun (x : Queue) => { x with error := none }).setQcmd none
    exec (.qcmdReset n) s = .next (if Q.error ≠ none ∧ Q.notify.toNat % 4096 = 0 then
      s1.qStore Q false (Q.notify.toNat + 0x80) 0 noPacket else s1) := by
  intro s1
  change execQcmdReset n s = _
  simp only [execQcmdReset, State.qcmdBusy_of_none hcmd, hq, hen, Bool.not_false, Bool.false_eq_true, if_false, if_true, Bool.and_eq_true,
    Option.isSome_iff_ne_none, beq_iff_eq]
  rfl

/-- RESET of an enabled queue drops its unstarted packets at the WIDX that it reads. -/
theorem exec_qcmdReset_of_read {bs : List Byte} {s1 : State} (hen : Q.enabled = true) (hfault : Q.fault = none)
    (hread : s.qRead Q Q.notify.toNat 8 = .ok bs s1) :
    let w := ofBytesLE bs
    let s2 := (s1.modQueue n.toNat fun (x : Queue) => { x with
      error := none, ridx := w, widx := w, win1 := [], refetch := 0, wake := false }).clearWin1 Q
    exec (.qcmdReset n) s = .next (((s2.qStore Q true (Q.notify.toNat + 0x40) (BitVec.ofNat 64 w) noPacket).qStore Q false
      (Q.notify.toNat + 0x80) 0 noPacket).setQcmd none) := by
  intro w s2
  have hwaits : s.qcmdWaits n.toNat = false := by simp only [State.qcmdWaits, hq, hfault, Option.isSome_none]
  change execQcmdReset n s = _
  simp only [execQcmdReset, State.qcmdBusy_of_none hcmd, hq, hen, hwaits, Bool.not_true, Bool.false_eq_true, if_false,
    State.qcmdWidx_of_read hread]
  rfl

/-- DISABLE of a queue that a packet keeps busy stops its packet starts. -/
theorem exec_qcmdDisable_of_busy (hen : Q.enabled = true) (hbusy : Q.busy = true) :
    exec (.qcmdDisable n) s = .next (s.modQueue n.toNat fun (x : Queue) => { x with stopping := true }) := by
  change execQcmdDisable n s = _
  simp only [execQcmdDisable, hcmd, hq, hen, Queue.idle, hbusy, State.n_of_queue? hq, Option.isSome_none, Bool.not_true, Bool.and_false,
    Bool.false_and, Bool.false_eq_true, if_false]

/-- DISABLE of a queue with nothing started and no slot is over at once. -/
theorem exec_qcmdDisable_of_idle (hen : Q.enabled = true) (hbusy : Q.busy = false) (hstarted : Q.started = []) (hdie : Q.die = none) :
    exec (.qcmdDisable n) s = .next (s.finishDisable Q) := by
  change execQcmdDisable n s = _
  simp only [execQcmdDisable, hcmd, hq, hen, Queue.idle, hbusy, hstarted, hdie, Option.isSome_none, Option.isNone_none, List.isEmpty_nil,
    Bool.not_true, Bool.not_false, Bool.and_self, Bool.false_eq_true, if_false, if_true]

end

/-- ENABLE of a queue that is not there, with an image running. -/
theorem exec_qcmdEnable_of_none (hfw : s.regs.fwstat = 2) (hq : s.queue? n.toNat = none) :
    let d := s.physBytes (s.queueDesc n.toNat) 64
    let Q := queueOf n.toNat d
    exec (.qcmdEnable n) s = .next (if s.descOk d = false then ((s.setQueue Q).queueError n.toNat 0x0A 0 0).setQcmd none
      else (s.setQueue Q).qcmdWidx 1 Q fun w s2 =>
        let s3 := s2.zeroRange (s2.queueDesc n.toNat + 0x40) 0x1C0
        let R : Queue := { Q with enabled := true, ridx := w, widx := w, idleSince := s3.clock }
        ((s3.setQueue R).qStore R true (R.notify.toNat + 0x40) (BitVec.ofNat 64 w) noPacket).qStore R false (R.notify.toNat + 0x80) 0
          noPacket) := by
  intro d Q
  have hon : s.queueOn n.toNat = false := by simp only [State.queueOn, hq]
  have hwaits : s.qcmdWaits n.toNat = false := by simp only [State.qcmdWaits, hq]
  change execQcmdEnable n s = _
  simp only [execQcmdEnable, State.qcmdBusy_of_none hcmd, hfw, hon, hwaits, bne_self_eq_false, Bool.or_self, Bool.false_eq_true, if_false,
    Bool.not_eq_true']
  exact (apply_ite Host.Outcome.next ..).symm

end

/-! ### Deltas (R404) -/

/-- A delta that waits for no unit patches the configurations of its image. -/
theorem exec_deltaApply_of_drained {id : Nat} {d : Delta} (hd : s.deltas.find? (fun x => x.id == id) = some d)
    (hdrained : ∀ U ∈ s.units, d.waits U = false) :
    let s0 := s.emptyPorts d.rebases
    let s1 := { s0 with
      deltas := s.deltas.filter fun x => x.id != id
      units := s0.units.map fun (U : Machine.Unit) =>
        if d.patches U then { U with spat := U.spat.map fun (c : Spat) => c.patch d.entries } else U }
    exec (.deltaApply id) s = .next
      ((s1.modLaunch d.launch fun l => { l with
        patches := l.patches ++ d.entries.map fun e => ⟨d.stage, d.image, e⟩ }).setDrains d.launch) := by
  intro s0 s1
  have hany : s.units.any d.waits = false := List.any_eq_false.2 fun U hU => by rw [hdrained U hU]; decide
  change execDeltaApply id s = _
  simp only [execDeltaApply, hd, hany, Bool.false_eq_true, if_false]
  rfl

/-- A delta waits for no unit that is away, has no configuration, or neither is to exit nor has an operator to drain. -/
theorem Delta.waits_eq_false {d : Delta} {U : Machine.Unit} (h : U.st = .resident → ∀ c, U.spat = some c →
    (d.aims U c.image = true → c.step ≠ .exit) ∧ (d.patches U = true → c.frozen = true ∨ c.drained d.entries = true)) :
    d.waits U = false := by
  unfold Delta.waits
  by_cases hst : U.st = .resident
  · cases hc : U.spat with
    | none => simp
    | some c =>
      obtain ⟨hexit, hdrain⟩ := h hst c hc
      have hno : (d.aims U c.image && c.step == .exit) = false := by
        simpa using hexit
      have hdry : (d.patches U && !c.frozen && !c.drained d.entries) = false := by
        cases hp : d.patches U with
        | false => rfl
        | true =>
          obtain hf | hf := hdrain hp
          · simp [hf]
          · simp [hf]
      simp only [hno, hdry, Bool.or_self, Bool.and_false]
  · rw [beq_eq_false_iff_ne.2 hst, Bool.false_and]

/-! ### The two families -/

/-- Events of a queue that is there. -/
theorem queueEventsOfOneComplete : Sys2Proof.Statements.QueueEventsComplete := by
  intro s q Q hq
  refine ⟨fun w vs s1 => exec_barrierReevaluate_of_ok hq, fun ws pkt s1 s2 hre hheld hbusy hsel hws => ?refetch,
    fun index p => exec_packetCompletion_of_done hq, fun pa => exec_widxWake_of_arrived hq, fun die => exec_queueMap_of_room hq,
    fun w W die hw hen hwdie hwake => exec_queueSlotReclaim_of_dormant hq hw hen hwdie hwake, exec_queueUnmap_of_taken hq, ?reset, ?cmd⟩
  case refetch =>
    intro W hlo hhi hroom hpkt bad
    obtain rfl : Q.n = q := State.n_of_queue? hq
    have hnext := State.nextPacket_of_read hws hlo hhi hroom hpkt
    have hruns {t : State} := exec_checksumRefetch_of_selected hq hre hheld hbusy hsel (t := t)
    refine ⟨fun hbad hfifth => hruns (.inl ?_), fun hbad hagain => hruns (.inl ?_), fun hgood hodd => hruns (.inl ?_),
      fun hgood hstd => hruns (.inr ?_)⟩
    · rw [hnext, if_pos hbad, if_pos hfifth]
    · rw [hnext, if_pos hbad, if_neg (Nat.not_le.2 hagain)]
    · rw [hnext, if_neg hgood, State.gotPacket, hodd]
    · obtain ⟨i, hi⟩ := Option.isSome_iff_exists.1 hstd
      exact ⟨i, by rw [hnext, if_neg hgood, State.gotPacket, hi]⟩
  case reset =>
    rintro n rfl hcmd hen
    exact exec_qcmdReset_of_disabled hcmd hq hen
  case cmd =>
    rintro n rfl hcmd hen
    exact ⟨exec_qcmdDisable_of_busy hcmd hq hen, exec_qcmdDisable_of_idle hcmd hq hen,
      fun bs s1 hfault hread => exec_qcmdReset_of_read hcmd hq hen hfault hread⟩

/-- ENABLE by its descriptor, and a delta by what it waits for. -/
theorem queueEnableAndDeltaComplete : Sys2Proof.Statements.QueueEnableAndDeltaComplete := by
  refine ⟨fun s s2 n bs hcmd hfw hq => ?enable, fun s id d hd hdrained =>
    exec_deltaApply_of_drained hd fun U hU => Delta.waits_eq_false (hdrained U hU)⟩
  case enable =>
    intro d Q
    refine ⟨fun hbad => ?_, fun hok hread => ?_⟩
    · exact (exec_qcmdEnable_of_none hcmd hfw hq).trans (congrArg Host.Outcome.next (if_pos hbad))
    · refine (exec_qcmdEnable_of_none hcmd hfw hq).trans (congrArg Host.Outcome.next ((if_neg ?_).trans ?_))
      · rw [hok]; decide
      · exact State.qcmdWidx_of_read hread 1 _

/-- Settles O47, by its two families of events. -/
theorem queueEventsComplete : Obligations.QueueEventsComplete := ⟨queueEventsOfOneComplete, queueEnableAndDeltaComplete⟩

end Sys2Proof.Machine
end

section
/-! PROOFS. The registers of a group in and out of supervisor state (R415): what was written reads back, and what the supervisor set
covers, or is not named, stands. -/

namespace Sys2Proof.Machine

open Sys2Proof

/-! ### Entries that a write covers -/

section
variable {α : Type} [DecidableEq α] {d : α} {m : Sparse α}

/-- Writing an entry's own value over what covers it restores the array. -/
theorem spSet_spSet_restores (h : spOk d m = true) (k : Nat) (x : α) : spSet d (spSet d m k x) k (spGet d m k) = m := by
  have hx := spOk_spSet k x h
  refine spOk_ext (spOk_spSet k _ hx) h fun i => ?_
  rw [spGet_spSet k _ hx, spGet_spSet k x h]
  split
  case isTrue hi => rw [hi]
  case isFalse => rfl

/-- Of two writes to different entries the first still reads back. -/
theorem spGet_spSet_spSet_first (h : spOk d m = true) {j k : Nat} (hjk : j ≠ k) (x y : α) :
    spGet d (spSet d (spSet d m j x) k y) j = x := by
  rw [spGet_spSet_ne (spOk_spSet j x h) hjk, spGet_spSet_same h]

/-- Writing two entries' own values over what covers them restores the array. -/
theorem spSet_spSet_restores_two (h : spOk d m = true) (j k : Nat) (x y : α) :
    spSet d (spSet d (spSet d (spSet d m j x) k y) j (spGet d m j)) k (spGet d m k) = m := by
  have hx := spOk_spSet j x h
  have hy := spOk_spSet k y hx
  have hj := spOk_spSet j (spGet d m j) hy
  refine spOk_ext (spOk_spSet k _ hj) h fun i => ?_
  rw [spGet_spSet k _ hj, spGet_spSet j _ hy, spGet_spSet k y hx, spGet_spSet j x h]
  split
  case isTrue hk => rw [hk]
  case isFalse =>
    split
    case isTrue hj => rw [hj]
    case isFalse => rfl

end

/-! ### The supervisor set (R415) -/

variable {G : Group} {r : Regs}

/-- A group shows the registers that were put into it, in either state. -/
theorem Group.putRegs_regs (hr : r.ok) : (G.putRegs r).regs = { r with outs := [] } := by
  obtain ⟨-, hs, ha, hp, -⟩ := hr
  unfold Group.putRegs
  split
  case isTrue hsup =>
    simp only [Group.regs, hsup, if_true, spSet_spSet_restores hs, spSet_spSet_restores_two ha, spSet_spSet_restores_two hp]
  case isFalse hsup => exact if_neg hsup

/-- Registers in canonical form leave the group in canonical form. -/
theorem Group.putRegs_ok (hr : r.ok) : (G.putRegs r).ok := by
  unfold Group.putRegs
  split
  case isTrue =>
    obtain ⟨hv, hs, ha, hp, hst⟩ := hr
    exact ⟨hv, spOk_spSet _ _ hs, spOk_spSet _ _ (spOk_spSet _ _ ha), spOk_spSet _ _ (spOk_spSet _ _ hp), hst⟩
  case isFalse => exact hr

/-- In supervisor state a write leaves the group's own registers that the supervisor set covers. -/
theorem Group.putRegs_of_sup (hr : r.ok) (hsup : G.sup = true) :
    spGet 0 (G.putRegs r).s 0 = spGet 0 G.s 0 ∧
    spGet 0 (G.putRegs r).a 14 = spGet 0 G.a 14 ∧ spGet 0 (G.putRegs r).a 15 = spGet 0 G.a 15 ∧
    spGet 0 (G.putRegs r).p 13 = spGet 0 G.p 13 ∧ spGet 0 (G.putRegs r).p 14 = spGet 0 G.p 14 := by
  obtain ⟨-, hs, ha, hp, -⟩ := hr
  rw [Group.putRegs, if_pos hsup]
  exact ⟨spGet_spSet_same hs, spGet_spSet_spSet_first ha (by decide) _ _, spGet_spSet_same (spOk_spSet _ _ ha),
    spGet_spSet_spSet_first hp (by decide) _ _, spGet_spSet_same (spOk_spSet _ _ hp)⟩

/-- In supervisor state five names read the supervisor set. -/
theorem Group.regs_of_sup (hG : G.ok) (hsup : G.sup = true) :
    spGet 0 G.regs.s 0 = G.supset.s0 ∧ spGet 0 G.regs.a 14 = G.supset.a14 ∧ spGet 0 G.regs.a 15 = G.supset.a15 ∧
    spGet 0 G.regs.p 13 = G.supset.p13 ∧ spGet 0 G.regs.p 14 = G.supset.p14 := by
  obtain ⟨-, hs, ha, hp, -⟩ := hG
  rw [Group.regs, if_pos hsup]
  exact ⟨spGet_spSet_same hs, spGet_spSet_spSet_first ha (by decide) _ _, spGet_spSet_same (spOk_spSet _ _ ha),
    spGet_spSet_spSet_first hp (by decide) _ _, spGet_spSet_same (spOk_spSet _ _ hp)⟩

/-- Outside supervisor state the supervisor set keeps its values. -/
theorem Group.putRegs_supset_of_user (hsup : G.sup = false) : (G.putRegs r).supset = G.supset := by
  rw [Group.putRegs, if_neg (by rw [hsup]; decide)]

/-- Settles O13: what is written reads back, and in supervisor state the covered registers stand. -/
theorem supervisorRegisterSet : Obligations.SupervisorRegisterSet := by
  intro G r hG hr
  refine ⟨fun k => ?reads, Group.putRegs_ok hr, fun hsup => ?sup, Group.putRegs_supset_of_user⟩
  case reads => rw [Group.putRegs_regs hr]; exact ⟨rfl, rfl, rfl, rfl⟩
  case sup =>
    obtain ⟨hs, ha14, ha15, hp13, hp14⟩ := Group.putRegs_of_sup hr hsup
    exact ⟨hs, ha14, ha15, hp13, hp14, Group.regs_of_sup hG hsup⟩

end Sys2Proof.Machine
end

section
/-! PROOFS. Shootdowns (R405, R412, R456), REPLAY (R405, R422, R424) and the watchdog (R426): one lemma for each event, by the conditions
that it tests. -/

namespace Sys2Proof.Machine

open Sys2Proof

variable {s : State}

/-! ### Shootdowns and invalidations (R405, R412, R456) -/

/-- A shootdown that the host asks for starts unless TLBCMD is BUSY. -/
theorem State.tlbcmdStart_of_idle (h : s.regs.tlbcmd.getLsbD 63 = false) (ctx : Option Nat) (va : Nat) (len : Option Nat) :
    s.tlbcmdStart ctx va len =
      ({ s with regs := { s.regs with tlbcmd := 0x8000000000000000 } } : State).startShoot true 0 0 ctx va len :=
  if_neg (by rw [State.tlbBusy, h]; decide)

/-- A shootdown completes once no access that it covers is on its way and no page that it covers moves. -/
theorem exec_shootdownComplete_of_done {id : Nat} {d : Shootdown} (hd : (s.shoots.find? fun d => d.id == id) = some d)
    (hbusy : s.shootBusy d = false) (hmoves : s.shootMoves d = false) :
    let s1 := { s.shootEntries d with shoots := s.shoots.filter fun y => y.id != id }
    exec (.shootdownComplete id) s = .next
      (if d.host then ({ s1 with regs := { s1.regs with tlbcmd := 0 } } : State).raiseInt 6 else s1.finishMid d.unit d.grp) := by
  intro s1
  change execShootdownComplete id s = _
  simp only [execShootdownComplete, hd, hbusy, hmoves, Bool.or_self, Bool.false_eq_true, if_false]
  rfl

/-- A die drops the code that an ICINV covers; the last to do so ends the instruction. -/
theorem exec_icinvInvalidation_of_due {die id : Nat} {c : Icinv}
    (hc : (s.icinvs.find? fun c => c.id == id && c.dies.contains die) = some c) (hbehind : s.behindIcinv c die = false) :
    let s1 := (s.dropSlots c die).ackPkt (c.pkts.find? (·.dst == die))
    exec (.icinvInvalidation die id) s =
      if (c.acked die).dies.isEmpty then
        .next (({ s1 with icinvs := s1.icinvs.filter fun y => y.id != id } : State).finishMid c.unit c.grp)
      else .next { s1 with icinvs := s1.icinvs.map fun (y : Icinv) => if y.id == id then y.acked die else y } := by
  intro s1
  change execIcinvInvalidation die id s = _
  simp only [execIcinvInvalidation, hc, hbehind, Bool.false_eq_true, if_false]
  rfl

/-! ### REPLAY (R405, R422, R424) -/

section
variable {die : BitVec 2} {seq : BitVec 48}

/-- REPLAY_RETRY with CTXID zero retries a pending record. -/
theorem exec_replayRetry_of_pending {p : Posted} (hp : s.pendingRec die.toNat seq.toNat = some p) :
    exec (.replayRetry die 0 seq) s = .next (s.retryRec p) := by
  change execReplayRetry die 0 seq s = _
  simp only [execReplayRetry, hp, bne_self_eq_false, Bool.false_eq_true, if_false]

/-- REPLAY_FAIL with CTXID zero fails a pending record. -/
theorem exec_replayFail_of_pending {p : Posted} (hp : s.pendingRec die.toNat seq.toNat = some p) :
    exec (.replayFail die 0 seq) s = .next (s.failRec p) := by
  change execReplayFail die 0 seq s = _
  simp only [execReplayFail, hp, bne_self_eq_false, Bool.false_eq_true, if_false]

section
variable (hnone : s.pendingRec die.toNat seq.toNat = none) (ctx : BitVec 12)
include hnone

/-- REPLAY_RETRY of a record that is not pending does nothing, whatever CTXID holds. -/
theorem exec_replayRetry_of_none : exec (.replayRetry die ctx seq) s = .next s := by
  change execReplayRetry die ctx seq s = _
  simp only [execReplayRetry, hnone, ite_self]

/-- REPLAY_FAIL of a record that is not pending does nothing, whatever CTXID holds. -/
theorem exec_replayFail_of_none : exec (.replayFail die ctx seq) s = .next s := by
  change execReplayFail die ctx seq s = _
  simp only [execReplayFail, hnone, ite_self]

end

end

/-! ### The watchdog (R426) -/

/-- A duration that exceeds the limit a context has. -/
theorem State.wdOver_of_exceeds {ctx since : Nat} (hlim : s.wdLim ctx ≠ 0) (hover : since + s.wdLim ctx < s.clock) :
    s.wdOver ctx since = true := Bool.and_eq_true_iff.2 ⟨bne_iff_ne.2 hlim, decide_eq_true hover⟩

/-- The watchdog fails a record that has been pending for too long. -/
theorem exec_watchdogExpiry_record {die seq : Nat} {p : Posted} (hp : s.pendingRec die (seq % 2 ^ 48) = some p)
    (hover : s.wdOver p.frec.ctx p.since = true) : exec (.watchdogExpiry (.record die seq)) s = .next (s.watchRec p) := by
  change execWatchdogExpiry (.record die seq) s = _
  simp only [execWatchdogExpiry, hp, hover, if_true]

/-- The watchdog stops a group, other than one of a service unit, that has been in supervisor state for too long. -/
theorem exec_watchdogExpiry_group {u g : Nat} {U : Unit} {G : Group} (hg : s.group? u g = some (U, G)) (hsup : G.sup = true)
    (hsvc : U.svc = false) (hst : U.st = .resident ∨ U.st = .saved) (hend : G.st ≠ .ended) (hover : s.wdOver U.ctx G.supSince = true) :
    exec (.watchdogExpiry (.group u g)) s = .next (s.watchGroup u g U) := by
  change execWatchdogExpiry (.group u g) s = _
  have hheld : (U.st == .resident || U.st == .saved) = true := by simpa only [Bool.or_eq_true, beq_iff_eq] using hst
  simp only [execWatchdogExpiry, hg, hsup, hsvc, hheld, bne_iff_ne.2 hend, hover, Bool.not_false, Bool.and_self, if_true]

/-! ### The family -/

/-- Settles O50, event by event. -/
theorem faultAndShootdownEventsComplete : Obligations.FaultAndShootdownEventsComplete := by
  intro s
  refine ⟨fun ctx hidle => ?tlbcmd, fun id d hd hbusy hmoves => ?shootdown, fun die id c hc hbehind => ?icinv,
    fun die seq => ⟨fun p hp => ⟨exec_replayRetry_of_pending hp, exec_replayFail_of_pending hp⟩,
      fun ctx hnone => ⟨exec_replayRetry_of_none hnone ctx, exec_replayFail_of_none hnone ctx⟩⟩,
    fun die ctx => rfl,
    fun die seq p hp hlim hover => exec_watchdogExpiry_record hp (State.wdOver_of_exceeds hlim hover),
    fun u g U G hg hsup hsvc hst hend hlim hover =>
      exec_watchdogExpiry_group hg hsup hsvc hst hend (State.wdOver_of_exceeds hlim hover)⟩
  case tlbcmd =>
    have hstart := State.tlbcmdStart_of_idle hidle
    exact ⟨congrArg Host.Outcome.next (hstart _ _ _), congrArg Host.Outcome.next (hstart _ _ _),
      congrArg Host.Outcome.next (hstart _ _ _)⟩
  case shootdown =>
    have hdone := exec_shootdownComplete_of_done hd hbusy hmoves
    exact ⟨fun hhost => hdone.trans (congrArg Host.Outcome.next (if_pos hhost)),
      fun hhost => hdone.trans (congrArg Host.Outcome.next (if_neg (by rw [hhost]; decide)))⟩
  case icinv =>
    have hdrop := exec_icinvInvalidation_of_due hc hbehind
    exact ⟨fun hlast => hdrop.trans (if_pos (List.isEmpty_iff.2 hlast)),
      fun hmore => hdrop.trans (if_neg (mt List.isEmpty_iff.1 hmore))⟩

end Sys2Proof.Machine
end

section
/-! PROOFS. Reset (R436, R457, R473, R487), and the events of the fleet (R476 to R482, R487, R488): decay, migration, recompression,
self-test and the arithmetic clock, one lemma for each outcome of an event, by the conditions that it tests. -/

namespace Sys2Proof.Machine

open Sys2Proof

variable {s : State}

/-! ### Reset (R436, R457, R473, R487) -/

/-- Reset lists no memory and holds no line. -/
theorem State.kept_reset : State.reset.Kept := ⟨memWf_reset, List.nodup_nil, fun _ h => absurd h List.not_mem_nil⟩

/-- R436: logical time, each epoch and PT start at 0. -/
theorem State.times_reset :
    (∀ die, State.reset.epochOf die = 0 ∧ State.reset.ptOf die = 0) ∧ ∀ core, State.reset.tcOf core = 0 ∧ State.reset.rhOf core = 0 :=
  ⟨fun die => ⟨spGet_nil die, spGet_nil die⟩, fun core => ⟨spGet_nil core, spGet_nil core⟩⟩

/-- Settles O55: each field has its value by definition; the times and the form of memory are by their lemmas. -/
theorem resetValues : Obligations.ResetValues := by
  obtain ⟨hdies, hcores⟩ := State.times_reset
  exact ⟨rfl, rfl, rfl, rfl, rfl, rfl, rfl, rfl, rfl, rfl, rfl, rfl, rfl, rfl, rfl, rfl, rfl, rfl, rfl, rfl, rfl, hdies, hcores,
    State.kept_reset⟩

/-! ### Heat decay (R476) -/

/-- A decay whose period is over visits every counter, and the next one counts from that period's end. -/
theorem State.decay_of_due (hon : s.heatOn = true) (hdue : s.decayAt + s.decayPeriod ≤ s.clock) : s.decay =
    { s.tiers.foldl (fun t x => decayFrom x.heat (x.size / 65536) t) s with decayAt := s.decayAt + s.decayPeriod } :=
  if_pos (Bool.and_eq_true_iff.2 ⟨hon, decide_eq_true hdue⟩)

/-! ### Migration (R477 to R479, R488) -/

/-- A page that may move, on a die with room for a migration, is held with the frame that its ring supplies. -/
theorem exec_migrationStart_of_frame {tier frame x : Nat} {large : Bool} {t : Tier} {s1 : State}
    (ht : s.tiers.find? (fun t => t.idx == tier) = some t) :
    let pa := t.base + 65536 * frame
    let w := s.ownerOf t pa
    let die := s.migDie (bitsAt w 0 12) (ownerVa w)
    s.tiering = true → s.migratable t pa large = true → (s.migrations.filter fun m => m.die == die).length < 4 →
    takeRing (s.frameRing t large) 1 s = some ([x], s1) →
    exec (.migrationStart tier frame large) s = .next (({ s1 with migrations := s1.migrations ++
      [⟨s1.nextId, die, large, pa, x % paMod, bitsAt w 0 12, ownerVa w, s1.clock⟩] } : State).fresh) := by
  intro pa w die hpolicy hpage hroom hring
  change execMigrationStart tier frame large s = _
  have hgo : ¬ (!s.tiering || !s.migratable t pa large ||
      decide (4 ≤ (s.migrations.filter fun m => m.die == die).length)) = true := by
    rw [hpolicy, hpage, decide_eq_false (Nat.not_le.2 hroom)]; decide
  simp only [execMigrationStart, ht]
  rw [if_neg hgo, hring]

section
variable {id : Nat} {m : Migration} (hm : s.migrations.find? (fun m => m.id == id) = some m)
include hm

/-- A page that has been held for 2^16 cycles is let go. -/
theorem exec_migrationHoldTimeout_of_late (hlate : m.startedAt + 2 ^ 16 ≤ s.clock) :
    exec (.migrationHoldTimeout id) s = .next (s.migAbandon m) := by
  change execMigrationHoldTimeout id s = _
  simp only [execMigrationHoldTimeout, hm, if_pos hlate]

/-- A page that no longer meets the checks of step 3 stays where it is. -/
theorem exec_migrationFinish_of_not_holds (hintime : s.clock < m.startedAt + 2 ^ 16) (hno : s.migHolds m = false) :
    exec (.migrationFinish id) s = .next (s.migAbandon m) := by
  change execMigrationFinish id s = _
  simp only [execMigrationFinish, hm, if_neg (Nat.not_le.2 hintime), hno, Bool.not_false, if_true]

/-- A page that meets them moves, and the move is reported. -/
theorem exec_migrationFinish_of_holds {leaves : List Nat} {s1 : State} (hintime : s.clock < m.startedAt + 2 ^ 16)
    (hholds : s.migHolds m = true) (hfree : s.invalPending m.old = false)
    (hleaves : s.migLeaves m.ctx m.va m.old m.large = some leaves) (hmark : markMoved m s.lines s = (true, s1)) :
    let s2 := s1.migMove m leaves
    exec (.migrationFinish id) s = .next (({ s2 with
      migrations := s2.migrations.filter fun x => x.id != id
      moved := (m.new, migSize m.large, s2.clock) :: s2.moved.filter fun x => decide (s2.clock < x.2.2 + 2 ^ 24) } : State).event
        ⟨1, m.die, 0, BitVec.ofNat 64 m.old, BitVec.ofNat 64 m.new, some m.page⟩) := by
  intro s2
  change execMigrationFinish id s = _
  simp only [execMigrationFinish, hm, if_neg (Nat.not_le.2 hintime), hholds, hfree, hleaves, hmark, Bool.not_true, Bool.false_eq_true,
    if_false]
  rfl

end

/-! ### Recompression (R480, R481) -/

section
variable {tier page pa : Nat} {t : Tier} (ht : s.tiers.find? (fun t => t.idx == tier) = some t) (hpa : t.base + 4096 * page = pa)
  (hcomp : t.comp = true) (hpage : pa + 4096 ≤ t.base + t.size)
  (hreserved : bitsAt (s.physNat (t.mapAddr pa + 0x10) 1) 7 1 = 1) (hquiet : s.inFlight pa 4096 = false)

include hcomp hpage hreserved hquiet in
/-- The page lies in the compressed range, has a reservation and meets no access in flight. -/
theorem State.recompression_guard : ¬ (!t.comp || t.base + t.size < pa + 4096 ||
    bitsAt (s.physNat (t.mapAddr pa + 0x10) 1) 7 1 != 1 || s.inFlight pa 4096) = true := by
  rw [hcomp, hreserved, hquiet, decide_eq_false (Nat.not_lt.2 hpage)]; decide

include ht hpa hcomp hpage hreserved hquiet

/-- A dirty page has no clean cycles. -/
theorem exec_recompression_of_dirty (hdirty : s.dirtyIn pa 4096 = true) :
    exec (.recompression tier page) s = .next { s with dirtyAt := spSet 0 s.dirtyAt (pa / 4096) 0 } := by
  change execRecompression tier page s = _
  simp only [execRecompression, ht, hpa, if_neg (State.recompression_guard hcomp hpage hreserved hquiet), hdirty, if_true]

variable (hclean : s.dirtyIn pa 4096 = false)
include hclean

/-- The cycles of a clean page count from the step that finds it clean (log entry 72). -/
theorem exec_recompression_of_found_clean (hnew : spGet 0 s.dirtyAt (pa / 4096) = 0) :
    exec (.recompression tier page) s = .next { s with dirtyAt := spSet 0 s.dirtyAt (pa / 4096) (s.clock + 1) } := by
  change execRecompression tier page s = _
  simp only [execRecompression, ht, hpa, if_neg (State.recompression_guard hcomp hpage hreserved hquiet), hclean, hnew,
    Bool.false_eq_true, if_false, if_true]

variable (hseen : spGet 0 s.dirtyAt (pa / 4096) ≠ 0) (hlong : spGet 0 s.dirtyAt (pa / 4096) + 2 ^ 20 ≤ s.clock + 1)
include hseen hlong

/-- A page that has been clean for long enough, without uncorrectable data, is recompressed. -/
theorem exec_recompression_of_long_clean
    (hbad : (s.uncorr.find? fun x => decide (pa ≤ 32 * x ∧ 32 * x < pa + 4096)) = none) :
    exec (.recompression tier page) s = .next (s.recompress t pa) := by
  change execRecompression tier page s = _
  simp only [execRecompression, ht, hpa, if_neg (State.recompression_guard hcomp hpage hreserved hquiet), hclean, if_neg hseen,
    if_neg (Nat.not_lt.2 hlong), hbad, Bool.false_eq_true, if_false]

/-- Uncorrectable data in such a page is consumed, and the page stays as it is (R434, R481). -/
theorem exec_recompression_of_uncorrectable {x : Nat}
    (hbad : (s.uncorr.find? fun x => decide (pa ≤ 32 * x ∧ 32 * x < pa + 4096)) = some x) : exec (.recompression tier page) s =
      .next (({ s with dirtyAt := spSet 0 s.dirtyAt (pa / 4096) 0 } : State).detect 0 (32 * x)) := by
  change execRecompression tier page s = _
  simp only [execRecompression, ht, hpa, if_neg (State.recompression_guard hcomp hpage hreserved hquiet), hclean, if_neg hseen,
    if_neg (Nat.not_lt.2 hlong), hbad, Bool.false_eq_true, if_false]

end

/-! ### Self-test (R482) -/

/-- A block that owes a test has reported. -/
theorem State.reports_of_owed {b : Block} (h : s.owed.contains b = true) : s.reports b = s := if_pos h

/-- A block that may be tested has its outcome. -/
theorem exec_selfTest_of_testable {b : Block} (pass : Bool) (h : (s.reports b).testable b = true) :
    exec (.selfTest b pass) s = .next (({ s.reports b with owed := (s.reports b).owed.erase b } : State).outcome b pass) := if_pos h

/-- A core that may not be tested yet is cleared. -/
theorem exec_selfTest_of_busy_core {n : Nat} (pass : Bool) (h : (s.reports (.core n)).testable (.core n) = false) :
    exec (.selfTest (.core n) pass) s = .next ((s.reports (.core n)).clearCore n) := if_neg (by rw [h]; decide)

/-! ### Power (R487) -/

/-- A field of a number lies below its width. -/
theorem bitsAt_lt (x lo n : Nat) : bitsAt x lo n < 2 ^ n := Nat.mod_lt _ (Nat.two_pow_pos n)

/-- R487: one of the two average powers, over 10 ms and over 100 µs, is over its limit. -/
abbrev State.overLimit (s : State) (slow fast : Nat) : Prop := s.regs.pwrcap.toNat < slow ∨ 5 * s.regs.pwrcap.toNat < 4 * fast

/-- The clock after a step: up only within the limits, down only over one (R487). -/
def State.clockStep (s : State) (up hot : Bool) : Nat :=
  if up == hot then s.regs.pwrClock else if up then min 3300 (s.regs.pwrClock + 100) else max 1200 (s.regs.pwrClock - 100)

theorem State.clockStep_hot (s : State) (up : Bool) :
    s.clockStep up true = if up then s.regs.pwrClock else max 1200 (s.regs.pwrClock - 100) := by cases up <;> rfl

theorem State.clockStep_cool (s : State) (up : Bool) :
    s.clockStep up false = if up then min 3300 (s.regs.pwrClock + 100) else s.regs.pwrClock := by cases up <;> rfl

/-- Where an image runs, a step reads the two powers as one free value and moves the clock. -/
theorem exec_powerClockStep_of_running (up : Bool) (hrun : s.regs.fwstat = 2) :
    let slow := bitsAt s.freeVal.1.toNat 0 16
    let hot := decide (s.overLimit slow (bitsAt s.freeVal.1.toNat 16 16))
    exec (.powerClockStep up) s = .next { s.freeVal.2 with regs := { s.regs with
      power := BitVec.ofNat 16 slow, pwrClock := s.clockStep up hot, pwrFloor := s.clockStep up hot == 1200 && hot } } :=
  if_neg (by rw [hrun]; decide)

/-- R487: what PWRSTAT and the clock hold after a step, by the power it shows. -/
theorem exec_powerClockStep (up : Bool) (hrun : s.regs.fwstat = 2) :
    ∃ (t : State) (fast : Nat), exec (.powerClockStep up) s = .next t ∧
      (s.overLimit t.regs.power.toNat fast →
        t.regs.pwrClock = if up then s.regs.pwrClock else max 1200 (s.regs.pwrClock - 100)) ∧
      (¬ s.overLimit t.regs.power.toNat fast →
        t.regs.pwrClock = if up then min 3300 (s.regs.pwrClock + 100) else s.regs.pwrClock) ∧
      (t.regs.pwrFloor = true ↔ t.regs.pwrClock = 1200 ∧ s.overLimit t.regs.power.toNat fast) ∧
      t = { s with freeCtr := t.freeCtr, regs := { s.regs with
        power := t.regs.power, pwrClock := t.regs.pwrClock, pwrFloor := t.regs.pwrFloor } } := by
  have hpower : (BitVec.ofNat 16 (bitsAt s.freeVal.1.toNat 0 16)).toNat = bitsAt s.freeVal.1.toNat 0 16 :=
    Nat.mod_eq_of_lt (bitsAt_lt _ 0 16)
  refine ⟨_, bitsAt s.freeVal.1.toNat 16 16, exec_powerClockStep_of_running up hrun, fun hhot => ?hot, fun hcool => ?cool, ?floor, rfl⟩
  case hot =>
    dsimp only at hhot ⊢
    rw [hpower] at hhot
    rw [decide_eq_true hhot, State.clockStep_hot]
  case cool =>
    dsimp only at hcool ⊢
    rw [hpower] at hcool
    rw [decide_eq_false hcool, State.clockStep_cool]
  case floor =>
    dsimp only
    rw [hpower, Bool.and_eq_true, beq_iff_eq, decide_eq_true_eq]

/-! ### The family -/

/-- Settles O54, event by event. -/
theorem fleetEventsComplete : Obligations.FleetEventsComplete := by
  intro s
  refine ⟨fun hon hdue => congrArg Host.Outcome.next (State.decay_of_due hon hdue),
    fun tier frame x large t s1 ht => exec_migrationStart_of_frame ht,
    fun id m hm => ⟨exec_migrationHoldTimeout_of_late hm, exec_migrationFinish_of_not_holds hm,
      fun leaves s1 => exec_migrationFinish_of_holds hm⟩,
    fun tier page t ht hcomp => ?recompression,
    fun b pass => ⟨State.reports_of_owed, exec_selfTest_of_testable pass, fun n hb => ?busy⟩,
    fun up hrun => exec_powerClockStep up hrun⟩
  case recompression =>
    intro pa since hpage hreserved hquiet
    exact ⟨exec_recompression_of_dirty ht rfl hcomp hpage hreserved hquiet,
      exec_recompression_of_found_clean ht rfl hcomp hpage hreserved hquiet,
      fun hclean hseen hlong => ⟨exec_recompression_of_long_clean ht rfl hcomp hpage hreserved hquiet hclean hseen hlong,
        fun x => exec_recompression_of_uncorrectable ht rfl hcomp hpage hreserved hquiet hclean hseen hlong⟩⟩
  case busy =>
    subst hb
    exact exec_selfTest_of_busy_core pass

end Sys2Proof.Machine
end

section
/-! PROOFS. Fields of words (R16, R22, R28 to R30, R386): a field read from an assembled word is the field put there, and a word put
together from its own fields is the word. -/

namespace Sys2Proof

/-! ### Fields of an appended word -/

/-- A bit is a field of one bit. -/
theorem ofBool_getLsbD {w : Nat} (x : BitVec w) (i : Nat) : BitVec.ofBool (x.getLsbD i) = x.extractLsb' i 1 := by
  ext j hj
  obtain rfl : j = 0 := by omega
  simp

theorem getLsbD_append_low {v w i : Nat} {x : BitVec v} {y : BitVec w} (h : i < w) : (x ++ y).getLsbD i = y.getLsbD i := by
  rw [BitVec.getLsbD_append, if_pos h]

theorem getLsbD_append_high {v w i : Nat} {x : BitVec v} {y : BitVec w} (h : w ≤ i) :
    (x ++ y).getLsbD i = x.getLsbD (i - w) := by
  rw [BitVec.getLsbD_append, if_neg (by omega)]

/-! ### Header, operand fields and the word (R16, R22) -/

theorem Hd.ofBits_toBits (h : Hd) : Hd.ofBits h.toBits = h := by
  simp (disch := omega) only [Hd.ofBits, Hd.toBits, BitVec.extractLsb'_append_eq_of_add_le,
    BitVec.extractLsb'_append_eq_of_le, getLsbD_append_low, getLsbD_append_high]
  simp

theorem Hd.toBits_ofBits (x : BitVec 16) : (Hd.ofBits x).toBits = x := by
  simp only [Hd.toBits, Hd.ofBits, ofBool_getLsbD, BitVec.extractLsb'_append_extractLsb'_eq_extractLsb']
  exact BitVec.extractLsb'_eq_self

theorem Raw.ofSlot_toSlot (r : Raw) : Raw.ofSlot r.toSlot = r := by
  simp (disch := omega) only [Raw.ofSlot, Raw.toSlot, BitVec.extractLsb'_append_eq_of_add_le,
    BitVec.extractLsb'_append_eq_of_le]
  simp

theorem Raw.toSlot_ofSlot (w : Slot) : (Raw.ofSlot w).toSlot = w := by
  simp only [Raw.toSlot, Raw.ofSlot, BitVec.extractLsb'_append_extractLsb'_eq_extractLsb']
  exact BitVec.extractLsb'_eq_self

theorem Cls.ofCode_code (c : Cls) : Cls.ofCode c.code = some c := by cases c <;> rfl

theorem Cls.code_of_ofCode : ∀ x : BitVec 4, ∀ c ∈ Cls.ofCode x, c.code = x := by decide

theorem Opnd.ofField_toField (o : Opnd) : Opnd.ofField o.toField = some o := by
  simp (disch := omega) only [Opnd.ofField, Opnd.toField, BitVec.extractLsb'_append_eq_of_add_le,
    BitVec.extractLsb'_append_eq_of_le]
  simp [Cls.ofCode_code]

@[simp] theorem Opnd.get_toField (o : Opnd) : Opnd.get o.toField = o := by rw [Opnd.get, Opnd.ofField_toField, Option.getD_some]

/-- A field of a defined class is the field of its operand. -/
theorem Opnd.toField_get {x : BitVec 16} (h : (Opnd.ofField x).isSome) : (Opnd.get x).toField = x := by
  obtain ⟨c, hc⟩ : ∃ c, Cls.ofCode (x.extractLsb' 12 4) = some c := by
    simpa only [Opnd.ofField, Option.isSome_map, Option.isSome_iff_exists] using h
  rw [Opnd.get, Opnd.ofField, hc, Option.map_some, Option.getD_some, Opnd.toField, Cls.code_of_ofCode _ c hc]
  exact BitVec.extractLsb'_append_extractLsb'

theorem fieldsOk_nil : fieldsOk [] = true := rfl

theorem fieldsOk_cons {f : BitVec 16} {fs : List (BitVec 16)} :
    fieldsOk (f :: fs) = true ↔ (Opnd.ofField f).isSome ∧ fieldsOk fs = true := by rw [fieldsOk, Bool.and_eq_true]

@[simp] theorem fieldsOk_toField (o : Opnd) (fs : List (BitVec 16)) : fieldsOk (o.toField :: fs) = fieldsOk fs := by
  rw [fieldsOk, Opnd.ofField_toField, Option.isSome_some, Bool.true_and]

/-- The low word put together from its halves. -/
theorem bcWord_eq (op mod : BitVec 8) (h d a : BitVec 16) (w : Word) :
    (⟨op, mod, h, d, a, w.extractLsb' 16 16, w.extractLsb' 0 16⟩ : Raw).bcWord = w :=
  BitVec.extractLsb'_append_extractLsb'

/-- The halves of the low word. -/
theorem Raw.bcWord_halves (r : Raw) : r.bcWord.extractLsb' 16 16 = r.b ∧ r.bcWord.extractLsb' 0 16 = r.c :=
  ⟨BitVec.extractLsb'_append_eq_left, BitVec.extractLsb'_append_eq_right⟩

theorem Raw.allZ_iff (r : Raw) : r.allZ = true ↔ r.d = zf ∧ r.a = zf ∧ r.b = zf ∧ r.c = zf := by
  simp only [Raw.allZ, Bool.and_eq_true, beq_iff_eq, and_assoc]

/-! ### MOD (R28 to R30) -/

theorem IType.ofCode_code (t : IType) : IType.ofCode t.code = t := by cases t <;> rfl
theorem Fmt.ofCode_code (f : Fmt) : Fmt.ofCode f.code = f := by cases f <;> rfl
theorem Rnd.ofCode_code (r : Rnd) : Rnd.ofCode r.code = r := by cases r <;> rfl
theorem Fmt.code_ofCode : ∀ x : BitVec 4, (Fmt.ofCode x).code = x := by decide
theorem Rnd.code_ofCode : ∀ x : BitVec 2, (Rnd.ofCode x).code = x := by decide

theorem IntMod.ofBits_toBits (m : IntMod) (imm : Bool) : IntMod.ofBits (m.toBits imm) = m ∧ (m.toBits imm).getLsbD 7 = imm := by
  simp (disch := omega) only [IntMod.ofBits, IntMod.toBits, BitVec.extractLsb'_append_eq_of_add_le,
    BitVec.extractLsb'_append_eq_of_le, getLsbD_append_low, getLsbD_append_high]
  simp [IType.ofCode_code]

theorem IntMod.toBits_ofBits : ∀ b : BitVec 8, (IntMod.ofBits b).toBits (b.getLsbD 7) = b := by decide

theorem FpMod.ofBits_toBits (m : FpMod) (imm : Bool) : FpMod.ofBits (m.toBits imm) = m ∧ (m.toBits imm).getLsbD 7 = imm := by
  obtain ⟨ty, rnd, ftz, nega, negb⟩ := m
  cases ty <;> cases rnd <;> cases ftz <;> cases nega <;> cases negb <;> cases imm <;> exact ⟨rfl, rfl⟩

theorem FpMod.toBits_ofBits : ∀ b : BitVec 8, (FpMod.ofBits b).toBits (b.getLsbD 7) = b := by decide

theorem CvtMod.ofBits_toMod (m : CvtMod) : CvtMod.ofBits m.toMod 0 m.toLow = some m := by
  simp (disch := omega) only [CvtMod.ofBits, CvtMod.toMod, CvtMod.toLow, BitVec.extractLsb'_append_eq_of_add_le,
    BitVec.extractLsb'_append_eq_of_le, getLsbD_append_low, getLsbD_append_high]
  simp [Fmt.ofCode_code, Rnd.ofCode_code]

/-- A conversion's MOD and immediate word are those of its fields. -/
theorem CvtMod.of_ofBits {b : BitVec 8} {hi lo : BitVec 16} {m : CvtMod} (h : CvtMod.ofBits b hi lo = some m) :
    m.toMod = b ∧ hi = 0 ∧ m.toLow = lo := by
  rw [CvtMod.ofBits] at h
  split at h
  case isFalse => cases h
  case isTrue hz =>
    obtain ⟨hhi, hlo⟩ : hi = 0 ∧ lo.extractLsb' 7 9 = 0 := by simpa only [Bool.and_eq_true, beq_iff_eq] using hz
    obtain rfl := Option.some.inj h
    refine ⟨?_, hhi, ?_⟩
    · rw [CvtMod.toMod, Fmt.code_ofCode, Fmt.code_ofCode]
      exact BitVec.extractLsb'_append_extractLsb'
    · simp only [CvtMod.toLow, Rnd.code_ofCode, ← hlo, ofBool_getLsbD, BitVec.extractLsb'_append_extractLsb'_eq_extractLsb']
      exact BitVec.extractLsb'_eq_self

theorem MemMod.ofBits_toBits (m : MemMod) : MemMod.ofBits m.toBits = some m := by
  obtain ⟨size, scope, ord⟩ := m
  cases size <;> cases scope <;> cases ord <;> rfl

theorem MemMod.toBits_of_ofBits : ∀ b : BitVec 8, ∀ m ∈ MemMod.ofBits b, m.toBits = b := by decide

theorem RedMod.ofBits_toBits (m : RedMod) : RedMod.ofBits m.toBits = some m := by
  obtain ⟨red, ty, rnd⟩ := m
  cases red <;> cases ty <;> cases rnd <;> rfl

theorem RedMod.toBits_of_ofBits : ∀ b : BitVec 8, ∀ m ∈ RedMod.ofBits b, m.toBits = b := by decide

theorem WaitMod.ofBits_toBits (m : WaitMod) : WaitMod.ofBits m.toBits = some m := by
  obtain ⟨b64, cmp, sys, acq⟩ := m
  cases b64 <;> cases cmp <;> cases sys <;> cases acq <;> rfl

theorem WaitMod.toBits_of_ofBits : ∀ b : BitVec 8, ∀ m ∈ WaitMod.ofBits b, m.toBits = b := by decide

theorem SpxsMod.ofBits_toBits (m : SpxsMod) : SpxsMod.ofBits m.toBits = some m := by
  obtain ⟨s1, s0, e8⟩ := m
  cases s1 <;> cases s0 <;> cases e8 <;> rfl

theorem SpxsMod.toBits_of_ofBits : ∀ b : BitVec 8, ∀ m ∈ SpxsMod.ofBits b, m.toBits = b := by decide

theorem CopyMod.ofBits_toBits (m : CopyMod) : CopyMod.ofBits m.toBits = m := by
  simp (disch := omega) only [CopyMod.ofBits, CopyMod.toBits, BitVec.extractLsb'_append_eq_of_add_le,
    BitVec.extractLsb'_append_eq_of_le, getLsbD_append_low, getLsbD_append_high]
  simp

theorem CopyMod.toBits_ofBits : ∀ b : BitVec 8, (CopyMod.ofBits b).toBits = b := by decide

theorem bit0_getLsbD_zero : ∀ b : BitVec 8, b.extractLsb' 1 7 = 0 → bit0 (b.getLsbD 0) = b := by decide

end Sys2Proof
end

section
/-! PROOFS. The 96-bit word (R16 to R33). -/

namespace Sys2Proof

variable {r : Raw} {op mod : BitVec 8} {h : Hd}

/-! ### The fields of each shape of word -/

section
variable (op mod h) (x : Ops4)

theorem raw4_hd : Hd.ofBits (raw4 op mod h x).hd = h := Hd.ofBits_toBits h
theorem raw4_ops4 : (raw4 op mod h x).ops4 = x := by simp only [raw4, Raw.ops4, Opnd.get_toField]
theorem raw4_ok4 : (raw4 op mod h x).ok4 = true := by simp only [raw4, Raw.ok4, fieldsOk_toField, fieldsOk_nil]

end

/-- A word of four operands is that of its fields. -/
theorem raw4_of_fields (hop : r.op = op) (hmod : r.mod = mod) (hok : r.ok4 = true) : raw4 op mod (Hd.ofBits r.hd) r.ops4 = r := by
  simp only [Raw.ok4, fieldsOk_cons] at hok
  obtain ⟨hd, ha, hb, hc, -⟩ := hok
  simp only [raw4, Raw.ops4, Hd.toBits_ofBits, Opnd.toField_get hd, Opnd.toField_get ha, Opnd.toField_get hb,
    Opnd.toField_get hc, ← hop, ← hmod]

section
variable (op h) (m : IntMod) (x : Args)

theorem rawArgs_op : (rawArgs op mod h x).op = op := by unfold rawArgs; split <;> rfl
theorem rawArgs_mod : (rawArgs op mod h x).mod = mod := by unfold rawArgs; split <;> rfl
theorem rawArgs_hd : Hd.ofBits (rawArgs op mod h x).hd = h := by unfold rawArgs; split <;> exact Hd.ofBits_toBits h

theorem rawArgs_args : (rawArgs op mod h x).args x.bc.isImm = x := by
  obtain ⟨d, a, bc⟩ := x
  cases bc with
  | imm w => simp only [rawArgs, Raw.args, BC.isImm, Opnd.get_toField, if_true, bcWord_eq]
  | ops b c => simp only [rawArgs, Raw.args, BC.isImm, Opnd.get_toField, Bool.false_eq_true, if_false]

theorem rawArgs_okArgs : (rawArgs op mod h x).okArgs x.bc.isImm = true := by
  obtain ⟨d, a, bc⟩ := x
  cases bc <;> simp [rawArgs, Raw.okArgs, Raw.ok4, BC.isImm, fieldsOk_nil]

end

/-- A word with an immediate form is that of its fields. -/
theorem rawArgs_of_fields {imm : Bool} (hop : r.op = op) (hmod : r.mod = mod) (hok : r.okArgs imm = true) :
    rawArgs op mod (Hd.ofBits r.hd) (r.args imm) = r := by
  obtain ⟨hhi, hlo⟩ := r.bcWord_halves
  cases imm with
  | true =>
    obtain ⟨hd, ha, -⟩ : (Opnd.ofField r.d).isSome ∧ (Opnd.ofField r.a).isSome ∧ fieldsOk [] = true := by
      simpa only [Raw.okArgs, if_true, fieldsOk_cons] using hok
    simp only [rawArgs, Raw.args, if_true, Hd.toBits_ofBits, Opnd.toField_get hd, Opnd.toField_get ha, hhi, hlo, ← hop, ← hmod]
  | false => exact raw4_of_fields hop hmod hok

theorem isImm_args (r : Raw) (imm : Bool) : (r.args imm).bc.isImm = imm := by cases imm <;> rfl

theorem rawZ_of_fields (hop : r.op = op) (hmod : r.mod = mod) (hz : r.allZ = true) : rawZ op mod (Hd.ofBits r.hd) = r := by
  obtain ⟨hd, ha, hb, hc⟩ := r.allZ_iff.1 hz
  obtain ⟨op', mod', hd', d, a, b, c⟩ := r
  subst hop hmod hd ha hb hc
  rw [rawZ, Hd.toBits_ofBits]

theorem rawW_of_fields {d a : BitVec 16} (hop : r.op = op) (hmod : r.mod = mod) (hd : d = r.d) (ha : a = r.a) :
    rawW op mod (Hd.ofBits r.hd) d a r.bcWord = r := by
  obtain ⟨hhi, hlo⟩ := r.bcWord_halves
  rw [rawW, Hd.toBits_ofBits, hhi, hlo, ← hop, ← hmod, hd, ha]

theorem rawHint_of_fields (hop : r.op = op) : rawHint op (Hd.ofBits r.hd) r.hint = r := by
  simp (disch := omega) only [rawHint, Raw.hint, Hd.toBits_ofBits, BitVec.extractLsb'_append_eq_of_add_le,
    BitVec.extractLsb'_append_eq_of_le, ← hop]
  simp

theorem hint_rawHint (op : BitVec 8) (h : Hd) (x : HintRaw) : (rawHint op h x).hint = x := by
  obtain ⟨m, low⟩ := x
  refine congrArg (HintRaw.mk m) ?_
  simp only [rawHint, BitVec.extractLsb'_append_extractLsb'_eq_extractLsb']
  exact BitVec.extractLsb'_eq_self

/-! ### From a word to its instruction: no bit is dropped -/

theorem candInt_raw {c : Cand} (h : candInt r = some c) (hok : c.ok = true) : c.i.hintOk = true ∧ c.i.raw = some r := by
  have hr {op : BitVec 8} (hop : r.op.toNat = op.toNat) (hok : r.okArgs (r.mod.getLsbD 7) = true) :
    rawInt op (Hd.ofBits r.hd) (IntMod.ofBits r.mod) (r.args (r.mod.getLsbD 7)) = r := by
    refine rawArgs_of_fields (BitVec.eq_of_toNat_eq hop) ?_ hok
    rw [isImm_args, IntMod.toBits_ofBits]
  unfold candInt at h
  split at h <;> cases h
  all_goals exact ⟨rfl, congrArg some (hr (by assumption) hok)⟩

theorem candFp_raw {c : Cand} (h : candFp r = some c) (hok : c.ok = true) : c.i.hintOk = true ∧ c.i.raw = some r := by
  have hr {op : BitVec 8} (hop : r.op.toNat = op.toNat) (hok : r.okArgs (r.mod.getLsbD 7) = true) :
    rawFp op (Hd.ofBits r.hd) (FpMod.ofBits r.mod) (r.args (r.mod.getLsbD 7)) = r := by
    refine rawArgs_of_fields (BitVec.eq_of_toNat_eq hop) ?_ hok
    rw [isImm_args, FpMod.toBits_ofBits]
  unfold candFp at h
  split at h <;> cases h
  all_goals exact ⟨rfl, congrArg some (hr (by assumption) hok)⟩

theorem candCvt_raw {c : Cand} (h : candCvt r = some c) (hok : c.ok = true) : c.i.hintOk = true ∧ c.i.raw = some r := by
  obtain ⟨m, hm, h⟩ := Option.bind_eq_some_iff.1 h
  obtain ⟨hmod, hb, hc⟩ := CvtMod.of_ofBits hm
  have hr {op : BitVec 8} (hop : r.op.toNat = op.toNat) (hok : fieldsOk [r.d, r.a] = true) :
      rawCvt op (Hd.ofBits r.hd) m (.get r.d) (.get r.a) = r := by
    simp only [fieldsOk_cons] at hok
    obtain ⟨hd, ha, -⟩ := hok
    rw [rawCvt, hmod, hc, ← hb, Hd.toBits_ofBits, Opnd.toField_get hd, Opnd.toField_get ha, ← BitVec.eq_of_toNat_eq hop]
  split at h <;> cases h
  all_goals exact ⟨rfl, congrArg some (hr (by assumption) hok)⟩

/-- A MOD of one value. -/
theorem Cand.of_ite {p : Bool} {x c : Cand} (h : (if p then some x else none) = some c) : p = true ∧ x = c := by
  cases p
  · cases h
  · exact ⟨rfl, Option.some.inj h⟩

theorem itestMod_of_fields : ∀ b : BitVec 8, b.getLsbD 7 = false → ∀ t ∈ WType.ofCode (b.extractLsb' 4 3),
    ∀ c ∈ ICmp.ofCode (b.extractLsb' 0 3), b = (0 : BitVec 1) ++ t.code ++ BitVec.ofBool (b.getLsbD 3) ++ c.code := by decide

theorem ftestMod_of_fields : ∀ b : BitVec 8, (b.getLsbD 7 || b.getLsbD 6 != b.getLsbD 5) = false →
    ∀ c ∈ FCmp.ofCode (b.extractLsb' 0 4), b = (0 : BitVec 1) ++ BitVec.ofBool (b.getLsbD 6) ++ BitVec.ofBool (b.getLsbD 6) ++
      BitVec.ofBool (b.getLsbD 4) ++ c.code := by decide

theorem voteMod_of_fields : ∀ b : BitVec 8, b.extractLsb' 2 6 = 0 →
    b = (0 : BitVec 6) ++ (VoteMode.ofCode (b.extractLsb' 0 2)).code := by decide

theorem xlaneMod_of_fields : ∀ b : BitVec 8, b.extractLsb' 3 5 = 0 →
    b = (0 : BitVec 5) ++ BitVec.ofBool (b.getLsbD 2) ++ (XMode.ofCode (b.extractLsb' 0 2)).code := by decide

theorem fenceMod_of_fields : ∀ b : BitVec 8, ∀ k ∈ FenceKind.ofSizeOrd (b.extractLsb' 5 3) (b.extractLsb' 0 2),
    ∀ sc ∈ Scope.ofCode (b.extractLsb' 2 3), b = k.toMod sc := by decide

theorem cctlMod_of_fields : ∀ b : BitVec 8, b.extractLsb' 0 5 = 0 → ∀ c ∈ CctlOp.ofCode (b.extractLsb' 5 3),
    b = c.code ++ (0 : BitVec 5) := by decide

theorem gsetMod_of_fields : ∀ b : BitVec 8, b.extractLsb' 5 3 = 0 →
    b = (0 : BitVec 3) ++ BitVec.ofBool (b.getLsbD 4) ++ b.extractLsb' 0 4 := by decide

theorem tlbinvMod_of_fields : ∀ b : BitVec 8, b.extractLsb' 2 6 = 0 → ∀ f ∈ TlbForm.ofCode (b.extractLsb' 0 2),
    b = (0 : BitVec 6) ++ f.code := by decide

theorem svcrmwMod_of_fields : ∀ b : BitVec 8, b.extractLsb' 1 4 = 0 →
    (b.extractLsb' 5 3 == 2 || b.extractLsb' 5 3 == 3) = true →
    b = (1 : BitVec 2) ++ BitVec.ofBool (b.getLsbD 5) ++ (if b.getLsbD 0 then 1 else 0 : BitVec 5) := by decide

/-- The word of four operands, by its opcode's number. -/
theorem some_raw4 (hop : r.op.toNat = op.toNat) (hmod : r.mod = mod) (hok : r.ok4 = true) :
    some (raw4 op mod (Hd.ofBits r.hd) r.ops4) = some r :=
  congrArg some (raw4_of_fields (BitVec.eq_of_toNat_eq hop) hmod hok)

/-- The word without operands, by its opcode's number. -/
theorem some_rawZ (hop : r.op.toNat = op.toNat) (hmod : r.mod = mod) (hz : r.allZ = true) :
    some (rawZ op mod (Hd.ofBits r.hd)) = some r :=
  congrArg some (rawZ_of_fields (BitVec.eq_of_toNat_eq hop) hmod hz)

/-- The word with an immediate, by its opcode's number. -/
theorem some_rawW {d a : BitVec 16} (hop : r.op.toNat = op.toNat) (hmod : r.mod = mod) (hd : d = r.d) (ha : a = r.a) :
    some (rawW op mod (Hd.ofBits r.hd) d a r.bcWord) = some r :=
  congrArg some (rawW_of_fields (BitVec.eq_of_toNat_eq hop) hmod hd ha)

theorem candLane_raw {c : Cand} (h : candLane r = some c) (hok : c.ok = true) : c.i.hintOk = true ∧ c.i.raw = some r := by
  unfold candLane at h
  split at h
  case h_1 hop =>
    split at h
    case isTrue => cases h
    case isFalse h7 =>
      obtain ⟨t, ht, h⟩ := Option.bind_eq_some_iff.1 h
      obtain ⟨k, hk, rfl⟩ := Option.map_eq_some_iff.1 h
      exact ⟨rfl, some_raw4 hop (itestMod_of_fields _ (by simpa using h7) t ht k hk) hok⟩
  case h_2 hop =>
    split at h
    case isTrue => cases h
    case isFalse h7 =>
      obtain ⟨k, hk, rfl⟩ := Option.map_eq_some_iff.1 h
      exact ⟨rfl, some_raw4 hop (ftestMod_of_fields _ (by simpa using h7) k hk) hok⟩
  case h_3 hop => cases h; exact ⟨rfl, some_raw4 hop rfl hok⟩
  case h_4 hop =>
    split at h
    case isTrue hmod => cases h; exact ⟨rfl, some_raw4 hop (eq_of_beq hmod) hok⟩
    case isFalse =>
      obtain ⟨hmod, rfl⟩ := Cand.of_ite h
      exact ⟨rfl, some_raw4 hop (eq_of_beq hmod) hok⟩
  case h_5 hop =>
    obtain ⟨hmod, rfl⟩ := Cand.of_ite h
    exact ⟨rfl, some_raw4 hop (voteMod_of_fields _ (eq_of_beq hmod)) hok⟩
  case h_6 hop =>
    obtain ⟨hmod, rfl⟩ := Cand.of_ite h
    exact ⟨rfl, some_raw4 hop (bit0_getLsbD_zero _ (eq_of_beq hmod)).symm hok⟩
  case h_7 hop =>
    obtain ⟨hmod, rfl⟩ := Cand.of_ite h
    exact ⟨rfl, some_raw4 hop (xlaneMod_of_fields _ (eq_of_beq hmod)) hok⟩
  case h_8 hop | h_9 hop =>
    obtain ⟨m, hm, rfl⟩ := Option.map_eq_some_iff.1 h
    exact ⟨rfl, some_raw4 hop (RedMod.toBits_of_ofBits _ m hm).symm hok⟩
  case h_10 hop | h_11 hop =>
    obtain ⟨hmod, rfl⟩ := Cand.of_ite h
    exact ⟨rfl, some_raw4 hop (eq_of_beq hmod) hok⟩
  case h_12 => cases h

theorem candCtl_raw {c : Cand} (h : candCtl r = some c) (hok : c.ok = true) : c.i.hintOk = true ∧ c.i.raw = some r := by
  unfold candCtl at h
  split at h
  case h_1 hop =>
    obtain ⟨hmod, rfl⟩ := Cand.of_ite h
    exact ⟨rfl, some_rawW hop (eq_of_beq hmod) (eq_of_beq hok).symm rfl⟩
  case h_2 hop =>
    obtain ⟨hmod, rfl⟩ := Cand.of_ite h
    obtain ⟨hd, hfields⟩ := Bool.and_eq_true_iff.1 hok
    obtain ⟨ha, -⟩ := fieldsOk_cons.1 hfields
    exact ⟨rfl, some_rawW hop (eq_of_beq hmod) (eq_of_beq hd).symm (Opnd.toField_get ha)⟩
  case h_4 hop =>
    obtain ⟨hmod, rfl⟩ := Cand.of_ite h
    obtain ⟨hd, ha, -⟩ : (Opnd.ofField r.d).isSome ∧ (Opnd.ofField r.a).isSome ∧ fieldsOk [] = true := by
      simpa only [fieldsOk_cons] using hok
    exact ⟨rfl, some_rawW hop (bit0_getLsbD_zero _ (eq_of_beq hmod)).symm (Opnd.toField_get hd) (Opnd.toField_get ha)⟩
  case h_7 hop =>
    obtain ⟨hmod, rfl⟩ := Cand.of_ite h
    obtain ⟨ha, hfields⟩ := Bool.and_eq_true_iff.1 hok
    obtain ⟨hd, -⟩ := fieldsOk_cons.1 hfields
    exact ⟨rfl, some_rawW hop (eq_of_beq hmod) (Opnd.toField_get hd) (eq_of_beq ha).symm⟩
  case h_8 hop =>
    split at h
    case isTrue hmod => cases h; exact ⟨rfl, some_rawZ hop (eq_of_beq hmod) hok⟩
    case isFalse =>
      obtain ⟨hmod, rfl⟩ := Cand.of_ite h
      exact ⟨rfl, some_rawZ hop (eq_of_beq hmod) hok⟩
  case h_3 hop | h_6 hop | h_9 hop | h_10 hop | h_12 hop =>
    obtain ⟨hmod, rfl⟩ := Cand.of_ite h
    exact ⟨rfl, some_rawZ hop (eq_of_beq hmod) hok⟩
  case h_5 hop | h_11 hop =>
    obtain ⟨hmod, rfl⟩ := Cand.of_ite h
    exact ⟨rfl, some_raw4 hop (eq_of_beq hmod) hok⟩
  case h_13 => cases h

theorem candFence_raw {c : Cand} (hop : r.op.toNat = 0xA9) (h : candFence r (Hd.ofBits r.hd) = some c) (hok : c.ok = true) :
    c.i.hintOk = true ∧ c.i.raw = some r := by
  unfold candFence at h
  split at h
  case isTrue hmod => cases h; exact ⟨rfl, some_rawZ hop (eq_of_beq hmod) hok⟩
  case isFalse =>
    obtain ⟨k, hk, h⟩ := Option.bind_eq_some_iff.1 h
    obtain ⟨sc, hsc, rfl⟩ := Option.map_eq_some_iff.1 h
    exact ⟨rfl, some_rawZ hop (fenceMod_of_fields _ k hk sc hsc) hok⟩

theorem candMem_raw {c : Cand} (h : candMem r = some c) (hok : c.ok = true) : c.i.hintOk = true ∧ c.i.raw = some r := by
  unfold candMem at h
  split at h
  case h_10 hop => exact candFence_raw hop h hok
  case h_17 hop =>
    obtain ⟨m, hm, rfl⟩ := Option.map_eq_some_iff.1 h
    exact ⟨rfl, some_raw4 hop (WaitMod.toBits_of_ofBits _ m hm).symm hok⟩
  case h_18 hop =>
    split at h
    case isFalse => cases h
    case isTrue hlow =>
      obtain ⟨k, hk, rfl⟩ := Option.map_eq_some_iff.1 h
      exact ⟨rfl, some_raw4 hop (cctlMod_of_fields _ (eq_of_beq hlow) k hk) hok⟩
  case h_19 hop =>
    split at h
    case isTrue hmod => cases h; exact ⟨rfl, some_raw4 hop (eq_of_beq hmod) hok⟩
    case isFalse =>
      obtain ⟨hmod, rfl⟩ := Cand.of_ite h
      exact ⟨rfl, some_raw4 hop (eq_of_beq hmod) hok⟩
  case h_20 => cases h
  all_goals
    next hop =>
    obtain ⟨m, hm, rfl⟩ := Option.map_eq_some_iff.1 h
    exact ⟨rfl, some_raw4 hop (MemMod.toBits_of_ofBits _ m hm).symm hok⟩

theorem candAsync_raw {c : Cand} (h : candAsync r = some c) (hok : c.ok = true) : c.i.hintOk = true ∧ c.i.raw = some r := by
  unfold candAsync at h
  split at h
  case h_1 hop | h_2 hop | h_3 hop | h_4 hop | h_14 hop | h_15 hop | h_16 hop =>
    cases h
    exact ⟨rfl, some_raw4 hop (CopyMod.toBits_ofBits _).symm hok⟩
  case h_7 hop =>
    obtain ⟨hmod, rfl⟩ := Cand.of_ite h
    exact ⟨rfl, some_raw4 hop (bit0_getLsbD_zero _ (eq_of_beq hmod)).symm hok⟩
  case h_17 => cases h
  all_goals
    next hop =>
    obtain ⟨hmod, rfl⟩ := Cand.of_ite h
    exact ⟨rfl, some_raw4 hop (eq_of_beq hmod) hok⟩

theorem candMatrix_raw {c : Cand} (h : candMatrix r = some c) (hok : c.ok = true) : c.i.hintOk = true ∧ c.i.raw = some r := by
  unfold candMatrix at h
  split at h
  case h_5 hop =>
    obtain ⟨hmod, rfl⟩ := Cand.of_ite h
    exact ⟨rfl, some_raw4 hop (gsetMod_of_fields _ (eq_of_beq hmod)) hok⟩
  case h_6 hop =>
    cases h
    exact ⟨rfl, some_raw4 hop (CopyMod.toBits_ofBits _).symm hok⟩
  case h_8 hop =>
    obtain ⟨m, hm, rfl⟩ := Option.map_eq_some_iff.1 h
    exact ⟨rfl, some_raw4 hop (SpxsMod.toBits_of_ofBits _ m hm).symm hok⟩
  case h_11 hop =>
    obtain ⟨hmod, rfl⟩ := Cand.of_ite h
    exact ⟨rfl, some_raw4 hop (bit0_getLsbD_zero _ (eq_of_beq hmod)).symm hok⟩
  case h_14 => cases h
  all_goals
    next hop =>
    obtain ⟨hmod, rfl⟩ := Cand.of_ite h
    exact ⟨rfl, some_raw4 hop (eq_of_beq hmod) hok⟩

theorem candSpatial_raw {c : Cand} (h : candSpatial r = some c) (hok : c.ok = true) : c.i.hintOk = true ∧ c.i.raw = some r := by
  have hint {op : BitVec 8} (hop : r.op.toNat = op.toNat) : some (rawHint op (Hd.ofBits r.hd) r.hint) = some r :=
    congrArg some (rawHint_of_fields (BitVec.eq_of_toNat_eq hop))
  unfold candSpatial at h
  split at h
  case h_3 hop =>
    obtain ⟨hmod, rfl⟩ := Cand.of_ite h
    exact ⟨rfl, some_raw4 hop (bit0_getLsbD_zero _ (eq_of_beq hmod)).symm hok⟩
  case h_10 hop =>
    cases h
    cases hf : hprefFields r.hint with
    | true => exact ⟨hf, hint hop⟩
    | false => exact ⟨congrArg not hf, hint hop⟩
  case h_11 hop =>
    cases h
    cases hf : hprioFields r.hint with
    | true => exact ⟨hf, hint hop⟩
    | false => exact ⟨congrArg not hf, hint hop⟩
  case h_12 hop | h_13 hop => cases h; exact ⟨rfl, hint hop⟩
  case h_14 => cases h
  all_goals
    next hop =>
    obtain ⟨hmod, rfl⟩ := Cand.of_ite h
    exact ⟨rfl, some_raw4 hop (eq_of_beq hmod) hok⟩

theorem candSys_raw {c : Cand} (h : candSys r = some c) (hok : c.ok = true) : c.i.hintOk = true ∧ c.i.raw = some r := by
  unfold candSys at h
  split at h
  case h_5 hop =>
    split at h
    case isTrue hmod => cases h; exact ⟨rfl, some_raw4 hop (eq_of_beq hmod) hok⟩
    case isFalse =>
      obtain ⟨hmod, rfl⟩ := Cand.of_ite h
      exact ⟨rfl, some_raw4 hop (eq_of_beq hmod) hok⟩
  case h_7 hop =>
    split at h
    case isFalse => cases h
    case isTrue hmod =>
      obtain ⟨f, hf, rfl⟩ := Option.map_eq_some_iff.1 h
      exact ⟨rfl, some_raw4 hop (tlbinvMod_of_fields _ (eq_of_beq hmod) f hf) hok⟩
  case h_8 hop =>
    obtain ⟨hmod, rfl⟩ := Cand.of_ite h
    exact ⟨rfl, some_raw4 hop (bit0_getLsbD_zero _ (eq_of_beq hmod)).symm hok⟩
  case h_12 hop =>
    split at h
    case isTrue => cases h
    case isFalse hz =>
      obtain ⟨hsize, rfl⟩ := Cand.of_ite h
      have hmod := svcrmwMod_of_fields r.mod (by simpa using hz) hsize
      cases hbit : r.mod.getLsbD 0 with
      | true => rw [hbit] at hmod; exact ⟨rfl, some_raw4 hop hmod hok⟩
      | false => rw [hbit] at hmod; exact ⟨rfl, some_raw4 hop hmod hok⟩
  case h_14 => cases h
  all_goals
    next hop =>
    obtain ⟨hmod, rfl⟩ := Cand.of_ite h
    exact ⟨rfl, some_raw4 hop (eq_of_beq hmod) hok⟩

/-- The candidate of a word has that word. -/
theorem cand_raw {c : Cand} (h : cand r = some c) (hok : c.ok = true) : c.i.hintOk = true ∧ c.i.raw = some r := by
  unfold cand at h
  dsimp only at h
  split at h
  · exact candInt_raw h hok
  split at h
  · exact candFp_raw h hok
  split at h
  · exact candCvt_raw h hok
  split at h
  · exact candLane_raw h hok
  split at h
  · exact candCtl_raw h hok
  split at h
  · exact candMem_raw h hok
  split at h
  · exact candAsync_raw h hok
  split at h
  · exact candMatrix_raw h hok
  split at h
  · exact candSpatial_raw h hok
  · exact candSys_raw h hok

/-- A word that decodes is the word of its instruction, which is well formed. -/
theorem encode96_of_decode96 {i : Instr} {w : Slot} (h : decode96 w = .ok i) : i.wf = true ∧ encode96 i = some w := by
  unfold decode96 at h
  dsimp only at h
  split at h
  case isFalse =>
    cases h
    exact ⟨rfl, congrArg some (Raw.toSlot_ofSlot w)⟩
  case isTrue =>
    split at h
    · cases h
    next c hc =>
    split at h
    · cases h
    next hmod =>
    split at h
    · cases h
    next hops =>
    cases h
    obtain ⟨hok, hopsOk⟩ : c.ok = true ∧ c.i.opsOk = true := by simpa using hops
    obtain ⟨hhint, hraw⟩ := cand_raw hc hok
    refine ⟨by simp only [Instr.wf, hopsOk, hhint, Bool.and_true]; simpa using hmod, ?_⟩
    rw [encode96, hraw, Option.map_some, Raw.toSlot_ofSlot]

end Sys2Proof
end

section
/-! PROOFS. The 96-bit word of an instruction decodes to it (R16 to R33): a row of the opcode map per shape of word. -/

namespace Sys2Proof

variable {op mod : BitVec 8} {h : Hd}

/-! ### From an instruction to its word and back -/

/-- An instruction of the integer family whose opcode names it. -/
theorem cand_rawInt {F : Hd → IntMod → Args → Instr} (hop : opAssigned op = true) (m : IntMod) (x : Args)
    (hF : ∀ mod hd d a b c, let r : Raw := ⟨op, mod, hd, d, a, b, c⟩
      cand r = some ⟨F (Hd.ofBits r.hd) (IntMod.ofBits r.mod) (r.args (r.mod.getLsbD 7)), r.okArgs (r.mod.getLsbD 7)⟩) :
    opAssigned (rawInt op h m x).op = true ∧ cand (rawInt op h m x) = some ⟨F h m x, true⟩ := by
  obtain ⟨hm, himm⟩ := m.ofBits_toBits x.bc.isImm
  have hr : ⟨op, (rawInt op h m x).mod, _, _, _, _, _⟩ = rawInt op h m x := congrArg (Raw.mk · _ _ _ _ _ _) (rawArgs_op ..).symm
  refine ⟨(congrArg opAssigned (rawArgs_op ..)).trans hop, ?_⟩
  rw [← hr, hF, hr, rawInt, rawArgs_mod, rawArgs_hd, hm, himm, rawArgs_args, rawArgs_okArgs]

/-- An instruction of the floating-point family whose opcode names it. -/
theorem cand_rawFp {F : Hd → FpMod → Args → Instr} (hop : opAssigned op = true) (m : FpMod) (x : Args)
    (hF : ∀ mod hd d a b c, let r : Raw := ⟨op, mod, hd, d, a, b, c⟩
      cand r = some ⟨F (Hd.ofBits r.hd) (FpMod.ofBits r.mod) (r.args (r.mod.getLsbD 7)), r.okArgs (r.mod.getLsbD 7)⟩) :
    opAssigned (rawFp op h m x).op = true ∧ cand (rawFp op h m x) = some ⟨F h m x, true⟩ := by
  obtain ⟨hm, himm⟩ := m.ofBits_toBits x.bc.isImm
  have hr : ⟨op, (rawFp op h m x).mod, _, _, _, _, _⟩ = rawFp op h m x := congrArg (Raw.mk · _ _ _ _ _ _) (rawArgs_op ..).symm
  refine ⟨(congrArg opAssigned (rawArgs_op ..)).trans hop, ?_⟩
  rw [← hr, hF, hr, rawFp, rawArgs_mod, rawArgs_hd, hm, himm, rawArgs_args, rawArgs_okArgs]

theorem cand_rawCvt {F : Hd → CvtMod → Opnd → Opnd → Instr} (hop : opAssigned op = true) (m : CvtMod) (d a : Opnd)
    (hF : ∀ mod hd d a b c, cand ⟨op, mod, hd, d, a, b, c⟩ = (CvtMod.ofBits mod b c).bind fun m =>
      some ⟨F (Hd.ofBits hd) m (.get d) (.get a), fieldsOk [d, a]⟩) :
    opAssigned (rawCvt op h m d a).op = true ∧ cand (rawCvt op h m d a) = some ⟨F h m d a, true⟩ := by
  refine ⟨hop, ?_⟩
  rw [rawCvt, hF, m.ofBits_toMod, Option.bind_some, Hd.ofBits_toBits, Opnd.get_toField, Opnd.get_toField, fieldsOk_toField,
    fieldsOk_toField, fieldsOk_nil]

theorem cand_raw4 {F : Hd → Ops4 → Instr} (hop : opAssigned op = true) (x : Ops4)
    (hF : ∀ hd d a b c, let r : Raw := ⟨op, mod, hd, d, a, b, c⟩; cand r = some ⟨F (Hd.ofBits r.hd) r.ops4, r.ok4⟩) :
    opAssigned (raw4 op mod h x).op = true ∧ cand (raw4 op mod h x) = some ⟨F h x, true⟩ := by
  refine ⟨hop, (hF ..).trans ?_⟩
  rw [← raw4, raw4_hd, raw4_ops4, raw4_ok4]

/-- An instruction of four operands whose MOD has fields: `G` is its row of the opcode map. -/
theorem cand_raw4_row (G : BitVec 8 → Hd → Ops4 → Bool → Option Cand) {i : Instr} (hop : opAssigned op = true) {x : Ops4}
    (hG : ∀ mod hd d a b c, let r : Raw := ⟨op, mod, hd, d, a, b, c⟩; cand r = G mod (Hd.ofBits r.hd) r.ops4 r.ok4)
    (hi : G mod h x true = some ⟨i, true⟩) :
    opAssigned (raw4 op mod h x).op = true ∧ cand (raw4 op mod h x) = some ⟨i, true⟩ := by
  refine ⟨hop, (hG ..).trans ?_⟩
  rw [← raw4, raw4_hd, raw4_ops4, raw4_ok4, hi]

/-- An instruction of four operands whose MOD `dec` decodes. -/
theorem cand_raw4_map {M : Type} {F : Hd → M → Ops4 → Instr} {m : M} {x : Ops4} (dec : BitVec 8 → Option M) (hm : dec mod = some m)
    (hop : opAssigned op = true) (hF : ∀ mod hd d a b c, let r : Raw := ⟨op, mod, hd, d, a, b, c⟩
      cand r = (dec mod).map fun m => ⟨F (Hd.ofBits r.hd) m r.ops4, r.ok4⟩) :
    opAssigned (raw4 op mod h x).op = true ∧ cand (raw4 op mod h x) = some ⟨F h m x, true⟩ :=
  cand_raw4_row (fun b h x ok => (dec b).map fun m => ⟨F h m x, ok⟩) hop hF (by rw [hm]; rfl)

theorem bit0_fields (b : Bool) : (bit0 b).extractLsb' 1 7 = 0 ∧ (bit0 b).getLsbD 0 = b := by cases b <;> exact ⟨rfl, rfl⟩

/-- An instruction of four operands whose MOD is one bit. -/
theorem cand_raw4_bit {F : Hd → Bool → Ops4 → Instr} {b : Bool} {x : Ops4} (hop : opAssigned op = true)
    (hF : ∀ mod hd d a b c, let r : Raw := ⟨op, mod, hd, d, a, b, c⟩
      cand r = if mod.extractLsb' 1 7 == 0 then some ⟨F (Hd.ofBits r.hd) (mod.getLsbD 0) r.ops4, r.ok4⟩ else none) :
    opAssigned (raw4 op (bit0 b) h x).op = true ∧ cand (raw4 op (bit0 b) h x) = some ⟨F h b x, true⟩ := by
  obtain ⟨hhigh, hlow⟩ := bit0_fields b
  exact cand_raw4_row (fun m h x ok => if m.extractLsb' 1 7 == 0 then some ⟨F h (m.getLsbD 0) x, ok⟩ else none) hop hF
    (by rw [hhigh, hlow]; rfl)

/-- A word without operands, by its row of the opcode map. -/
theorem cand_rawZ (G : BitVec 8 → Hd → Bool → Option Cand) {i : Instr} (hop : opAssigned op = true)
    (hG : ∀ mod hd d a b c, let r : Raw := ⟨op, mod, hd, d, a, b, c⟩; cand r = G mod (Hd.ofBits r.hd) r.allZ)
    (hi : G mod h true = some ⟨i, true⟩) : opAssigned (rawZ op mod h).op = true ∧ cand (rawZ op mod h) = some ⟨i, true⟩ := by
  refine ⟨hop, (hG ..).trans ?_⟩
  rw [Hd.ofBits_toBits]
  exact hi

/-- A word without operands or MOD. -/
theorem cand_rawZ_plain {F : Hd → Instr} (hop : opAssigned op = true)
    (hF : ∀ mod hd d a b c, let r : Raw := ⟨op, mod, hd, d, a, b, c⟩
      cand r = if mod == 0 then some ⟨F (Hd.ofBits r.hd), r.allZ⟩ else none) :
    opAssigned (rawZ op 0 h).op = true ∧ cand (rawZ op 0 h) = some ⟨F h, true⟩ :=
  cand_rawZ (fun m h ok => if m == 0 then some ⟨F h, ok⟩ else none) hop hF rfl

/-- A word with an immediate, by its row of the opcode map. -/
theorem cand_rawW (G : BitVec 8 → Hd → BitVec 16 → BitVec 16 → Word → Option Cand) {d a : BitVec 16} {w : Word} {i : Instr}
    (hop : opAssigned op = true)
    (hG : ∀ mod hd d a b c, let r : Raw := ⟨op, mod, hd, d, a, b, c⟩; cand r = G mod (Hd.ofBits r.hd) d a r.bcWord)
    (hi : G mod h d a w = some ⟨i, true⟩) :
    opAssigned (rawW op mod h d a w).op = true ∧ cand (rawW op mod h d a w) = some ⟨i, true⟩ := by
  refine ⟨hop, (hG ..).trans ?_⟩
  rw [Hd.ofBits_toBits, bcWord_eq, hi]

/-- A word of the hint region, by its row of the opcode map. -/
theorem cand_rawHint (G : Hd → HintRaw → Instr) {y : HintRaw} {i : Instr} (hop : opAssigned op = true)
    (hG : ∀ mod hd d a b c, let r : Raw := ⟨op, mod, hd, d, a, b, c⟩; cand r = some ⟨G (Hd.ofBits r.hd) r.hint, true⟩)
    (hi : G h y = i) : opAssigned (rawHint op h y).op = true ∧ cand (rawHint op h y) = some ⟨i, true⟩ := by
  refine ⟨hop, (hG ..).trans ?_⟩
  rw [← rawHint, hint_rawHint, rawHint, Hd.ofBits_toBits, hi]

theorem gsetMod_fields (cl : Bool) (n : BitVec 4) :
    let b : BitVec 8 := (0 : BitVec 3) ++ BitVec.ofBool cl ++ n
    (b.extractLsb' 5 3 == 0) = true ∧ b.getLsbD 4 = cl ∧ b.extractLsb' 0 4 = n := by
  simp (disch := omega) only [BitVec.extractLsb'_append_eq_of_add_le,
    BitVec.extractLsb'_append_eq_of_le, getLsbD_append_low, getLsbD_append_high]
  simp

/-- An instruction whose hint fields are its own is the candidate of its word. -/
theorem cand_of_raw {i : Instr} {r : Raw} (hi : i.hintOk = true) (hr : i.raw = some r) (hu : ∀ w, i ≠ .unassignedOpcode w) :
    opAssigned r.op = true ∧ cand r = some ⟨i, true⟩ := by
  cases i <;> cases hr
  case add | sub | mul | mulh | mad | madw | div | rem | abs | neg | min | max | and | or | xor | not | shl | shr | sar | rot | bfx
      | bfi | popc | clz | brev | blut | sel | mov | movi | bperm | addc | subb | aadd | amad | amov | aget | lea | dp4 | dp2 | sad =>
    exact cand_rawInt rfl _ _ fun _ _ _ _ _ _ => rfl
  case fadd | fsub | fmul | ffma | fmin | fmax | frcp | frsq | fsqrt | fdiv | fex2 | flg2 | fsin | fcos | ftanh | fsigm | fdot2
      | fdot4 =>
    exact cand_rawFp rfl _ _ fun _ _ _ _ _ _ => rfl
  case cvt | cvts | bfpk | bfpx | qscl => exact cand_rawCvt rfl _ _ _ fun _ _ _ _ _ _ => rfl
  case itest h t nc k x =>
    exact cand_raw4_row (fun m h x ok => if m.getLsbD 7 then none else (WType.ofCode (m.extractLsb' 4 3)).bind fun t =>
      (ICmp.ofCode (m.extractLsb' 0 3)).map fun k => ⟨.itest h t (m.getLsbD 3) k x, ok⟩) rfl (fun _ _ _ _ _ _ => rfl)
      (by cases t <;> cases nc <;> cases k <;> rfl)
  case ftest h w nc k x =>
    exact cand_raw4_row (fun m h x ok => if m.getLsbD 7 || m.getLsbD 6 != m.getLsbD 5 then none else
      (FCmp.ofCode (m.extractLsb' 0 4)).map fun k => ⟨.ftest h (m.getLsbD 6) (m.getLsbD 4) k x, ok⟩) rfl (fun _ _ _ _ _ _ => rfl)
      (by cases w <;> cases nc <;> cases k <;> rfl)
  case plut h l x => exact cand_raw4_row (fun m h x ok => some ⟨.plut h m x, ok⟩) rfl (fun _ _ _ _ _ _ => rfl) rfl
  case vote h m x =>
    exact cand_raw4_row (fun m h x ok => if m.extractLsb' 2 6 == 0 then some ⟨.vote h (.ofCode (m.extractLsb' 0 2)) x, ok⟩ else none)
      rfl (fun _ _ _ _ _ _ => rfl) (by cases m <;> rfl)
  case xlane h w m x =>
    exact cand_raw4_row (fun m h x ok => if m.extractLsb' 3 5 == 0 then
      some ⟨.xlane h (m.getLsbD 2) (.ofCode (m.extractLsb' 0 2)) x, ok⟩ else none)
      rfl (fun _ _ _ _ _ _ => rfl) (by cases w <;> cases m <;> rfl)
  case lreduce m _ | lscan m _ =>
    exact cand_raw4_map RedMod.ofBits m.ofBits_toBits rfl fun _ _ _ _ _ _ => rfl
  case ld m _ | st m _ | lds m _ | sts m _ | ldc m _ | ldx m _ | stx m _ | ldm m _ | stm m _ | atom m _ | red m _ | cas m _
      | atomx m _ | atoms m _ | cass m _ =>
    exact cand_raw4_map MemMod.ofBits m.ofBits_toBits rfl fun _ _ _ _ _ _ => rfl
  case cpy m _ | cpyt m _ | cpyg m _ | cpys m _ | tchalo m _ | tcinv m _ | tcwb m _ | slabld m _ =>
    exact cand_raw4_map (some ∘ CopyMod.ofBits) (congrArg some m.ofBits_toBits) rfl fun _ _ _ _ _ _ => rfl
  case waitc m _ => exact cand_raw4_map WaitMod.ofBits m.ofBits_toBits rfl fun _ _ _ _ _ _ => rfl
  case spxs m _ => exact cand_raw4_map SpxsMod.ofBits m.ofBits_toBits rfl fun _ _ _ _ _ _ => rfl
  case cctl k _ =>
    exact cand_raw4_row (fun m h x ok => if m.extractLsb' 0 5 == 0 then
      (CctlOp.ofCode (m.extractLsb' 5 3)).map fun k => ⟨.cctl h k x, ok⟩ else none) rfl (fun _ _ _ _ _ _ => rfl)
      (by cases k <;> rfl)
  case pref t _ =>
    exact cand_raw4_row (fun m h x ok => if m == 0 then some ⟨.pref h false x, ok⟩ else if m == 0x20 then some ⟨.pref h true x, ok⟩
      else none) rfl (fun _ _ _ _ _ _ => rfl) (by cases t <;> rfl)
  case matchLanes | barrive | shpset | strld | icinv => exact cand_raw4_bit rfl fun _ _ _ _ _ _ => rfl
  case gset cl n _ =>
    obtain ⟨hhigh, hcl, hn⟩ := gsetMod_fields cl n
    exact cand_raw4_row (fun m h x ok => if m.extractLsb' 5 3 == 0 then some ⟨.gset h (m.getLsbD 4) (m.extractLsb' 0 4) x, ok⟩
      else none) rfl (fun _ _ _ _ _ _ => rfl) (by rw [hcl, hn, if_pos hhigh])
  case tlbinv f _ =>
    exact cand_raw4_row (fun m h x ok => if m.extractLsb' 2 6 == 0 then
      (TlbForm.ofCode (m.extractLsb' 0 2)).map fun f => ⟨.tlbinv h f x, ok⟩ else none) rfl (fun _ _ _ _ _ _ => rfl)
      (by cases f <;> rfl)
  case svcrmwLock w _ | svcrmwUnlock w _ =>
    exact cand_raw4_row (fun m h x ok => if m.extractLsb' 1 4 != 0 then none else
      if m.extractLsb' 5 3 == 2 || m.extractLsb' 5 3 == 3 then
        some ⟨if m.getLsbD 0 then .svcrmwUnlock h (m.getLsbD 5) x else .svcrmwLock h (m.getLsbD 5) x, ok⟩ else none)
      rfl (fun _ _ _ _ _ _ => rfl) (by cases w <;> rfl)
  case bra j o =>
    exact cand_rawW (fun m h d a w => if m == 0 then some ⟨.bra h a w, d == zf⟩ else none) rfl (fun _ _ _ _ _ _ => rfl) rfl
  case brx a j =>
    exact cand_rawW (fun m h d a w => if m == 0 then some ⟨.brx h (.get a) w, d == zf && fieldsOk [a]⟩ else none) rfl
      (fun _ _ _ _ _ _ => rfl) (by rw [Opnd.get_toField, fieldsOk_toField]; rfl)
  case call ind d a o =>
    obtain ⟨hhigh, hind⟩ := bit0_fields ind
    exact cand_rawW (fun m h d a w => if m.extractLsb' 1 7 == 0 then some ⟨.call h (m.getLsbD 0) (.get d) (.get a) w, fieldsOk [d, a]⟩
      else none) rfl (fun _ _ _ _ _ _ => rfl)
      (by rw [hhigh, hind, Opnd.get_toField, Opnd.get_toField, fieldsOk_toField, fieldsOk_toField]; rfl)
  case loop d o =>
    exact cand_rawW (fun m h d a w => if m == 0 then some ⟨.loop h (.get d) w, a == zf && fieldsOk [d]⟩ else none) rfl
      (fun _ _ _ _ _ _ => rfl) (by rw [Opnd.get_toField, fieldsOk_toField]; rfl)
  case fence k sc =>
    exact cand_rawZ (fun m h ok => if m == 0x80 then some ⟨.fenceAsync h, ok⟩ else
      (FenceKind.ofSizeOrd (m.extractLsb' 5 3) (m.extractLsb' 0 2)).bind fun k =>
        (Scope.ofCode (m.extractLsb' 2 3)).map fun sc => ⟨.fence h k sc, ok⟩) rfl (fun _ _ _ _ _ _ => rfl)
      (by cases k <;> cases sc <;> rfl)
  case fenceAsync =>
    exact cand_rawZ (fun m h ok => if m == 0x80 then some ⟨.fenceAsync h, ok⟩ else
      (FenceKind.ofSizeOrd (m.extractLsb' 5 3) (m.extractLsb' 0 2)).bind fun k =>
        (Scope.ofCode (m.extractLsb' 2 3)).map fun sc => ⟨.fence h k sc, ok⟩) rfl (fun _ _ _ _ _ _ => rfl) rfl
  case barSync | barArrive =>
    exact cand_rawZ (fun m h ok => if m == 0 then some ⟨.barSync h, ok⟩ else if m == 1 then some ⟨.barArrive h, ok⟩ else none) rfl
      (fun _ _ _ _ _ _ => rfl) rfl
  case join | exit | yield | nop | gsync => exact cand_rawZ_plain rfl fun _ _ _ _ _ _ => rfl
  case hpref y =>
    exact cand_rawHint (fun h y => if hprefFields y then .hpref h y else .hintRegionNop h 0 y) rfl (fun _ _ _ _ _ _ => rfl)
      (if_pos hi)
  case hprio y =>
    exact cand_rawHint (fun h y => if hprioFields y then .hprio h y else .hintRegionNop h 1 y) rfl (fun _ _ _ _ _ _ => rfl)
      (if_pos hi)
  case hnote y => exact cand_rawHint .hnote rfl (fun _ _ _ _ _ _ => rfl) rfl
  case hintRegionNop op y =>
    have hcases : ∀ op : BitVec 2, op = 0 ∨ op = 1 ∨ op = 2 ∨ op = 3 := by decide
    obtain rfl | rfl | rfl | rfl := hcases op
    · exact cand_rawHint (op := 0xEC) (fun h y => if hprefFields y then .hpref h y else .hintRegionNop h 0 y) rfl
        (fun _ _ _ _ _ _ => rfl) (if_neg (by simpa [Instr.hintOk] using hi))
    · exact cand_rawHint (op := 0xED) (fun h y => if hprioFields y then .hprio h y else .hintRegionNop h 1 y) rfl
        (fun _ _ _ _ _ _ => rfl) (if_neg (by simpa [Instr.hintOk] using hi))
    · cases hi
    · exact cand_rawHint (op := 0xEF) (.hintRegionNop · 3 ·) rfl (fun _ _ _ _ _ _ => rfl) rfl
  case unassignedOpcode w => exact absurd rfl (hu w)
  all_goals exact cand_raw4 rfl _ fun _ _ _ _ _ => rfl

/-- Decoding the word of a well-formed instruction gives the instruction. -/
theorem decode96_of_encode96 {i : Instr} {w : Slot} (hwf : i.wf = true) (hw : encode96 i = some w)
    (hu : ∀ v, i = .unassignedOpcode v → opAssigned (Raw.ofSlot v).op = false) : decode96 w = .ok i := by
  obtain ⟨r, hr, rfl⟩ := Option.map_eq_some_iff.1 hw
  obtain ⟨hmod, hops, hhint⟩ : i.modOk = true ∧ i.opsOk = true ∧ i.hintOk = true := by
    simpa only [Instr.wf, Bool.and_eq_true, and_assoc] using hwf
  by_cases hv : ∃ v, i = .unassignedOpcode v
  · obtain ⟨v, rfl⟩ := hv
    cases hr
    rw [Raw.toSlot_ofSlot]
    exact if_neg (by rw [hu v rfl]; decide)
  · obtain ⟨ha, hc⟩ := cand_of_raw hhint hr fun v hi => hv ⟨v, hi⟩
    rw [decode96, Raw.ofSlot_toSlot]
    simp only [ha, hc, hmod, hops, if_true, Bool.not_true, Bool.false_eq_true, if_false, Bool.and_self]

end Sys2Proof
end

section
/-! PROOFS. Words of queue programs (R395 to R400). -/

namespace Sys2Proof

section Fields
variable (op : BitVec 6) (d a b : BitVec 4) (i : BitVec 18) (n : Bool) (k : BitVec 3) (o : BitVec 14) (c : BitVec 6)

theorem qI_fields :
    (qI op d a i).extractLsb' 26 6 = op ∧ (qI op d a i).extractLsb' 22 4 = d ∧ (qI op d a i).extractLsb' 18 4 = a ∧
    (qI op d a i).extractLsb' 0 18 = i := by
  simp (disch := omega) only [qI, BitVec.extractLsb'_append_eq_of_add_le, BitVec.extractLsb'_append_eq_of_le]
  simp

theorem qR_fields :
    (qR op d a b).extractLsb' 26 6 = op ∧ (qR op d a b).extractLsb' 22 4 = d ∧ (qR op d a b).extractLsb' 18 4 = a ∧
    (qR op d a b).extractLsb' 14 4 = b ∧ (qR op d a b).extractLsb' 0 14 = 0 := by
  simp (disch := omega) only [qR, BitVec.extractLsb'_append_eq_of_add_le, BitVec.extractLsb'_append_eq_of_le]
  simp

theorem qM_fields :
    (qM op d a n k o).extractLsb' 26 6 = op ∧ (qM op d a n k o).extractLsb' 22 4 = d ∧
    (qM op d a n k o).extractLsb' 18 4 = a ∧ (qM op d a n k o).getLsbD 17 = n ∧
    (qM op d a n k o).extractLsb' 14 3 = k ∧ (qM op d a n k o).extractLsb' 0 14 = o := by
  simp (disch := omega) only [qM, BitVec.extractLsb'_append_eq_of_add_le, BitVec.extractLsb'_append_eq_of_le,
    getLsbD_append_low, getLsbD_append_high]
  simp

theorem qL_fields :
    (qL op c i).extractLsb' 26 6 = op ∧ (qL op c i).extractLsb' 20 6 = c ∧ (qL op c i).extractLsb' 18 2 = 0 ∧
    (qL op c i).extractLsb' 0 18 = i := by
  simp (disch := omega) only [qL, BitVec.extractLsb'_append_eq_of_add_le, BitVec.extractLsb'_append_eq_of_le]
  simp

theorem qI_lnch_fields (x : BitVec 3) :
    (qI op d a ((0 : BitVec 15) ++ x)).extractLsb' 3 15 = 0 ∧ (qI op d a ((0 : BitVec 15) ++ x)).extractLsb' 0 3 = x := by
  simp (disch := omega) only [qI, BitVec.extractLsb'_append_eq_of_add_le, BitVec.extractLsb'_append_eq_of_le]
  simp

theorem qI_canx_fields (x : BitVec 2) :
    (qI op d a ((0 : BitVec 16) ++ x)).extractLsb' 2 16 = 0 ∧ (qI op d a ((0 : BitVec 16) ++ x)).extractLsb' 0 2 = x := by
  simp (disch := omega) only [qI, BitVec.extractLsb'_append_eq_of_add_le, BitVec.extractLsb'_append_eq_of_le]
  simp

theorem qI_qerr_fields (x : BitVec 8) :
    (qI op d a ((0 : BitVec 10) ++ x)).extractLsb' 8 10 = 0 ∧ (qI op d a ((0 : BitVec 10) ++ x)).extractLsb' 0 8 = x := by
  simp (disch := omega) only [qI, BitVec.extractLsb'_append_eq_of_add_le, BitVec.extractLsb'_append_eq_of_le]
  simp

/-- The parts of the immediate that `wall` and `wany` use. -/
theorem qI_mask_fields (m : BitVec 15) :
    (qI op d a ((0 : BitVec 2) ++ m ++ (0 : BitVec 1))).extractLsb' 16 2 = 0 ∧
    (qI op d a ((0 : BitVec 2) ++ m ++ (0 : BitVec 1))).extractLsb' 1 15 = m ∧
    (qI op d a ((0 : BitVec 2) ++ m ++ (0 : BitVec 1))).getLsbD 0 = false := by
  simp (disch := omega) only [qI, BitVec.extractLsb'_append_eq_of_add_le, BitVec.extractLsb'_append_eq_of_le,
    getLsbD_append_low]
  simp
end Fields

section Word
variable {w : Word} {k : Nat} {d a b : BitVec 4} {i : BitVec 18} {n : Bool} {x : BitVec 3} {o : BitVec 14} {c : BitVec 6}

/-- The opcode field of a word, from its value. -/
theorem qop_of_toNat (h : (w.extractLsb' 26 6).toNat = k) : w.extractLsb' 26 6 = BitVec.ofNat 6 k := by
  rw [← h, BitVec.ofNat_toNat, BitVec.setWidth_eq]

theorem qI_of_fields (hop : (w.extractLsb' 26 6).toNat = k) (hd : w.extractLsb' 22 4 = d) (ha : w.extractLsb' 18 4 = a)
    (hi : w.extractLsb' 0 18 = i) : qI (BitVec.ofNat 6 k) d a i = w := by
  simp only [qI, ← qop_of_toNat hop, ← hd, ← ha, ← hi, BitVec.extractLsb'_append_extractLsb'_eq_extractLsb']
  exact BitVec.extractLsb'_eq_self

theorem qR_of_fields (hop : (w.extractLsb' 26 6).toNat = k) (hd : w.extractLsb' 22 4 = d) (ha : w.extractLsb' 18 4 = a)
    (hb : w.extractLsb' 14 4 = b) (hz : (w.extractLsb' 0 14 == 0) = true) : qR (BitVec.ofNat 6 k) d a b = w := by
  simp only [qR, ← qop_of_toNat hop, ← hd, ← ha, ← hb, ← eq_of_beq hz, BitVec.extractLsb'_append_extractLsb'_eq_extractLsb']
  exact BitVec.extractLsb'_eq_self

theorem qM_of_fields (hop : (w.extractLsb' 26 6).toNat = k) :
    qM (BitVec.ofNat 6 k) (w.extractLsb' 22 4) (w.extractLsb' 18 4) (w.getLsbD 17) (w.extractLsb' 14 3)
      (w.extractLsb' 0 14) = w := by
  simp only [qM, ← qop_of_toNat hop, ofBool_getLsbD, BitVec.extractLsb'_append_extractLsb'_eq_extractLsb']
  exact BitVec.extractLsb'_eq_self

theorem qL_of_fields (hop : (w.extractLsb' 26 6).toNat = k) (hz : (w.extractLsb' 18 2 == 0) = true) :
    qL (BitVec.ofNat 6 k) (w.extractLsb' 20 6) (w.extractLsb' 0 18) = w := by
  simp only [qL, ← qop_of_toNat hop, ← eq_of_beq hz, BitVec.extractLsb'_append_extractLsb'_eq_extractLsb']
  exact BitVec.extractLsb'_eq_self

/-- A mask of `wall` and `wany` between two zero bits and one. -/
theorem qI_mask_of_fields (hhi : (w.extractLsb' 16 2 == 0) = true) (hlo : (!w.getLsbD 0) = true) :
    w.extractLsb' 0 18 = (0 : BitVec 2) ++ w.extractLsb' 1 15 ++ (0 : BitVec 1) := by
  have h0 : (0 : BitVec 1) = w.extractLsb' 0 1 := by
    rw [← ofBool_getLsbD, Bool.not_eq_true' _ |>.mp hlo]; rfl
  rw [h0, ← eq_of_beq hhi]
  simp only [BitVec.extractLsb'_append_extractLsb'_eq_extractLsb']

/-- An immediate whose upper part is zero. -/
theorem low_of_zeros {z m : Nat} (hz : (w.extractLsb' m z == 0) = true) :
    w.extractLsb' 0 (z + m) = (0 : BitVec z) ++ w.extractLsb' 0 m := by
  rw [← eq_of_beq hz, BitVec.extractLsb'_append_extractLsb'_eq_extractLsb' (by omega)]

end Word

/-- R395: the word of a queue-program instruction decodes to it. -/
theorem decodeQ_of_encodeQ {i : Instr} {w : Word} (hf : Machine.queueFieldsOk i = true) (he : encodeQ i = some w) :
    decodeQ w = some i := by
  cases i <;> cases he
  case movq | addq | andq | orq | shlq | shrq | bz | bnz | jmp | cfgd | fin =>
    simp only [decodeQ, qI_fields]; rfl
  case addr | subr | andr | orr | xorr | seqr | sltr | sltur | xfer | siga | sigw =>
    simp only [decodeQ, qR_fields]; rfl
  case ldb | ldh | ldw | ldd | stb | sth | stw | std =>
    simp only [decodeQ, qM_fields]; exact if_pos hf
  case qprogLoop => simp only [decodeQ, qL_fields]; rfl
  case wall | wany => simp only [decodeQ, qI_fields, qI_mask_fields]; rfl
  case lnch => simp only [decodeQ, qI_fields, qI_lnch_fields]; rfl
  case canx => simp only [decodeQ, qI_fields, qI_canx_fields]; rfl
  case qerr => simp only [decodeQ, qI_fields, qI_qerr_fields]; rfl

/-- R395 to R400: a word that decodes to a queue-program instruction is the word of that instruction. -/
theorem encodeQ_of_decodeQ {i : Instr} {w : Word} (h : decodeQ w = some i) : encodeQ i = some w := by
  simp only [decodeQ] at h
  split at h <;> simp only [Option.ite_none_right_eq_some, Option.some.injEq, Bool.and_eq_true, reduceCtorEq] at h
  case h_1 hop =>
    obtain ⟨ha, rfl⟩ := h
    exact congrArg some (qI_of_fields hop rfl (eq_of_beq ha) rfl)
  case h_2 hop | h_3 hop | h_4 hop | h_5 hop | h_6 hop =>
    subst h
    exact congrArg some (qI_of_fields hop rfl rfl rfl)
  case h_7 hop | h_8 hop | h_9 hop | h_10 hop | h_11 hop | h_12 hop | h_13 hop | h_14 hop | h_28 hop =>
    obtain ⟨hz, rfl⟩ := h
    exact congrArg some (qR_of_fields hop rfl rfl rfl hz)
  case h_15 hop | h_16 hop | h_17 hop | h_18 hop | h_19 hop | h_20 hop | h_21 hop | h_22 hop =>
    obtain ⟨-, rfl⟩ := h
    exact congrArg some (qM_of_fields hop)
  case h_23 hop | h_24 hop =>
    obtain ⟨hd, rfl⟩ := h
    exact congrArg some (qI_of_fields hop (eq_of_beq hd) rfl rfl)
  case h_25 hop =>
    obtain ⟨⟨hd, ha⟩, rfl⟩ := h
    exact congrArg some (qI_of_fields hop (eq_of_beq hd) (eq_of_beq ha) rfl)
  case h_26 hop =>
    obtain ⟨hz, rfl⟩ := h
    exact congrArg some (qL_of_fields hop hz)
  case h_27 hop =>
    obtain ⟨hz, rfl⟩ := h
    exact congrArg some (qI_of_fields hop rfl rfl (low_of_zeros hz))
  case h_29 hop | h_30 hop =>
    obtain ⟨⟨hd, hz⟩, rfl⟩ := h
    exact congrArg some (qR_of_fields hop (eq_of_beq hd) rfl rfl hz)
  case h_31 hop | h_32 hop =>
    obtain ⟨⟨⟨ha, hhi⟩, hlo⟩, rfl⟩ := h
    exact congrArg some (qI_of_fields hop rfl (eq_of_beq ha) (qI_mask_of_fields hhi hlo))
  case h_33 hop | h_36 hop =>
    obtain ⟨⟨hd, hz⟩, rfl⟩ := h
    exact congrArg some (qI_of_fields hop (eq_of_beq hd) rfl (low_of_zeros hz))
  case h_34 hop | h_35 hop =>
    obtain ⟨⟨hd, hi⟩, rfl⟩ := h
    exact congrArg some (qI_of_fields hop (eq_of_beq hd) rfl (eq_of_beq hi))

end Sys2Proof
end

section
/-! PROOFS. Packets (R383, R386), and the obligation on encodings. -/

namespace Sys2Proof

theorem Packet.ofBits_toBits (ty : BitVec 8) (p : Packet) : Packet.ofBits (p.toBits ty) = p := by
  simp (disch := omega) only [Packet.ofBits, Packet.toBits, BitVec.extractLsb'_append_eq_of_add_le,
    BitVec.extractLsb'_append_eq_of_le, getLsbD_append_low, getLsbD_append_high]
  simp

theorem Packet.type_toBits (ty : BitVec 8) (p : Packet) : (p.toBits ty).extractLsb' 0 8 = ty := by
  simp (disch := omega) only [Packet.toBits, BitVec.extractLsb'_append_eq_of_add_le]
  simp

theorem Packet.toBits_ofBits (w : BitVec 512) : (Packet.ofBits w).toBits (w.extractLsb' 0 8) = w := by
  simp only [Packet.toBits, Packet.ofBits, ofBool_getLsbD, BitVec.extractLsb'_append_extractLsb'_eq_extractLsb']
  exact BitVec.extractLsb'_eq_self

/-- The slot of a packet of a type given by its number. -/
theorem Packet.toBits_of_type {w : BitVec 512} {k : Nat} (h : (w.extractLsb' 0 8).toNat = k) :
    (Packet.ofBits w).toBits (BitVec.ofNat 8 k) = w := by
  rw [← h, BitVec.ofNat_toNat, BitVec.setWidth_eq, Packet.toBits_ofBits]

/-- R383: a type of the upper half decodes to a custom packet, as it is none of the assigned types. -/
theorem decodePacket_custom {ty : BitVec 8} (hty : 128 ≤ ty.toNat) (p : Packet) :
    decodePacket (p.toBits ty) = some (.customPacket ty p) := by
  simp only [decodePacket, Packet.type_toBits, Packet.ofBits_toBits]
  split
  case h_9 => exact if_pos hty
  all_goals omega

/-- R383, R386: the slot of a packet decodes to it. -/
theorem decodePacket_of_encodePacket {i : Instr} {w : BitVec 512}
    (hc : ∀ ty p, i = .customPacket ty p → 128 ≤ ty.toNat) (he : encodePacket i = some w) : decodePacket w = some i := by
  cases i <;> cases he
  case customPacket ty p => exact decodePacket_custom (hc ty p rfl) p
  all_goals
    simp only [decodePacket, Packet.type_toBits, Packet.ofBits_toBits]
    rfl

/-- R383, R386: a slot that decodes to a packet is that packet's slot. -/
theorem encodePacket_of_decodePacket {i : Instr} {w : BitVec 512} (h : decodePacket w = some i) : encodePacket i = some w := by
  simp only [decodePacket] at h
  split at h
  case h_9 =>
    obtain ⟨-, rfl⟩ := by simpa only [Option.ite_none_right_eq_some, Option.some.injEq] using h
    exact congrArg some (Packet.toBits_ofBits w)
  all_goals
    rename_i hty
    cases h
    exact congrArg some (Packet.toBits_of_type hty)

/-- Settles O57: each field of a word is read back where it was written, and the fields of a format make up the whole word. -/
theorem decodeAndEncodeAgree : Obligations.DecodeAndEncodeAgree :=
  ⟨fun _ _ hwf he hu => decode96_of_encode96 hwf he hu, fun _ _ => encode96_of_decode96,
    fun _ _ => decodeQ_of_encodeQ, fun _ _ => encodeQ_of_decodeQ, fun _ _ => decodePacket_of_encodePacket,
    fun _ _ => encodePacket_of_decodePacket⟩

end Sys2Proof
end

section
/-! PROOFS. Words written out (R16, R395), and the floating-point family in its group (R78 to R80). -/

namespace Sys2Proof

/-- Settles O58, word by word. -/
theorem wordsDecode : Obligations.WordsDecode := by
  refine ⟨?bra, ?rte, ?itest, ?pmap, ?addImm, ?ld, ?addPacked, ?undefinedField, ?undefinedMod, ?unusedField, ?addq, ?fin⟩
  all_goals rfl

end Sys2Proof

namespace Sys2Proof.Machine

open Sys2Proof

/-- The instructions of R78's scheme round the exact result of each element once. -/
theorem exec_of_mem_exactFloatTable {h : Hd} {m : FpMod} {x : Args} {p : Instr × (RMode → FVal → FVal → FVal → FVal)}
    (hp : p ∈ exactFloatTable h m x) (s : State) : exec p.1 s = aluStep (fpScheme h m x p.2) s := by
  simp only [exactFloatTable, List.mem_cons, List.not_mem_nil, or_false] at hp
  rcases hp with rfl | rfl | rfl | rfl | rfl | rfl | rfl | rfl <;> rfl

/-- The instructions of the table compute their function of the elements' patterns. -/
theorem exec_of_mem_floatPatternTable {h : Hd} {m : FpMod} {x : Args} {p : Instr × (FFmt → Nat → Nat → Nat → Nat)}
    (hp : p ∈ floatPatternTable h m x) (s : State) : exec p.1 s = aluStep (fpAlu h m x p.2) s := by
  simp only [floatPatternTable, List.mem_cons, List.not_mem_nil, or_false] at hp
  rcases hp with rfl | rfl | rfl | rfl | rfl | rfl | rfl | rfl <;> rfl

/-- Settles O7: each instruction of the two tables, and each dot product, is a register instruction of its own operands. -/
theorem floatingPointCompletes : Obligations.FloatingPointCompletes := by
  refine ⟨fun s u g U G h m x hr hc => ⟨fun p hp => ?_, fun p hp => ?_⟩, fun s u g U G h m x hr => ⟨fun hc => ?fdot2, fun hc => ?fdot4⟩⟩
  · rw [exec_of_mem_exactFloatTable hp]
    exact hr.aluStep_left rfl hc
  · rw [exec_of_mem_floatPatternTable hp]
    exact hr.aluStep_left rfl hc
  case fdot2 => exact hr.aluStep_left (x := fdot2Op h m x) rfl hc
  case fdot4 => exact hr.aluStep_left (x := fdot4Op h m x) rfl hc

/-! ### Register instructions in a group (R20, R63) -/

/-- A register instruction of a group is the step of its description, under its own header. -/
theorem exec_of_groupOp {i : Instr} {y : Alu} (hi : groupOp i = some y) :
    (∀ s, exec i s = aluStep y s) ∧ aluHd i = some y.h := by
  cases i <;> cases hi <;> exact ⟨fun _ => rfl, rfl⟩

theorem groupOp_isSome (i : Instr) : (groupOp i).isSome = (aluHd i).isSome := by
  cases i <;> rfl

/-- A trap of a whole group without a walk, at its own slot. -/
theorem groupTrap_pc (G : Group) (cause : Nat) : groupTrap G cause G.pc.toNat = ⟨cause, G.pc, G.mask, G.pc, none⟩ := by
  rw [groupTrap, BitVec.ofNat_toNat, BitVec.setWidth_eq]

section
variable {s : State} {u g : Nat} {U : Unit} {G : Group} {y : Alu}

/-- An operand that the unit lacks traps (R23). -/
theorem Runs.aluStep_of_unusable (hr : Runs s u g U G) (hp : y.pre (s.env U G) = none) (hu : U.usableAll (y.uses (s.env U G)) = false) :
    aluStep y s = .next (s.takeTrap u g ⟨2, G.pc, G.mask, G.pc, none⟩) := by
  simp [aluStep, hr.1, groupAlu, issueEnv, hr.2, hp, hu, State.trapGroup, groupTrap]

/-- An operand that waits for a load or an atomic in flight stalls the group (R19). -/
theorem Runs.aluStep_of_interlocked (hr : Runs s u g U G) (hp : y.pre (s.env U G) = none)
    (hu : U.usableAll (y.uses (s.env U G)) = true) (hi : s.interlocked u g (y.uses (s.env U G)) = true) :
    aluStep y s = .next (s.stall u g) := by
  simp [aluStep, hr.1, groupAlu, issueEnv, hr.2, hp, hu, hi]

end

/-- Settles O16: the frame of the register instructions, its three refusals in their order. -/
theorem badOperandsTrapAndInterlocksStall : Obligations.BadOperandsTrapAndInterlocksStall := by
  refine ⟨groupOp_isSome, fun s u g U G i y hr hy => ?_⟩
  obtain ⟨hexec, -⟩ := exec_of_groupOp hy
  dsimp only
  rw [hexec s]
  exact ⟨fun c => hr.aluStep_traps, hr.aluStep_of_unusable, hr.aluStep_of_interlocked⟩

end Sys2Proof.Machine
end

section
/-! PROOFS. What writes of operands keep (R23, R35): the canonical form of the register arrays, and with it the frame of the register
instructions (R20, R63). -/

namespace Sys2Proof.Machine

open Sys2Proof

/-! ### Writes keep the canonical form -/

section
variable {r : Regs}

theorem Regs.ok.set_vec {v : Sparse Word} (hr : r.ok) (hv : spOk 0 v = true) : ({ r with v := v } : Regs).ok := ⟨hv, hr.2⟩

theorem Regs.ok.set_scal {s : Sparse Word} (hr : r.ok) (hs : spOk 0 s = true) : ({ r with s := s } : Regs).ok := by
  obtain ⟨hv, -, hrest⟩ := hr
  exact ⟨hv, hs, hrest⟩

theorem Regs.ok.set_addr {a : Sparse DWord} (hr : r.ok) (ha : spOk 0 a = true) : ({ r with a := a } : Regs).ok := by
  obtain ⟨hv, hs, -, hrest⟩ := hr
  exact ⟨hv, hs, ha, hrest⟩

theorem Regs.ok.set_pred {p : Sparse Word} (hr : r.ok) (hp : spOk 0 p = true) : ({ r with p := p } : Regs).ok := by
  obtain ⟨hv, hs, ha, -, hst⟩ := hr
  exact ⟨hv, hs, ha, hp, hst⟩

theorem Regs.ok.set_stoch {g : Sparse Word} (hr : r.ok) (hg : spOk 0 g = true) : ({ r with stoch := g } : Regs).ok := by
  obtain ⟨hv, hs, ha, hp, -⟩ := hr
  exact ⟨hv, hs, ha, hp, hg⟩

theorem Regs.ok.spOk_v (hr : r.ok) : spOk 0 r.v = true := hr.1
theorem Regs.ok.spOk_s (hr : r.ok) : spOk 0 r.s = true := hr.2.1
theorem Regs.ok.spOk_a (hr : r.ok) : spOk 0 r.a = true := hr.2.2.1
theorem Regs.ok.spOk_p (hr : r.ok) : spOk 0 r.p = true := hr.2.2.2.1
theorem Regs.ok.spOk_stoch (hr : r.ok) : spOk 0 r.stoch = true := hr.2.2.2.2

theorem Regs.ok.putVec (hr : r.ok) (i l n x : Nat) : (r.putVec i l n x).ok := by
  induction n generalizing r i x with
  | zero => exact hr
  | succ n ih => exact ih (hr.set_vec (spOk_spSet _ _ hr.spOk_v)) _ _

theorem Regs.ok.putPred (hr : r.ok) (i l : Nat) (b : Bool) : (r.putPred i l b).ok := by
  unfold Regs.putPred
  split
  · exact hr
  · exact hr.set_pred (spOk_spSet _ _ hr.spOk_p)

theorem Regs.ok.putScal (hr : r.ok) (wide : Bool) (i x : Nat) : (r.putScal wide i x).ok := by
  have hlow := spOk_spSet i (BitVec.ofNat 32 x) hr.spOk_s
  cases wide with
  | false => exact hr.set_scal hlow
  | true => exact hr.set_scal (spOk_spSet _ _ hlow)

theorem Regs.ok.putAddr (hr : r.ok) (i x : Nat) : (r.putAddr i x).ok := hr.set_addr (spOk_spSet _ _ hr.spOk_a)

theorem Regs.ok.putLane (hr : r.ok) (o : Opnd) (l x : Nat) : (r.putLane o l x).ok := by
  unfold Regs.putLane
  cases o.cls
  case vec | pair | quad => exact hr.putVec _ _ _ _
  case pred => exact hr.putPred _ _ _
  all_goals exact hr

/-- Changes in turn that each keep the canonical form keep it. -/
theorem Regs.foldl_ok {β : Type} {f : Regs → β → Regs} (hf : ∀ r x, r.ok → (f r x).ok) (hr : r.ok) (xs : List β) : (xs.foldl f r).ok := by
  induction xs generalizing r with
  | nil => exact hr
  | cons x xs ih => exact ih (hf r x hr)

theorem Regs.ok.write (hr : r.ok) (o : Opnd) (wide : Bool) (xs : List (Nat × Nat)) : (r.write o wide xs).ok := by
  cases xs with
  | nil => exact hr
  | cons y ys =>
    dsimp only [Regs.write]
    cases o.cls
    case scal => exact hr.putScal _ _ _
    case addr => exact hr.putAddr _ _
    case vec | pair | quad | pred => exact Regs.foldl_ok (fun _ _ hr => hr.putLane _ _ _) hr _
    all_goals exact hr

theorem lanewise_ok (hr : r.ok) (e : Env) (h : Hd) (d : Opnd) (wide : Bool) (f : Nat → Nat) : (lanewise e r h d wide f).ok :=
  hr.write _ _ _

theorem Regs.ok.putRand (hr : r.ok) (c : CvtRnd) (gs : List (Nat × Word)) : (r.putRand c gs).ok := by
  unfold Regs.putRand
  split
  · exact Regs.foldl_ok (fun _ _ hr => hr.set_stoch (spOk_spSet _ _ hr.spOk_stoch)) hr _
  · exact hr

theorem Regs.ok.unpackPreds (hr : r.ok) (l x n : Nat) : (unpackPreds r l x n).ok := by
  induction n with
  | zero => exact hr
  | succ n ih => exact ih.putPred _ _ _

end

/-- The registers of a group in canonical form are in canonical form, in either state (R415). -/
theorem Group.ok.regs {G : Group} (hG : G.ok) : G.regs.ok := by
  obtain ⟨hv, hs, ha, hp, hst⟩ := hG
  unfold Group.regs
  split
  · exact ⟨hv, spOk_spSet _ _ hs, spOk_spSet _ _ (spOk_spSet _ _ ha), spOk_spSet _ _ (spOk_spSet _ _ hp), hst⟩
  · exact ⟨hv, hs, ha, hp, hst⟩

/-! ### Register instructions -/

/-- What a register instruction leaves is in canonical form. -/
theorem groupOp_run_ok {i : Instr} {y : Alu} {e : Env} {r : Regs} (hi : groupOp i = some y) (hr : r.ok) : (y.run e r).ok := by
  cases i <;> cases hi
  case addc | subb => exact Regs.foldl_ok (fun _ _ hr => hr.putPred _ _ _) (lanewise_ok hr ..) _
  case pmovUnpack => exact Regs.foldl_ok (fun _ _ hr => hr.unpackPreds _ _ _) hr _
  case cvt | cvts | bfpk | bfpx | qscl => exact (hr.write _ _ _).putRand _ _
  all_goals exact lanewise_ok hr ..

theorem cvtPre_cause {m : CvtMod} {d a : Opnd} {e : Env} {c : Nat} (h : cvtPre m d a e = some c) : c = 1 ∨ c = 2 := by
  unfold cvtPre at h
  split at h
  · cases h
  split at h
  · cases h; exact .inr rfl
  split at h
  · cases h; exact .inl rfl
  split at h <;> cases h
  exact .inr rfl

/-- A check of a register instruction fails with ILLOP or ILLOPND (R20, R59). -/
theorem groupOp_pre_cause {i : Instr} {y : Alu} {e : Env} {c : Nat} (hi : groupOp i = some y) (hc : y.pre e = some c) :
    c = 1 ∨ c = 2 := by
  cases i <;> cases hi
  case cvt => exact cvtPre_cause hc
  case bfpk | bfpx =>
    obtain ⟨-, hcause⟩ := Option.ite_none_left_eq_some.1 hc
    exact .inr (Option.some.inj hcause).symm
  all_goals cases hc

/-- The three things that a register instruction does in its group. -/
theorem Runs.aluStep_cases {s : State} {u g : Nat} {U : Unit} {G : Group} (hr : Runs s u g U G) (y : Alu) :
    aluStep y s = .next (s.left u g y.h (y.run (s.env U G) G.regs)) ∨ aluStep y s = .next (s.stall u g) ∨
    ∃ c, (y.pre (s.env U G) = some c ∨ c = 2) ∧ aluStep y s = .next (s.takeTrap u g (groupTrap G c G.pc.toNat)) := by
  cases hp : y.pre (s.env U G) with
  | some c => exact .inr (.inr ⟨c, .inl rfl, by rw [hr.aluStep_traps hp, groupTrap_pc]⟩)
  | none =>
    cases hu : U.usableAll (y.uses (s.env U G)) with
    | false => exact .inr (.inr ⟨2, .inr rfl, by rw [hr.aluStep_of_unusable hp hu, groupTrap_pc]⟩)
    | true =>
      cases hi : s.interlocked u g (y.uses (s.env U G)) with
      | true => exact .inr (.inl (hr.aluStep_of_interlocked hp hu hi))
      | false => exact .inl (hr.aluStep_left hp ⟨hu, hi⟩)

/-- Settles O14: the three cases of the frame, and what each register instruction keeps. -/
theorem registerInstructionsHaveNoOtherEffect : Obligations.RegisterInstructionsHaveNoOtherEffect := by
  intro s t u g U G h i hr hi ht
  obtain ⟨y, hy⟩ : ∃ y, groupOp i = some y := Option.isSome_iff_exists.1 (by rw [groupOp_isSome, hi]; rfl)
  obtain ⟨hexec, hhd⟩ := exec_of_groupOp hy
  obtain rfl : y.h = h := Option.some.inj (hhd.symm.trans hi)
  rw [hexec] at ht
  rcases hr.aluStep_cases y with hleft | hstall | ⟨c, hc, htrap⟩
  · rw [hleft] at ht
    cases ht
    exact .inl ⟨_, rfl, fun hG => groupOp_run_ok hy hG.regs⟩
  · rw [hstall] at ht
    cases ht
    exact .inr (.inl rfl)
  · rw [htrap] at ht
    cases ht
    exact .inr (.inr ⟨c, hc.elim (groupOp_pre_cause hy) .inr, rfl⟩)

end Sys2Proof.Machine
end

section
/-! PROOFS. WriteOp (R23, R35): what each class of destination takes, and what it leaves. -/

namespace Sys2Proof.Machine

open Sys2Proof

/-! ### One lane -/

section
variable {r : Regs} {i l n x j : Nat}

/-- A vector write changes the vector registers alone. -/
theorem Regs.putVec_frame (r : Regs) (i l n x : Nat) : r.putVec i l n x = { r with v := (r.putVec i l n x).v } := by
  induction n generalizing r i x with
  | zero => rfl
  | succ n ih => rw [Regs.putVec, ih]

theorem Regs.putVec_get_ne (hr : r.ok) (hj : ∀ k, k < n → j ≠ 32 * (i + k) + l) :
    spGet 0 (r.putVec i l n x).v j = spGet 0 r.v j := by
  induction n generalizing r i x with
  | zero => rfl
  | succ n ih =>
    rw [Regs.putVec, ih (hr.set_vec (spOk_spSet _ _ hr.spOk_v)) fun k hk => by have := hj (k + 1) (by omega); omega]
    exact spGet_spSet_ne hr.spOk_v (hj 0 (by omega))

/-- Register `i + k` of the lane takes word `k` of the value. -/
theorem Regs.putVec_get (hr : r.ok) {k : Nat} (hk : k < n) :
    spGet 0 (r.putVec i l n x).v (32 * (i + k) + l) = BitVec.ofNat 32 (x / 2 ^ (32 * k)) := by
  induction n generalizing r i x k with
  | zero => omega
  | succ n ih =>
    have hr1 := hr.set_vec (spOk_spSet (32 * i + l) (BitVec.ofNat 32 x) hr.spOk_v)
    rw [Regs.putVec]
    cases k with
    | zero =>
      rw [Regs.putVec_get_ne hr1 (by omega), Nat.add_zero, spGet_spSet_same hr.spOk_v, Nat.mul_zero, pow_zero, Nat.div_one]
    | succ k =>
      have hword := ih hr1 (i := i + 1) (x := x / 2 ^ 32) (k := k) (by omega)
      rw [show i + (k + 1) = i + 1 + k by omega, hword, Nat.div_div_eq_div_mul, ← pow_add,
        show 32 + 32 * k = 32 * (k + 1) by omega]

/-- A predicate write changes the predicate registers alone. -/
theorem Regs.putPred_frame (r : Regs) (i l : Nat) (b : Bool) : r.putPred i l b = { r with p := (r.putPred i l b).p } := by
  unfold Regs.putPred
  split <;> rfl

/-- Bit `l` of a word set or cleared. -/
theorem getLsbD_set_bit (w : Word) (b : Bool) {k l : Nat} (hk : k < 32) :
    (if b then w ||| BitVec.ofNat 32 (2 ^ l) else w &&& ~~~BitVec.ofNat 32 (2 ^ l)).getLsbD k = if k = l then b else w.getLsbD k := by
  have hbit : (BitVec.ofNat 32 (2 ^ l)).getLsbD k = decide (k = l) := by
    rw [BitVec.getLsbD_ofNat, Nat.testBit_two_pow, decide_eq_true hk, Bool.true_and, decide_eq_decide, eq_comm]
  cases b with
  | true =>
    rw [if_pos rfl, BitVec.getLsbD_or, hbit]
    by_cases hkl : k = l <;> simp [hkl]
  | false =>
    rw [if_neg (by decide), BitVec.getLsbD_and, BitVec.getLsbD_not, hbit]
    by_cases hkl : k = l <;> simp [hk, hkl]

/-- A predicate write changes its own lane's bit, and no bit of p15. -/
theorem Regs.putPred_get (hr : r.ok) {b : Bool} {k : Nat} (hk : k < 32) :
    (spGet 0 (r.putPred i l b).p j).getLsbD k = if j = i ∧ i ≠ 15 ∧ k = l then b else (spGet 0 r.p j).getLsbD k := by
  unfold Regs.putPred
  by_cases hi : i = 15
  · simp [hi]
  by_cases hj : j = i
  · subst hj
    rw [if_neg (by simpa using hi), spGet_spSet_same hr.spOk_p, getLsbD_set_bit _ _ hk]
    simp [hi]
  · rw [if_neg (by simpa using hi), spGet_spSet_ne hr.spOk_p hj, if_neg (fun h => hj h.1)]

end

/-! ### All active lanes -/

section
variable {r : Regs} {i n j l : Nat} {f : Nat → Nat} {ls : List Nat}

/-- Values written to vector registers, lane by lane. -/
def Regs.putVecs (r : Regs) (i n : Nat) (f : Nat → Nat) (ls : List Nat) : Regs := ls.foldl (fun r l => r.putVec i l n (f l)) r
/-- Values written to a predicate register, lane by lane. -/
def Regs.putPreds (r : Regs) (i : Nat) (f : Nat → Nat) (ls : List Nat) : Regs :=
  ls.foldl (fun r l => r.putPred i l (f l % 2 == 1)) r

theorem Regs.putVecs_cons (r : Regs) (i n : Nat) (f : Nat → Nat) (l : Nat) (ls : List Nat) :
    r.putVecs i n f (l :: ls) = (r.putVec i l n (f l)).putVecs i n f ls := rfl

theorem Regs.putPreds_cons (r : Regs) (i : Nat) (f : Nat → Nat) (l : Nat) (ls : List Nat) :
    r.putPreds i f (l :: ls) = (r.putPred i l (f l % 2 == 1)).putPreds i f ls := rfl

theorem Regs.putVecs_frame (r : Regs) (i n : Nat) (f : Nat → Nat) (ls : List Nat) :
    r.putVecs i n f ls = { r with v := (r.putVecs i n f ls).v } := by
  induction ls generalizing r with
  | nil => rfl
  | cons l ls ih => rw [Regs.putVecs_cons, ih, Regs.putVec_frame]

theorem Regs.putPreds_frame (r : Regs) (i : Nat) (f : Nat → Nat) (ls : List Nat) :
    r.putPreds i f ls = { r with p := (r.putPreds i f ls).p } := by
  induction ls generalizing r with
  | nil => rfl
  | cons l ls ih => rw [Regs.putPreds_cons, ih, Regs.putPred_frame]

theorem Regs.putVecs_get_ne (hr : r.ok) (hj : ∀ k l, k < n → l ∈ ls → j ≠ 32 * (i + k) + l) :
    spGet 0 (r.putVecs i n f ls).v j = spGet 0 r.v j := by
  induction ls generalizing r with
  | nil => rfl
  | cons a ls ih =>
    rw [Regs.putVecs_cons, ih (hr.putVec ..) fun k l hk hl => hj k l hk (List.mem_cons_of_mem _ hl)]
    exact Regs.putVec_get_ne hr fun k hk => hj k a hk List.mem_cons_self

/-- Lanes below 32 have registers of their own. -/
theorem Regs.putVecs_get (hr : r.ok) (hls : ∀ l ∈ ls, l < 32) {k : Nat} (hk : k < n) (hl : l ∈ ls) :
    spGet 0 (r.putVecs i n f ls).v (32 * (i + k) + l) = BitVec.ofNat 32 (f l / 2 ^ (32 * k)) := by
  induction ls generalizing r with
  | nil => cases hl
  | cons a ls ih =>
    rw [Regs.putVecs_cons]
    by_cases hmem : l ∈ ls
    · exact ih (hr.putVec ..) (fun m hm => hls m (List.mem_cons_of_mem _ hm)) hmem
    · obtain rfl : l = a := (List.mem_cons.1 hl).resolve_right hmem
      rw [Regs.putVecs_get_ne (hr.putVec ..), Regs.putVec_get hr hk]
      intro m b hm hb heq
      have hl32 := hls l hl
      have hb32 := hls b (List.mem_cons_of_mem _ hb)
      obtain rfl : l = b := by omega
      exact hmem hb

theorem Regs.putPreds_get (hr : r.ok) (hl : l < 32) :
    (spGet 0 (r.putPreds i f ls).p j).getLsbD l =
      if j = i ∧ i ≠ 15 ∧ l ∈ ls then f l % 2 == 1 else (spGet 0 r.p j).getLsbD l := by
  induction ls generalizing r with
  | nil => simp [Regs.putPreds]
  | cons a ls ih =>
    rw [Regs.putPreds_cons, ih (hr.putPred ..), Regs.putPred_get hr hl]
    by_cases hla : l = a
    · subst hla
      by_cases hji : j = i ∧ i ≠ 15 <;> by_cases hmem : l ∈ ls <;> simp [hji, hmem]
    · simp [hla]

end

/-! ### By class of the destination -/

section
variable {e : Env} {r : Regs} {h : Hd} {d : Opnd} {wide : Bool} {f : Nat → Nat} {l : Nat} {ls : List Nat} {n : Nat}

theorem mem_activeLanes_lt (hl : l ∈ activeLanes e r h) : l < e.lanes := List.mem_range.1 (List.mem_of_mem_filter hl)

theorem lanewise_of_none (ha : activeLanes e r h = []) : lanewise e r h d wide f = r := by rw [lanewise, ha]; rfl

theorem lanewise_of_scal (ha : activeLanes e r h = l :: ls) (hd : d.cls = .scal) :
    lanewise e r h d wide f = r.putScal wide d.idx.toNat (f l) := by
  rw [lanewise, ha]
  simp only [List.map_cons, Regs.write, hd]

theorem lanewise_of_addr (ha : activeLanes e r h = l :: ls) (hd : d.cls = .addr) :
    lanewise e r h d wide f = r.putAddr d.idx.toNat (f l) := by
  rw [lanewise, ha]
  simp only [List.map_cons, Regs.write, hd]

theorem lanewise_of_queue (ha : activeLanes e r h = l :: ls) (hd : d.cls = .queue) :
    lanewise e r h d wide f = { r with outs := r.outs ++ [(d.idx.toNat, BitVec.ofNat 32 (f l))] } := by
  rw [lanewise, ha]
  simp only [List.map_cons, Regs.write, hd]

theorem lanewise_of_discarding (hd : d.cls ∈ [Cls.acc, .const, .simm, .sreg, .fslot, .zero]) : lanewise e r h d wide f = r := by
  cases ha : activeLanes e r h with
  | nil => exact lanewise_of_none ha
  | cons l ls =>
    rw [lanewise, ha]
    simp only [List.mem_cons, List.not_mem_nil, or_false] at hd
    rcases hd with hd | hd | hd | hd | hd | hd <;> simp only [List.map_cons, Regs.write, hd]

theorem lanewise_of_vec (hd : (d.cls = .vec ∧ n = 1) ∨ (d.cls = .pair ∧ n = 2) ∨ (d.cls = .quad ∧ n = 4)) :
    lanewise e r h d wide f = r.putVecs d.idx.toNat n f (activeLanes e r h) := by
  rw [lanewise]
  generalize activeLanes e r h = act
  cases act with
  | nil => rfl
  | cons l ls =>
    rcases hd with ⟨hd, rfl⟩ | ⟨hd, rfl⟩ | ⟨hd, rfl⟩ <;>
      simp only [Regs.write, List.map_cons, hd, List.foldl_cons, List.foldl_map, Regs.putLane] <;> rfl

theorem lanewise_of_pred (hd : d.cls = .pred) : lanewise e r h d wide f = r.putPreds d.idx.toNat f (activeLanes e r h) := by
  rw [lanewise]
  generalize activeLanes e r h = act
  cases act with
  | nil => rfl
  | cons l ls => simp only [Regs.write, List.map_cons, hd, List.foldl_cons, List.foldl_map, Regs.putLane]; rfl

/-- A write leaves the stochastic states. -/
theorem lanewise_stoch : (lanewise e r h d wide f).stoch = r.stoch := by
  cases ha : activeLanes e r h with
  | nil => rw [lanewise_of_none ha]
  | cons l ls =>
    cases hd : d.cls
    case vec => rw [lanewise_of_vec (.inl ⟨hd, rfl⟩), Regs.putVecs_frame]
    case pair => rw [lanewise_of_vec (.inr (.inl ⟨hd, rfl⟩)), Regs.putVecs_frame]
    case quad => rw [lanewise_of_vec (.inr (.inr ⟨hd, rfl⟩)), Regs.putVecs_frame]
    case pred => rw [lanewise_of_pred hd, Regs.putPreds_frame]
    case scal => rw [lanewise_of_scal ha hd]; rfl
    case addr => rw [lanewise_of_addr ha hd]; rfl
    case queue => rw [lanewise_of_queue ha hd]
    all_goals rw [lanewise_of_discarding (by simp [hd])]

/-- A scalar write: the register, and the next where it is wide. -/
theorem Regs.putScal_get (hr : r.ok) (i x j : Nat) : spGet 0 (r.putScal wide i x).s j =
    if wide = true ∧ j = i + 1 then BitVec.ofNat 32 (x / 2 ^ 32) else if j = i then BitVec.ofNat 32 x else spGet 0 r.s j := by
  have hlow := spGet_spSet i (BitVec.ofNat 32 x) hr.spOk_s j
  cases wide with
  | false => rw [if_neg (by simp)]; exact hlow
  | true =>
    refine (spGet_spSet (i + 1) _ (spOk_spSet i (BitVec.ofNat 32 x) hr.spOk_s) j).trans ?_
    rw [hlow]
    simp only [true_and]

end

/-- Settles O12, class by class. -/
theorem writeOpWritesTheDestinationOnly : Obligations.WriteOpWritesTheDestinationOnly := by
  intro e r h d wide f hr hlanes
  refine ⟨lanewise_ok hr .., lanewise_stoch, fun n hd => ?vec, fun hd => ?pred, lanewise_of_none, fun l ls ha hd => ?scal,
    fun l ls ha hd => ?addr, fun l ls ha hd => lanewise_of_queue ha hd, lanewise_of_discarding⟩
  case vec =>
    have hframe := Regs.putVecs_frame r d.idx.toNat n f (activeLanes e r h)
    rw [lanewise_of_vec hd]
    refine ⟨fun k l hk hl => ?_, fun j hj => Regs.putVecs_get_ne hr hj, ?_⟩
    · exact Regs.putVecs_get hr (fun m hm => (mem_activeLanes_lt hm).trans_le hlanes) hk hl
    · rw [hframe]
      exact ⟨rfl, rfl, rfl, rfl⟩
  case pred =>
    have hframe := Regs.putPreds_frame r d.idx.toNat f (activeLanes e r h)
    rw [lanewise_of_pred hd]
    refine ⟨by rw [hframe], by rw [hframe], by rw [hframe], by rw [hframe], fun j l hl => Regs.putPreds_get hr hl⟩
  case scal =>
    rw [lanewise_of_scal ha hd]
    refine ⟨rfl, rfl, rfl, rfl, ?_, fun hw => ?_, fun j hj hnext => ?_⟩
    · rw [Regs.putScal_get hr, if_neg (by omega), if_pos rfl]
    · rw [Regs.putScal_get hr, if_pos ⟨hw, rfl⟩]
    · rw [Regs.putScal_get hr, if_neg hnext, if_neg hj]
  case addr =>
    rw [lanewise_of_addr ha hd]
    exact ⟨rfl, rfl, rfl, rfl, spGet_spSet_same hr.spOk_a, fun j hj => spGet_spSet_ne hr.spOk_a hj⟩

end Sys2Proof.Machine
end

section
/-! PROOFS. What completing at a slot leaves (R14, R19). -/

namespace Sys2Proof.Machine

open Sys2Proof

/-- What a register instruction that completes leaves of its group: all but its registers, its state, and what completing notes. -/
theorem Group.completed_frame (G : Group) (r : Regs) (h : Hd) (clock : Nat) : { ((G.putRegs r).done h clock).adv with
    v := G.v, s := G.s, a := G.a, p := G.p, stoch := G.stoch, supset := G.supset, pc := G.pc, st := G.st, readyAt := G.readyAt,
    perf := G.perf, readyFrom := G.readyFrom, passAt := G.passAt, claim := G.claim, tileFrom := G.tileFrom,
    mxCode := G.mxCode } = G := by
  unfold Group.putRegs
  split <;> rfl

/-- A write of the registers leaves the PC and the counters. -/
theorem Group.putRegs_pc_perf (G : Group) (r : Regs) : (G.putRegs r).pc = G.pc ∧ (G.putRegs r).perf = G.perf := by
  unfold Group.putRegs
  split <;> exact ⟨rfl, rfl⟩

/-- Completing counts the instruction alone. -/
theorem Group.done_perf_ne (H : Group) (h : Hd) (clock : Nat) {k : Nat} (hk : k ≠ 0) (hp : spOk 0 H.perf = true) :
    spGet 0 (H.done h clock).adv.perf k = spGet 0 H.perf k := spGet_spSet_ne hp hk

/-- Settles O15: completing is one change of the group, and that change leaves the named parts. -/
theorem completingChangesOnlyTheGroup : Obligations.CompletingChangesOnlyTheGroup := by
  intro s u g U G h r hg t
  have ht : t = s.modGroup u g fun H => ((H.putRegs r).done h s.clock).adv := State.modGroup_modGroup ..
  clear_value t
  subst ht
  obtain ⟨hstate, hgroups, hunits⟩ := s.modGroup_frame u g U fun H => ((H.putRegs r).done h s.clock).adv
  obtain ⟨hpc, hperf⟩ := G.putRegs_pc_perf r
  refine ⟨hstate, fun _ => rfl, hunits, _, _, State.modGroup_group?_same _ hg, rfl, hgroups, rfl, ?pc, rfl, G.completed_frame r h s.clock,
    fun k hk hp => ?perf⟩
  case pc => exact congrArg (· + 12) hpc
  case perf => rw [Group.done_perf_ne _ _ _ hk (hperf ▸ hp), hperf]

end Sys2Proof.Machine
end

section
/-! PROOFS. Failing lanes (R20, R21): the trap they give, and the loads and stores that take it. -/

namespace Sys2Proof.Machine

open Sys2Proof

/-! ### The lowest cause and its lanes (R21) -/

section
variable {fs rest : List LaneFail} {f : LaneFail}

theorem lowestCause_le (hf : f ∈ fs) : lowestCause fs ≤ f.cause := by
  induction fs with
  | nil => cases hf
  | cons a fs ih =>
    cases fs with
    | nil => rw [List.mem_singleton.1 hf]; exact Nat.le_refl _
    | cons b fs =>
      rcases List.mem_cons.1 hf with rfl | hf
      · exact min_le_left _ _
      · exact (min_le_right _ _).trans (ih hf)

/-- Some lane raises the lowest cause. -/
theorem exists_lowestCause (h : fs ≠ []) : ∃ f ∈ fs, f.cause = lowestCause fs := by
  induction fs with
  | nil => exact absurd rfl h
  | cons a fs ih =>
    cases fs with
    | nil => exact ⟨a, List.mem_cons_self, rfl⟩
    | cons b fs =>
      rcases min_choice a.cause (lowestCause (b :: fs)) with hmin | hmin
      · exact ⟨a, List.mem_cons_self, hmin.symm⟩
      · obtain ⟨f, hf, hcause⟩ := ih (List.cons_ne_nil _ _)
        exact ⟨f, List.mem_cons_of_mem _ hf, hcause.trans hmin.symm⟩

/-- The trap, where lanes of the lowest cause are known. -/
theorem laneTrap_of_filter (G : Group) (hls : (fs.filter fun f => f.cause == lowestCause fs) = f :: rest) :
    laneTrap G fs = ⟨lowestCause fs, BitVec.ofNat 64 f.ea, maskOf ((f :: rest).map (·.lane)), G.pc, f.walk⟩ := by
  simp only [laneTrap, hls]

/-- Settles O19: the lanes of the lowest cause, in lane order, make the trap. -/
theorem failingLanesTrapWithTheLowestCause : Obligations.FailingLanesTrapWithTheLowestCause := by
  intro G fs hne hlanes hsorted
  have hmem : ∀ f, f ∈ (fs.filter fun f => f.cause == lowestCause fs) ↔ f ∈ fs ∧ f.cause = lowestCause fs := by
    simp only [List.mem_filter, beq_iff_eq, implies_true]
  obtain ⟨f0, hf0, hcause0⟩ := exists_lowestCause hne
  obtain ⟨f, rest, hls⟩ := List.exists_cons_of_ne_nil (List.ne_nil_of_mem ((hmem f0).2 ⟨hf0, hcause0⟩))
  obtain ⟨hlow, -⟩ := List.pairwise_cons.1 (hls ▸ hsorted.filter _)
  rw [hls] at hmem
  obtain ⟨hf, hcause⟩ := (hmem f).1 List.mem_cons_self
  dsimp only
  rw [laneTrap_of_filter G hls]
  refine ⟨fun _ => lowestCause_le, fun l hl => ?mask, ⟨f, hf, hcause, rfl, rfl, fun f' hf' hc' => ?lowest⟩, rfl⟩
  case mask =>
    rw [getLsbD_maskOf, decide_eq_true hl, Bool.true_and, decide_eq_true_eq, List.mem_map]
    simp only [hmem, and_assoc]
  case lowest =>
    rcases List.mem_cons.1 ((hmem f').2 ⟨hf', hc'⟩) with rfl | hrest
    · exact Nat.le_refl _
    · exact (hlow f' hrest).le

end

/-! ### Loads and stores whose lanes fail (R20, R113) -/

section
variable {s s1 : State} {u g : Nat} {U : Unit} {G : Group} {h : Hd} {m : MemMod} {x : Ops4} {oks : List LaneOk}
  {f : LaneFail} {fs : List LaneFail}

/-- Where no walk waits and no reservation failed, the failing lanes' trap is taken. -/
theorem State.trapLanes_traps (s : State) (u g ctx : Nat) (G : Group) (h13 : lowestCause fs ≠ 13) (hw : walksWait fs = false) :
    s.trapLanes u g ctx G fs = .next (s.takeTrap u g (laneTrap G fs)) := by
  simp [State.trapLanes, hw, h13]

/-- Lanes fail only where there are lanes. -/
theorem lanes_of_fail {align : Nat} {acc : Acc} {extra : State → Nat → Option Nat} {k : Nat → Nat × Nat} {ls : List Nat}
    (hfail : checkLanes U G align acc extra (ls.map k) s = (s1, oks, f :: fs)) : ∃ l r, ls = l :: r := by
  cases ls with
  | nil => cases hfail
  | cons l r => exact ⟨l, r, rfl⟩

theorem Runs.exec_ld_of_fail (hr : Runs s u g U G) (hc : Clear s u g U [(x.d, sizeRegs m.size), (x.b, 1)])
    (ha : s.acqBlocked u g = false) (hq : s.quiet u g = true) (h13 : lowestCause (f :: fs) ≠ 13) (hw : walksWait (f :: fs) = false)
    (hfail : checkLanes U G (sizeBytes m.size) .read noExtra (s.eas U G x (offOf x.c) (sizeBytes m.size)
      (accessLanes (x.d.cls == .scal) (activeLanes (s.env U G) G.regs h))) s = (s1, oks, f :: fs)) :
    exec (.ld h m x) s = .next (s.takeTrap u g (laneTrap G (f :: fs))) := by
  obtain ⟨l, r, hl⟩ := lanes_of_fail hfail
  rw [hl] at hfail
  refine (hr.issue_of_clear hc _).trans ?_
  simp only [hl, ha, hq, Bool.not_true, Bool.and_false, Bool.or_false, Bool.false_eq_true, if_false]
  exact (withLanes_fail hfail).trans (s.trapLanes_traps u g U.ctx G h13 hw)

theorem Runs.exec_st_of_fail (hr : Runs s u g U G) (hc : Clear s u g U [(x.d, sizeRegs m.size), (x.b, 1)])
    (ha : s.acqBlocked u g = false) (hm : G.mid = false) (hq : s.quiet u g = true) (h13 : lowestCause (f :: fs) ≠ 13)
    (hw : walksWait (f :: fs) = false)
    (hfail : checkLanes U G (sizeBytes m.size) .write noExtra (s.eas U G x (offOf x.c) (sizeBytes m.size)
      (accessLanes (x.d.cls == .scal && x.b.cls == .zero) (activeLanes (s.env U G) G.regs h))) s = (s1, oks, f :: fs)) :
    exec (.st h m x) s = .next (s.takeTrap u g (laneTrap G (f :: fs))) := by
  obtain ⟨l, r, hl⟩ := lanes_of_fail hfail
  rw [hl] at hfail
  refine (hr.issue_of_clear hc _).trans ?_
  simp only [hm, hl, ha, hq, Bool.not_true, Bool.and_false, Bool.or_false, Bool.false_eq_true, if_false]
  exact (withLanes_fail hfail).trans (s.trapLanes_traps u g U.ctx G h13 hw)

end

/-- Settles O20: the checks come before any access, so a failing lane leaves the trap alone. -/
theorem loadsAndStoresCheckEveryLaneFirst : Obligations.LoadsAndStoresCheckEveryLaneFirst :=
  fun _ _ _ _ _ _ _ _ _ _ _ _ hr hc ha hm hq h13 hw => ⟨hr.exec_ld_of_fail hc ha hq h13 hw, hr.exec_st_of_fail hc ha hm hq h13 hw⟩

end Sys2Proof.Machine
end

section
/-! PROOFS. Traps by instruction and the hint region (R32, R33, R197, R202). -/

namespace Sys2Proof.Machine

open Sys2Proof

variable {s : State} {u g : Nat} {U : Unit} {G : Group} {h : Hd} {x : Ops4} {l : Nat}

/-- R202: an instruction that traps takes the value of B in the lowest active lane. -/
theorem Once.trapStep_traps (cause : Nat) (ret : DWord → DWord) (ho : Once s u g U G h [(x.b, 1)] l) :
    trapStep cause ret h x s =
      .next (s.takeTrap u g ⟨cause, BitVec.ofNat 64 (rd32 (s.env U G) G.regs x.b l), G.mask, ret G.pc, none⟩) :=
  ho.privUniform_runs rfl _

theorem Runs.exec_unassignedOpcode (hr : Runs s u g U G) (w : Slot) :
    exec (.unassignedOpcode w) s = .next (s.takeTrap u g ⟨1, G.pc, G.mask, G.pc, none⟩) := by
  refine (hr.issue_of_clear (Clear.nil s u g U) _).trans ?_
  rw [State.trapGroup, groupTrap_pc]

/-- R33: a hint with other fields than PREF's does nothing. -/
theorem Runs.exec_hpref_of_nop (hr : Runs s u g U G) {r : HintRaw} (hok : hintMemOk U (hintOps r) r = false) :
    exec (.hpref h r) s = .next (s.finish u g h) :=
  (hr.issue_of_clear (Clear.nil s u g U) _).trans (if_neg (by rw [hok]; decide))

/-- R33, R197: a hint with PREF's fields prefetches, without waiting for a walk. -/
theorem Runs.exec_hpref (hr : Runs s u g U G) {r : HintRaw} (hok : hintMemOk U (hintOps r) r = true)
    (hc : Clear s u g U [((hintOps r).b, 1)]) :
    exec (.hpref h r) s = .next (((s.eas U G (hintOps r) (offOf (hintOps r).c) 1 (activeLanes (s.env U G) G.regs h)).foldl
      (fun t y => t.prefLane U G true (r.mod == 32) y.2) (s.tcCatchUp U.core)).finish u g h) := by
  refine (hr.issue_of_clear (Clear.nil s u g U) _).trans ((if_pos hok).trans ((hr.issue_of_clear hc _).trans ?_))
  simp only [Bool.not_true, Bool.false_and, Bool.false_eq_true, if_false, State.eas, List.foldl_map]

/-- R197: a preference is set where some lane is active and the fields are the ones listed. -/
theorem Runs.exec_hprio (hr : Runs s u g U G) (r : HintRaw) :
    exec (.hprio h r) s = .next ((if activeLanes (s.env U G) G.regs h = [] ∨ hprioFields r = false then s
      else s.modGroup u g fun H => { H with hprio := r.low.extractLsb' 16 2 }).finish u g h) := by
  refine (hr.issue_of_clear (Clear.nil s u g U) _).trans ?_
  simp only [Bool.or_eq_true, List.isEmpty_iff, Bool.not_eq_true']

/-- Settles O36, instruction by instruction. -/
theorem trapAndHintInstructionsComplete : Obligations.TrapAndHintInstructionsComplete := by
  intro s u g U G h x l hr e
  refine ⟨fun ho => ⟨?trap, ?bkpt⟩, hr.exec_unassignedOpcode,
    fun r => ⟨hr.exec_hpref_of_nop, hr.exec_hpref, ?hnote, fun op => ?nop, hr.exec_hprio r⟩⟩
  case trap => exact ho.trapStep_traps 11 (· + 12)
  case bkpt => exact ho.trapStep_traps 12 fun pc => pc
  case hnote | nop => exact hr.issue_of_clear (Clear.nil s u g U) _

end Sys2Proof.Machine
end

section
/-! PROOFS. Elements (R35, R66, R67): an element of a joined pattern, and its value after Wrap or Sat. -/

namespace Sys2Proof.Machine

open Sys2Proof

theorem patOf_lt (w : Nat) (x : Int) : patOf w x < 2 ^ w := by
  zify
  rw [natCast_patOf]
  exact Int.emod_lt_of_pos x (by positivity)

/-- Element `j` of elements put together. -/
theorem bitsAt_joinElems (w : Nat) {xs : List Nat} {j : Nat} (hj : j < xs.length) :
    bitsAt (joinElems w xs) (w * j) w = xs[j] % 2 ^ w := by
  induction xs generalizing j with
  | nil => exact absurd hj (Nat.not_lt_zero j)
  | cons x xs ih =>
    cases j with
    | zero => simp [bitsAt, joinElems]
    | succ j =>
      have hrest : joinElems w (x :: xs) / 2 ^ w = joinElems w xs := by
        rw [joinElems, Nat.add_mul_div_left _ _ (Nat.two_pow_pos w), Nat.div_eq_of_lt (Nat.mod_lt _ (Nat.two_pow_pos w)), zero_add]
      rw [List.getElem_cons_succ, ← ih (Nat.lt_of_succ_lt_succ hj), bitsAt, bitsAt, Nat.mul_succ, Nat.add_comm, pow_add,
        ← Nat.div_div_eq_div_mul, hrest]

/-- Element `j` of a result that is computed element by element. -/
theorem elemPat_perElem (ty : IType) (f : Nat → Nat) {j : Nat} (hj : j < elemN ty) :
    elemPat ty (perElem ty f) j = f j % 2 ^ elemW ty := by
  rw [elemPat, perElem, bitsAt_joinElems _ (by simpa using hj), List.getElem_map, List.getElem_range]

/-- The value of a pattern taken modulo 2^W: the representative in the type's range (R35). -/
theorem intOf_patOf {w : Nat} (hw : 0 < w) (sg : Bool) (x : Int) : intOf w sg (patOf w x) =
    if sg then (x + 2 ^ (w - 1)) % (2 ^ w : Int) - 2 ^ (w - 1) else x % (2 ^ w : Int) := by
  cases sg with
  | false =>
    simp only [intOf, Bool.false_eq_true, if_false, Nat.mod_eq_of_lt (patOf_lt w x)]
    exact natCast_patOf w x
  | true =>
    have hdouble : (2 : Int) ^ w = 2 * 2 ^ (w - 1) := (mul_pow_sub_one hw.ne' 2).symm
    have hhalf : (0 : Int) < 2 ^ (w - 1) := by positivity
    have hlt : patOf w x < 2 ^ (w - 1) ↔ x % (2 ^ w : Int) < 2 ^ (w - 1) := by
      rw [← natCast_patOf]
      exact_mod_cast Iff.rfl
    have hpos := Int.emod_nonneg x (b := 2 ^ w) (by positivity)
    have hbound := Int.emod_lt_of_pos x (b := 2 ^ w) (by positivity)
    simp only [intOf, if_true, sext_eq_ite (patOf_lt w x), hlt, natCast_patOf]
    rw [← Int.emod_add_emod]
    generalize x % (2 ^ w : Int) = q at hpos hbound
    generalize (2 : Int) ^ (w - 1) = p at hdouble hhalf
    rw [hdouble] at hbound ⊢
    split
    · rw [Int.emod_eq_of_lt] <;> omega
    · rw [show q + p = q - p + 2 * p by ring, Int.add_emod_right, Int.emod_eq_of_lt] <;> omega

/-- An integer in the type's range is its own representative. -/
theorem intOf_patOf_of_range {w : Nat} (hw : 0 < w) (sg : Bool) {x : Int} (hlo : (intRange w sg).1 ≤ x) (hhi : x ≤ (intRange w sg).2) :
    intOf w sg (patOf w x) = x := by
  have hdouble : (2 : Int) ^ w = 2 * 2 ^ (w - 1) := (mul_pow_sub_one hw.ne' 2).symm
  rw [intOf_patOf hw]
  cases sg with
  | false =>
    simp only [intRange, Bool.false_eq_true, if_false] at hlo hhi ⊢
    exact Int.emod_eq_of_lt hlo (by omega)
  | true =>
    simp only [intRange, if_true] at hlo hhi ⊢
    rw [Int.emod_eq_of_lt] <;> omega

/-- The value of a pattern that wraps or saturates (R35). -/
theorem intOf_narrow {w : Nat} (hw : 0 < w) (sg sat : Bool) (x : Int) : intOf w sg (narrow w sg sat x) =
    if sat then satInt w sg x
    else if sg then (x + 2 ^ (w - 1)) % (2 ^ w : Int) - 2 ^ (w - 1) else x % (2 ^ w : Int) := by
  cases sat with
  | false => exact intOf_patOf hw sg x
  | true =>
    have hrange : (intRange w sg).1 ≤ (intRange w sg).2 := by
      have hhalf : (0 : Int) < 2 ^ (w - 1) := by positivity
      have hfull : (0 : Int) < 2 ^ w := by positivity
      cases sg <;> simp only [intRange, Bool.false_eq_true, if_false, if_true] <;> omega
    exact intOf_patOf_of_range hw sg (le_max_left _ _) (max_le hrange (min_le_left _ _))

theorem elemW_pos (ty : IType) : 0 < elemW ty := by cases ty <;> decide

/-- Settles O3: element `j` of the result is the narrowed pattern of the exact result. -/
theorem elementsWrapOrSaturate : Obligations.ElementsWrapOrSaturate := by
  intro m F a b c j hj W y lo hi
  have hpat : elemPat m.ty (intScheme m F a b c) j = narrow W m.ty.signed m.sat y :=
    (elemPat_perElem m.ty _ hj).trans (Nat.mod_eq_of_lt (patOf_lt ..))
  have hsat : satInt W m.ty.signed y = max lo (min hi y) := by
    simp only [satInt, lo, hi]
    cases m.ty.signed <;> rfl
  rw [elemInt, hpat, ← hsat]
  exact intOf_narrow (elemW_pos m.ty) m.ty.signed m.sat y

end Sys2Proof.Machine
end

section
/-! PROOFS. The step (R13, R15, R20, R394): the fetch of a group and of a queue, and the turn that executes what was fetched. -/

namespace Sys2Proof.Machine

open Sys2Proof

theorem thenState_thenState (o : Out) (f k : State → State) : thenState (thenState o f) k = thenState o fun t => k (f t) := by
  cases o <;> rfl

/-! ### The fetch of a group (R13, R15, R456) -/

section
variable {s s1 : State} {u g : Nat} {U : Unit} {G : Group} {w : Slot} {i : Instr}

theorem State.fetchWord_of_unaligned (s : State) (u g : Nat) (U : Unit) (h : G.pc.toNat % 4 ≠ 0) :
    s.fetchWord u g U G = .error (.stop (s.takeTrap u g ⟨4, G.pc, G.mask, G.pc, none⟩)) := if_pos (bne_iff_ne.2 h)

/-- A slot that is held is fetched from there. -/
theorem State.fetchWord_of_held {sup : Bool} (h4 : G.pc.toNat % 4 = 0) (hheld : s.slotHeld U G = some (w, sup)) :
    s.fetchWord u g U G = .ok (w, s.keepSlot u g U.core U.ctx G.pc.toNat w sup) := by
  simp [State.fetchWord, h4, hheld]

/-- A slot that is not held is read from memory. -/
theorem State.fetchWord_of_read {bs : List Byte} {sup : Bool} (h4 : G.pc.toNat % 4 = 0) (hheld : s.slotHeld U G = none)
    (hsvc : U.svc = false) (hlow : canonical G.pc.toNat = true) (hhigh : canonical ((G.pc.toNat + 11) % 2 ^ 64) = true)
    (hread : fetchBytes U.core U.ctx G.sup 3 G.pc.toNat 12 s = .ok (bs, sup) s1) :
    s.fetchWord u g U G = .ok (wordOfBytes bs, s1.keepSlot u g U.core U.ctx G.pc.toNat (wordOfBytes bs) sup) := by
  unfold State.fetchWord
  simp only [h4, hheld, hsvc, hlow, hhigh, hread]
  rfl

/-- What a group that may issue makes of its slot. -/
theorem State.fetchGroup_of_mayIssue (hg : s.group? u g = some (U, G)) (hm : mayIssue U G s.clock = true) :
    s.fetchGroup u g = match s.fetchWord u g U G with
      | .error f => f
      | .ok (w, s1) =>
        if spatialOnlyOp (w.extractLsb' 88 8) then .stop (s1.takeTrap u g ⟨1, G.pc, G.mask, G.pc, none⟩)
        else match decode96 w with
          | .error .illop => .stop (s1.takeTrap u g ⟨1, G.pc, G.mask, G.pc, none⟩)
          | .error .illopnd => .stop (s1.takeTrap u g ⟨2, G.pc, G.mask, G.pc, none⟩)
          | .ok i => .got i s1 := by
  simp only [← groupTrap_pc]
  unfold State.fetchGroup
  simp only [hg, hm] <;> rfl

theorem State.fetchGroup_of_error {f : Fetched} (hg : s.group? u g = some (U, G)) (hm : mayIssue U G s.clock = true)
    (hw : s.fetchWord u g U G = .error f) : s.fetchGroup u g = f := by
  rw [State.fetchGroup_of_mayIssue hg hm, hw]

theorem State.fetchGroup_of_decodes (hg : s.group? u g = some (U, G)) (hm : mayIssue U G s.clock = true)
    (hw : s.fetchWord u g U G = .ok (w, s1)) (hop : spatialOnlyOp (w.extractLsb' 88 8) = false) (hd : decode96 w = .ok i) :
    s.fetchGroup u g = .got i s1 := by
  rw [State.fetchGroup_of_mayIssue hg hm, hw]
  simp only [hop, hd]
  rfl

theorem State.fetchGroup_of_illop (hg : s.group? u g = some (U, G)) (hm : mayIssue U G s.clock = true)
    (hw : s.fetchWord u g U G = .ok (w, s1)) (hd : decode96 w = .error .illop ∨ spatialOnlyOp (w.extractLsb' 88 8) = true) :
    s.fetchGroup u g = .stop (s1.takeTrap u g ⟨1, G.pc, G.mask, G.pc, none⟩) := by
  rw [State.fetchGroup_of_mayIssue hg hm, hw]
  rcases hd with hd | hop
  · simp only [hd, ite_self]
  · exact if_pos hop

theorem State.fetchGroup_of_illopnd (hg : s.group? u g = some (U, G)) (hm : mayIssue U G s.clock = true)
    (hw : s.fetchWord u g U G = .ok (w, s1)) (hd : decode96 w = .error .illopnd) (hop : spatialOnlyOp (w.extractLsb' 88 8) = false) :
    s.fetchGroup u g = .stop (s1.takeTrap u g ⟨2, G.pc, G.mask, G.pc, none⟩) := by
  rw [State.fetchGroup_of_mayIssue hg hm, hw]
  simp only [hop, hd]
  rfl

/-! ### The turn of a group (R247, R250) -/

theorem State.groupTurn_of_retest {k : WaitKind} (hg : s.group? u g = some (U, G)) (hf : s.fetchGroup u g = .got i s1)
    (hk : G.st = .waiting k) : s.groupTurn u g = thenState (execAs (.group u g) i s1) fun t => t.afterRetest u g := by
  simp only [State.groupTurn, hg, hf, hk]

theorem State.groupTurn_of_wait (hg : s.group? u g = some (U, G)) (hf : s.fetchGroup u g = .wait s1) :
    s.groupTurn u g = .next s1 := by
  simp only [State.groupTurn, hg, hf]

theorem State.groupTurn_of_stop (hg : s.group? u g = some (U, G)) (hm : mayIssue U G s.clock = true)
    (hf : s.fetchGroup u g = .stop s1) : s.groupTurn u g = .next (s1.afterIssue u g U G) := by
  simp only [State.groupTurn, hg, hf, hm, if_true]

end

/-! ### The fetch of a queue (R394) -/

/-- A queue whose program runs goes on with the program's next word. -/
theorem State.fetchQueue_of_program {s : State} {q : Nat} {Q : Queue} {w : Word} {i : Instr} (hq : s.queue? q = some Q)
    (hopen : Q.open = true) (hheld : Q.held = true) (hbusy : Q.busy = true) (hprog : Q.prog ≠ 0) (hsteps : Q.steps < 256)
    (hcode : Q.code[Q.pc]? = some w) (hd : decodeQ w = some i) : s.fetchQueue q = .got i s := by
  have hword : s.nextWord Q = .got i s := by
    rw [State.nextWord, if_neg (by simpa using hprog), if_neg (by omega)]
    simp only [hcode, hd]
  simp only [State.fetchQueue, hq, hheld, hopen, hbusy, if_true, Bool.and_self, hword]

/-! ### The step -/

/-- Where no turn's time has come, time passes. -/
theorem step_of_no_turn {s : State} (hf : s.firstDue = none) (ha : ∀ e r, s.agenda = e :: r → e.dt ≠ 0) :
    step s = thenState (s.passTime (match s.agenda with
      | [] => []
      | e :: r => { e with dt := e.dt - 1 } :: r)) State.tally := by
  cases h : s.agenda with
  | nil => simp only [step, hf, h]
  | cons e r => exact step_waits hf h (ha e r h)

theorem passTime_of_due {s : State} {r : List Entry} {d : Due} (hd : s.due = some d) :
    s.passTime r = ({ s with cur := .front } : State).perform d := by simp only [State.passTime, hd]

theorem passTime_of_idle {s : State} {r : List Entry} (hd : s.due = none) :
    s.passTime r = .next { s with agenda := r, clock := s.clock + 1, cur := .front } := by simp only [State.passTime, hd]

/-- R13, R20, R394: the turn at the agenda's head, by its kind; without one, what is due, or a cycle. -/
theorem aStepRunsTheDecodedInstruction_of_agenda : Statements.AStepRunsTheDecodedInstruction := by
  refine ⟨fun s e r hfirst hagenda hdt => ?turn, fun s u g U G hg hm => ?fetch, fun s q Q w i => State.fetchQueue_of_program,
    fun s d => step_first, fun s hfirst ha => ⟨fun d hd => ?due, fun hd => ?idle⟩⟩
  case turn =>
    intro s0
    rw [step_turn hfirst hagenda hdt]
    refine ⟨fun u g U G i s1 he hg hf => ⟨fun hk hp => ?_, fun k hk => ?_⟩, fun u g U G s1 he hg hf => ?_, fun q i s1 he hf => ?_,
      fun i he hi => ?_, fun d he => ?_⟩
    · rw [he, turn_issue, groupTurn_issues hg hf hk hp, thenState_thenState]
      rfl
    · rw [he, turn_issue, State.groupTurn_of_retest hg hf hk, thenState_thenState]
      rfl
    · rw [he, turn_issue, State.groupTurn_of_wait hg hf]
      rfl
    · rw [he, turn_qstep, queueTurnOf_runs hf]
      rfl
    · rw [he, turn_event, if_pos hi]
      rfl
    · rw [he, turn_drop]
      rfl
  case fetch =>
    exact ⟨fun w s1 i hw hop hd => State.fetchGroup_of_decodes hg hm hw hop hd, fun w sup => State.fetchWord_of_held,
      fun bs sup s1 => State.fetchWord_of_read⟩
  case due => rw [step_of_no_turn hfirst ha, passTime_of_due hd]
  case idle =>
    rw [step_of_no_turn hfirst ha, passTime_of_idle hd]
    rfl

/-- R15, R20: a fetch that gives no instruction leaves its trap, and the group has had its turn. -/
theorem undecodableWordsTrap : Statements.UndecodableWordsTrap := by
  intro s e r u g U G hfirst hagenda hdt s0 he hg hm traps
  have hturn {t : State} (hf : s0.fetchGroup u g = .stop t) : step s = .next (t.afterIssue u g U G).tally := by
    rw [step_turn hfirst hagenda hdt, he, turn_issue, State.groupTurn_of_stop hg hm hf]
    rfl
  exact ⟨fun h4 => hturn (State.fetchGroup_of_error hg hm (s0.fetchWord_of_unaligned u g U h4)),
    fun w s1 hw => ⟨fun hd => hturn (State.fetchGroup_of_illop hg hm hw hd),
      fun hd hop => hturn (State.fetchGroup_of_illopnd hg hm hw hd hop)⟩⟩

/-- Settles O59, by the two statements it names. -/
theorem aStepRunsTheDecodedInstruction : Obligations.AStepRunsTheDecodedInstruction :=
  ⟨aStepRunsTheDecodedInstruction_of_agenda, undecodableWordsTrap⟩

end Sys2Proof.Machine
end
